-- ==== Sys2Proof/Word.lean ====
section
/-! DEFINITION. The word types of Ndonte: bytes, 32- and 64-bit words, 64-byte lines, and the identifiers of R17. -/

namespace Sys2Proof

/-- One byte. -/
abbrev Byte := BitVec 8
/-- A 32-bit register word. -/
abbrev Word32 := BitVec 32
/-- A 64-bit register or memory word. -/
abbrev Word64 := BitVec 64
/-- One 64-byte line (R11), byte 0 in the least significant bits (R13). -/
abbrev Line := BitVec 512
/-- The byte-enable mask of one line: bit `i` names byte `i`. -/
abbrev LineMask := BitVec 64
/-- A logical-device number, 0 to 15 (R17). -/
abbrev LD := BitVec 4
/-- A cask slot, 0 to 3. -/
abbrev Slot := BitVec 2
/-- A Meunol port, 0 to 15. -/
abbrev Port := BitVec 4

end Sys2Proof
end

