-- ==== Sys2Proof/Syntax.lean ====
section
/-! DEFINITION. The commands of Ndonte: one constructor per row of the opcode table, with the row's operands, and the
data those operands carry. -/

namespace Sys2Proof

/-- The path by which a register access arrives (R417, R418): the FM command set, MCTP with the SPDM session it came
in, a MGMT packet, or BAR0 of a host function. -/
inductive Path where
  | fm
  | mctp (session : Option Nat)
  | mgmt
  | fn (f : Nat)
  deriving DecidableEq, Repr

/-- The ordering code of R1, set at manufacture. -/
inductive Part where
  | v8n
  | v6n
  deriving DecidableEq, Repr

/-- A code word of a device-side access's payload as it arrives at a node of the die network (R19, R20): the node, which half of the line it
carries, and its 36 symbols. -/
structure Hop where
  node : Nat
  upper : Bool
  symbols : List Byte
  deriving DecidableEq, Repr

/-- The payload of a device-side access: the line, and the code words of it that arrive with errors at nodes of the die network (R20). -/
structure Payload where
  line : Line
  hops : List Hop
  deriving DecidableEq, Repr

/-- Where a check has failed (R177, R178): the location, and whether the checksum lane or a residue found it. -/
structure CheckAt where
  loc : Nat
  csum : Bool
  deriving DecidableEq, Repr

/-- What a scrub reads (R343): a code word of the stacks, or one of a shared SRAM region (R28), numbered 0 to 5 in table order. -/
inductive ScrubAt where
  | stack (word : Nat)
  | sram (region : Nat)
  deriving DecidableEq, Repr

/-- What the rise of PWRGD finds: whether VDD_AON stayed up (R365), whether the 32.768 kHz clock is found within 2 s (R407), and the number of
active LDs that the fabric manager has set (R87). -/
structure PowerOn where
  aonKept : Bool
  clock : Bool
  lds : Nat
  deriving DecidableEq, Repr

/-- How a port in DOZE is woken (R272). -/
inductive WakeCause where
  | localMessage
  | pattern
  | light
  deriving DecidableEq, Repr

/-- The bands a margin monitor reports (R26). -/
inductive Band where
  | green
  | amber
  | red
  deriving DecidableEq, Repr

/-- The block that armed a watched line (R95). -/
inductive Armer where
  | queue (q : Nat)
  | faultArea (pasid : Nat)
  | semaphore (queue seq : Nat)
  deriving DecidableEq, Repr

/-- The engines that issue requests, coded as ENGINE in the fault record (R55). -/
inductive Engine where
  | bay (n : Nat)
  | scanner (n : Nat)
  | turntable
  | kiln
  | dispatcher
  | agent
  | queueFront
  deriving DecidableEq, Repr

/-- What a host asks for with a read (R92). -/
inductive Ask where
  | s
  | a
  | i
  deriving DecidableEq, Repr

/-- A neighbour as NEIGH told it (R284). -/
structure Neighbour where
  uid : Nat
  node : Nat
  noId : Bool
  port : Nat
  endpoint : Bool
  part : Nat
  noPart : Bool
  width : Nat
  stopping : Bool
  deriving DecidableEq, Repr

/-- A Meunol message (R276, R277): the header fields and the body's bytes. -/
structure FabMsg where
  dst : Nat
  src : Nat
  noId : Bool
  sidx : Nat
  type : Nat
  first : Bool
  ackReq : Bool
  poison : Bool
  pin : Bool
  vc : Nat
  tag : Nat
  ord : Nat
  part : Nat
  age : Nat
  status : Nat
  body : List Byte
  deriving DecidableEq, Repr

/-- One flit (R273): its link header and the 248 bytes of message space. -/
structure Flit where
  seq : Nat
  ack : Nat
  nak : Bool
  crvc : Nat
  crcnt : Nat
  space : List Byte
  deriving DecidableEq, Repr

/-- A remote-placement record (R65): a peer FA or host bus address and the kind 0, 1 or 2. -/
structure Remote where
  addr : Nat
  kind : Nat
  deriving DecidableEq, Repr

/-- A record of a cask (R77): the header's fields and, for DATA, its stored stream as the LZ4 decoder of its sub-blocks gives it,
listed by byte of the stream. `sub` holds the 16 SUB entries, METHOD in bits 15 to 14. `pois` holds what is marked poisoned (R81):
code words of the frame, or groups of a lossy stream. `bad` holds the sub-blocks whose LZ4 block is malformed or of the wrong length
(R78). `stored` is the bytes it occupies. -/
structure CaskRec where
  kind : Nat
  srcFmt : Nat
  encFmt : Nat
  lossy : Bool
  frame : Nat
  seq : Nat
  owner : Nat
  prec : Nat
  encLen : Nat
  sub : List Nat
  reuse : Nat
  remote : Remote
  data : List (Nat × Byte)
  pois : List Nat
  bad : List Nat
  stored : Nat
  deriving DecidableEq, Repr

/-- A cask module (R321 to R326): the items of its identity element, whether its chain and its challenge signature
verify, its records, its failed dies, the spare blocks of its parity groups, and the records that its header log can hold
(R77, R329). -/
structure Cask where
  serial : Nat
  chainOk : Bool
  sigOk : Bool
  bind : Nat
  state : Nat
  bytesWritten : Nat
  fcw : Nat
  pemax : Nat
  spare : Nat
  groupSpare : Nat
  inserts : Nat
  homeSlot : Nat
  recs : List CaskRec
  failedDies : List Nat
  logCap : Nat
  deriving DecidableEq, Repr

/-- The commands of Ndonte. `q` is a global queue ID and `n` a descriptor's number in the order of its queue. Offsets
`off` are local offsets of a line. -/
inductive Instr where
  /-- NOP (R133): A NOP descriptor completes with OK and does nothing else. -/
  | nop (q n : Nat)
  /-- COPY (R176): A COPY descriptor moves LEN untyped bytes from SRC to DST through the turntable or the bays under R21. -/
  | copy (q n : Nat)
  /-- FILL (R176): A FILL descriptor repeats a 1-, 2-, 4- or 8-byte pattern over LEN bytes from DST. -/
  | fill (q n : Nat)
  /-- TIMETABLE_RUN (R262): A TIMETABLE_RUN descriptor reads and checks the whole entry table and then begins running its entries. -/
  | timetableRun (q n : Nat)
  /-- WRITE_ACK (R117): A WRITE_ACK descriptor writes up to 24 bytes and completes once the write is visible at the named scope, and durable for a protected frame in durable mode. -/
  | writeAck (q n : Nat)
  /-- FENCE (R118): A FENCE descriptor holds later descriptors of its queue until earlier ones have completed and their writes are visible at the named scope. -/
  | fence (q n : Nat)
  /-- PLACE_WRITE_RECORD (R69): PLACE WRITE_RECORD replaces a placement record, with pin-quota accounting and promotion of bound frames that the new record requires. -/
  | placeWriteRecord (q n : Nat)
  /-- PLACE_BIND (R69): PLACE BIND sets PREC in every frame of a range, creating zero-filled T0 frames where no entry exists. -/
  | placeBind (q n : Nat)
  /-- PLACE_DEMOTE (R69): PLACE DEMOTE asks for the unpinned frames of a range to be demoted now. -/
  | placeDemote (q n : Nat)
  /-- PLACE_PROMOTE (R69): PLACE PROMOTE asks for the frames of a range to be promoted into T0 now. -/
  | placePromote (q n : Nat)
  /-- ATTN_PARTIAL (R196): An ATTN_PARTIAL descriptor classifies the listed KV blocks and computes (m, l, o) attention partials over them. -/
  | attnPartial (q n : Nat)
  /-- KV_APPEND (R188): KV_APPEND in APPEND mode converts and writes K and V rows into a block, and seals the block when its last row is written. -/
  | kvAppend (q n : Nat)
  /-- KV_RELEASE (R191): KV_APPEND in RELEASE mode decrements the REFS of a registry entry and frees the entry when REFS reaches zero. -/
  | kvRelease (q n : Nat)
  /-- GATHER_POOL (R213): A GATHER_POOL descriptor gathers, combines and pools table rows into bags, running in rounds. -/
  | gatherPool (q n : Nat)
  /-- SCATTER_ADD (R225): A SCATTER_ADD descriptor combines update vectors per row and applies each distinct row once under the row lock. -/
  | scatterAdd (q n : Nat)
  /-- TABLE_SWITCH (R210): TABLE_SWITCH in SWITCH mode writes a new table record into a handle and raises its VERSION, waiting for a drain when DRAIN is set. -/
  | tableSwitch (q n : Nat)
  /-- TABLE_MOVE (R228): TABLE_SWITCH in MOVE mode moves listed rows to new FAs through the remap table. -/
  | tableMove (q n : Nat)
  /-- VSEARCH (R244): A VSEARCH descriptor ranks centroids, builds distance tables, scans the probed lists and merges the top K. -/
  | vsearch (q n : Nat)
  /-- VINSERT (R247): A VINSERT descriptor encodes vectors, appends entries to lists and makes each new copy live by a generation compare-and-write. -/
  | vinsert (q n : Nat)
  /-- VDELETE (R248): A VDELETE descriptor sets the TOMB bit of each named ID by an atomic OR. -/
  | vdelete (q n : Nat)
  /-- OPT_STEP (R256): An OPT_STEP descriptor applies AdamW, Adagrad or SGD row updates to state, with optional emission and stamps. -/
  | optStep (q n : Nat)
  /-- STREAM (R174): A STREAM descriptor checks its stage array and runs the pipeline in chunks from source to sink. -/
  | streamRun (q n : Nat)
  /-- EC_REBUILD_DATA (R316): EC_REBUILD in DATA mode rebuilds the units of one or two lost members from the k survivors. -/
  | ecRebuildData (q n : Nat)
  /-- EC_REBUILD_PARITY (R316): EC_REBUILD in PARITY mode recomputes P and Q from the data members. -/
  | ecRebuildParity (q n : Nat)
  /-- EXTENT_XFER_MOVE (R306): EXTENT_XFER in MOVE mode drives the transfer of a leased extent through the ledger phases, resuming where the ledger stands. -/
  | extentXferMove (q n : Nat)
  /-- EXTENT_XFER_ABORT (R307): EXTENT_XFER in ABORT mode returns a transfer in PREPARE or COPY to IDLE and the source to ACTIVE. -/
  | extentXferAbort (q n : Nat)
  /-- EXTENT_REVOKE_HOSTS (R103): EXTENT_REVOKE with HOSTS installs a revocation entry for the named LDs and drains their requests and cached lines. -/
  | extentRevokeHosts (q n : Nat)
  /-- EXTENT_REVOKE_COMP (R309): EXTENT_REVOKE with COMP takes the extent from its composition, sets REVOKED and releases pins and the lease. -/
  | extentRevokeComp (q n : Nat)
  /-- QUEUE_CREATE (R129): The QUEUE_CREATE admin command checks a queue context entry, starts the queue and arms its doorbell line. -/
  | queueCreate (q n : Nat)
  /-- QUEUE_DELETE_DRAIN (R148): QUEUE_DELETE in DRAIN mode disarms the doorbell, starts every submitted descriptor and disables the queue when all have completed. -/
  | queueDeleteDrain (q n : Nat)
  /-- QUEUE_DELETE_ABORT (R148): QUEUE_DELETE in ABORT mode completes unstarted descriptors with ABORTED and disables the queue once started ones end. -/
  | queueDeleteAbort (q n : Nat)
  /-- INVALIDATE_RANGE (R50): The INVALIDATE_RANGE admin command marks a range as withdrawing, drops cached translations and waits for every engine's acknowledgement. -/
  | invalidateRange (q n : Nat)
  /-- FAULT_RESUME_RETRY (R56): FAULT_RESUME with RETRY makes every context waiting on the fault walk again. -/
  | faultResumeRetry (q n : Nat)
  /-- FAULT_RESUME_FAIL (R56): FAULT_RESUME with FAIL completes every waiting descriptor with FAULT_PENDING. -/
  | faultResumeFail (q n : Nat)
  /-- GET_INFO (R147): The GET_INFO admin command writes the 64-byte information buffer. -/
  | getInfo (q n : Nat)
  /-- DESCRIPTOR_START (R143): The dispatcher starts the next descriptor of a queue once ordering, MAXINF, reservation and fences allow, splits it and places its parts. -/
  | descriptorStart (q : Nat)
  /-- DESCRIPTOR_COMPLETE (R23): Once every part of a descriptor has finished or failed, Ndonte makes its writes visible and posts a single completion. -/
  | descriptorComplete (q n : Nat)
  /-- COAL_NS_EXPIRY (R146): The COAL_NS wait of a queue runs out and the pending completion signal is sent. -/
  | coalNsExpiry (q : Nat)
  /-- WATCH_EVENT (R95): New data or an ownership answer on a watched line raises a watch event to the block that armed it. -/
  | watchEvent (armer : Armer)
  /-- WATCH_SNOOP (R95): DIR_WATCH.NS after a grant of OWNED on a watched line, the signal box issues BISnpData to the host. -/
  | watchSnoop (off : Nat)
  /-- HOST_READ (R92): A host M2S read asking for S, A or I is served at home with the directory transitions of R92. -/
  | hostRead (ld hpa : Nat) (ask : Ask) (tag : Nat)
  /-- HOST_WRITE (R92): A host M2S write is applied at home after any back-invalidates the directory requires. -/
  | hostWrite (ld hpa : Nat) (data : Line) (mask : LineMask) (poison : Bool) (tag : Nat)
  /-- HOST_WRITE_BACK (R92): A host write-back giving up the line or keeping S is applied, or discarded as late under R99. -/
  | hostWriteBack (ld hpa : Nat) (data : Line) (poison keepS : Bool) (tag : Nat)
  /-- CLEAN_EVICTION_NOTICE (R92): A host's clean-eviction notice removes it from the line's directory entry. -/
  | cleanEvictionNotice (ld hpa : Nat)
  /-- DEVICE_ACCESS (R92): A device-side read or write reaches home and is served, snooping hosts as the directory requires. -/
  | deviceAccess (eng : Engine) (off : Nat) (write : Bool) (data : Payload) (mask : LineMask) (poison : Bool) (tag : Nat)
  /-- BIRSP (R92): A BIRspI or BIRspS answer to a BISnp arrives at home and completes the line's pending transition when it is the last awaited. -/
  | birsp (ld hpa : Nat) (keepS : Bool) (wb : Option Line) (poison : Bool)
  /-- BICONFLICT (R87): A BIConflict from a host is answered with BIConflictAck in the BI conflict handshake. -/
  | biconflict (ld hpa : Nat)
  /-- REQUEST_REPRESENT (R97): A refused request is presented again when home signals a freed resource or 100 ns after the refusal. -/
  | requestRepresent (k : Nat)
  /-- STARVATION_TICKET_GRANT (R97): Home grants a freed starvation mark to the next ticket holder of a line, which is then presented once. -/
  | starvationTicketGrant (line : Nat)
  /-- BISNP_TIMEOUT (R98): A BISnp unanswered for DIR_BI_TMO poisons the line, drops the silent LD, sets its DIR_UNRESP bit and starts a sweep. -/
  | bisnpTimeout (ld off : Nat)
  /-- SWEEP_END (R100): The sweep ends, every DIR_UNRESP bit in it clears and the LDs' held requests proceed. -/
  | sweepEnd
  /-- HDM_DECODER_COMMIT (R35): A host commits an HDM decoder, which is checked for interleave, alignment, BI Enable and overlap and locks TRN_WIN_ORIGIN_n. -/
  | hdmDecoderCommit (ld n base size ways : Nat) (biEnable : Bool)
  /-- HDM_DECODER_UNCOMMIT (R106): A host uncommits an HDM decoder, unlocking its origin and freeing revocation entries whose LDs have all uncommitted. -/
  | hdmDecoderUncommit (ld n : Nat)
  /-- REVOKE_DRAIN_END (R103): The host revocation's accepted requests, back-invalidates and moves have all ended and the EXTENT_REVOKE completes with OK. -/
  | revokeDrainEnd (extent : Nat)
  /-- EXT_REVOKE_TMO_EXPIRY (R105): EXT_REVOKE_TMO runs out: lines still named by revoked LDs are poisoned and the revoke completes with TIMEOUT. -/
  | extRevokeTmoExpiry (extent : Nat)
  /-- FAULT_SIGNAL_EXPIRY (R55): The 2 µs grouping window of a fault area ends and one signal covers the records written in it. -/
  | faultSignalExpiry (pasid : Nat)
  /-- FAULT_HEAD_POLL (R55): Every 2 µs Ndonte polls the HEAD of a fault area whose control line could not be armed. -/
  | faultHeadPoll (pasid : Nat)
  /-- FAULT_TMO_EXPIRY (R56): A fault unresolved for TRN_FAULT_TMO is failed by Ndonte itself as with FAIL and an event is recorded. -/
  | faultTmoExpiry (id : Nat)
  /-- MIGRATION_DMA_DONE (R59): The host-page DMA completes; the leaf is replaced by compare-and-write, waiting contexts walk again and a MIGRATED record is written, or the migration is abandoned or fails. -/
  | migrationDmaDone (pasid page : Nat) (ok : Bool) (data : List Byte)
  /-- INVALIDATION_ACK (R50): The last engine acknowledges an invalidation, the withdrawing mark is removed and the completion is posted. -/
  | invalidationAck (q n : Nat)
  /-- DEMOTION_START (R72): When free pool frames fall below LOW the turntable chooses victims by age and starts demotions until HIGH is reached. -/
  | demotionStart
  /-- DEMOTION_COMMIT (R74): Once the demoted frame's data or record is durable or acknowledged, the tier map is committed to the destination and the stack frame freed. -/
  | demotionCommit (frame : Nat)
  /-- PROMOTION_SUBBLOCK_LAND (R22): A decoded 4 KiB sub-block of a promotion lands and reads waiting on it are released. -/
  | promotionSubblockLand (frame sub : Nat) (data : List Byte)
  /-- PROMOTION_COMPLETE (R73): A promotion's read and decode finish; the tier map is written to T0 and the mover and buffer freed, or the promotion fails. -/
  | promotionComplete (frame : Nat)
  /-- OPEN_RECORD_DURABLE (R83): A promoted frame's OPEN record becomes durable and writes waiting on the frame proceed. -/
  | openRecordDurable (frame : Nat)
  /-- RELOCATION_COMMIT (R73): A relocation from one stack frame to another commits, and the arming blocks re-arm watched lines at the new place. -/
  | relocationCommit (frame : Nat)
  /-- AGE_WINDOW_BOUNDARY (R71): An age window ends; the window number advances, a new TIER_AGE length applies, and every 64 windows old LAST values are clamped. -/
  | ageWindowBoundary
  /-- TIER_MAP_COPY_LOSS (R82): A stack or channel failure removes leaf copies; MAP_DEGRADED is set and each leaf is copied into a spare slot. -/
  | tierMapCopyLoss (stack : Nat)
  /-- TIER_MAP_REBUILD (R82): A leaf lost entirely is rebuilt from the cask header logs, with PSN frames and erasure rebuilds. -/
  | tierMapRebuild (leaf : Nat)
  /-- LEAF_BUILD_DONE (R424): A leaf build from the header logs finishes and TIER_ROOT_DATA.BUSY clears, releasing waiting accesses. -/
  | leafBuildDone (root : Nat)
  /-- CHECK_FAILURE (R179): A checksum-lane or residue failure discards a chunk, reruns it on another bay, raises VDD_CORE and charges the location. -/
  | checkFailure (loc : CheckAt) (q n : Nat)
  /-- MODE_SWITCH (R155): A write of ENG_MODE.OVR or SEL makes each bay finish its chunks and switch between slot and thread mode. -/
  | modeSwitch (path : Path) (value : Nat)
  /-- MODE_SWITCH_DONE (R155): Every bay has switched mode and ENG_MODE.BUSY clears. -/
  | modeSwitchDone
  /-- ROW_LOCK_RELEASE (R226): A row update releases its row lock and fetches waiting on the row proceed. -/
  | rowLockRelease (row : Nat)
  /-- ROW_MOVE_STEP (R228): A moved row's copy becomes visible, its remap entry is written and waiting sums are applied to the new copy. -/
  | rowMoveStep (handle row : Nat)
  /-- SCANNER_PART_END (R242): A channel scanner finishes a list part and posts its heap to the merging bay. -/
  | scannerPartEnd (q n part : Nat)
  /-- VSEARCH_ROUND_END (R245): At the end of a search round the dispatcher widens to the next probe members, merges and writes, or completes with SHORT. -/
  | vsearchRoundEnd (q n : Nat)
  /-- TIMETABLE_ENTRY_START (R263): A timetable entry starts once its dependencies, wait, window and INFLIGHT allow. -/
  | timetableEntryStart (q n k : Nat)
  /-- TIMETABLE_ENTRY_COMPLETE (R264): A timetable entry's writes become visible at FABRIC scope and its semaphore increment is applied. -/
  | timetableEntryComplete (q n k : Nat)
  /-- SEMAPHORE_POLL (R263): Every 2 µs the dispatcher re-evaluates a semaphore wait whose line could not be armed. -/
  | semaphorePoll (q n k : Nat)
  /-- TIMETABLE_WAIT_TMO (R265): A semaphore wait exceeding TMO fails its entry with TIMEOUT and stops further entries. -/
  | timetableWaitTmo (q n k : Nat)
  /-- MODULE_INSERT (R270): A laser module is seated and its port goes to TRAINING if EN is 1, otherwise to DISABLED. -/
  | moduleInsert (port : Nat)
  /-- MODULE_REMOVE (R270): A laser module is removed, its port goes to ABSENT and LMOD_EN is driven low. -/
  | moduleRemove (port : Nat)
  /-- PORT_TRAIN_SUCCESS (R271): Port training agrees a width and exchanges NEIGH and credits, and the port goes UP. -/
  | portTrainSuccess (port lambda : Nat) (nbr : Neighbour) (credits : List Nat)
  /-- PORT_TRAIN_FAIL (R270): A training attempt fails or exceeds 2 ms; the port retries, going to DISABLED after three failures in a row. -/
  | portTrainFail (port : Nat)
  /-- PORT_LINK_LOSS (R270): Loss of signal, loss of code-word lock or 16 retries of one flit takes a port from UP to TRAINING, discarding its retry buffer. -/
  | portLinkLoss (port : Nat)
  /-- PORT_DOZE (R272): A port goes to DOZE with keep-alive light when this node enters STOP or its neighbour announces STOP. -/
  | portDoze (port : Nat)
  /-- PORT_WAKE (R272): A wake pattern, light above keep-alive, or a local message to send takes a DOZE port to TRAINING. -/
  | portWake (port : Nat) (cause : WakeCause)
  /-- PORT_EN_WRITE (R270): A write of FAB_PORT_CFG_n.EN disables a port or starts its training. -/
  | portEnWrite (path : Path) (port : Nat) (en : Bool)
  /-- PORT_FENCE_WRITE (R270): A write of FAB_PORT_CFG_n.FENCE fences a port with its laser off, or clears the fence and starts training. -/
  | portFenceWrite (path : Path) (port : Nat) (fence : Bool)
  /-- FLIT_RECEIVE (R273): A flit is received and decoded; credits and ACK are taken, messages extracted, or a NAK sent for an uncorrectable code word. -/
  | flitReceive (port : Nat) (words : List (List Byte))
  /-- RD (R277): An RD message is served at home and answered with RD_DATA. -/
  | rd (port : Nat) (m : FabMsg)
  /-- WR (R280): A WR message is ordered in its flow, applied at home and acknowledged. -/
  | wr (port : Nat) (m : FabMsg)
  /-- WRN (R280): A WRN message of up to 32 lines is ordered in its flow, applied at home and acknowledged. -/
  | wrn (port : Nat) (m : FabMsg)
  /-- ATOM (R277): An ATOM message performs ADD, OR, CMPWR or SWAP at home and is answered with ATOM_DATA. -/
  | atom (port : Nat) (m : FabMsg)
  /-- BULK_RD (R277): A BULK_RD message is served and answered with one or more BULK_DATA messages. -/
  | bulkRd (port : Nat) (m : FabMsg)
  /-- SUBDESC (R279): A SUBDESC fragment arrives; on the LAST fragment the peer checks, splits and runs the sub-descriptor, or answers FLOWNAK BUSY. -/
  | subdesc (port : Nat) (m : FabMsg)
  /-- PARITY (R312): A PARITY message applies a delta to a P or Q line, or poisons it, and is answered with WRACK. -/
  | parityMsg (port : Nat) (m : FabMsg)
  /-- LEASE (R302): A LEASE message with a peer operation (XSTEP or XABORT) is carried out by the transfer peer and answered with LEASE_RSP. -/
  | leaseMsg (port : Nat) (m : FabMsg)
  /-- ECHO (R277): An ECHO message is answered with ECHO_RSP carrying its 8 bytes. -/
  | echo (port : Nat) (m : FabMsg)
  /-- NEIGH (R284): A NEIGH message updates FAB_NBR_n and, with STATE 1, sends the port to DOZE. -/
  | neigh (port : Nat) (m : FabMsg)
  /-- NEIGH_SEND (R284): Every 1 ms an UP port sends NEIGH. -/
  | neighSend (port : Nat)
  /-- RD_DATA (R277): An RD_DATA response delivers read data to the requester. -/
  | rdData (port : Nat) (m : FabMsg)
  /-- WRDONE (R281): A WRDONE response acknowledges a flow's write-class messages cumulatively. -/
  | wrdone (port : Nat) (m : FabMsg)
  /-- WRACK (R281): A WRACK response acknowledges an acknowledged write and every earlier message of its flow. -/
  | wrack (port : Nat) (m : FabMsg)
  /-- ATOM_DATA (R277): An ATOM_DATA response returns the old value of an atomic. -/
  | atomData (port : Nat) (m : FabMsg)
  /-- BULK_DATA (R277): A BULK_DATA response delivers part of a bulk read at its offset. -/
  | bulkData (port : Nat) (m : FabMsg)
  /-- PARTIAL (R279): A PARTIAL response returns a peer's G records and status for its part. -/
  | partialMsg (port : Nat) (m : FabMsg)
  /-- LEASE_RSP (R302): A LEASE_RSP returns the ledger or peer record after a lease operation. -/
  | leaseRsp (port : Nat) (m : FabMsg)
  /-- ECHO_RSP (R277): An ECHO_RSP returns the ECHO's bytes and gives a round-trip sample. -/
  | echoRsp (port : Nat) (m : FabMsg)
  /-- FLOWNAK (R280): A FLOWNAK AHEAD, UNKNOWN or BUSY makes the source resend its flow from E, with FIRST, or after FAB_E2E. -/
  | flownak (port : Nat) (m : FabMsg)
  /-- WRDONE_TIMER (R281): 1 µs after the first unacknowledged write of a flow was applied, the destination sends WRDONE. -/
  | wrdoneTimer (src sidx : Nat)
  /-- E2E_RESEND (R282): A request with no response for FAB_E2E.US is sent again. -/
  | e2eResend (dst sidx tag : Nat)
  /-- FAB_REQ_TMO_EXPIRY (R282): A request unanswered for FAB_REQ_TMO fails with TIMEOUT, ending its write flow. -/
  | fabReqTmoExpiry (dst sidx tag : Nat)
  /-- AGE_DISCARD (R282): A router discards a message whose AGE reaches 250 and counts it in FAB_STATS.AGED. -/
  | ageDiscard (port : Nat) (m : FabMsg)
  /-- FLOW_EXPIRY (R280): A destination frees a flow 4 ms after its last message, and a source forgets an idle acknowledged flow after 2 ms. -/
  | flowExpiry (here : Bool) (node sidx : Nat)
  /-- MGMT_FORWARD (R285): A MGMT packet is source-routed onward or back toward its sender. -/
  | mgmtForward (port : Nat) (m : FabMsg)
  /-- MGMT_FORWARD_TMO (R285): A router that cannot forward a MGMT packet within 10 µs discards it. -/
  | mgmtForwardTmo (port : Nat) (m : FabMsg)
  /-- READ_NBR (R285): A MGMT READ_NBR returns the NEIGH body of the named port. -/
  | readNbr (port : Nat) (m : FabMsg)
  /-- READ_REG (R285): A MGMT READ_REG returns a management-space register value. -/
  | readReg (port : Nat) (m : FabMsg)
  /-- WRITE_REG (R286): A MGMT WRITE_REG writes a management-space register when FMUID matches FAB_FM_UID, otherwise answers DENIED. -/
  | writeReg (port : Nat) (m : FabMsg)
  /-- MGMT_ECHO (R285): A MGMT ECHO is answered at its last hop. -/
  | mgmtEcho (port : Nat) (m : FabMsg)
  /-- BRINGUP (R293): A write of FAB_CTRL.BRINGUP starts the partition bring-up, echoing every node of the partition. -/
  | bringup (path : Path)
  /-- BRINGUP_COMPLETE (R293): Bring-up ends: RTT and span are set, the bay mode and personality applied and FAB_CTRL.BUSY cleared. -/
  | bringupComplete
  /-- DEFINE (R301): EXT_DEF_CTRL DEFINE creates an extent entry at EXT_DEF_EPOCH, ACTIVE or LAPSED with LEASED. -/
  | define (path : Path) (leased : Bool) (comp : Nat)
  /-- UNDEFINE (R301): EXT_DEF_CTRL UNDEFINE removes a REVOKED or LAPSED extent's frames and frees its entry. -/
  | undefine (path : Path)
  /-- REASSIGN (R301): EXT_DEF_CTRL REASSIGN gives a REVOKED extent a new composition and raises its epoch. -/
  | reassign (path : Path) (leased : Bool) (comp : Nat)
  /-- LEASE_RENEW (R303): Once half the lease length has passed the holder sends ACQUIRE to renew. -/
  | leaseRenew (extent : Nat)
  /-- LEASE_EXPIRE (R304): At MS × (1 − 2^−10) without renewal the extent becomes LAPSED. -/
  | leaseExpire (extent : Nat)
  /-- LAPSED_ACQUIRE (R304): Every 100 ms the lease client sends ACQUIRE for a LAPSED extent. -/
  | lapsedAcquire (extent : Nat)
  /-- LEDGER_LOST (R304): No ledger answer for EXT_LEASE.MS sets EXT_STATUS.LEDGER_LOST. -/
  | ledgerLost
  /-- DOUBT_STALL_EXPIRY (R308): An entry in DOUBT or DEST with no progress for EXT_LEASE.MS reads the ledger and resolves toward commit or ACTIVE. -/
  | doubtStallExpiry (extent : Nat)
  /-- EG_RECORD_WRITE (R310): A write to word 0 of EXT_EG_DATA applies the whole erasure-group record. -/
  | egRecordWrite (path : Path) (value : Nat)
  /-- ADOPT (R330): CSK_CMD ADOPT binds a FRESH cask, formats its FTL and makes it IN_SERVICE. -/
  | adoptCask (path : Path) (slot : Nat)
  /-- EVACUATE (R336): CSK_CMD EVACUATE promotes every frame on a cask so it can be demoted elsewhere. -/
  | evacuateCask (path : Path) (slot : Nat)
  /-- RELEASE (R332): CSK_CMD RELEASE stops demotions to a cask, writes its journal and counters, and switches its rail off. -/
  | releaseCask (path : Path) (slot : Nat)
  /-- RETIRE (R330): CSK_CMD RETIRE makes an empty cask RETIRED. -/
  | retireCask (path : Path) (slot : Nat)
  /-- ERASE (R330): CSK_CMD ERASE erases every block of a FOREIGN or RETIRED cask and clears BIND. -/
  | eraseCask (path : Path) (slot : Nat)
  /-- IMPORT (R328): CSK_CMD IMPORT creates local frames from a readable FOREIGN cask's latest records. -/
  | importCask (path : Path) (slot : Nat)
  /-- FORGET (R330): CSK_CMD FORGET puts an empty cask's serial on the deny list. -/
  | forgetCask (path : Path) (slot : Nat)
  /-- CASK_INSERT (R331): A cask's insertion-detect asserts; the slot powers up, checks identity, trains channels and loads the FTL. -/
  | caskInsert (slot : Nat) (cask : Cask)
  /-- CASK_FTL_LOADED (R331): A cask finishes loading its FTL metadata and serves, releasing accesses that waited. -/
  | caskFtlLoaded (slot : Nat)
  /-- CASK_PULL (R333): A cask pulled without RELEASE has its rail cut; moves on it are abandoned or failed and its frames become unreadable. -/
  | caskPull (slot : Nat)
  /-- CASK_DIE_FAIL (R324): A cask die fails and its live pages are rebuilt from the parity group into spare blocks. -/
  | caskDieFail (slot die : Nat)
  /-- CASK_WORN (R335): A cask's spare pool falls below its threshold and it becomes WORN_READONLY, evacuating with AUTO_EVAC. -/
  | caskWorn (slot : Nat)
  /-- CASK_LIFE_REACHED (R334): FCW reaches 2,500.00 and CSK_STS_n.LIFE is set with an event. -/
  | caskLifeReached (slot : Nat)
  /-- CASK_COUNTER_WRITE (R335): Every 10 minutes the cask manager writes FCW, PEMAX and SPARE to the identity element. -/
  | caskCounterWrite (slot : Nat)
  /-- CASK_PAGE_SCRUB (R343): The cask manager reads every written page once per 30 days and rewrites pages above the refresh level. -/
  | caskPageScrub (slot frame : Nat) (corrections refresh : Nat)
  /-- CASK_BRANCH_OVERCURRENT (R403): A cask branch held at its current limit for 100 µs is switched off and its cask treated as pulled. -/
  | caskBranchOvercurrent (slot : Nat)
  /-- VCASK_OUT_OF_RANGE (R405): VCASK_IN outside its range for 100 µs switches every branch off; they return after 50 ms back in range. -/
  | vcaskOutOfRange
  /-- STACK_SCRUB (R343): The management core scrubs stack lines and SRAM regions, writing corrected or poisoned words back. -/
  | stackScrub (word : ScrubAt) (symbols : List Byte)
  /-- SCORE_HALVING (R345): Every 86,400 operating seconds each location score is halved and the location record written. -/
  | scoreHalving
  /-- SCORE_WARN (R346): A score reaching WARN schedules recalibration, retrains a port or refreshes a die, with an event. -/
  | scoreWarn (loc : Nat)
  /-- SCORE_LIMIT (R346): A score reaching LIMIT fences a bay, scanner or port, or retires a stack channel or cask die. -/
  | scoreLimit (loc : Nat)
  /-- MARGIN_SAMPLE (R26): Every 20 µs the management core samples the margin monitors and lowers, raises or responds to red on VDD_CORE. -/
  | marginSample (bands : List (Nat × Band)) (headroom : Bool)
  /-- LOWERING_HOLD_END (R347): The 10 s lowering hold after a check failure or red report ends. -/
  | loweringHoldEnd
  /-- CAP_MISS_WINDOW (R27): At the end of a 1-second window in which the power cap was missed, CAP_MISS is set and one event recorded. -/
  | capMissWindow
  /-- CHANNEL_RETIRE_DONE (R350): A retiring channel holds no frame in use; MGT_CHRET is set, the pool lowered and the PHY idled. -/
  | channelRetireDone (ch : Nat)
  /-- CHANNEL_LOSS (R351): A channel failing to train or giving 16 uncorrectable reads in 1 ms is retired at once, its content handled as R351 states. -/
  | channelLoss (ch : Nat)
  /-- CAL_RUN (R353): CAL_CMD RUN drains a unit, measures it and sets its delay codes and bands. -/
  | calRun (path : Path) (unit : Nat) (result : Option (List Byte))
  /-- CAL_SCHEDULED_RUN (R353): A recalibration scheduled at WARN starts within 1 s when the unit can be drained. -/
  | calScheduledRun (unit : Nat) (result : Option (List Byte))
  /-- CAL_EXPORT (R354): CAL_CMD EXPORT writes the whole calibration set to CAL_BUF. -/
  | calExport (path : Path)
  /-- CAL_WRITE (R354): CAL_CMD WRITE checks and applies a record set from CAL_BUF. -/
  | calWrite (path : Path)
  /-- CAL_NOR_WRITE (R354): At the hour the management core writes pending calibration records to the NOR. -/
  | calNorWrite
  /-- MGT_UNFENCE (R346): A write of MGT_UNFENCE.GO unfences a bay, scanner or port and zeroes its score. -/
  | mgtUnfence (path : Path) (loc : Nat)
  /-- STOP_REQUEST (R358): A write of PWR_CTRL.STOP = 1 checks the refusal conditions and enters STOP step by step. -/
  | stopRequest (path : Path)
  /-- STOP_L1_TIMEOUT (R357): The CXL link not reaching L1 within 1 ms refuses the STOP entry with unit HOST_PORT. -/
  | stopL1Timeout
  /-- STOP_ABORT (R361): A wake source, host request, fabric message or watched-line write during entry undoes it and returns to RUN. -/
  | stopAbort (unit : Nat)
  /-- WAKE (R363): A wake source in STOP brings up power, PLLs, stacks and logic and returns to RUN. -/
  | wakeUp (source index : Nat)
  /-- MANAGEMENT_EXIT (R362): A write of PWR_CTRL.STOP = 0 in STOP starts a wake with source code 5. -/
  | managementExit (path : Path)
  /-- WAKE_STEP_TIMEOUT (R363): A wake ready signal late beyond its maximum, or a bad image CRC, records an event and performs a device reset. -/
  | wakeStepTimeout (step : Nat)
  /-- COLD_RESET (R366): PWRGD rising starts the cold reset and the boot sequence. -/
  | coldReset (found : PowerOn)
  /-- DEVICE_RESET (R365): RESET_N, MGT_RESET.DEV, a failed wake or the watchdog resets everything except the island, NOR and casks and boots from step 2. -/
  | deviceReset (cause : Nat)
  /-- WATCHDOG_EXPIRY (R365): The management core watchdog expires after 2 s and causes a device reset. -/
  | watchdogExpiry
  /-- HOST_PORT_RESET (R365): PERST#, a hot reset or a link-down resets the host port, every LD and host function, and sets DIR_UNRESP bits. -/
  | hostPortReset
  /-- LD_RESET (R365): The fabric manager resets one LD's decoders and functions. -/
  | ldReset (ld : Nat)
  /-- FUNCTION_LEVEL_RESET (R141): A function level reset deletes every queue of the function as with ABORT. -/
  | functionLevelReset (fn : Nat)
  /-- POWER_LOSS (R405): VIN_MAIN below 38 V for 20 µs lets the management core finish the NOR program in progress and loses stack content. -/
  | powerLoss
  /-- VDD_AON_LOSS (R405): Loss of VDD_AON makes the island counters resume from their NOR copies. -/
  | vddAonLoss
  /-- THERMAL_ALERT (R412): A sensor at or above its alert level asserts TALERT_N and records one event per 1-second window. -/
  | thermalAlert (cls temp : Nat)
  /-- THERMAL_TRIP (R412): A sensor at its trip level asserts THERMTRIP_N, writes a trip record and cuts core power. -/
  | thermalTrip (sensor temp : Nat)
  /-- STAGE (R375): SEC_FW_CMD STAGE checks the image in SEC_FW_BUF and programs it into the target slot. -/
  | stageImage (path : Path) (slot : Bool)
  /-- ACTIVATE (R378): SEC_FW_CMD ACTIVATE restarts the management core into the target slot while the data path runs. -/
  | activate (path : Path) (slot : Bool)
  /-- CONFIRM (R374): SEC_FW_CMD CONFIRM makes the running slot ACTIVE and burns SVN fuses with SVN_COMMIT. -/
  | confirm (path : Path)
  /-- REVERT (R375): SEC_FW_CMD REVERT runs the activation sequence back toward the ACTIVE slot. -/
  | revert (path : Path)
  /-- MICROCODE_ROLLOUT (R379): After activation, bay microcode is loaded one drained bay at a time. -/
  | microcodeRollout (bay : Nat)
  /-- SEC_LOCK_WRITE (R377): Writing 1 to a SEC_LOCK bit sets that lock until a cold or device reset. -/
  | secLockWrite (path : Path) (value : Nat)
  /-- CHALLENGE (R370): An SPDM CHALLENGE is answered with an Alias-signed response. -/
  | challenge (transport slot : Nat) (nonce : List Byte)
  /-- GET_MEASUREMENTS (R371): An SPDM GET_MEASUREMENTS returns the signed measurement blocks. -/
  | getMeasurements (transport index : Nat) (nonce : List Byte)
  /-- GET_CERTIFICATE (R370): An SPDM certificate request returns the chain of slot 0 or slot 1. -/
  | getCertificate (transport slot off len : Nat)
  /-- KEY_EXCHANGE (R370): An SPDM key exchange establishes a session with ML-KEM-768. -/
  | keyExchange (transport id : Nat) (exchange : List Byte) (leaf : Option Nat)
  /-- PMC_EVT_WRITE (R384): A write of PMC_EVT_n selects an event and clears its counter. -/
  | pmcEvtWrite (path : Path) (k event : Nat)
  /-- RECORDER_FLUSH (R390): Buffered event records are programmed into the NOR event-recorder area. -/
  | recorderFlush
  /-- REC_EXPORT (R391): REC_CMD EXPORT copies a range of the log to REC_BUF. -/
  | recExport (path : Path)
  /-- REC_CLEAR (R392): REC_CMD CLEAR erases the log within an authenticated session, or is refused with CLEAR_DENIED. -/
  | recClear (path : Path)
  /-- ACCOUNTING_WINDOW_END (R396): At each accounting window boundary a meter window record is written and per-window limits reset. -/
  | accountingWindowEnd
  /-- OPERATING_TICK (R395): At each operating-seconds tick the T0 and T1 frame meters of every composition are increased. -/
  | operatingTick
  /-- PKG_POWER_UPDATE (R31): Every 1 ms PWR_PKG_MW and PWR_TEMP are updated. -/
  | pkgPowerUpdate (mw die hbm opt : Nat)
  /-- TIER_ROOT_WRITE (R424): A write of TIER_ROOT_DATA populates a root and builds its leaf, releases an empty root, or is refused. -/
  | tierRootWrite (path : Path) (value : Nat)
  /-- TIER_MAP_ENABLE (R86): A write of TIER_MAP_CFG.EN enables the tier map, laying out reserved structures and rebuilding populated leaves, or pauses it. -/
  | tierMapEnable (path : Path) (value : Nat)
  /-- PIN_QUOTA_WRITE (R70): A write of TIER_PINQ_VAL sets a composition's pin quota, or is refused with QREJ. -/
  | pinQuotaWrite (path : Path) (value : Nat)
  /-- QCT_RANGE_WRITE (R127): A write of QCT_RANGE sets a function's queue range, or is refused with RREJ on overlap. -/
  | qctRangeWrite (path : Path) (fn value : Nat)
  /-- QCT_CTRL_EN (R151): Setting QCT_CTRL.EN creates queue 0; clearing it deletes every queue of the function as with ABORT. -/
  | qctCtrlEn (path : Path) (fn : Nat) (en : Bool)
  /-- ATN_REG_ENABLE (R205): Writing ATN_REG_BASE.EN = 1 clears every registry entry and enables the registry. -/
  | atnRegEnable (path : Path) (value : Nat)
  /-- EMB_HTAB_ENABLE (R231): Writing EMB_HTAB_BASE.EN = 1 marks every handle empty and clears the combining area. -/
  | embHtabEnable (path : Path) (value : Nat)
  /-- EXT_TAB_ENABLE (R320): Writing EXT_TAB_BASE.EN = 1 makes every extent entry FREE. -/
  | extTabEnable (path : Path) (value : Nat)
  /-- PWR_MODE_TEST (R364): A write of PWR_MODE.SVC = 2 puts the management core in TEST mode. -/
  | pwrModeTest (path : Path)
  /-- REGISTER_WRITE (R416): A write to a register without behaviour of its own sets its fields under access codes, locks and half-register latching. -/
  | registerWrite (path : Path) (off width value : Nat)
  /-- PWRGD_FALL (R405): PWRGD falling at power-down ends operation, releases THERMTRIP_N, and in STOP loses the stop image so that the next rise is a cold reset. -/
  | pwrgdFall
  /-- CXL_LINK_UP (R366): Once PERST# is released the host port trains the CXL link and, from then on, answers configuration and CXL.mem traffic. -/
  | cxlLinkUp
  /-- MSIX_VECTOR_UNMASK (R145): Clearing the mask of an MSI-X vector whose pending bit is set sends the held message and clears the pending bit, under the PCIe MSI-X rules. -/
  | msixVectorUnmask (fn vector : Nat)
  /-- CASK_RETRAIN_DONE (R363): After an exit from STOP, the casks finish retraining their ONFI channels (up to 80 ms) and the T1 accesses that waited for it proceed. -/
  | caskRetrainDone
  deriving DecidableEq, Repr

end Sys2Proof
end

