-- ==== Sys2Proof/Decode.lean ====
section
/-! DEFINITION. The commands that a table word spells. -/

namespace Sys2Proof

/-- The command spelled by `nbits` bits of the opcode table. No row of the table gives bits, so none is spelled. -/
def decodeTableWord (_nbits _w : Nat) : Option Instr := none

end Sys2Proof
end

