-- ==== Sys2Proof/Config.lean ====
section
/-! DEFINITION. What one implementation fixes and the manual leaves open: constants without a body, of which nothing
can be evaluated or proved, and the constants the manual states. -/

namespace Sys2Proof.Config

/-- A free value: the `n`-th open choice of a run. A statement holds whatever it is. -/
opaque free : Nat → Nat

/-- The low byte of an event code that R388 leaves to the recording block; `tag` numbers the events of the model. -/
opaque eventLow : (tag : Nat) → BitVec 8

/-- The stored length of one LZ4 block of R78 (LZ4 fixes the decoder, not the encoder): from the sub-block's bytes. -/
opaque lz4Length : List (BitVec 8) → Nat

/-- LZ4 compression of R78, used only where the stored form is visible. -/
opaque lz4Pack : List (BitVec 8) → List (BitVec 8)

/-- The exponential of R165: any result within 2 units in the last place (of the FP32 word given). -/
opaque expUlp : Nat → Int

/-- The natural logarithm of R165, as `expUlp`. -/
opaque logUlp : Nat → Int

/-- The reciprocal square root of R165, as `expUlp`. -/
opaque rsqrtUlp : Nat → Int

/-- The order, as a number, in which the `n` products that one step adds to a dot are added (R164: a fixed order, not stated). -/
opaque dotOrder : (n : Nat) → Nat

/-- How many products of one dot a step takes, where the `nr` dots of `n` products each are more than one step holds (R153, R164: not
stated). -/
opaque dotCut : (nr n : Nat) → Nat

/-- The order, as a number, in which the steps of dot `i` of a run arrive (R164); `run` tells runs apart. -/
opaque stepOrder : (run i : Nat) → Nat

/-- The lower-numbered of the two sections whose nodes the cask node of a slot connects to (R199): which they are is not stated. -/
opaque caskSection : (slot : Nat) → Nat

/-- ML-DSA-44 signature over a message under the secret named by a seed (R369): 2,420 bytes. -/
opaque mldsaSign : (seed : Nat) → List (BitVec 8) → List (BitVec 8)

/-- ML-DSA-44 public key of a seed (R369): 1,312 bytes. -/
opaque mldsaKey : (seed : Nat) → List (BitVec 8)

/-- Whether an ML-DSA-44 signature verifies under a key over a message. -/
opaque mldsaVerify : (key msg sig : List (BitVec 8)) → Bool

/-- ML-KEM-768 encapsulation (R370): the ciphertext and the shared secret for an encapsulation key. -/
opaque mlkemEncaps : List (BitVec 8) → List (BitVec 8) × Nat

/-- The certificate chain of a slot (R370) as the factory and the management core hold it. -/
opaque certChain : (slot : Nat) → (aliasKey : Nat) → List (BitVec 8)

/-- The Drainmos root public key in the boot ROM (R369). -/
opaque rootKey : List (BitVec 8)

/-- The digest of the boot ROM (R371) and the device secret UDS (R369), as numbers. -/
opaque bootRomDigest : Nat
opaque uds : Nat

/-- The digest of the bay microcode that a firmware body carries (R371, R372): where it lies in the body is not stated. -/
opaque microcodeDigest : (body : List (BitVec 8)) → Nat

/-- The code that an INT8 or INT4 row takes for a non-zero element when its new scale rounds to zero (R225): a choice, by
the element's FP32 word. -/
opaque zeroScaleCode : Nat → Int

/-- The row-cache set that a row falls in (R222). -/
opaque rowSet : (handle row : Nat) → Nat

/-- The entry of a row in its bay's combining table in a round (R217), as a number: where it lies, and the 16 bytes that spell it. Ndonte's
own, not stated. -/
opaque combEntry : (round row : Nat) → Nat

/-- The erasure-engine trackers (R290), less one: their number is not stated. -/
opaque egTrackers : Nat

/-- The node UID that the factory sets (R297), as a number below 2^128. DESIGN CHOICE, log entry 7. -/
def nodeUid : Nat := 1

/-- The number of stack frames of one 80 GB stack (R65: LOC from 0 to 1,220,702). -/
def stackFrames : Nat := 1220703

/-- Bytes of a frame (R11). -/
def frameBytes : Nat := 65536

end Sys2Proof.Config
end

