-- ==== Sys2Proof/Machine/Bits.lean ====
section
/-! DEFINITION. Byte strings, bit fields and little-endian conversion (R12 to R14). -/

namespace Sys2Proof.Machine

open Sys2Proof (Byte Line)

/-- The bits `[hi:lo]` of a number (R12). -/
def bits (x hi lo : Nat) : Nat := (x / 2 ^ lo) % 2 ^ (hi + 1 - lo)

/-- One bit of a number. -/
def bit (x i : Nat) : Bool := x.testBit i

/-- A Boolean as the bit of that value. -/
def b2n (b : Bool) : Nat := if b then 1 else 0

/-- The number whose field `[hi:lo]` is replaced by `v`, cut to the field's width. -/
def setBits (x hi lo v : Nat) : Nat :=
  x - (bits x hi lo) * 2 ^ lo + (v % 2 ^ (hi + 1 - lo)) * 2 ^ lo

/-- `n` bytes of a number, least significant first (R13). -/
def leBytes : Nat → Nat → List Byte
  | 0, _ => []
  | n + 1, x => BitVec.ofNat 8 x :: leBytes n (x / 256)

/-- The number a little-endian byte string spells (R13). -/
def leNat : List Byte → Nat
  | [] => 0
  | b :: bs => b.toNat + 256 * leNat bs

/-- The number a big-endian byte string spells. -/
def beNat (bs : List Byte) : Nat := bs.foldl (fun a b => a * 256 + b.toNat) 0

/-- Byte `i` of a line. -/
def lineByte (l : Line) (i : Nat) : Byte := l.extractLsb' (8 * i) 8

/-- The 64 bytes of a line. -/
def lineBytes (l : Line) : List Byte := (List.range 64).map (lineByte l)

/-- The line whose bytes are given, zero beyond their end. -/
def bytesLine (bs : List Byte) : Line := BitVec.ofNat 512 (leNat (bs.take 64))

/-- `n` bytes of a string from byte `off` on, zero beyond its end. -/
def slice (bs : List Byte) (off n : Nat) : List Byte :=
  let r := (bs.drop off).take n
  r ++ List.replicate (n - r.length) 0

/-- A little-endian field of `n` bytes at byte `off` of a structure (R14). -/
def fld (bs : List Byte) (off n : Nat) : Nat := leNat (slice bs off n)

/-- A byte string with the bytes at `off` replaced by `v`. -/
def splice (bs : List Byte) (off : Nat) (v : List Byte) : List Byte :=
  bs.take off ++ v ++ bs.drop (off + v.length)

/-- The smallest multiple of `k` that is no less than `x`, divided by `k`. -/
def ceilDiv (x k : Nat) : Nat := if k = 0 then 0 else (x + k - 1) / k

/-- `x - y`, counted around a ring of `n`. -/
def ringSub (n x y : Nat) : Nat := if n = 0 then 0 else (x % n + n - y % n) % n

/-- A counter that stops at its largest value instead of wrapping. -/
def satAdd (x k top : Nat) : Nat := if x + k ≥ top then top else x + k

/-- The element at `i`, with a default. -/
def nth (xs : List α) (i : Nat) (d : α) : α := xs.getD i d

/-- Split a list into pieces of `n` elements; `fuel` bounds the number of pieces. -/
def chunksFuel (n : Nat) : Nat → List α → List (List α)
  | 0, _ => []
  | _ + 1, [] => []
  | fuel + 1, xs => xs.take n :: chunksFuel n fuel (xs.drop n)

/-- Split a list into pieces of `n` elements, the last one shorter where they do not divide evenly. -/
def chunks (n : Nat) (xs : List α) : List (List α) := chunksFuel n xs.length xs

/-- The bitwise exclusive or of two byte strings, over the shorter's length. -/
def xorBytes (a b : List Byte) : List Byte := List.zipWith (· ^^^ ·) a b

/-- Pack Booleans into bytes, bit 0 first. -/
def packBits (bs : List Bool) : Nat := bs.foldr (fun b a => b2n b + 2 * a) 0

end Sys2Proof.Machine
end

