-- ==== Sys2Proof/Machine/Num.lean ====
section
/-! DEFINITION. Number formats and arithmetic (R156 to R167): exact values, the codecs of the twenty formats, rounding
to nearest with ties to even, saturation, and FP32 operations. -/

namespace Sys2Proof.Machine

open Sys2Proof

/-- An exact value: NaN, an infinity, or `± m × 2^e`. -/
inductive Val where
  | nan
  | inf (neg : Bool)
  | fin (neg : Bool) (m : Nat) (e : Int)
  deriving DecidableEq, Repr

/-- The layout of one floating-point format (R156): exponent bits, mantissa bits, bias, the largest finite code, the
code of infinity and the canonical NaN where the format has them. -/
structure FFmt where
  ebits : Nat
  mbits : Nat
  bias : Int
  maxFin : Nat
  inf : Option Nat
  nan : Option Nat
  deriving DecidableEq, Repr

def fp32 : FFmt := ⟨8, 23, 127, 0x7F7FFFFF, some 0x7F800000, some 0x7FC00000⟩
def fp16 : FFmt := ⟨5, 10, 15, 0x7BFF, some 0x7C00, some 0x7E00⟩
def bf16 : FFmt := ⟨8, 7, 127, 0x7F7F, some 0x7F80, some 0x7FC0⟩
def e4m3 : FFmt := ⟨4, 3, 7, 0x7E, none, some 0x7F⟩
def e5m2 : FFmt := ⟨5, 2, 15, 0x7B, some 0x7C, some 0x7E⟩
def e3m2 : FFmt := ⟨3, 2, 3, 0x1F, none, none⟩
def e2m3 : FFmt := ⟨2, 3, 1, 0x1F, none, none⟩
def e2m1 : FFmt := ⟨2, 1, 1, 0x07, none, none⟩

/-- Two to an integer power times a natural number, as a numerator and denominator. -/
def scale2 (m : Nat) (e : Int) : Nat × Nat :=
  if e ≥ 0 then (m * 2 ^ e.toNat, 1) else (m, 2 ^ (-e).toNat)

/-- `n / d` rounded to the nearest integer, ties to even (R163). -/
def roundDiv (n d : Nat) : Nat :=
  let q := n / d
  let r := n % d
  if 2 * r > d then q + 1 else if 2 * r = d then q + q % 2 else q

/-- The floor of the base-2 logarithm of `n / d`, for positive `n` and `d`. -/
def log2Rat (n d : Nat) : Int :=
  let k : Int := Int.ofNat n.log2 - Int.ofNat d.log2
  let (a, b) := if k ≥ 0 then (n, d * 2 ^ k.toNat) else (n * 2 ^ (-k).toNat, d)
  if a < b then k - 1 else k

/-- The magnitude code of `n / d × 2^e` in a format, rounded to nearest even and not yet limited (R163). -/
def roundMag (f : FFmt) (n d : Nat) (e : Int) : Nat :=
  if n = 0 then 0
  else
    let qmin : Int := 1 - f.bias - Int.ofNat f.mbits
    let q : Int := max (log2Rat n d + e - Int.ofNat f.mbits) qmin
    let s := e - q
    let r := if s ≥ 0 then roundDiv (n * 2 ^ s.toNat) d else roundDiv n (d * 2 ^ (-s).toNat)
    (q - qmin).toNat * 2 ^ f.mbits + r

/-- The sign bit of a format's code. -/
def signBit (f : FFmt) (neg : Bool) : Nat := if neg then 2 ^ (f.ebits + f.mbits) else 0

/-- The code of `± n / d × 2^e`: a finite result too large saturates (R163). -/
def encRat (f : FFmt) (neg : Bool) (n d : Nat) (e : Int) : Nat :=
  signBit f neg + min (roundMag f n d e) f.maxFin

/-- The code of a value in a floating-point format; none for a NaN that the format cannot hold (R163, R165). -/
def encF (f : FFmt) : Val → Option Nat
  | .nan => f.nan
  | .inf neg => some (signBit f neg + (f.inf.getD f.maxFin))
  | .fin neg m e => some (encRat f neg m 1 e)

/-- The value of a code of a floating-point format (R156). -/
def decF (f : FFmt) (c : Nat) : Val :=
  let neg := c.testBit (f.ebits + f.mbits)
  let mag := c % 2 ^ (f.ebits + f.mbits)
  if f.inf = some mag then .inf neg
  else if mag > f.maxFin then .nan
  else
    let e := mag / 2 ^ f.mbits
    let m := mag % 2 ^ f.mbits
    if e = 0 then .fin neg m (1 - f.bias - Int.ofNat f.mbits)
    else .fin neg (m + 2 ^ f.mbits) (Int.ofNat e - f.bias - Int.ofNat f.mbits)

/-- The value of an integer. -/
def ofInt (i : Int) : Val := .fin (decide (i < 0)) i.natAbs 0

/-- The FP32 word of a value. -/
def f32 (v : Val) : Nat := (encF fp32 v).getD 0x7FC00000

/-- The value of an FP32 word. -/
def v32 (w : Nat) : Val := decF fp32 w

/-- A value rounded to FP32 (R163). -/
def toF32 (v : Val) : Val := v32 (f32 v)

/-- The negation of a value. -/
def Val.neg : Val → Val
  | .nan => .nan
  | .inf n => .inf (! n)
  | .fin n m e => .fin (! n) m e

/-- The magnitude of a value. -/
def Val.abs : Val → Val
  | .nan => .nan
  | .inf _ => .inf false
  | .fin _ m e => .fin false m e

/-- Whether a value is NaN or infinite. -/
def Val.special : Val → Bool
  | .fin _ _ _ => false
  | _ => true

/-- Whether a value is a zero. -/
def Val.isZero : Val → Bool
  | .fin _ 0 _ => true
  | _ => false

/-- The signed mantissa of a finite value brought to exponent `e0`, which must not exceed its own. -/
def sigAt (neg : Bool) (m : Nat) (e e0 : Int) : Int :=
  let n : Int := Int.ofNat (m * 2 ^ (e - e0).toNat)
  if neg then -n else n

/-- The exact sum of two values. -/
def Val.add : Val → Val → Val
  | .nan, _ => .nan
  | _, .nan => .nan
  | .inf a, .inf b => if a = b then .inf a else .nan
  | .inf a, _ => .inf a
  | _, .inf b => .inf b
  | .fin na ma ea, .fin nb mb eb =>
    if ma = 0 ∧ mb = 0 then .fin (na && nb) 0 (min ea eb)
    else
      let e0 := min ea eb
      let s := sigAt na ma ea e0 + sigAt nb mb eb e0
      .fin (decide (s < 0)) s.natAbs e0

/-- The exact product of two values. -/
def Val.mul : Val → Val → Val
  | .nan, _ => .nan
  | _, .nan => .nan
  | .inf a, .inf b => .inf (a != b)
  | .inf a, .fin b m _ => if m = 0 then .nan else .inf (a != b)
  | .fin a m _, .inf b => if m = 0 then .nan else .inf (a != b)
  | .fin a ma ea, .fin b mb eb => .fin (a != b) (ma * mb) (ea + eb)

/-- Compare two values that are not NaN: less than. -/
def Val.lt : Val → Val → Bool
  | .nan, _ => false
  | _, .nan => false
  | .inf a, .inf b => a && ! b
  | .inf a, .fin _ _ _ => a
  | .fin _ _ _, .inf b => ! b
  | .fin na ma ea, .fin nb mb eb =>
    let e0 := min ea eb
    decide (sigAt na ma ea e0 < sigAt nb mb eb e0)

/-- FP32 addition: the exact sum rounded once. -/
def fadd (a b : Val) : Val := toF32 (a.add b)
/-- FP32 subtraction. -/
def fsub (a b : Val) : Val := toF32 (a.add b.neg)
/-- FP32 multiplication. -/
def fmul (a b : Val) : Val := toF32 (a.mul b)
/-- FP32 fused multiply-add. -/
def ffma (a b c : Val) : Val := toF32 ((a.mul b).add c)

/-- The quotient of two values rounded once to a format. -/
def divTo (f : FFmt) : Val → Val → Option Nat
  | .nan, _ => f.nan
  | _, .nan => f.nan
  | .inf _, .inf _ => f.nan
  | .inf a, .fin b _ _ => encF f (.inf (a != b))
  | .fin a _ _, .inf b => some (signBit f (a != b))
  | .fin a ma ea, .fin b mb eb =>
    if mb = 0 then (if ma = 0 then f.nan else encF f (.inf (a != b)))
    else some (encRat f (a != b) ma mb (ea - eb))

/-- FP32 division. -/
def fdiv (a b : Val) : Val := v32 ((divTo fp32 a b).getD 0x7FC00000)

/-- One bit of the integer square root at a time, from bit `k` down. -/
def isqrtFrom (n : Nat) : Nat → Nat → Nat
  | 0, r => r
  | k + 1, r =>
    let t := r + 2 ^ k
    isqrtFrom n k (if t * t ≤ n then t else r)

/-- The integer square root. -/
def isqrt (n : Nat) : Nat := isqrtFrom n (n.log2 / 2 + 1) 0

/-- The FP32 square root: the exact root rounded once. Extra bits are kept with a sticky bit below them. -/
def fsqrt : Val → Val
  | .nan => .nan
  | .inf false => .inf false
  | .inf true => .nan
  | .fin neg m e =>
    if m = 0 then .fin neg 0 e
    else if neg then .nan
    else
      let k := 80 + (e % 2).toNat
      let n := m * 2 ^ k
      let r := isqrt n
      let sticky := if r * r = n then 2 * r else 2 * r + 1
      toF32 (.fin false sticky ((e - Int.ofNat k) / 2 - 1))

/-- FP32 maximum; a NaN operand gives NaN (R165). -/
def fmax (a b : Val) : Val := if a = .nan ∨ b = .nan then .nan else if a.lt b then b else a
/-- FP32 minimum; a NaN operand gives NaN (R165). -/
def fmin (a b : Val) : Val := if a = .nan ∨ b = .nan then .nan else if b.lt a then b else a

/-- The largest and smallest integers of a two's-complement width, as a saturation (R163). -/
def satInt (w : Nat) (i : Int) : Int := max (-(2 ^ (w - 1) : Int)) (min (2 ^ (w - 1) - 1) i)

/-- A value rounded to an integer and saturated (R163); none for NaN. -/
def toInt (w : Nat) : Val → Option Int
  | .nan => none
  | .inf neg => some (if neg then -(2 ^ (w - 1) : Int) else 2 ^ (w - 1) - 1)
  | .fin neg m e =>
    let (n, d) := scale2 m e
    let r : Int := Int.ofNat (roundDiv n d)
    some (satInt w (if neg then -r else r))

/-- The two's-complement code of an integer. -/
def intCode (w : Nat) (i : Int) : Nat := (i % (2 ^ w : Int)).toNat

/-- The integer of a two's-complement code. -/
def codeInt (w c : Nat) : Int := if c.testBit (w - 1) then Int.ofNat (c % 2 ^ w) - 2 ^ w else Int.ofNat (c % 2 ^ w)

/-! Exponential, logarithm and reciprocal square root (R166). Each reference is within half a unit in the last place
and a hair; the free offset of at most one unit keeps the result within two. -/

/-- ln 2 × 2^160, truncated. -/
def ln2Fix : Int := 1013035739299659071135698605846798551586536899366

/-- A fixed-point product at 160 fractional bits. -/
def fixMul (a b : Int) : Int := (a * b) / 2 ^ 160

/-- The terms of the exponential series at 160 fractional bits. -/
def expSeries (r : Int) : Nat → Int → Int → Int → Int
  | 0, _, _, acc => acc
  | fuel + 1, k, term, acc =>
    let t := fixMul term r / k
    expSeries r fuel (k + 1) t (acc + t)

/-- A finite value at 160 fractional bits. -/
def fixOf (neg : Bool) (m : Nat) (e : Int) : Int :=
  let k := e + 160
  let n : Int := if k ≥ 0 then Int.ofNat (m * 2 ^ k.toNat) else Int.ofNat (m / 2 ^ (-k).toNat)
  if neg then -n else n

/-- A free choice among −1, 0 and 1. -/
def ulpChoice (i : Int) : Int := i % 3 - 1

/-- Move an FP32 code of positive sign by a few units, without leaving the finite codes. -/
def nudge (code : Nat) (k : Int) : Nat := (max 0 (min 0x7F7FFFFF (Int.ofNat code + k))).toNat

/-- exp in FP32 (R166). -/
def fexp (v : Val) : Val :=
  match v with
  | .nan => .nan
  | .inf false => .inf false
  | .inf true => .fin false 0 0
  | .fin neg m e =>
    if m = 0 then .fin false 1 0
    else
      let big := decide (log2Rat m 1 + e ≥ 8)
      if big ∧ ! neg then .inf false
      else if big then .fin false 0 0
      else
        let x := fixOf neg m e
        let k := (2 * x + ln2Fix) / (2 * ln2Fix)
        let r := x - k * ln2Fix
        let y := expSeries r 40 1 (2 ^ 160) (2 ^ 160)
        let raw := roundMag fp32 y.toNat 1 (k - 160)
        if raw > 0x7F7FFFFF then .inf false
        else v32 (nudge raw (ulpChoice (Config.expUlp (f32 v))))

/-- The terms of the inverse hyperbolic tangent series at 160 fractional bits. -/
def atanhSeries (z2 : Int) : Nat → Int → Int → Int → Int
  | 0, _, _, acc => acc
  | fuel + 1, k, p, acc => atanhSeries z2 fuel (k + 2) (fixMul p z2) (acc + p / k)

/-- log in FP32 (R166). -/
def flog (v : Val) : Val :=
  match v with
  | .nan => .nan
  | .inf false => .inf false
  | .inf true => .nan
  | .fin neg m e =>
    if m = 0 then .inf true
    else if neg then .nan
    else
      let k := m.log2
      let z : Int := (Int.ofNat (m - 2 ^ k) * 2 ^ 160) / Int.ofNat (m + 2 ^ k)
      let s := 2 * atanhSeries (fixMul z z) 60 1 z 0
      let y := s + (e + Int.ofNat k) * ln2Fix
      if y = 0 then .fin false 0 0
      else
        let c := nudge (roundMag fp32 y.natAbs 1 (-160)) (ulpChoice (Config.logUlp (f32 v)))
        v32 (c + signBit fp32 (decide (y < 0)))

/-- rsqrt in FP32 (R166). -/
def frsqrt (v : Val) : Val :=
  match v with
  | .nan => .nan
  | .inf false => .fin false 0 0
  | .inf true => .nan
  | .fin neg m e =>
    if m = 0 then .inf neg
    else if neg then .nan
    else
      let k := 200 + (e % 2).toNat + m.log2 / 2 * 2
      let y := isqrt (2 ^ (2 * k) / (m * 2 ^ (e % 2).toNat))
      v32 (nudge (roundMag fp32 y 1 (-(Int.ofNat k) - (e - e % 2) / 2)) (ulpChoice (Config.rsqrtUlp (f32 v))))

/-! The formats by their 5-bit codes (R156). -/

/-- The element layout of a floating-point or MX format code. -/
def elemFmt : Nat → Option FFmt
  | 0x00 => some fp32
  | 0x01 => some fp16
  | 0x02 => some bf16
  | 0x03 => some e4m3
  | 0x04 => some e5m2
  | 0x05 => some e3m2
  | 0x06 => some e2m3
  | 0x07 => some e2m1
  | 0x08 => some e4m3
  | 0x09 => some e5m2
  | 0x0A => some e3m2
  | 0x0B => some e2m3
  | 0x0C => some e2m1
  | _ => none

/-- Bits of one packed element of a code, scales apart. -/
def elemBits : Nat → Nat
  | 0x00 => 32 | 0x01 => 16 | 0x02 => 16 | 0x03 => 8 | 0x04 => 8 | 0x05 => 6 | 0x06 => 6 | 0x07 => 4
  | 0x08 => 8 | 0x09 => 8 | 0x0A => 6 | 0x0B => 6 | 0x0C => 4 | 0x0D => 8
  | 0x0E => 32 | 0x0F => 8 | 0x10 => 4 | 0x11 => 1 | 0x13 => 8 | 0x1F => 8 | _ => 0

/-- Whether a code is an MX format. -/
def isMx (f : Nat) : Bool := decide (0x08 ≤ f ∧ f ≤ 0x0D)
/-- Whether a code is a plain floating-point format. -/
def isFloat (f : Nat) : Bool := decide (f ≤ 0x07)
/-- Whether a code is an integer format. -/
def isIntFmt (f : Nat) : Bool := decide (0x0E ≤ f ∧ f ≤ 0x10)
/-- Whether a code names a format of R156. -/
def isFmt (f : Nat) : Bool := decide (f ≤ 0x13)

/-- Bytes of a vector of `n` elements; none where it leaves part of a byte or part of a block (R157 to R159). -/
def vecBytes (f n : Nat) : Option Nat :=
  if isMx f then (if n % 32 = 0 then some (n / 32 * (1 + 4 * elemBits f)) else none)
  else if f = 0x12 then (if n % 32 = 0 then some (n / 32 * 24) else none)
  else if elemBits f = 0 then none
  else if (n * elemBits f) % 8 = 0 then some (n * elemBits f / 8) else none

/-- The elements packed in a number, from bit 0 upward (R157). -/
def unpackNat (w : Nat) : Nat → Nat → List Nat
  | 0, _ => []
  | n + 1, x => x % 2 ^ w :: unpackNat w n (x / 2 ^ w)

/-- Pack elements from bit 0 upward. -/
def packNat (w : Nat) : List Nat → Nat
  | [] => 0
  | c :: cs => c % 2 ^ w + 2 ^ w * packNat w cs

/-- `x × 2^k`. -/
def Val.shift (k : Int) : Val → Val
  | .fin n m e => .fin n m (e + k)
  | v => v

/-- Why a vector cannot be decoded or encoded: FORMAT (R136). -/
inductive NumErr where
  | format
  deriving DecidableEq, Repr

/-- The value of one MX element code. -/
def mxElem (f c : Nat) : Val :=
  if f = 0x0D then (ofInt (codeInt 8 c)).shift (-6) else decF ((elemFmt f).getD e4m3) c

/-- Decode one MX block (R158). -/
def decMx (f : Nat) (bs : List Byte) : List Val :=
  let x := fld bs 0 1
  let cs := unpackNat (elemBits f) 32 (leNat (bs.drop 1))
  if x = 0xFF then List.replicate 32 .nan else cs.map (fun c => (mxElem f c).shift (Int.ofNat x - 127))

/-- emax of an MX element format (R158). -/
def mxEmax : Nat → Int
  | 0x08 => 8
  | 0x09 => 15
  | 0x0A => 4
  | 0x0B => 2
  | 0x0C => 2
  | _ => 0

/-- The largest finite FP32 value. -/
def maxF32 : Val := v32 0x7F7FFFFF

/-- The larger magnitude of two, infinities counting as the largest finite FP32 value. -/
def amaxStep (a v : Val) : Val :=
  let m := if v.special then maxF32 else v.abs
  if a.lt m then m else a

/-- Encode one MX block (R158). -/
def encMx (f : Nat) (vs : List Val) : List Byte :=
  let blk (x : Nat) (cs : List Nat) := leBytes 1 x ++ leBytes (4 * elemBits f) (packNat (elemBits f) cs)
  if vs.any (· == .nan) then blk 0xFF (List.replicate 32 0)
  else
    let amax := vs.foldl amaxStep (.fin false 0 0)
    match amax with
    | .fin _ m e =>
      if m = 0 then blk 0 (List.replicate 32 0)
      else
        let s := max (-127) (min 127 (log2Rat m 1 + e - mxEmax f))
        blk (s + 127).toNat (vs.map (fun v =>
          let y := v.shift (-s)
          if f = 0x0D then intCode 8 ((toInt 8 (y.shift 6)).getD 0)
          else (encF ((elemFmt f).getD e4m3) y).getD 0))
    | _ => blk 0 (List.replicate 32 0)

/-- Decode one KVL4 group (R159); none when it is malformed. -/
def decKvl4 (bs : List Byte) : Option (List Val) :=
  let i0 := fld bs 18 1
  let i1 := fld bs 21 1
  let bad (i : Nat) : Bool := decide (32 ≤ i ∧ i ≤ 254)
  if bad i0 || bad i1 || (i0 == i1 && i0 != 0xFF) then none
  else
    let sc := decF bf16 (fld bs 16 2)
    let cs := unpackNat 4 32 (leNat (slice bs 0 16))
    some ((List.range 32).map (fun i =>
      if i = i0 then decF bf16 (fld bs 19 2)
      else if i = i1 then decF bf16 (fld bs 22 2)
      else toF32 ((ofInt (codeInt 4 (nth cs i 0))).mul sc)))

/-- The index of the largest non-zero magnitude not yet chosen, ties to the lower index. -/
def largestIdx (vs : List Val) (skip : List Nat) : Option Nat :=
  (List.range vs.length).foldl (fun best i =>
    let v := nth vs i .nan
    if skip.contains i || v.special || v.isZero then best
    else match best with
      | none => some i
      | some j => if (nth vs j .nan).abs.lt v.abs then some i else best) none

/-- The outliers of a KVL4 group (R160 step 1): NaN and infinite elements first, then the largest magnitudes. -/
def kvl4Outliers (vs : List Val) : List Nat :=
  let sp := (List.range vs.length).filter (fun i => (nth vs i .nan).special)
  let grow (o : List Nat) : List Nat :=
    if o.length ≥ 2 then o else match largestIdx vs o with
      | some i => o ++ [i]
      | none => o
  let o := grow (grow (sp.take 2))
  match o with
  | [a, b] => if a ≤ b then [a, b] else [b, a]
  | o => o

/-- `x / s` rounded once to an integer and clamped to a 4-bit code (R160 step 3). -/
def kvl4Code (x s : Val) : Int :=
  match x, s with
  | .fin nx mx ex, .fin ns ms es =>
    if ms = 0 then 0
    else
      let (n, d) := scale2 mx (ex - es)
      let r : Int := Int.ofNat (roundDiv n (d * ms))
      max (-8) (min 7 (if nx != ns then -r else r))
  | _, _ => 0

/-- Encode one KVL4 group (R160); none when more than two elements are NaN or infinite. -/
def encKvl4 (vs0 : List Val) : Option (List Byte) :=
  let vs := vs0.map toF32
  if (vs.filter Val.special).length > 2 then none
  else
    let o := kvl4Outliers vs
    let m := (List.range vs.length).foldl (fun a i =>
      if o.contains i then a else let v := (nth vs i .nan).abs; if a.lt v then v else a) (Val.fin false 0 0)
    let sc := (encF bf16 (fdiv m (ofInt 7))).getD 0
    let sv := decF bf16 sc
    let codes := (List.range 32).map (fun i => if o.contains i then 0 else intCode 4 (kvl4Code (nth vs i .nan) sv))
    let slot (k : Nat) : List Byte :=
      match o[k]? with
      | some i => leBytes 1 i ++ leBytes 2 ((encF bf16 (nth vs i .nan)).getD 0)
      | none => [0xFF, 0, 0]
    some (leBytes 16 (packNat 4 codes) ++ leBytes 2 sc ++ slot 0 ++ slot 1)

/-- Decode one element of a plain format. -/
def decElem (f c : Nat) : Val :=
  match f with
  | 0x0E => ofInt (codeInt 32 c)
  | 0x0F => ofInt (codeInt 8 c)
  | 0x10 => ofInt (codeInt 4 c)
  | 0x11 => ofInt (if c % 2 = 1 then -1 else 1)
  | 0x1F => ofInt (Int.ofNat (c % 256))
  | f => decF ((elemFmt f).getD fp32) c

/-- Encode one element of a plain format; none for a NaN that cannot be written (R165). -/
def encElem (f : Nat) (v : Val) : Option Nat :=
  match f with
  | 0x0E => (toInt 32 v).map (intCode 32)
  | 0x0F => (toInt 8 v).map (intCode 8)
  | 0x10 => (toInt 4 v).map (intCode 4)
  | 0x11 => if v = .nan then none else some (b2n (v.lt (.fin false 0 0)))
  | 0x1F => (toInt 16 v).map (fun i => i.toNat % 256)
  | f => encF ((elemFmt f).getD fp32) v

/-- Decode the KVL4 groups of a vector in order; none when one is malformed. -/
def decGroups : List (List Byte) → Option (List Val)
  | [] => some []
  | g :: gs => match decKvl4 g, decGroups gs with
    | some a, some b => some (a ++ b)
    | _, _ => none

/-- Encode the KVL4 groups of a vector in order. -/
def encGroups : List (List Val) → Option (List Byte)
  | [] => some []
  | g :: gs => match encKvl4 g, encGroups gs with
    | some a, some b => some (a ++ b)
    | _, _ => none

/-- Encode plain elements to codes; none when one cannot be written. -/
def encElems (f : Nat) : List Val → Option (List Nat)
  | [] => some []
  | v :: vs => match encElem f v, encElems f vs with
    | some a, some b => some (a :: b)
    | _, _ => none

/-- Decode a vector of `n` elements of a format other than PQ8; none when malformed (R159). -/
def decVec (f n : Nat) (bs : List Byte) : Option (List Val) :=
  if isMx f then some ((chunks (1 + 4 * elemBits f) bs).flatMap (decMx f))
  else if f = 0x12 then decGroups (chunks 24 bs)
  else some ((unpackNat (elemBits f) n (leNat bs)).map (decElem f))

/-- Encode a vector in a format other than PQ8; none is FORMAT (R160, R165). -/
def encVec (f : Nat) (vs : List Val) : Option (List Byte) :=
  if isMx f then some ((chunks 32 vs).flatMap (encMx f))
  else if f = 0x12 then encGroups (chunks 32 vs)
  else (encElems f vs).map (fun cs => leBytes (vs.length * elemBits f / 8) (packNat (elemBits f) cs))

/-- Decode a PQ8 vector of dimension `dim` with its codebook (R161). -/
def decPq8 (dim : Nat) (book codes : List Byte) : List Val :=
  let m := codes.length
  let w := if m = 0 then 0 else dim / m
  (List.range m).flatMap (fun j =>
    (List.range w).map (fun i => decF fp16 (fld book (((256 * j + (nth codes j 0).toNat) * w + i) * 2) 2)))

/-- The squared L2 distance of two vectors in FP32, summed in element order (R161). -/
def l2Sq (a b : List Val) : Val :=
  (List.zipWith (fun x y => fsub x y) a b).foldl (fun s d => ffma d d s) (.fin false 0 0)

/-- The code of the sub-centroid nearest to a sub-vector, ties to the lower code (R161). -/
def pqNearest (book : List Byte) (w j : Nat) (x : List Val) : Nat :=
  ((List.range 256).foldl (fun (best : Nat × Val) c =>
    let y := (List.range w).map (fun i => decF fp16 (fld book (((256 * j + c) * w + i) * 2) 2))
    let dist := l2Sq x y
    if best.2 == .nan || dist.lt best.2 then (if c = 0 then (0, dist) else (c, dist)) else best) (0, Val.nan)).1

/-- Encode a vector in PQ8 (R161); none is FORMAT: a NaN has no code (R165). -/
def encPq8 (m : Nat) (book : List Byte) (vs : List Val) : Option (List Byte) :=
  let w := if m = 0 then 0 else vs.length / m
  if vs.contains .nan then none
  else some ((List.range m).map (fun j => BitVec.ofNat 8 (pqNearest book w j ((vs.drop (j * w)).take w))))

/-- The PQ8 distance of a code vector under a distance table (R161). -/
def pqDist (table codes : List Byte) : Val :=
  (List.range codes.length).foldl (fun s j =>
    fadd s (decF fp16 (fld table ((256 * j + (nth codes j 0).toNat) * 2) 2))) (.fin false 0 0)

/-- The number of bits set in a number of `n` bits. -/
def popcount : Nat → Nat → Nat
  | 0, _ => 0
  | n + 1, x => x % 2 + popcount n (x / 2)

/-- The Hamming distance of two BIN1 vectors of `n` elements (R162). -/
def hamming (n : Nat) (a b : List Byte) : Nat := popcount n (leNat (xorBytes a b))

/-- The product of two bytes in GF(2^8) with 0x11D (R311). -/
def gfMulAux : Nat → Nat → Nat → Nat → Nat
  | 0, _, _, acc => acc
  | k + 1, a, b, acc =>
    let acc := if b % 2 = 1 then acc ^^^ a else acc
    let a2 := a * 2
    gfMulAux k (if a2 ≥ 256 then (a2 ^^^ 0x11D) % 256 else a2) (b / 2) acc

/-- Multiply in GF(2^8) (R311). -/
def gfMul (a b : Nat) : Nat := gfMulAux 8 (a % 256) (b % 256) 0

/-- α^k in GF(2^8) with α = 2 (R311). -/
def gfExp : Nat → Nat
  | 0 => 1
  | k + 1 => gfMul 2 (gfExp k)

/-- The inverse in GF(2^8): the 254th power. -/
def gfInv (a : Nat) : Nat := (List.range 254).foldl (fun x _ => gfMul x a) 1

end Sys2Proof.Machine
end

