-- ==== Sys2Proof/Machine/SMap.lean ====
section
/-! DEFINITION. Sparse maps: a list of (key, value) pairs in strictly rising key order. They hold memory, registers,
tier-map entries, directory entries and every other table of the machine that is sparse. -/

namespace Sys2Proof.Machine

/-- A sparse map from numbers, kept in strictly rising key order. -/
abbrev SMap (α : Type) := List (Nat × α)

/-- The value listed under a key. -/
def smGet? (k : Nat) : SMap α → Option α
  | [] => none
  | (j, v) :: m => if j = k then some v else if k < j then none else smGet? k m

/-- The value under a key, `d` where none is listed. -/
def smGet (k : Nat) (d : α) (m : SMap α) : α := (smGet? k m).getD d

/-- List a value under a key, in place of any other. -/
def smSet (k : Nat) (v : α) : SMap α → SMap α
  | [] => [(k, v)]
  | (j, w) :: m => if j = k then (k, v) :: m else if k < j then (k, v) :: (j, w) :: m else (j, w) :: smSet k v m

/-- Remove a key. -/
def smErase (k : Nat) : SMap α → SMap α
  | [] => []
  | (j, w) :: m => if j = k then m else if k < j then (j, w) :: m else (j, w) :: smErase k m

/-- Store a value under a key where an unlisted key reads `d`: the value `d` removes the entry. -/
def smPut [DecidableEq α] (d : α) (k : Nat) (v : α) (m : SMap α) : SMap α :=
  if v = d then smErase k m else smSet k v m

/-- Change the value under a key, where one is listed. -/
def smMod (k : Nat) (f : α → α) : SMap α → SMap α
  | [] => []
  | (j, w) :: m => if j = k then (j, f w) :: m else if k < j then (j, w) :: m else (j, w) :: smMod k f m

/-- Keys strictly rising. -/
def smSorted : SMap α → Bool
  | [] => true
  | [_] => true
  | (i, _) :: (j, v) :: m => decide (i < j) && smSorted ((j, v) :: m)

/-- The entries whose key lies in `[lo, hi)`. -/
def smRange (lo hi : Nat) (m : SMap α) : SMap α := m.filter (fun p => decide (lo ≤ p.1 ∧ p.1 < hi))

/-- The map without the entries whose key lies in `[lo, hi)`. -/
def smEraseRange (lo hi : Nat) (m : SMap α) : SMap α := m.filter (fun p => decide (¬ (lo ≤ p.1 ∧ p.1 < hi)))

/-- The keys of a map. -/
def smKeys (m : SMap α) : List Nat := m.map (·.1)

/-- A set of numbers in strictly rising order. -/
abbrev NSet := List Nat

/-- Put a number into a set. -/
def nsAdd (k : Nat) : NSet → NSet
  | [] => [k]
  | j :: m => if j = k then j :: m else if k < j then k :: j :: m else j :: nsAdd k m

/-- Take a number out of a set. -/
def nsDel (k : Nat) (m : NSet) : NSet := m.filter (· ≠ k)

/-- Put a number into a set, or take it out. -/
def nsSet (k : Nat) (b : Bool) (m : NSet) : NSet := if b then nsAdd k m else nsDel k m

end Sys2Proof.Machine
end

