-- ==== Sys2Proof/Machine/State.lean ====
section
/-! DEFINITION. The state of Ndonte as plain data: every register, table, queue, buffer, counter, mode and pin the
manual gives the block, the reasons a step can stop, and the state right after reset. -/

namespace Sys2Proof.Machine

open Sys2Proof

/-- PWR_STATUS.STATE (R357, R368). -/
inductive PwrState where
  | run
  | entering
  | stop
  | waking
  deriving DecidableEq, Repr

/-- The fields an event record may carry (R388). -/
inductive EvField where
  | fa (v : Nat)
  | ld (v : Nat)
  | queue (v : Nat)
  | loc (v : Nat)
  | port (v : Nat)
  | slot (slot serial : Nat)
  | node (v : Nat)
  | pasid (v : Nat)
  | extent (id epoch : Nat)
  | status (v : Nat)
  | count (v : Nat)
  | unit (v : Nat)
  | state (before after : Nat)
  | frames (first last : Nat)
  | score (v : Nat)
  | text (v : List Byte)
  deriving DecidableEq, Repr

/-- The events the rules of the manual record. The block of R388 is `Ev.block`; the low byte of the code, where no
rule gives it, is the open function `Config.eventLow`. -/
inductive Ev where
  | logFull | cleared | clearDenied | noEntry | hpaMiss | walkPoison | faultTimeout | fullPoison | mapDegraded | leafLost
  | openWait | kilnBad | bisnpTimeout | revokeRefused | queueError | portState | bringupMissing | lapsed | extentState | egDegraded | caskState
  | caskPulled | dieFail | life | caskCurrent | scoreWarn | scoreLimit | red | channelRetired | channelLost | channelHeld
  | calBad | calRefused | capMiss | stopRefused | stopAborted | woke | wakeFailed | thermalAlert | thermalTrip
  deriving DecidableEq, Repr

/-- One event of the recorder (R388): its kind, the stamps SEC and PCC (R389), and its fields. -/
structure Event where
  kind : Ev
  sec : Nat
  pcc : Nat
  body : List EvField
  deriving DecidableEq, Repr

/-- An event limited to one per window, as it stands in the present window: `deferred` events carry a COUNT and are
written when the window ends (R34), the others were written at their first cause. -/
structure WinEvent where
  kind : Ev
  key : Nat
  body : List EvField
  count : Nat
  deferred : Bool
  deriving DecidableEq, Repr

/-- The event recorder (R388 to R392): the log in the NOR, the 256 KiB buffer, LOST and FULL. -/
structure Recorder where
  log : List Event
  buf : List Event
  lost : Nat
  full : Bool
  windowed : List WinEvent
  secondly : List WinEvent
  deriving DecidableEq, Repr

/-- The half-register latches of one register path (R416). -/
structure Latch where
  heldLow : Option (Nat × Nat)
  readHigh : Option (Nat × Nat)
  deriving DecidableEq, Repr

/-- One entry of the MSI-X table (R418): message address, message data and the vector's mask bit. -/
structure MsixEntry where
  addr : Nat
  data : Nat
  masked : Bool
  deriving DecidableEq, Repr

/-- One HDM decoder of one LD (R35): the base and size it was committed with. -/
structure Hdm where
  base : Nat
  size : Nat
  deriving DecidableEq, Repr

/-- One leaf translation held in the translation caches (R46): the key is the PASID, the first page the leaf maps and
the level, the value is the entry as it was read. -/
structure TlbLeaf where
  pasid : Nat
  page : Nat
  lvl : Nat
  entry : Nat
  deriving DecidableEq, Repr

/-- One cached table pointer (R46): the table that the walk of `pasid` uses below level `lvl` for DVAs with this
prefix. -/
structure TlbPtr where
  pasid : Nat
  pre : Nat
  lvl : Nat
  table : Nat
  deriving DecidableEq, Repr

/-- An invalidation in progress (R49, R50), with the admin descriptor that waits on it. -/
structure Invalidation where
  queue : Nat
  seq : Nat
  mode : Nat
  all : Bool
  pasid : Nat
  start : Nat
  frames : Nat
  walk : Bool
  inflight : List FabMsg
  deriving DecidableEq, Repr

/-- A descriptor of a queue: its global queue ID and its number in submission order. -/
structure DescId where
  queue : Nat
  seq : Nat
  deriving DecidableEq, Repr

/-- An outstanding fault: one per (PASID, page, KIND) (R54), with its waiting set. `written` says that its record is
in the fault area; one not yet written waits for a slot (R57). -/
structure FaultEntry where
  id : Nat
  pasid : Nat
  page : Nat
  kind : Nat
  access : Nat
  queue : Nat
  tag : Nat
  engine : Nat
  dva : Nat
  level : Nat
  waiters : List DescId
  written : Bool
  deriving DecidableEq, Repr

/-- What the translation unit keeps of one PASID's fault area (R55, R57): the place it fills next, the pass, the 2 µs
signal window, and whether the control line is armed or polled. -/
structure FaultArea where
  base : Nat
  tail : Nat
  phase : Bool
  window : Bool
  pendingSignal : Bool
  full : Bool
  armed : Bool
  deriving DecidableEq, Repr

/-- A migration on fault in progress (R59): the leaf's place and the value read, the frame taken from MPOOL, and the access, address and
engine of the fault that began it. -/
structure Migration where
  pasid : Nat
  page : Nat
  leafAddr : Nat
  leafVal : Nat
  frame : Nat
  waiters : List DescId
  dropped : Bool
  access : Nat
  dva : Nat
  engine : Nat
  deriving DecidableEq, Repr

/-- A tier-map entry (R65). -/
structure TEntry where
  tier : Nat
  pin : Bool
  dirty : Bool
  mov : Bool
  lossy : Bool
  zero : Bool
  t1c : Bool
  cslot : Nat
  psn : Bool
  prec : Nat
  last : Nat
  loc : Nat
  deriving DecidableEq, Repr

/-- The three kinds of frame move (R73). -/
inductive MoveKind where
  | promote
  | demote
  | relocate
  deriving DecidableEq, Repr

/-- A frame move in progress (R73, R74), which holds one mover and one buffer. `under` is the placement record that stood at its
start, under which it completes (R75). `queued` is the place of a promotion in the order in which freed pool frames are taken (R73
step 1), 0 once it has its stack frame. -/
structure Move where
  kind : MoveKind
  src : Nat
  dest : Nat
  landed : Nat
  open_ : Bool
  destTier : Nat
  destSlot : Nat
  destRemote : Remote
  durable : Bool
  prec : Nat
  under : Line
  queued : Nat
  data : List Host.Cell
  pois : NSet
  deriving DecidableEq, Repr

/-- The states of a directory entry (R91); BI_WAIT is the presence of `DirEntry.bi`. -/
inductive DirState where
  | none
  | shared
  | owned
  deriving DecidableEq, Repr

/-- A request at home for one line of this Ndonte (R92). Offsets are local offsets of the line's first byte. `poison0` and `poison1` say that
a half of a device-side access's payload crosses the die network poisoned (R20). -/
inductive MemReq where
  | hostRead (ld : Nat) (off : Nat) (ask : Ask) (tag : Nat)
  | hostWrite (ld : Nat) (off : Nat) (data : Line) (mask : LineMask) (poison : Bool) (tag : Nat)
  | hostWb (ld : Nat) (off : Nat) (data : Line) (poison keepS : Bool) (tag : Nat)
  | evict (ld : Nat) (off : Nat)
  | devRead (eng : Engine) (off : Nat) (poison0 poison1 : Bool) (tag : Nat)
  | devWrite (eng : Engine) (off : Nat) (data : Line) (mask : LineMask) (poison0 poison1 : Bool) (tag : Nat)
  | desc (queue seq : Nat) (off : Nat) (write : Bool)
  | fab (id : Nat) (off : Nat) (write : Bool)
  | arm (who : Armer) (off : Nat)
  | notify (queue : Nat) (off : Nat) (data : Line) (mask : LineMask)
  deriving DecidableEq, Repr

/-- The back-invalidates outstanding on a line in BI_WAIT (R91, R92): the LDs whose answers are awaited, the request
that holds the tracker, and what started it. -/
structure BiWait where
  await : List Nat
  inv : Bool
  req : Option MemReq
  victim : Bool
  watch : Bool
  deriving DecidableEq, Repr

/-- A directory entry (R91), listed under its LINE field. `seen` holds the distinct hosts added as sharers since the
entry last entered SHARED, which decides OVF. -/
structure DirEntry where
  st : DirState
  ovf : Bool
  ptrs : List Nat
  seen : List Nat
  watch : Option Armer
  bi : Option BiWait
  deriving DecidableEq, Repr

/-- A request refused at home (R97): its counted refusals, its starvation mark's place in the marking order and its
ticket. -/
structure Refused where
  req : MemReq
  line : Nat
  refusals : Nat
  mark : Option Nat
  ticket : Option Nat
  deriving DecidableEq, Repr

/-- Why a request waits without a counted refusal. -/
inductive WaitOn where
  | subBlock (frame sub : Nat)
  | move (frame : Nat)
  | openRecord (frame : Nat)
  | frameRoom
  | root (index : Nat)
  | rebuild
  | sweep (ld : Nat)
  | power
  | cask (slot : Nat)
  | tracker
  | order
  deriving DecidableEq, Repr

/-- A request that waits on something other than a tracker or a line (R22, R75, R83, R100). -/
structure Waiting where
  req : MemReq
  on : WaitOn
  deriving DecidableEq, Repr

/-- A revocation entry of the host node (R103 to R106), with the EXTENT_REVOKE descriptor that drains it, none for a
transfer's revoke point. `freed` is the mask of its LDs that have uncommitted, `asked` the lines with OVF whose covering LDs it has asked. -/
structure Revocation where
  extent : Nat
  epoch : Nat
  lds : Nat
  first : Nat
  frames : Nat
  desc : Option DescId
  draining : Bool
  freed : Nat
  accepted : List MemReq
  asked : NSet
  deriving DecidableEq, Repr

/-- The states of a queue (R131). -/
inductive QState where
  | disabled
  | active
  | error
  | draining
  deriving DecidableEq, Repr

/-- A descriptor the front end has read (R140): its bytes and whether either code word was poisoned. -/
structure Staged where
  seq : Nat
  bytes : Line
  pois0 : Bool
  pois1 : Bool
  deriving DecidableEq, Repr

/-- A translation under which an access of a descriptor has been issued and waits (R50, R52): the timetable entry whose access it is, plus
one, or 0; the page, the access as xlate takes it, and the 64 KiB page of the FA. `old` says that an invalidation has since withdrawn it. -/
structure Issued where
  ent : Nat
  page : Nat
  access : Nat
  fa : Nat
  old : Bool
  deriving DecidableEq, Repr

/-- Where a started descriptor stands. -/
inductive RunPhase where
  | running
  | faulted
  | finished
  deriving DecidableEq, Repr

/-- One remote line or byte run that a descriptor has read from a peer. -/
structure RemoteLine where
  line : Nat
  data : Line
  poison : Bool
  status : Nat
  deriving DecidableEq, Repr

/-- A partial result that a peer has returned for its part of a descriptor (R279): the node with its GRANT bit, the
status, DETAIL, the two results and the records. -/
structure PartIn where
  key : Nat
  status : Nat
  detail : Nat
  res0 : Nat
  res1 : Nat
  recs : List Byte
  deriving DecidableEq, Repr

/-- A started descriptor (R143): its bytes, the composition of its PASID, its status, DETAIL and results so far, what
it has read from peers, and the acknowledged writes it waits on. -/
structure Started where
  seq : Nat
  bytes : Line
  pois0 : Bool
  pois1 : Bool
  comp : Nat
  phase : RunPhase
  status : Nat
  detail : Nat
  res0 : Nat
  res1 : Nat
  remote : List RemoteLine
  sent : List Nat
  failures : Nat
  step : Nat
  note : List Nat
  parts : List PartIn
  bay : Nat
  issued : List Issued
  deriving DecidableEq, Repr

/-- A QUEUE_DELETE in progress (R148): the mode, the tail taken at the disarm point, and the descriptors ABORTED. -/
structure Deleting where
  abort : Bool
  tail : Nat
  aborted : Nat
  admin : Option DescId
  deriving DecidableEq, Repr

/-- A queue (R128, R130, R131): the copy of its context entry, its ring positions, PHASE and COUNT, the signal state of
R146, the descriptors read ahead and the descriptors started. -/
structure Queue where
  fn : Nat
  lq : Nat
  ctx : Line
  st : QState
  sqHead : Nat
  sqTail : Nat
  cqHead : Nat
  cqNext : Nat
  phase : Bool
  count : Nat
  unsignalled : Nat
  coalWait : Bool
  nextSeq : Nat
  staged : List Staged
  running : List Started
  del : Option Deleting
  deriving DecidableEq, Repr

/-- Where the dispatcher's arbitration stands (R144): the admin queue served last, the other queue whose turn it is with the starts left to
it, and the queues whose next descriptor waits in its start. -/
structure Arb where
  admin : Nat
  queue : Nat
  left : Nat
  stuck : List Nat
  deriving DecidableEq, Repr

/-- The states of a Meunol port (R270). -/
inductive PortState where
  | absent
  | disabled
  | fenced
  | training
  | up
  | doze
  deriving DecidableEq, Repr

/-- A message queued on a port (R274, R282, R289): the input that it came on, 16 for this node itself, the VC of the receive buffer that it
holds there, the tick at which it was queued, and the message as it goes out. -/
structure Queued where
  inp : Nat
  vc : Nat
  since : Nat
  msg : FabMsg
  deriving DecidableEq, Repr

/-- A Meunol port (R268 to R274): state, module, failed attempts and retries in a row, the wavelengths in use, neighbour,
link sequence numbers, retry buffer, credits in hand (VC 0 to 5, then the shared pool) and credits owed, the message bytes
received and not yet whole, each with the poison of its code word, and the messages to be sent. `nakDue` is a NAK that waits for room in
the retry buffer, `waking` a training that began in DOZE. -/
structure PortSt where
  st : PortState
  module : Bool
  fails : Nat
  retries : Nat
  lambda : Nat
  nbr : Option Neighbour
  txSeq : Nat
  rxGood : Nat
  nakSent : Bool
  nakDue : Bool
  waking : Bool
  retry : List Flit
  credits : List Nat
  owed : List Nat
  rx : List (Byte × Bool)
  txq : List Queued
  deriving DecidableEq, Repr

/-- A flow at its source (R280): the next ORD, the write-class messages not yet acknowledged, and whether the next
message starts it with FIRST. -/
structure FlowOut where
  sidx : Nat
  dst : Nat
  next : Nat
  fresh : Bool
  unacked : List FabMsg
  deriving DecidableEq, Repr

/-- A flow at its destination (R280, R281): the expected ORD, the messages applied since the last WRDONE, the stored
OLD of the last ATOM with its ORD and its poison, and the marks of the timers. -/
structure FlowIn where
  src : Nat
  sidx : Nat
  expect : Nat
  sinceDone : Nat
  lastAtom : Option (Nat × Nat × Bool)
  aheadSent : Bool
  timer : Bool
  deriving DecidableEq, Repr

/-- Who waits for the answer to a request this node sent over Meunol. -/
inductive ReqFor where
  | desc (d : DescId) (line : Nat)
  | promote (frame : Nat)
  | subdesc (d : DescId)
  | echo (node : Nat)
  | parity (tracker : Nat)
  | lease (extent : Nat)
  | notify (queue : Nat)
  | rebuild (frame : Nat)
  | demote (frame : Nat)
  | xfer (extent : Nat)
  | rowMove (d : DescId) (handle row : Nat)
  deriving DecidableEq, Repr

/-- A request this node sent over Meunol and not yet answered (R282), with the parts of a bulk read that have come: offset,
bytes and poison. -/
structure FabOut where
  msg : FabMsg
  owner : ReqFor
  got : List (Nat × List Byte × Bool)
  deriving DecidableEq, Repr

/-- A request that landed here and is not yet answered (R282, R283). `early` names the extents whose revoke point it was
accepted before. -/
structure FabIn where
  id : Nat
  msg : FabMsg
  applied : Bool
  early : List Nat
  deriving DecidableEq, Repr

/-- One of the 256 sub-descriptor contexts (R279): the fragments of one SUBDESC. -/
structure SubCtx where
  src : Nat
  sidx : Nat
  tag : Nat
  head : List Byte
  payload : List Byte
  frags : Nat
  complete : Bool
  deriving DecidableEq, Repr

/-- An erasure-engine tracker (R290, R312): a protected write whose parity acknowledgements are outstanding, with its group and the roles,
0 for P and 1 for Q, whose holders have not answered. -/
structure ParityWait where
  id : Nat
  line : Nat
  frame : Nat
  group : Nat
  await : List Nat
  durable : Bool
  forReq : Option MemReq
  deriving DecidableEq, Repr

/-- A partition bring-up in progress (R293): the nodes still echoed, their ECHO tags and round trips. -/
structure Bringup where
  nodes : List Nat
  rtts : List (Nat × Nat)
  sentAt : List (Nat × Nat × Nat)
  deriving DecidableEq, Repr

/-- The states of an extent (R299). -/
inductive ExtState where
  | active
  | lapsed
  | source
  | dest
  | doubt
  | moved
  | revoked
  deriving DecidableEq, Repr

/-- An entry of the extent table (R299); FREE entries are not listed. -/
structure Extent where
  slot : Nat
  id : Nat
  epoch : Nat
  first : Nat
  frames : Nat
  comp : Nat
  st : ExtState
  leased : Bool
  peer : Option Nat
  deriving DecidableEq, Repr

/-- The lease client's state of one extent (R303, R304, R308): whether a lease is held, whether an answer of the ledger is
awaited, and whether a transfer has stalled in DEST. -/
structure Lease where
  extent : Nat
  held : Bool
  waiting : Bool
  stalled : Bool
  deriving DecidableEq, Repr

/-- A transfer of which this node is the source (R306): the destination and its first frame, the frames set in the copy
bitmap, by number in the extent, the frames copied and the passes run, the stack frames of the bitmap, whether the revoke
point is past and its drain has ended, and the status of a copy that failed. -/
structure Xfer where
  extent : Nat
  epoch : Nat
  dst : Nat
  dfirst : Nat
  todo : NSet
  copied : Nat
  passes : Nat
  locs : List Nat
  drained : Bool
  failed : Nat
  deriving DecidableEq, Repr

/-- A grant of peer capacity (R314) as EXT_GRANT_DATA holds it, with the frames of it in use. -/
structure Grant where
  word0 : Nat
  word1 : Nat
  used : NSet
  deriving DecidableEq, Repr

/-- One cask slot (R321, R329 to R333, R338): the module in it, the branch switch, the stage of insertion, FOREIGN and
its REASON, the command in progress and the status bits. -/
structure SlotSt where
  cask : Option Cask
  detect : Bool
  rail : Bool
  checked : Bool
  serving : Bool
  loading : Bool
  foreign : Bool
  reason : Nat
  wrongSlot : Bool
  safe : Bool
  cmdErr : Bool
  busy : Nat
  life : Bool
  retrain : Bool
  deriving DecidableEq, Repr

/-- The error account of one location (R344 to R346): corrected symbols, uncorrectable words and check failures, the
score in units of 2^-16, and whether WARN has acted. -/
structure LocScore where
  ce : Nat
  ue : Nat
  score : Nat
  warned : Bool
  deriving DecidableEq, Repr

/-- A record of the calibration set (R352). -/
structure CalRec where
  type : Nat
  unit : Nat
  stamp : Nat
  body : List Byte
  bad : Bool
  deriving DecidableEq, Repr

/-- The voltage loop (R26, R27, R347 to R349): the set-point in mV, the green samples in a row, the lowering hold, the
samples each monitor has been red at 0.88 V, the trims, and the cap window. -/
structure VLoop where
  set : Nat
  greenRun : Nat
  hold : Bool
  redRun : SMap Nat
  trim : SMap Nat
  capMissed : Bool
  capStop : Bool
  running : Bool
  deriving DecidableEq, Repr

/-- A firmware slot (R372): the header's fields, the digest of the body as programmed, and whether the image passed the
checks of R373. -/
structure FwSlot where
  valid : Bool
  version : Nat
  svn : Nat
  len : Nat
  ucompat : Nat
  svnCommit : Bool
  bodyHash : Nat
  microcode : Nat
  deriving DecidableEq, Repr

/-- An SPDM session (R370): its transport (0 to 15: the DOE mailbox of that LD, 16: MCTP), its number, whether it
authenticated the requester, the digest of the requester's leaf certificate and the shared secret. -/
structure Session where
  transport : Nat
  id : Nat
  mutualAuth : Bool
  leaf : Nat
  secret : Nat
  deriving DecidableEq, Repr

/-- The fixed firmware and identity state (R369 to R375). -/
structure FwState where
  slotA : FwSlot
  slotB : FwSlot
  activeB : Bool
  runningB : Bool
  restarting : Bool
  target : Bool
  reason : Nat
  heldMicrocode : Bool
  rollout : List Nat
  microcode : SMap Nat
  sessions : List Session
  naUth : Nat
  deriving DecidableEq, Repr

/-- The power sequencer (R356 to R366): PWRGD, READY, the boot state, the entry step of STOP reached, the ports sent to
DOZE by the entry, and the register snapshot of R360. `clock` says that the island has found its 32.768 kHz clock (R407). -/
structure PowerSt where
  pwrgd : Bool
  clock : Bool
  ready : Bool
  stuck : Bool
  st : PwrState
  step : Nat
  linkL1 : Bool
  linkUp : Bool
  dozed : NSet
  removed : NSet
  snapshot : SMap Nat
  waking : Nat
  wakeStep : Nat
  aonLost : Bool
  norTicks : Nat
  norPcc : Nat
  deriving DecidableEq, Repr

/-- What a trip record names (R407, R412): the sensor and its temperature, or that no 32.768 kHz clock was found. -/
inductive Trip where
  | thermal (sensor temp : Nat)
  | noClock
  deriving DecidableEq, Repr

/-- The pins the management core and the island drive (R401 to R413). -/
structure Pins where
  lmodEn : NSet
  lmodKa : NSet
  talert : Bool
  thermtrip : Bool
  corePower : Bool
  tripRecord : Option Trip
  deriving DecidableEq, Repr

/-- What Ndonte sends outside itself, newest first: answers to hosts, back-invalidates, MSI-X messages, Meunol flits,
host-memory DMA, register and SPDM answers, and the sideband. This list is the model's own record of its outputs. -/
inductive Out where
  | hostData (ld tag : Nat) (cmp load : Nat) (data : Line) (poison : Bool)
  | hostCmp (ld tag load : Nat)
  | hostUnsupported (ld tag : Nat)
  | commitResult (ld n : Nat) (ok : Bool)
  | bisnp (ld off : Nat) (inv : Bool)
  | biConflictAck (ld off : Nat)
  | devData (tag : Nat) (data : Line) (poison0 poison1 : Bool)
  | devDone (tag status : Nat)
  | msix (fn vector addr data : Nat)
  | flit (port : Nat) (f : Flit)
  | initCredits (port : Nat) (credits : List Nat)
  | wakePattern (port : Nat)
  | dmaRead (fn addr len : Nat)
  | dmaWrite (fn addr : Nat) (data : List Byte)
  | regStatus (path off result : Nat)
  | mgmt (port : Nat) (m : FabMsg)
  | spdm (transport code : Nat) (data : List Byte)
  | caskSideband (slot item val : Nat)
  deriving DecidableEq, Repr

/-- A timetable being run (R260 to R265): its descriptor, its entries as numbers, the state of each (0 waiting, 1
running, 2 completed, 3 failed, 4 running with its writes issued), the waits that are met, the entries stalled on a fault
with the page and kind, the messages of each entry's writes, and the statuses of failed entries. -/
structure Timetable where
  desc : DescId
  entries : List Nat
  states : List Nat
  met : NSet
  stalled : List (Nat × Nat × Nat)
  acks : List (Nat × List Nat)
  sts : List Nat
  deriving DecidableEq, Repr

/-- One candidate of a search (R242, R244): the FP32 word that orders it, the FP32 word of its distance, its IDW and
the list that held it. -/
structure Cand where
  key : Nat
  dist : Nat
  idw : Nat
  list : Nat
  deriving DecidableEq, Repr

/-- One part of a round (R241): the list, its first slot and slots, and whether its heap has been posted. -/
structure SearchPart where
  list : Nat
  slot : Nat
  n : Nat
  ended : Bool
  deriving DecidableEq, Repr

/-- A search in progress (R232, R238 to R245): the copy of its index record, its operand block and query, the probe list,
the lists probed so far, the stale edges skipped, the parts of the round, the candidates that have reached the merge in
order of arrival, the entries read, and the statuses that parts have reported. -/
structure Search where
  desc : DescId
  index : Nat
  ops : Nat
  query : List Byte
  probe : List Nat
  probed : Nat
  stale : Nat
  parts : List SearchPart
  heap : List Cand
  read : Nat
  sts : List Nat
  deriving DecidableEq, Repr

/-- A row of the embedding row cache (R222): the handle and row, the set and slot it lies in, its frequency count and its bytes. One
without bytes is a candidate tag; resident rows and candidates have 16 slots each in a set. -/
structure RowLine where
  handle : Nat
  row : Nat
  off : Nat
  set : Nat
  slot : Nat
  freq : Nat
  data : List Byte
  deriving DecidableEq, Repr

/-- A held row lock (R226): the first byte of the row and the descriptor that holds it. -/
structure RowLock where
  fa : Nat
  desc : DescId
  deriving DecidableEq, Repr

/-- A row being moved (R228): the MOVE that moves it, its handle, row, old and new place, the stage it has reached (1 frozen, 2 its copy
made and sent, 3 switched to its new place), and the descriptors whose sums wait for it. -/
structure RowMove where
  desc : DescId
  handle : Nat
  row : Nat
  src : Nat
  dst : Nat
  stage : Nat
  waiters : List DescId
  deriving DecidableEq, Repr

/-- The usage meters (R395, R396): the cumulative meters, listed under composition × 4 + meter, and their values at the start of
the present window; the window's number, its length in seconds, and SEC and PCC at its first tick; the next ring slot; the
window records still to be written, with their numbers; and the meters as STOP captured them. -/
structure Meters where
  total : SMap Nat
  atWindow : SMap Nat
  window : Nat
  length : Nat
  startSec : Nat
  startPcc : Nat
  slot : Nat
  due : List (Nat × List Byte)
  atStop : SMap Nat
  deriving DecidableEq, Repr

/-- The block as it stands, without its locks and its queue of commands. -/
structure Dev where
  /-- The ordering code (R1). -/
  part : Part
  /-- The stored fields of every register, listed under its key (see Machine/Regs.lean) where they differ from the
  reset value. -/
  regs : SMap Nat
  /-- Each path's own copies of the selector registers (R417). -/
  sels : SMap Nat
  /-- Each path's half-register latches (R416). -/
  latches : SMap Latch
  /-- The MSI-X tables of the host functions, listed under function × 2,048 + vector (R418). -/
  msix : SMap MsixEntry
  /-- The MSI-X pending bits (R418), numbered like the table. -/
  pba : NSet
  /-- The bytes of the frames in T0, by local offset (R33). -/
  mem : List Host.Cell
  /-- The poisoned code words of T0 (R99), by local offset divided by 32. -/
  pois : NSet
  /-- The tier-map roots (R64): the leaf slot of each populated root. -/
  roots : SMap Nat
  /-- Roots whose population or release is in progress (R424). -/
  rootBusy : NSet
  /-- Whether TIER_MAP_CFG.EN has been written to 1 since the last cold or device reset (R86). -/
  mapLaid : Bool
  /-- The tier-map entries (R65), by frame number. -/
  tmap : SMap TEntry
  /-- The remote-placement table (R65). -/
  remotes : SMap Remote
  /-- The placement table (R67), by record index; record 0 is fixed. -/
  precs : SMap Line
  /-- Frame moves in progress (R73), by frame number. -/
  moves : SMap Move
  /-- Promoted frames whose OPEN record is not yet durable (R83), with the slot it goes to. -/
  openPend : SMap Nat
  /-- Frames promoted on demand and the age window of it (R72). -/
  demand : SMap Nat
  /-- The number of the current age window, modulo 256 (R71), and the windows passed. -/
  ageWindow : Nat
  /-- The age-window length in force, in milliseconds (R71). -/
  ageMs : Nat
  /-- The rotating start of the victim choice (R72). -/
  victimStart : Nat
  /-- TIER_STATUS.FULL (R72). -/
  tierFull : Bool
  /-- Where a copy of a leaf lies that is not where R64 places it (R82): under 2 × slot + copy, its stack + 1, or 0 for a
  copy that is lost. -/
  leafAt : SMap Nat
  /-- Leaf slots lost and being rebuilt (R82). -/
  lostLeaves : NSet
  /-- Lost leaves whose entries have been written again, and whose rebuilds run (R82). -/
  leafWritten : NSet
  /-- PSN frames of lost leaves whose rebuild waits for a mover or a pool frame (R82 step 6). -/
  wantRebuild : NSet
  /-- Roots populated while the map was off, whose leaves are still to be built (R424). -/
  rootNew : NSet
  /-- Whether demotions run until HIGH is reached (R72). -/
  evicting : Bool
  /-- Frames asked to be promoted or demoted, which wait for a mover or a pool frame (R69). -/
  wantPromo : NSet
  wantDemote : NSet
  /-- The runs that wait on a frame's promotion, by frame (R75). -/
  promoWait : List (Nat × MemReq)
  /-- Pin quotas by composition (R70). -/
  quota : SMap Nat
  /-- Record-sequence counter (R77). -/
  seqCtr : Nat
  /-- The committed HDM decoders, listed under LD × 8 + n (R35). -/
  hdm : SMap Hdm
  /-- The active LDs (R87). -/
  activeLds : NSet
  /-- The enabled host functions (R68). -/
  enabledFns : NSet
  /-- The coherence directory, by physical line (R90, R91). -/
  dir : SMap DirEntry
  /-- The per-set rotating starts (R94). -/
  dirRot : SMap Nat
  /-- The sets held in the directory cache (R90). -/
  dirCache : NSet
  /-- Refused requests (R97), oldest first. -/
  refused : List Refused
  /-- The next place in the marking order and the next ticket (R97). -/
  markCtr : Nat
  /-- Requests waiting on something other than a line (R22, R75, R83, R100). -/
  waiting : List Waiting
  /-- LDs treated as unresponsive (R98, R100). -/
  unresp : NSet
  /-- LDs of the sweep in progress (R100). -/
  sweep : Option NSet
  /-- Late snoop answers are known by these: LD and line of BISnps that timed out (R99). -/
  timedOut : List (Nat × Nat)
  /-- Revocation entries (R103, R106). -/
  revs : List Revocation
  /-- Watched lines on which an event has been raised and not yet delivered (R95). -/
  raised : List Armer
  /-- Watched lines with a grant of OWNED whose watch BISnpData is due (R95). -/
  snoopDue : NSet
  /-- Further blocks that watch a line another block watches already, by physical line (R95). -/
  coWatch : List (Nat × Armer)
  /-- Lines that an arming block reads every 2 µs for want of arming (R55, R263). -/
  polledLines : List Armer
  /-- Cached leaf translations and table pointers (R46). -/
  tlb : List TlbLeaf
  tptr : List TlbPtr
  /-- The leaf translations that the section copies hold, by section (R46). -/
  tlbSec : List (Nat × TlbLeaf)
  /-- The dispatcher's arbitration among queues (R144). -/
  arb : Arb
  /-- Where the round robin over each section's bays stands (R21). -/
  bayTurn : SMap Nat
  /-- Host pages to be given back to the T3 rings, with BASE and log2 of the ring, oldest first (R58). -/
  ringOwed : List (Nat × Nat × Nat)
  /-- Invalidations in progress (R50). -/
  invs : List Invalidation
  /-- Outstanding faults (R54) in order of arrival. -/
  faults : List FaultEntry
  /-- The fault areas by PASID (R55). -/
  areas : SMap FaultArea
  /-- Migrations on fault in progress (R59). -/
  migrations : List Migration
  /-- The next FAULT_ID. -/
  faultCtr : Nat
  /-- The queues by global queue ID (R128). -/
  queues : SMap Queue
  /-- The Meunol ports (R268). -/
  ports : SMap PortSt
  /-- Messages received and not yet taken up, with their port. -/
  inbox : List (Nat × FabMsg)
  /-- Flows at their source and at their destination (R280). -/
  flowsOut : List FlowOut
  flowsIn : List FlowIn
  /-- Requests sent over Meunol and not yet answered (R282). -/
  fabOut : List FabOut
  /-- Requests that landed here and are not yet answered (R282). -/
  fabIn : List FabIn
  /-- Sub-descriptor contexts (R279). -/
  subs : List SubCtx
  /-- Erasure-engine trackers (R312). -/
  parity : List ParityWait
  /-- The partition bring-up in progress (R293). -/
  bringup : Option Bringup
  /-- The partition's span (R293). -/
  span : Nat
  /-- The next message TAG. -/
  tagCtr : Nat
  /-- The extents (R299) while EXT_TAB_BASE.EN is set. -/
  extents : List Extent
  /-- The requests that home held as an extent's lease lapsed, by extent (R304). -/
  lapseOk : List (Nat × MemReq)
  /-- Where the line of a request that had to wait was found, as its sample says it (R386). -/
  found : List (MemReq × Nat)
  /-- The second of reference ticks in which samples were last taken, and how many (R387). -/
  smpWin : Nat × Nat
  /-- The lease client's leases (R303). -/
  leases : List Lease
  /-- Composition membership, listed under composition × 64 + word (R300). -/
  membs : SMap Nat
  /-- The erasure-group words as written, listed under slot × 20 + word (R310). -/
  egWords : SMap Nat
  /-- The erasure-group records in force, by slot (R310). -/
  egs : SMap (List Nat)
  /-- The grants (R314). -/
  grants : SMap Grant
  /-- Transfers in which this node is the source (R306). -/
  xfers : List Xfer
  /-- The cask slots (R321). -/
  slots : SMap SlotSt
  /-- Serials on the deny list (R327). -/
  deny : NSet
  /-- CSK_IMP_STS (R338). -/
  impDone : Nat
  impSkip : Nat
  /-- Error accounts by location (R344). -/
  scores : SMap LocScore
  /-- Fenced bays, scanners and ports (R346), retired and retiring channels, retired dies. -/
  fencedBays : NSet
  fencedScan : NSet
  fencedPorts : NSet
  retiredCh : NSet
  retiring : NSet
  retiredDies : NSet
  /-- The calibration set as held in the NOR (R352), the values in force that wait for the hour, and the units whose
  recalibration is scheduled. -/
  calNor : List CalRec
  calPending : List CalRec
  calSched : List Nat
  /-- The voltage loop (R26, R349). -/
  vloop : VLoop
  /-- Power sequencing (R356 to R366). -/
  power : PowerSt
  /-- The pins (R409, R412). -/
  pins : Pins
  /-- Firmware and identity (R369 to R375). -/
  fw : FwState
  /-- The reference-tick counter (R10, R382). -/
  ticks : Nat
  /-- The operating-seconds counter, in cycles of 32.768 kHz (R365). -/
  opTicks : Nat
  /-- The power-cycle counter (R365). -/
  pcc : Nat
  /-- The event recorder (R388). -/
  recorder : Recorder
  /-- The usage meters (R395). -/
  meters : Meters
  /-- The sampling positions by set (R386): accesses seen in the present run. -/
  sampleRun : SMap Nat
  /-- The bays' working mode (R155): true in thread mode, and whether a switch is in progress. -/
  threadMode : Bool
  modeBusy : Bool
  /-- The personality in effect (R29, R251). -/
  training : Bool
  /-- The embedding row cache (R222). -/
  rowCache : List RowLine
  /-- Row locks held (R226) and rows being moved (R228). -/
  rowLocks : List RowLock
  rowMoves : List RowMove
  /-- The switches and moves of tables in the order they started, each with its handle (R210), and the number of the next round of
  combining (R217). -/
  switchQ : List (Nat × DescId)
  embRound : Nat
  /-- Timetables being run (R260). -/
  timetables : List Timetable
  /-- Searches in progress (R240). -/
  searches : List Search
  /-- Register accesses that wait (R378, R428), oldest first. -/
  held : List Instr
  /-- The model's own: the number of free values used so far. -/
  free : Nat
  /-- The model's own: what has been sent outside, newest first. -/
  out : List Out
  deriving DecidableEq, Repr

/-- The state of Ndonte: the block, the locks of R426 and the SVN fuses of R373, which only the steps named by R377
and R374 change, and the queue of waiting commands, first in, first out. -/
structure State where
  /-- The block. -/
  dev : Dev
  /-- The bits of SEC_LOCK (R381). -/
  lock : Nat
  /-- The SVN fuses burned (R373). -/
  fuses : Nat
  /-- The commands that are waiting. -/
  pending : List Instr
  deriving DecidableEq, Repr

/-- The faults of the machine. The manual has no condition that stops the block, so no meaning raises one: a host
error answer, poison, a status code, an error flag or an event is each a next state. -/
inductive Fault where
  /-- Raised by no meaning. Safe: it would only stop a run. -/
  | halted
  deriving DecidableEq, Repr

/-- The refusals of the machine. -/
inductive Refusal where
  /-- Raised by an arm of exec whose command has no meaning yet. Safe: it stops the run by name. -/
  | notModelled (mnemonic : String)
  deriving DecidableEq, Repr

/-- An empty cask slot (R329 code 0). -/
def SlotSt.empty : SlotSt :=
  ⟨none, false, false, false, false, false, false, 0, false, false, false, 0, false, false⟩

/-- A port after reset with no laser module (R270 code 0). -/
def PortSt.empty : PortSt :=
  ⟨.absent, false, 0, 0, 0, none, 0, 0, false, false, false, [], [], [], [], []⟩

/-- A firmware slot as the factory programs it. -/
def FwSlot.factory : FwSlot := ⟨true, 0, 0, 1, 0, false, 0, 0⟩

/-- A firmware slot that holds no image. -/
def FwSlot.blank : FwSlot := ⟨false, 0, 0, 0, 0, false, 0, 0⟩

/-- The block right after reset (R365, R427): registers at their reset values, no tier map, no queue, no cask, no laser
module, the island's counters at zero and the NOR as the factory leaves it. -/
def Dev.reset : Dev where
  part := .v8n
  regs := []
  sels := []
  latches := []
  msix := []
  pba := []
  mem := []
  pois := []
  roots := []
  rootBusy := []
  mapLaid := false
  tmap := []
  remotes := []
  precs := []
  moves := []
  openPend := []
  demand := []
  ageWindow := 0
  ageMs := 50
  victimStart := 0
  tierFull := false
  leafAt := []
  lostLeaves := []
  leafWritten := []
  wantRebuild := []
  rootNew := []
  evicting := false
  wantPromo := []
  wantDemote := []
  promoWait := []
  quota := []
  seqCtr := 1
  hdm := []
  activeLds := List.range 16
  enabledFns := List.range 1024
  dir := []
  dirRot := []
  dirCache := []
  refused := []
  markCtr := 0
  waiting := []
  unresp := []
  sweep := none
  timedOut := []
  revs := []
  raised := []
  snoopDue := []
  coWatch := []
  polledLines := []
  tlb := []
  tptr := []
  tlbSec := []
  arb := ⟨0, 0, 0, []⟩
  bayTurn := []
  ringOwed := []
  invs := []
  faults := []
  areas := []
  migrations := []
  faultCtr := 1
  queues := []
  ports := []
  inbox := []
  flowsOut := []
  flowsIn := []
  fabOut := []
  fabIn := []
  subs := []
  parity := []
  bringup := none
  span := 1
  tagCtr := 0
  extents := []
  lapseOk := []
  found := []
  smpWin := (0, 0)
  leases := []
  membs := []
  egWords := []
  egs := []
  grants := []
  xfers := []
  slots := []
  deny := []
  impDone := 0
  impSkip := 0
  scores := []
  fencedBays := []
  fencedScan := []
  fencedPorts := []
  retiredCh := []
  retiring := []
  retiredDies := []
  calNor := []
  calPending := []
  calSched := []
  vloop := ⟨800, 0, false, [], [], false, false, false⟩
  power := ⟨true, true, false, false, .run, 0, false, false, [], [], [], 0, 0, false, 0, 0⟩
  pins := ⟨[], [], false, false, true, none⟩
  fw := ⟨.factory, .blank, false, false, false, false, 0, false, [], [], [], 0⟩
  ticks := 0
  opTicks := 0
  pcc := 0
  recorder := ⟨[], [], 0, false, [], []⟩
  meters := ⟨[], [], 0, 60, 0, 0, 0, [], []⟩
  sampleRun := []
  threadMode := false
  modeBusy := false
  training := false
  rowCache := []
  rowLocks := []
  rowMoves := []
  switchQ := []
  embRound := 0
  timetables := []
  searches := []
  held := []
  free := 0
  out := []

/-- The machine right after reset, with no command waiting. -/
def State.reset : State := ⟨Dev.reset, 0, 0, []⟩

end Sys2Proof.Machine
end

