-- ==== Sys2Proof/Machine/Regs.lean ====
section
/-! DEFINITION. The register file (R415 to R428): every register with its offset, width, field masks, lock and reset
value, and the stored value of each. Fields that a rule computes from other state are added by Machine/RegRead.lean. -/

namespace Sys2Proof.Machine

open Sys2Proof

/-- A mask of the bits `[hi:lo]`. -/
def msk (hi lo : Nat) : Nat := 2 ^ (hi + 1) - 2 ^ lo

/-- One register of the management space (R421): offset, width in bits, the masks of its RW, RW1C and RWL fields (R16),
the SEC_LOCK bit of its RWL fields (R426), and its reset value. Bits in no mask are RO, WO or reserved. -/
structure RegRow where
  off : Nat
  width : Nat
  rw : Nat
  w1c : Nat
  rwl : Nat
  lock : Nat
  reset : Nat
  deriving DecidableEq, Repr

/-- ID_, SEC_, PWR_ and MGT_ (R421, R423, R381, R368, R355, R425, R413). -/
def regRowsA : List RegRow := [
  ⟨0x0000, 32, 0, 0, 0, 0, 0⟩,                                   -- ID_PART
  ⟨0x0004, 32, 0, 0, 0, 0, 0x00004201⟩,                          -- ID_REV
  ⟨0x0008, 32, 0, 0, 0, 0, 0⟩,                                   -- ID_CAP
  ⟨0x1000, 32, 0, 0, 0, 0, 0⟩,                                   -- SEC_LOCK: held in State.lock
  ⟨0x1004, 32, 0, 0, 1, 10, 0⟩,                                  -- SEC_CFG
  ⟨0x1008, 32, 0, 0, 0, 0, 0⟩,                                   -- SEC_BOOT
  ⟨0x100C, 32, 0, 0, 0, 0, 0⟩,                                   -- SEC_STS
  ⟨0x1010, 64, msk 47 16, 0, 0, 0, 0⟩,                           -- SEC_FW_BUF
  ⟨0x1018, 32, msk 3 0, 0, 0, 0, 0⟩,                             -- SEC_FW_CMD
  ⟨0x101C, 32, 0, msk 8 8, 0, 0, 0⟩,                             -- SEC_FW_STS
  ⟨0x2000, 32, msk 1 1, 0, 0, 0, 2⟩,                             -- PWR_CTRL
  ⟨0x2004, 32, 0, msk 3 3, 0, 0, 0⟩,                             -- PWR_STATUS
  ⟨0x2008, 32, msk 15 0, 0, 0, 0, 0⟩,                            -- PWR_CAP
  ⟨0x200C, 32, 0, 0, 0, 9, 1⟩,                                   -- PWR_MODE
  ⟨0x2010, 64, 0, 0, 0, 0, 0⟩,                                   -- PWR_REFUSE
  ⟨0x2018, 64, 0, 0, 0, 0, 0⟩,                                   -- PWR_WAKESRC
  ⟨0x2020, 32, 0, 0, msk 25 16, 8, 0x026C0000⟩,                  -- PWR_VCORE
  ⟨0x2024, 32, 0, 0, 0, 0, 0⟩,                                   -- PWR_TEMP
  ⟨0x2028, 32, 0, 0, 0, 0, 0⟩,                                   -- PWR_PKG_MW
  ⟨0x3000, 32, 0, 0, 0, 0, 0⟩,                                   -- MGT_RESET
  ⟨0x3008, 64, 0, 0, 0, 0, 0⟩,                                   -- MGT_AON
  ⟨0x3010, 32, msk 11 0, 0, 0, 0, 0⟩,                            -- MGT_ERR_SEL
  ⟨0x3018, 64, 0, 0, 0, 0, 0⟩,                                   -- MGT_ERR_DATA
  ⟨0x3020, 32, msk 2 0, 0, 0, 0, 0⟩,                             -- MGT_THR_SEL
  ⟨0x3028, 64, 0, 0, msk 63 3, 8, 0⟩,                            -- MGT_THR_DATA
  ⟨0x3030, 32, 0, 0, 0, 0, 0⟩,                                   -- MGT_UNFENCE
  ⟨0x3038, 64, 0, 0, 0, 0, 0⟩,                                   -- MGT_FENCED
  ⟨0x3040, 64, 0, 0, 0, 0, 0⟩,                                   -- MGT_CHRET0
  ⟨0x3048, 64, 0, 0, 0, 0, 0⟩,                                   -- MGT_CHRET1
  ⟨0x3050, 64, 0, 0, 0, 0, 0⟩,                                   -- MGT_CHRET2
  ⟨0x3058, 64, 0, 0, 0, 0, 0⟩]                                   -- MGT_CHRET3

/-- CAL_, REC_, TRN_, TIER_ and DIR_ (R355, R397, R62, R86, R424, R108). -/
def regRowsB : List RegRow := [
  ⟨0x4000, 32, msk 30 28 + msk 11 0, 0, 0, 0, 0⟩,                -- CAL_CMD
  ⟨0x4004, 32, msk 23 0, msk 30 30, 0, 0, 0⟩,                    -- CAL_STS
  ⟨0x4008, 64, msk 47 16, 0, 0, 0, 0⟩,                           -- CAL_BUF
  ⟨0x4010, 32, 0, 0, msk 3 0, 8, 3⟩,                             -- CAL_GUARD
  ⟨0x5000, 32, msk 11 0, 0, 0, 0, 0x3C⟩,                         -- REC_WIN
  ⟨0x5004, 32, msk 1 0, 0, 0, 0, 0⟩,                             -- REC_CMD
  ⟨0x5008, 64, msk 63 0, 0, 0, 0, 0⟩,                            -- REC_RANGE
  ⟨0x5010, 64, msk 47 16, 0, 0, 0, 0⟩,                           -- REC_BUF
  ⟨0x5018, 64, 0, msk 2 2, 0, 0, 0⟩,                             -- REC_STS
  ⟨0x5020, 64, msk 47 16 + msk 3 0, 0, 0, 0, 4⟩,                 -- REC_MTR_BASE
  ⟨0x5028, 64, 0, 0, 0, 0, 0⟩,                                   -- REC_MTR_STS
  ⟨0x5030, 32, msk 11 0, 0, 0, 0, 0⟩,                            -- REC_MTR_SEL
  ⟨0x5038, 64, 0, 0, 0, 0, 0⟩,                                   -- REC_MTR_DATA
  ⟨0x6000, 64, 0, 0, msk 47 12 + 1, 0, 0⟩,                       -- TRN_PASID_DIR
  ⟨0x6008, 32, msk 13 0, 0, 0, 0, 0x64⟩,                         -- TRN_FAULT_TMO
  ⟨0x7000, 32, 0, 0, msk 17 0, 1, 0⟩,                            -- TIER_MAP_CFG
  ⟨0x7004, 32, msk 15 0, 0, 0, 0, 0x32⟩,                         -- TIER_AGE
  ⟨0x7008, 32, msk 31 0, 0, 0, 0, 0x00280014⟩,                   -- TIER_WATER
  ⟨0x700C, 32, msk 9 0, 0, 0, 0, 0⟩,                             -- TIER_PINQ_SEL
  ⟨0x7010, 64, 0, 0, 0, 0, 0⟩,                                   -- TIER_PINQ_VAL
  ⟨0x7018, 64, 0, 0, 0, 0, 0⟩,                                   -- TIER_POOL
  ⟨0x7020, 32, 0, msk 3 3, 0, 0, 0⟩,                             -- TIER_STATUS
  ⟨0x7024, 32, msk 15 0, 0, 0, 0, 0⟩,                            -- TIER_ROOT_SEL
  ⟨0x7028, 64, 0, msk 62 62, 0, 0, 0⟩,                           -- TIER_ROOT_DATA
  ⟨0x8000, 32, msk 16 0, 0, 0, 0, 0x3E8⟩,                        -- DIR_BI_TMO
  ⟨0x8004, 32, msk 15 0, 0, 0, 0, 0x1F4⟩,                        -- DIR_WATCH
  ⟨0x8008, 32, 0, 0, 0, 0, 0⟩,                                   -- DIR_UNRESP
  ⟨0x8010, 64, 0, 0, 0, 0, 0⟩]                                   -- DIR_STATS

/-- ENG_, ATN_, EMB_, VSR_ and EXT_ (R183, R267, R205, R231, R250, R320, R108). -/
def regRowsC : List RegRow := [
  ⟨0x9000, 32, msk 2 1, 0, 0, 0, 0⟩,                             -- ENG_MODE
  ⟨0x9004, 32, 1, 0, 0, 0, 0⟩,                                   -- ENG_PERS
  ⟨0x9008, 64, 0, 0, 0, 0, 0⟩,                                   -- ENG_FENCE0
  ⟨0x9010, 64, 0, 0, 0, 0, 0⟩,                                   -- ENG_FENCE1
  ⟨0x9018, 64, 0, 0, 0, 0, 0⟩,                                   -- ENG_CHK
  ⟨0xA000, 64, 0, 0, msk 47 8 + 1, 2, 0⟩,                        -- ATN_REG_BASE
  ⟨0xA008, 32, 0, 0, msk 4 0, 2, 0x10⟩,                          -- ATN_REG_CFG
  ⟨0xA010, 64, 0, 0, 0, 0, 0⟩,                                   -- ATN_STATS
  ⟨0xB000, 64, 0, 0, msk 47 6 + 1, 3, 0⟩,                        -- EMB_HTAB_BASE
  ⟨0xB008, 32, 0, 0, msk 16 0, 3, 0x400⟩,                        -- EMB_HTAB_CFG
  ⟨0xB00C, 32, 0, 0, msk 5 0, 3, 0x10⟩,                          -- EMB_RCACHE
  ⟨0xB010, 64, 0, 0, msk 47 16, 3, 0⟩,                           -- EMB_COMB_BASE
  ⟨0xB018, 64, 0, 0, 0, 0, 0⟩,                                   -- EMB_STATS
  ⟨0xB020, 32, 0, 0, 0, 0, 0⟩,                                   -- EMB_MOVE
  ⟨0xC000, 64, 0, 0, msk 47 7 + 1, 4, 0⟩,                        -- VSR_ITAB_BASE
  ⟨0xC008, 32, 0, 0, msk 12 0, 4, 0x40⟩,                         -- VSR_ITAB_CFG
  ⟨0xC010, 64, 0, 0, 0, 0, 0⟩,                                   -- VSR_STATS
  ⟨0xD000, 64, 0, 0, msk 47 16 + 1, 6, 0⟩,                       -- EXT_TAB_BASE
  ⟨0xD008, 32, msk 31 0, 0, 0, 0, 0⟩,                            -- EXT_DEF_ID
  ⟨0xD00C, 32, msk 18 15 + msk 9 0, 0, 0, 0, 0⟩,                 -- EXT_DEF_CTRL
  ⟨0xD010, 64, msk 63 0, 0, 0, 0, 0⟩,                            -- EXT_DEF_RANGE
  ⟨0xD018, 32, 0, msk 3 3, 0, 0, 0⟩,                             -- EXT_STATUS
  ⟨0xD01C, 32, 0, 0, msk 31 31 + msk 11 0, 6, 0xFFF⟩,            -- EXT_LEDGER
  ⟨0xD020, 32, msk 15 0, 0, 0, 0, 0x7D0⟩,                        -- EXT_LEASE
  ⟨0xD024, 32, msk 16 0, 0, 0, 0, 0x64⟩,                         -- EXT_REVOKE_TMO
  ⟨0xD028, 32, 0, 0, 0, 0, 0⟩,                                   -- EXT_REVOKE_USE
  ⟨0xD02C, 32, msk 15 0, 0, 0, 0, 0⟩,                            -- EXT_MEMB_SEL
  ⟨0xD030, 64, msk 63 0, 0, 0, 0, 0⟩,                            -- EXT_MEMB_DATA
  ⟨0xD038, 32, msk 12 0, 0, 0, 0, 0⟩,                            -- EXT_EG_SEL
  ⟨0xD040, 64, msk 63 0, 0, 0, 0, 0⟩,                            -- EXT_EG_DATA
  ⟨0xD048, 32, msk 8 0, 0, 0, 0, 0⟩,                             -- EXT_GRANT_SEL
  ⟨0xD050, 64, msk 63 0, 0, 0, 0, 0⟩,                            -- EXT_GRANT_DATA
  ⟨0xD058, 32, msk 31 0, 0, 0, 0, 0⟩]                            -- EXT_DEF_EPOCH

/-- CSK_ and FAB_ registers that are not indexed (R338, R297). -/
def regRowsD : List RegRow := [
  ⟨0xE000, 32, msk 2 2, 0, msk 1 0, 7, 4⟩,                       -- CSK_CFG
  ⟨0xE004, 32, msk 5 0, 0, 0, 0, 0x10⟩,                          -- CSK_EVAC
  ⟨0xE008, 64, msk 63 0, 0, 0, 0, 0⟩,                            -- CSK_IMP_FROM
  ⟨0xE010, 64, msk 51 0, 0, 0, 0, 0⟩,                            -- CSK_IMP_TO
  ⟨0xE018, 64, 0, 0, 0, 0, 0⟩,                                   -- CSK_IMP_STS
  ⟨0x10000, 32, msk 30 23 + msk 11 0, 0, 0, 0, 0⟩,               -- FAB_NODE
  ⟨0x10004, 32, 1, 0, 0, 0, 0⟩,                                  -- FAB_CTRL
  ⟨0x10008, 64, 0, 0, 0, 0, 0⟩,                                  -- FAB_UID0
  ⟨0x10010, 64, 0, 0, 0, 0, 0⟩,                                  -- FAB_UID1
  ⟨0x10018, 64, 0, 0, msk 63 0, 5, 0⟩,                           -- FAB_FM_UID0
  ⟨0x10020, 64, 0, 0, msk 63 0, 5, 0⟩,                           -- FAB_FM_UID1
  ⟨0x10028, 32, msk 13 0, 0, 0, 0, 0x14⟩,                        -- FAB_REQ_TMO
  ⟨0x1002C, 32, msk 13 0, 0, 0, 0, 0x64⟩,                        -- FAB_E2E
  ⟨0x10030, 64, 0, 0, 0, 0, 0⟩,                                  -- FAB_STATS
  ⟨0x20000, 32, msk 10 0, 0, 0, 0, 0⟩]                           -- PMC_SEL

/-- The registers that come in arrays: TRN_WIN_ORIGIN_n, CSK_…_n, FAB_PORT_CFG_n and the other FAB_ arrays (R421). -/
def regIndexed (off : Nat) : Option RegRow :=
  if 0x6400 ≤ off ∧ off < 0x6400 + 0x400 ∧ off % 8 = 0 then some ⟨off, 64, 0, 0, msk 47 28, 32, 0⟩
  else if 0xE100 ≤ off ∧ off < 0xE200 ∧ off % 0x40 = 0x00 then some ⟨off, 32, msk 2 0, 0, 0, 0, 0⟩
  else if 0xE100 ≤ off ∧ off < 0xE200 ∧ off % 0x40 = 0x04 then some ⟨off, 32, 0, msk 6 6, 0, 0, 0⟩
  else if 0xE100 ≤ off ∧ off < 0xE200 ∧ (off % 0x40 = 0x08 ∨ off % 0x40 = 0x10 ∨ off % 0x40 = 0x18) then
    some ⟨off, 64, 0, 0, 0, 0, 0⟩
  else if 0x10100 ≤ off ∧ off < 0x10140 ∧ off % 4 = 0 then some ⟨off, 32, msk 2 0, 0, 0, 0, 5⟩
  else if 0x10200 ≤ off ∧ off < 0x10280 ∧ off % 8 = 0 then some ⟨off, 64, 0, 0, 0, 0, 0⟩
  else if 0x10300 ≤ off ∧ off < 0x10380 ∧ off % 8 = 0 then some ⟨off, 64, 0, 0, 0, 0, 0⟩
  else if 0x10400 ≤ off ∧ off < 0x10444 ∧ off % 4 = 0 then some ⟨off, 32, msk 16 0, 0, 0, 0, 0x1FFFF⟩
  else if 0x14000 ≤ off ∧ off < 0x18000 ∧ off % 4 = 0 then some ⟨off, 32, msk 31 0, 0, 0, 0, 0⟩
  else none

/-- The PMC_ registers by their offset within the block (R421, R397). -/
def regPmc (o : Nat) : Option RegRow :=
  if o = 0x08 then some ⟨o, 64, 0, 0, 0, 0, 0⟩
  else if 0x10 ≤ o ∧ o < 0x30 ∧ o % 4 = 0 then some ⟨o, 32, msk 7 0, 0, 0, 0, 0⟩
  else if 0x40 ≤ o ∧ o < 0x80 ∧ o % 8 = 0 then some ⟨o, 64, msk 47 0, 0, 0, 0, 0⟩
  else if o = 0x80 then some ⟨o, 32, 0, msk 7 0, 0, 0, 0⟩
  else if o = 0x88 then some ⟨o, 64, msk 47 6 + msk 4 0, 0, 0, 0, 8⟩
  else if o = 0x90 then some ⟨o, 32, msk 12 8 + msk 4 0, 0, 0, 0, 0x1F14⟩
  else none

/-- The registers of a QCT record by their offset in it (R422, R151). Their lock is QCT_CTRL.EN of the function, which
SEC_LOCK bit number 33 stands for. -/
def regQct (o : Nat) : Option RegRow :=
  if o = 0 then some ⟨o, 32, 0, 0, msk 31 16 + msk 13 0, 33, 0⟩
  else if o = 4 then some ⟨o, 32, 0, msk 3 2, 0, 0, 0⟩
  else if o = 8 then some ⟨o, 64, 0, 0, msk 47 6, 33, 0⟩
  else if o = 16 then some ⟨o, 32, 1, 0, 0, 0, 0⟩
  else none

/-- The key under which a PMC_ register of counter set `s` is stored. -/
def pmcKey (s o : Nat) : Nat := 0x1000000 + s * 0x100 + o

/-- The key under which a QCT_ register of function index `f` is stored: its management-space offset (R422). -/
def qctKey (f o : Nat) : Nat := 0x30000 + 32 * f + o

/-- The keys of INT_CTL and INT_STS of host function `f` (R418, R419). -/
def intCtlKey (f : Nat) : Nat := 0x2000000 + 8 * f
def intStsKey (f : Nat) : Nat := 0x2000004 + 8 * f

/-- The key under which MGT_THR_DATA of a kind is stored (R355). -/
def thrKey (kind : Nat) : Nat := 0x3000000 + kind

/-- LIMIT, WARN and CSHIFT of a kind at reset (R345). -/
def thrReset (kind : Nat) : Nat :=
  let t (limit warn shift : Nat) : Nat := limit * 2 ^ 32 + warn * 2 ^ 8 + shift * 2 ^ 3
  match kind with
  | 0 => t 65536 4096 0
  | 1 => t 192 64 0
  | 2 => t 192 64 0
  | 3 => t 1048576 131072 16
  | 4 => t 16384 1024 0
  | 5 => t 0 1024 0
  | _ => 0

/-- The register of a key, whatever space it is reached through. -/
def regRow (key : Nat) : Option RegRow :=
  if key ≥ 0x3000000 then
    if key < 0x3000006 then some ⟨key, 64, 0, 0, msk 63 3, 8, thrReset (key - 0x3000000)⟩ else none
  else if key ≥ 0x2000000 then
    if key % 8 = 0 then some ⟨key, 32, 1, 0, 0, 0, 0⟩ else if key % 8 = 4 then some ⟨key, 32, 0, 1, 0, 0, 0⟩ else none
  else if key ≥ 0x1000000 then regPmc (key % 0x100)
  else if 0x30000 ≤ key ∧ key < 0x40000 then regQct (key % 32)
  else match regIndexed key with
    | some r => some r
    | none => (regRowsA ++ regRowsB ++ regRowsC ++ regRowsD).find? (fun r => r.off == key)

/-- The reset value of a register (R16). -/
def regReset (key : Nat) : Nat := ((regRow key).map (·.reset)).getD 0

/-- The stored value of a register. -/
def Dev.reg (d : Dev) (key : Nat) : Nat := smGet key (regReset key) d.regs

/-- Store a register's value. -/
def Dev.setReg (d : Dev) (key v : Nat) : Dev := { d with regs := smPut (regReset key) key v d.regs }

/-- The field `[hi:lo]` of a register. -/
def Dev.rf (d : Dev) (key hi lo : Nat) : Nat := bits (d.reg key) hi lo

/-- Store a field of a register. -/
def Dev.setRf (d : Dev) (key hi lo v : Nat) : Dev := d.setReg key (setBits (d.reg key) hi lo v)

/-- Add to a statistics field that saturates. -/
def Dev.stat (d : Dev) (key hi lo k : Nat) : Dev :=
  d.setRf key hi lo (satAdd (d.rf key hi lo) k (2 ^ (hi + 1 - lo) - 1))

/-! Counter sets (R382 to R385). -/

/-- Add to counter `i` of a set, which wraps and then sets its bit in PMC_OVF (R384). -/
def Dev.bump (d : Dev) (set i n : Nat) : Dev :=
  let k := pmcKey set (0x40 + 8 * i)
  let v := d.reg k + n
  let d := d.setReg k (v % 2 ^ 48)
  if v ≥ 2 ^ 48 then d.setReg (pmcKey set 0x80) (d.reg (pmcKey set 0x80) ||| 2 ^ i) else d

/-- Count `n` events of a code in a counter set (R383). -/
def Dev.count (d : Dev) (set code n : Nat) : Dev :=
  if n = 0 then d
  else (List.range 8).foldl (fun d i => if d.rf (pmcKey set (0x10 + 4 * i)) 7 0 = code then d.bump set i n else d) d

/-- Add to a cumulative meter of a composition (R395): 0 T0_FT, 1 T1_FT, 2 BAY_NS, 3 FAB_B. -/
def Dev.meter (d : Dev) (comp m n : Nat) : Dev :=
  let k := 4 * (comp % 1024) + m
  { d with meters := { d.meters with total := smPut 0 k ((smGet k 0 d.meters.total + n) % 2 ^ 64) d.meters.total } }

/-- The number of stacks and sections (R1). -/
def Dev.stacks (d : Dev) : Nat :=
  match d.part with
  | .v8n => 8
  | .v6n => 6

/-- The number of bays (R1). -/
def Dev.bays (d : Dev) : Nat := 16 * d.stacks

/-- The next free value, and the block that has used it. -/
def Dev.takeFree (d : Dev) : Nat × Dev := (Config.free d.free, { d with free := d.free + 1 })

/-- Record something sent outside. -/
def Dev.send (d : Dev) (o : Out) : Dev := { d with out := o :: d.out }

/-- This Ndonte's node ID (R297). -/
def Dev.node (d : Dev) : Nat := d.rf 0x10000 11 0

/-- Whether a node ID is assigned (R297). -/
def Dev.hasNode (d : Dev) : Bool := d.rf 0x10000 23 23 == 1

/-- The partition ID, where one is assigned (R291). -/
def Dev.partition (d : Dev) : Option Nat := if d.rf 0x10000 30 30 = 1 then some (d.rf 0x10000 29 24) else none

/-- The selector register `key` as a path sees it (R417). -/
def pathKey : Path → Nat
  | .fm => 0
  | .mctp _ => 1
  | .mgmt => 2
  | .fn f => 3 + f

/-- A path's copy of a selector register (R417). -/
def Dev.sel (d : Dev) (p : Path) (key : Nat) : Nat := smGet (pathKey p * 0x40000 + key) 0 d.sels

/-- Set a path's copy of a selector register. -/
def Dev.setSel (d : Dev) (p : Path) (key v : Nat) : Dev :=
  { d with sels := smPut 0 (pathKey p * 0x40000 + key) v d.sels }

end Sys2Proof.Machine
end

