-- ==== Sys2Proof/Machine/Events.lean ====
section
/-! DEFINITION. The event recorder's entry points (R388 to R394): recording an event, the limits of one event per
accounting window or per second, and moving buffered records to the log. -/

namespace Sys2Proof.Machine

open Sys2Proof

/-- The recording block, the high byte of an event's CODE (R388). -/
def Ev.block : Ev → Nat
  | .logFull | .cleared | .clearDenied => 0x00
  | .noEntry | .hpaMiss | .walkPoison | .faultTimeout => 0x01
  | .fullPoison | .mapDegraded | .leafLost | .openWait | .kilnBad => 0x02
  | .bisnpTimeout | .revokeRefused => 0x03
  | .queueError => 0x04
  | .portState | .bringupMissing => 0x06
  | .lapsed | .extentState | .egDegraded => 0x07
  | .caskState | .caskPulled | .dieFail | .life | .caskCurrent => 0x08
  | .scoreWarn | .scoreLimit | .red | .channelRetired | .channelLost | .channelHeld | .calBad | .calRefused => 0x09
  | .capMiss | .stopRefused | .stopAborted | .woke | .wakeFailed | .thermalAlert | .thermalTrip => 0x0A

/-- A number that tells the model's events apart, from which `Config.eventLow` gives the low byte of CODE. -/
def Ev.tag : Ev → Nat
  | .logFull => 1 | .cleared => 2 | .clearDenied => 3 | .noEntry => 4 | .hpaMiss => 5
  | .walkPoison => 6 | .faultTimeout => 7 | .fullPoison => 8 | .mapDegraded => 9 | .leafLost => 10
  | .openWait => 11 | .bisnpTimeout => 12 | .revokeRefused => 13 | .queueError => 14 | .portState => 15
  | .bringupMissing => 16 | .lapsed => 17 | .extentState => 18 | .egDegraded => 19 | .caskState => 20
  | .caskPulled => 21 | .dieFail => 22 | .life => 23 | .caskCurrent => 24 | .scoreWarn => 25
  | .scoreLimit => 26 | .red => 27 | .channelRetired => 28 | .channelLost => 29 | .channelHeld => 30
  | .calBad => 31 | .calRefused => 32 | .capMiss => 33 | .stopRefused => 34 | .stopAborted => 35
  | .woke => 36 | .wakeFailed => 37 | .thermalAlert => 38 | .thermalTrip => 39
  | .kilnBad => 40

/-- CODE of an event (R388): the recorder's own three codes are given by R390 and R392. -/
def Ev.code (k : Ev) : Nat :=
  match k with
  | .logFull => 0x0001
  | .cleared => 0x0002
  | .clearDenied => 0x0003
  | k => k.block * 256 + (Config.eventLow k.tag).toNat

/-- Type and value bytes of a field (R388). -/
def EvField.bytes : EvField → Nat × List Byte
  | .fa v => (1, leBytes 8 v)
  | .ld v => (2, leBytes 1 v)
  | .queue v => (3, leBytes 2 v)
  | .loc v => (4, leBytes 2 v)
  | .port v => (5, leBytes 1 v)
  | .slot s n => (6, leBytes 1 s ++ leBytes 8 n)
  | .node v => (7, leBytes 2 v)
  | .pasid v => (8, leBytes 4 v)
  | .extent i e => (9, leBytes 4 i ++ leBytes 4 e)
  | .status v => (10, leBytes 2 v)
  | .count v => (11, leBytes 8 v)
  | .unit v => (12, leBytes 1 v)
  | .state a b => (13, leBytes 1 a ++ leBytes 1 b)
  | .frames a b => (14, leBytes 4 a ++ leBytes 4 b)
  | .score v => (15, leBytes 4 v)
  | .text v => (16, v.take 255)

/-- The body of a record (R388): each field as type, length and value. -/
def bodyBytes (fs : List EvField) : List Byte :=
  fs.flatMap (fun f => leBytes 1 f.bytes.1 ++ leBytes 1 f.bytes.2.length ++ f.bytes.2)

/-- LEN of a record (R388): 12 bytes of header, the body padded to a multiple of 4, and the CRC. -/
def Event.len (e : Event) : Nat := 16 + 4 * ceilDiv (bodyBytes e.body).length 4

/-- The bytes of a list of records. -/
def eventsLen (es : List Event) : Nat := es.foldl (fun a e => a + e.len) 0

/-- The operating seconds (R365). -/
def Dev.sec (d : Dev) : Nat := (d.opTicks / 32768) % 2 ^ 32

/-- Record an event (R388, R390): it is stamped and joins the buffer, or is counted in LOST when the 256 KiB buffer is
full or appending has stopped. -/
def Dev.event (d : Dev) (k : Ev) (body : List EvField) : Dev :=
  let e : Event := ⟨k, d.sec, d.pcc, body⟩
  let r := d.recorder
  if r.full || decide (eventsLen r.buf + e.len > 262144) then
    { d with recorder := { r with lost := satAdd r.lost 1 0xFFFFFF } }
  else { d with recorder := { r with buf := r.buf ++ [e] } }

/-- Record an event at most once per accounting window for one key (R393). -/
def Dev.eventWindow (d : Dev) (k : Ev) (key : Nat) (body : List EvField) : Dev :=
  if d.recorder.windowed.any (fun w => w.kind == k && w.key == key) then d
  else
    let d := d.event k body
    { d with recorder := { d.recorder with windowed := d.recorder.windowed ++ [⟨k, key, body, 1, false⟩] } }

/-- Count an event of one key over the accounting window (R34): the record, with COUNT, is written when the window
ends. The fields are those of the first cause. -/
def Dev.eventCounted (d : Dev) (k : Ev) (key : Nat) (body : List EvField) : Dev :=
  let r := d.recorder
  if r.windowed.any (fun w => w.kind == k && w.key == key) then
    { d with recorder := { r with windowed := r.windowed.map (fun w =>
        if w.kind == k && w.key == key then { w with count := w.count + 1 } else w) } }
  else { d with recorder := { r with windowed := r.windowed ++ [⟨k, key, body, 1, true⟩] } }

/-- Record an event at most once per 1-second window (R27, R72, R83, R412). -/
def Dev.eventSecond (d : Dev) (k : Ev) (key : Nat) (body : List EvField) : Dev :=
  if d.recorder.secondly.any (fun w => w.kind == k && w.key == key) then d
  else
    let d := d.event k body
    { d with recorder := { d.recorder with secondly := d.recorder.secondly ++ [⟨k, key, body, 1, false⟩] } }

/-- Append one record to the log (R390): where it would not fit in the 64 MiB less the last 64 bytes, LOG_FULL is
written once with the records refused so far, and appending stops. -/
def Recorder.append (r : Recorder) (sec pcc : Nat) (e : Event) : Recorder :=
  if r.full then { r with lost := satAdd r.lost 1 0xFFFFFF }
  else if eventsLen r.log + e.len > 67108864 - 64 then
    let lost := satAdd r.lost 1 0xFFFFFF
    { r with log := r.log ++ [⟨.logFull, sec, pcc, [.count lost]⟩], full := true, lost := lost }
  else { r with log := r.log ++ [e] }

/-- Program the buffered records into the NOR (R390). -/
def Dev.flushEvents (d : Dev) : Dev :=
  let r := { d.recorder with buf := [] }
  { d with recorder := d.recorder.buf.foldl (fun r e => r.append d.sec d.pcc e) r }

/-- End the accounting window's limits (R393): counted events are written with their COUNT. -/
def Dev.endWindowEvents (d : Dev) : Dev :=
  let ws := d.recorder.windowed.filter (·.deferred)
  let d := { d with recorder := { d.recorder with windowed := [] } }
  ws.foldl (fun d w => d.event w.kind (w.body ++ [.count w.count])) d

end Sys2Proof.Machine
end

