-- ==== Sys2Proof/Machine/Ops.lean ====
section
/-! DEFINITION. The named operations over memory: the bytes of T0 by local offset, and the poison of its code words
(R33, R99, R340). -/

namespace Sys2Proof.Machine

open Sys2Proof

/-- What a byte of T0 that no write has reached reads as: a new frame is zero-filled (R69). -/
def memDefault : Byte := 0

/-- The canonical form of memory: addresses strictly rising, and no listed byte equal to `memDefault`. -/
def Memory.wf (m : List Host.Cell) : Bool := smSorted m && m.all (fun c => c.2 != memDefault)

/-- Read one byte of T0. -/
def Dev.byte (d : Dev) (off : Nat) : Byte := smGet off memDefault d.mem

/-- Write one byte of T0. -/
def Dev.setByte (d : Dev) (off : Nat) (b : Byte) : Dev := { d with mem := smPut memDefault off b d.mem }

/-- Read `n` bytes from an offset. -/
def Dev.bytes (d : Dev) (off n : Nat) : List Byte := (List.range n).map (fun i => d.byte (off + i))

/-- Write a byte string at an offset. -/
def Dev.setBytes : List Byte → Nat → Dev → Dev
  | [], _, d => d
  | b :: bs, off, d => Dev.setBytes bs (off + 1) (d.setByte off b)

/-- Read a little-endian number of `n` bytes (R13). -/
def Dev.num (d : Dev) (off n : Nat) : Nat := leNat (d.bytes off n)

/-- The line at an offset. -/
def Dev.line (d : Dev) (off : Nat) : Line := bytesLine (d.bytes (64 * (off / 64)) 64)

/-- Whether a frame was lost in a tier-map rebuild: every line of it reads as poison (R82). -/
def Dev.psnAt (d : Dev) (f : Nat) : Bool :=
  match smGet? f d.tmap with
  | some e => e.psn
  | none => false

/-- Whether the code word that holds a byte is poisoned (R340), or its frame is (R82). -/
def Dev.poisonAt (d : Dev) (off : Nat) : Bool := d.pois.contains (off / 32) || d.psnAt (off / 65536)

/-- Whether any code word of `[off, off + n)` is poisoned. -/
def Dev.poisonIn (d : Dev) (off n : Nat) : Bool :=
  if n = 0 then false
  else d.pois.any (fun w => decide (off / 32 ≤ w ∧ w ≤ (off + n - 1) / 32))
    || (List.range ((off + n - 1) / 65536 + 1 - off / 65536)).any (fun i => d.psnAt (off / 65536 + i))

/-- Whether a line is poisoned: either of its code words is (R99). -/
def Dev.linePoisoned (d : Dev) (off : Nat) : Bool := d.poisonIn (64 * (off / 64)) 64

/-- Poison a code word with zero data, as a poisoned word that Ndonte creates (R340). -/
def Dev.poisonWord (d : Dev) (w : Nat) : Dev :=
  { d with pois := nsAdd w d.pois, mem := smEraseRange (32 * w) (32 * w + 32) d.mem }

/-- Poison both code words of a line (R98 step 1). -/
def Dev.poisonLine (d : Dev) (off : Nat) : Dev := (d.poisonWord (2 * (off / 64))).poisonWord (2 * (off / 64) + 1)

/-- The bytes of code word `c` (0 or 1) of a line that a mask names. -/
def maskWord (m : LineMask) (c : Nat) : Nat := bits m.toNat (32 * c + 31) (32 * c)

/-- Apply a masked write to the bytes of a line, leaving poison alone. -/
def Dev.applyMask (d : Dev) (off : Nat) (data : Line) (m : LineMask) : Dev :=
  (List.range 64).foldl (fun d i => if m.getLsbD i then d.setByte (64 * (off / 64) + i) (lineByte data i) else d) d

/-- Update the poison of one code word of a line for a masked write (R99): data with the poison indication poisons
every code word it covers, a write that covers a code word wholly makes it good, and a partial one leaves it. -/
def Dev.wordPoison (d : Dev) (off : Nat) (m : LineMask) (poison : Bool) (c : Nat) : Dev :=
  let w := 2 * (off / 64) + c
  if maskWord m c = 0 then d
  else if poison then { d with pois := nsAdd w d.pois }
  else if maskWord m c = 2 ^ 32 - 1 then { d with pois := nsDel w d.pois }
  else d

/-- Write a line under a mask (R99, R111). -/
def Dev.writeLine (d : Dev) (off : Nat) (data : Line) (m : LineMask) (poison : Bool) : Dev :=
  (((d.applyMask off data m).wordPoison off m poison 0).wordPoison off m poison 1)

/-- The mask of a whole line. -/
def fullMask : LineMask := BitVec.allOnes 64

/-- The mask of the bytes `[lo, hi)` of a line. -/
def rangeMask (lo hi : Nat) : LineMask := BitVec.ofNat 64 (msk (hi - 1) lo * (if lo < hi then 1 else 0))

/-- Write the bytes `bs` at `off`, within one line. -/
def Dev.writeInLine (d : Dev) (off : Nat) (bs : List Byte) (poison : Bool) : Dev :=
  let lo := off % 64
  d.writeLine off (bytesLine (List.replicate lo 0 ++ bs)) (rangeMask lo (min 64 (lo + bs.length))) poison

/-- Cut `[off, off + bs.length)` into runs that stay within one line. -/
def lineRuns : Nat → Nat → List Byte → List (Nat × List Byte)
  | 0, _, _ => []
  | fuel + 1, off, bs =>
    if bs.isEmpty then [] else
      let n := 64 - off % 64
      (off, bs.take n) :: lineRuns fuel (off + n) (bs.drop n)

/-- Write a byte string of any length, line by line in address order. -/
def Dev.writeBytes (d : Dev) (off : Nat) (bs : List Byte) (poison : Bool) : Dev :=
  (lineRuns (bs.length / 64 + 2) off bs).foldl (fun d r => d.writeInLine r.1 r.2 poison) d

/-- The lines that `[off, off + n)` touches, by their first byte. -/
def linesOf (off n : Nat) : List Nat :=
  if n = 0 then [] else (List.range ((off + n - 1) / 64 + 1 - off / 64)).map (fun i => 64 * (off / 64 + i))

/-- The content of a frame, listed by byte within the frame. -/
def Dev.frameData (d : Dev) (f : Nat) : List Host.Cell :=
  (smRange (65536 * f) (65536 * f + 65536) d.mem).map (fun c => (c.1 - 65536 * f, c.2))

/-- The poisoned code words of a frame, numbered within it. -/
def Dev.framePois (d : Dev) (f : Nat) : NSet :=
  if d.psnAt f then List.range 2048
  else (d.pois.filter (fun w => decide (2048 * f ≤ w ∧ w < 2048 * f + 2048))).map (· - 2048 * f)

/-- Empty a frame: every byte reads `memDefault` and no code word is poisoned. -/
def Dev.clearFrame (d : Dev) (f : Nat) : Dev :=
  { d with
    mem := smEraseRange (65536 * f) (65536 * f + 65536) d.mem
    pois := d.pois.filter (fun w => ! decide (2048 * f ≤ w ∧ w < 2048 * f + 2048)) }

/-- Fill a frame with the given content and poison. -/
def Dev.fillFrame (d : Dev) (f : Nat) (data : List Host.Cell) (pois : NSet) : Dev :=
  let d := d.clearFrame f
  let d := data.foldl (fun d c => if c.1 < 65536 then d.setByte (65536 * f + c.1) c.2 else d) d
  { d with pois := pois.foldl (fun p w => if w < 2048 then nsAdd (2048 * f + w) p else p) d.pois }

/-- Fill one 4 KiB sub-block of a frame from content listed by byte within the frame. -/
def Dev.fillSub (d : Dev) (f sub : Nat) (data : List Host.Cell) (pois : NSet) : Dev :=
  let d := (data.filter (fun c => c.1 / 4096 == sub)).foldl (fun d c => d.setByte (65536 * f + c.1) c.2) d
  { d with pois := (pois.filter (fun w => w / 128 == sub)).foldl (fun p w => nsAdd (2048 * f + w) p) d.pois }

/-- Poison every line of a frame, as a PSN frame that takes a pool frame (R82). -/
def Dev.poisonFrame (d : Dev) (f : Nat) : Dev := d.fillFrame f [] (List.range 2048)

end Sys2Proof.Machine
end

