-- ==== Sys2Proof/Machine/Kiln.lean ====
section
/-! DEFINITION. The kiln: the coding of sub-blocks, the exponent-plane split and its inverse, lossy re-encoding, and the decode of a
stored frame record (R78 to R81, R159). LZ4's own coding of a block is left to `Config.lz4Length`: a record holds what the LZ4 decoder
gives. -/

namespace Sys2Proof.Machine

open Sys2Proof

/-! Listed content. -/

/-- `n` bytes from `off` on of a listed content whose first cells lie at `off` or beyond. -/
def cellRun : Nat → Nat → List Host.Cell → List Byte
  | 0, _, _ => []
  | n + 1, off, [] => memDefault :: cellRun n (off + 1) []
  | n + 1, off, c :: cs => if c.1 = off then c.2 :: cellRun n (off + 1) cs else memDefault :: cellRun n (off + 1) (c :: cs)

/-- The bytes `[off, off + n)` of a listed content. -/
def cellBytes (data : List Host.Cell) (off n : Nat) : List Byte := cellRun n off (data.dropWhile (fun c => decide (c.1 < off)))

/-- The listed form of a byte string. -/
def bytesCells (bs : List Byte) : List Host.Cell :=
  ((List.range bs.length).zip bs).filter (fun c => c.2 != memDefault)

/-- The listed form of a byte string that stands at an offset. -/
def cellsAt (off : Nat) (bs : List Byte) : List Host.Cell := (bytesCells bs).map (fun c => (off + c.1, c.2))

/-! Sub-blocks (R78, R79). -/

/-- Rotate a `w`-bit number left by one bit. -/
def rotl1 (w x : Nat) : Nat := (x * 2) % 2 ^ w + x / 2 ^ (w - 1)

/-- Rotate a `w`-bit number right by one bit. -/
def rotr1 (w y : Nat) : Nat := y / 2 + (y % 2) * 2 ^ (w - 1)

/-- The exponent-plane split of R79: each element rotated left by one bit, then its bytes in planes, the most significant first. -/
def splitPlanes (w : Nat) (bs : List Byte) : List Byte :=
  let ys := (chunks (w / 8) bs).map (fun c => rotl1 w (leNat c))
  (List.range (w / 8)).flatMap (fun p => ys.map (fun y => BitVec.ofNat 8 (y / 2 ^ (8 * (w / 8 - 1 - p)))))

/-- The inverse of the split (R79): byte `i` of each plane goes back to element `i`, which is rotated right by one bit. -/
def joinPlanes (w : Nat) (bs : List Byte) : List Byte :=
  let n := bs.length / (w / 8)
  (List.range n).flatMap (fun i =>
    leBytes (w / 8) (rotr1 w (leNat ((List.range (w / 8)).map (fun k => nth bs (n * (w / 8 - 1 - k) + i) 0)))))

/-- The element width that METHOD 3 splits by, for the formats it is eligible for: FP32, FP16 and BF16. -/
def splitWidth (src : Nat) : Option Nat := if src = 0 then some 32 else if src = 1 ∨ src = 2 then some 16 else none

/-- The METHOD and the stored length of one sub-block (R78, R81): ZERO for zeros, RAW for one that holds poison, else the shortest that
an eligible method gives, the lower code on a tie. For the last sub-block of a lossy stream, which is shorter than 4,096 bytes, RAW
stores its own bytes and LZ4 must be shorter than them (DESIGN CHOICE, log entry 174). -/
def subCoded (split : Option Nat) (bad : Bool) (bs : List Byte) : Nat × Nat :=
  let raw := bs.length
  if bad then (1, raw)
  else if bs.all (· == 0) then (0, 0)
  else
    let lz := max 1 (Config.lz4Length bs)
    let best := if lz < raw then (2, lz) else (1, raw)
    match split with
    | some w =>
      let sp := max 1 (Config.lz4Length (splitPlanes w bs))
      if sp < best.2 then (3, sp) else best
    | none => best

/-- A SUB entry (R77), its METHOD and its stored length. -/
def subEntry (x : Nat × Nat) : Nat := 16384 * x.1 + x.2
def subMethod (v : Nat) : Nat := v / 16384 % 4
def subLen (v : Nat) : Nat := v % 16384

/-- The 16 SUB entries from those of the sub-blocks a stream has. -/
def subTable (xs : List (Nat × Nat)) : List Nat := xs.map subEntry ++ List.replicate (16 - xs.length) 0

/-- The bytes that a record's sub-blocks occupy. -/
def subBytes (sub : List Nat) : Nat := sub.foldl (fun a v => a + subLen v) 0

/-! Lossy re-encoding (R80, R81, R160). -/

/-- The bytes of one encoded group: KVL4 or MXFP4. -/
def groupLen (enc : Nat) : Nat := if enc = 0x12 then 24 else 17

/-- Whether a group of a frame holds a poisoned element. -/
def groupMarked (n g : Nat) (pois : NSet) : Bool := pois.any (fun w => decide (g * n / 32 ≤ w ∧ w ≤ (g * n + n - 1) / 32))

/-- The encoded groups of a frame in address order, a poisoned one as zeros that stand for its marked bytes; none when a group cannot be
encoded and the frame is encoded without loss instead (R160). -/
def lossyGroups (src enc : Nat) (data : List Host.Cell) (pois : NSet) : Nat → Nat → Option (List (List Byte))
  | 0, _ => some []
  | k + 1, g =>
    let n := 4 * elemBits src
    let here := if groupMarked n g pois then some (List.replicate (groupLen enc) 0)
      else (decVec src 32 (cellBytes data (g * n) n)).bind (encVec enc)
    match here, lossyGroups src enc data pois k (g + 1) with
    | some a, some r => some (a :: r)
    | _, _ => none

/-- The encoded stream of a lossy frame and its poisoned groups. -/
def lossyStream (src enc : Nat) (data : List Host.Cell) (pois : NSet) : Option (List Byte × NSet) :=
  let n := 4 * elemBits src
  (lossyGroups src enc data pois (65536 / n) 0).map (fun gs =>
    (gs.flatten, (List.range (65536 / n)).filter (fun g => groupMarked n g pois)))

/-- The SUB entries of a lossy stream: a sub-block that a poisoned group's bytes reach is RAW. -/
def lossySubs (enc : Nat) (bs : List Byte) (bad : NSet) : List Nat :=
  let k := groupLen enc
  subTable ((List.range (ceilDiv bs.length 4096)).map (fun j =>
    subCoded none (bad.any (fun g => decide (k * g / 4096 ≤ j ∧ j ≤ (k * g + k - 1) / 4096))) ((bs.drop (4096 * j)).take 4096)))

/-- The SUB entries of a frame encoded without loss. -/
def plainSubs (src : Nat) (data : List Host.Cell) (pois : NSet) : List Nat :=
  subTable ((List.range 16).map (fun j =>
    subCoded (splitWidth src) (pois.any (fun w => w / 128 == j)) (cellBytes data (4096 * j) 4096)))

/-- What the LZ4 coder takes, and its decoder gives, for a frame encoded without loss: the split of a sub-block of METHOD 3, and the
bytes themselves of any other. -/
def plainStream (src : Nat) (sub : List Nat) (data : List Host.Cell) : List Host.Cell :=
  (List.range 16).flatMap (fun j =>
    match (if subMethod (nth sub j 0) = 3 then splitWidth src else none) with
    | some w => cellsAt (4096 * j) (splitPlanes w (cellBytes data (4096 * j) 4096))
    | none => data.filter (fun c => c.1 / 4096 == j))

/-! Decoding a stored frame record (R78, R80, R81, R159). -/

/-- What the kiln decodes: the content of the frame, its poisoned code words, and whether a block was malformed. -/
structure Decoded where
  data : List Host.Cell
  pois : NSet
  bad : Bool

/-- The code words of a frame that hold the elements of some groups. -/
def groupWords (n : Nat) (gs : List Nat) : NSet :=
  (gs.flatMap (fun g => (List.range ((g * n + n - 1) / 32 + 1 - g * n / 32)).map (· + g * n / 32))).foldl (fun p w => nsAdd w p) []

/-- Decode a record without loss: a malformed LZ4 block makes the lines of its sub-block poison. -/
def plainDecode (r : CaskRec) : Decoded :=
  let fails (j : Nat) : Bool := r.bad.contains j && decide (subMethod (nth r.sub j 0) ≥ 2)
  let part (j : Nat) : List Host.Cell :=
    if fails j || subMethod (nth r.sub j 0) == 0 then []
    else match (if subMethod (nth r.sub j 0) = 3 then splitWidth r.srcFmt else none) with
      | some w => cellsAt (4096 * j) (joinPlanes w (cellBytes r.data (4096 * j) 4096))
      | none => r.data.filter (fun c => c.1 / 4096 == j)
  let lost := (List.range 16).filter fails
  ⟨(List.range 16).flatMap part,
    (lost.flatMap (fun j => (List.range 128).map (· + 128 * j))).foldl (fun p w => nsAdd w p) (r.pois.filter (· < 2048)), ! lost.isEmpty⟩

/-- Decode one group of a lossy stream to its bytes in the source format: none for a malformed one. -/
def groupDecode (src enc : Nat) (bs : List Byte) : Option (List Byte) :=
  (decVec enc 32 bs).bind (fun ws => encVec src (ws.map toF32))

/-- Decode a lossy record: a marked group, one that a malformed LZ4 block holds, and one malformed in itself decode as poison. -/
def lossyDecode (r : CaskRec) : Decoded :=
  let n := 4 * elemBits r.srcFmt
  let k := groupLen r.encFmt
  let lost (g : Nat) : Bool := r.bad.any (fun j => decide (subMethod (nth r.sub j 0) ≥ 2)
    && decide (k * g / 4096 ≤ j ∧ j ≤ (k * g + k - 1) / 4096))
  let part (g : Nat) : Option (List Byte) :=
    if r.pois.contains g || lost g then none else groupDecode r.srcFmt r.encFmt (cellBytes r.data (k * g) k)
  let gs := (List.range (65536 / n)).map (fun g => (g, part g))
  ⟨gs.flatMap (fun x => match x.2 with | some bs => cellsAt (n * x.1) bs | none => []),
    groupWords n ((gs.filter (fun x => x.2.isNone)).map (·.1)),
    gs.any (fun x => x.2.isNone && ! r.pois.contains x.1)⟩

/-- Decode the DATA or ZERO record of a frame. -/
def kilnDecode (r : CaskRec) : Decoded :=
  if r.kind = 2 then ⟨[], [], false⟩
  else if r.encFmt = 0x12 ∨ r.encFmt = 0x0C then lossyDecode r
  else plainDecode r

end Sys2Proof.Machine
end

