-- ==== Sys2Proof/Machine/Tier.lean ====
section
/-! DEFINITION. The tier map, placement records, the shared pool, the cask records of frames, and the frame moves of the
turntable (R63 to R83). -/

namespace Sys2Proof.Machine

open Sys2Proof

/-- A little-endian field of `n` bytes at byte `off` of a 64-byte structure. -/
def lf (l : Line) (off n : Nat) : Nat := (l.toNat / 2 ^ (8 * off)) % 2 ^ (8 * n)

/-! Placement records (R67, R68). -/

/-- Record 0, fixed by Ndonte (R68): tiers T0 and T1, VALID, untyped, composition 0. -/
def rec0 : Line := bytesLine [0, 0, 3, 0x80, 0x1F]

/-- The composition of a placement record. -/
def pComp (r : Line) : Nat := lf r 0 2 % 1024
/-- Whether tier `n` is allowed. -/
def pTier (r : Line) (n : Nat) : Bool := (lf r 2 1).testBit n
/-- PIN, LOSSY, PREFETCH and VALID of FLAGS. -/
def pPin (r : Line) : Bool := (lf r 3 1).testBit 0
def pLossy (r : Line) : Bool := (lf r 3 1).testBit 1
def pPrefetch (r : Line) : Bool := (lf r 3 1).testBit 2
def pValid (r : Line) : Bool := (lf r 3 1).testBit 7
/-- SRC_FMT and LOSSY_FMT. -/
def pSrcFmt (r : Line) : Nat := lf r 4 1
def pLossyFmt (r : Line) : Nat := lf r 5 1
/-- EGROUP and T2_GRANT. -/
def pEgroup (r : Line) : Nat := lf r 8 2
def pGrant (r : Line) : Nat := lf r 10 2
/-- T3_RING's offset and log2, and T3_FUNC. -/
def pRing (r : Line) : Nat := bits (lf r 16 8) 47 6 * 64
def pRingLog (r : Line) : Nat := lf r 16 8 % 64
def pFunc (r : Line) : Nat := lf r 24 2 % 4096

/-- The record of an index as it acts: an index whose record is not VALID is handled under record 0 (R68, R367). -/
def Dev.prec (d : Dev) (i : Nat) : Line :=
  if i = 0 then rec0 else
    let r := smGet i 0 d.precs
    if pValid r then r else rec0

/-- Whether Ndonte accepts a placement record (R68). -/
def Dev.precOk (d : Dev) (r : Line) : Bool :=
  pValid r && pTier r 0
  && (! pTier r 3 || (lf r 16 8 != 0 && decide (4 ≤ pRingLog r ∧ pRingLog r ≤ 16) && d.enabledFns.contains (pFunc r)))
  && (! pTier r 2 || pGrant r != 0)
  && (! pLossy r || ((pLossyFmt r == 0x12 || pLossyFmt r == 0x0C)
        && [0x00, 0x01, 0x02, 0x03, 0x04].contains (pSrcFmt r) && pEgroup r == 0))

/-! The tier map (R64, R65). -/

/-- TIER_MAP_CFG.EN. -/
def Dev.mapOn (d : Dev) : Bool := d.rf 0x7000 0 0 == 1

/-- Whether a frame's root entry is populated. -/
def Dev.rooted (d : Dev) (f : Nat) : Bool := (smGet? (f / 65536) d.roots).isSome

/-- The tier-map entry of a frame; none when the map is off, the root is clear or the frame has none (R34, R86). -/
def Dev.entry (d : Dev) (f : Nat) : Option TEntry :=
  if d.mapOn && d.rooted f then smGet? f d.tmap else none

/-- Write a tier-map entry in both copies. -/
def Dev.setEntry (d : Dev) (f : Nat) (e : TEntry) : Dev := { d with tmap := smSet f e d.tmap }

/-- Change a tier-map entry. -/
def Dev.modEntry (d : Dev) (f : Nat) (g : TEntry → TEntry) : Dev := { d with tmap := smMod f g d.tmap }

/-- A T0 entry of a new frame (R69). LAST of a frame that BIND, an import or a transfer creates is not stated: its callers give the
current window (DESIGN CHOICE, log entry 172). -/
def newEntry (prec loc last : Nat) (pin : Bool) : TEntry :=
  ⟨0, pin, false, false, false, false, false, 0, false, prec, last, loc⟩

/-- Mark a T0 frame accessed in the current window (R71), and written where `w` holds. -/
def Dev.touch (d : Dev) (f : Nat) (w : Bool) : Dev :=
  d.modEntry f (fun e => { e with last := d.ageWindow, dirty := e.dirty || w })

/-- The age of a frame (R71). -/
def Dev.age (d : Dev) (e : TEntry) : Nat := ringSub 256 d.ageWindow e.last

/-- The record of a frame. -/
def Dev.precOf (d : Dev) (e : TEntry) : Line := d.prec e.prec

/-! The pool (R66). -/

/-- Leaf slots per copy (R86). The rule gives values from 1 to 65,536: what 0 or a larger value does is left open, and the model takes
the field's value as it stands (DESIGN CHOICE, log entry 171). -/
def Dev.leaves (d : Dev) : Nat := d.rf 0x7000 17 1

/-- The leaf slots below `n` that are congruent to `k` modulo `s`. -/
def residues (n k s : Nat) : Nat := if k < n then (n - 1 - k) / s + 1 else 0

/-- The stack frames that the reserved structures of R66 take in one stack. -/
def Dev.reservedIn (d : Dev) (st : Nat) : Nat :=
  let s := d.stacks
  let half := s / 2
  19074 + 8
  + 8 * (residues d.leaves st s + residues d.leaves ((st + s - half) % s) s)
  + (if st % 2 = 1 ∧ st ≤ 5 then 1024 else 0)
  + (if st = 2 ∨ st = (2 + half) % s then 4096 else 0)
  + 8 * residues (ceilDiv (2 * d.leaves) s) st s
  + (if st = 0 then 64 + 516 else 0)

/-- The pool frames of a stack before retirement. -/
def Dev.rawPoolIn (d : Dev) (st : Nat) : Nat := Config.stackFrames - d.reservedIn st

/-- The pool frames of a stack that lie in retired channels (R350). -/
def Dev.retiredIn (d : Dev) (st : Nat) : Nat :=
  (d.retiredCh.filter (fun c => c / 32 == st)).foldl (fun a c => a + residues (d.rawPoolIn st) (c % 32) 32) 0

/-- The pool frames of a stack that reserved frames of its retired channels have been moved to (R350). -/
def Dev.movedIn (d : Dev) (st : Nat) : Nat :=
  (d.retiredCh.filter (fun c => c / 32 == st)).foldl
    (fun a c => a + (residues Config.stackFrames (c % 32) 32 - residues (d.rawPoolIn st) (c % 32) 32)) 0

/-- The pool frames of a stack. -/
def Dev.poolIn (d : Dev) (st : Nat) : Nat := d.rawPoolIn st - d.retiredIn st

/-- The pool size in frames (TIER_POOL.FRAMES). -/
def Dev.pool (d : Dev) : Nat :=
  if d.mapLaid then (List.range d.stacks).foldl (fun a st => a + d.poolIn st) 0 else 0

/-- The stack frames in use, by LOC: those of T0 entries with a frame, the destinations of moves into T0, and the copy bitmaps of
transfers (R306). -/
def Dev.usedLocs (d : Dev) : List Nat :=
  (d.tmap.filterMap (fun p => if p.2.tier = 0 ∧ ¬ p.2.psn then some p.2.loc else none))
  ++ d.moves.filterMap (fun p => if p.2.kind = .demote ∨ p.2.queued ≠ 0 then none else some p.2.dest)
  ++ d.xfers.flatMap (·.locs)

/-- The stack and the channel of a LOC (R65, R344). -/
def locStack (loc : Nat) : Nat := loc / 2 ^ 21
def locChannel (loc : Nat) : Nat := locStack loc * 32 + (loc % 2 ^ 21) % 32

/-- The free pool frames of a stack. -/
def Dev.freeIn (d : Dev) (st : Nat) : Nat :=
  d.poolIn st - (d.usedLocs.filter (fun l => locStack l == st)).length - d.movedIn st

/-- The free pool frames (TIER_POOL.FREE). -/
def Dev.poolFree (d : Dev) : Nat := d.pool - d.usedLocs.length - (List.range d.stacks).foldl (fun a st => a + d.movedIn st) 0

/-- The lowest-numbered free stack frame of a stack from `n` on, outside retired and retiring channels. -/
def Dev.scanFree (d : Dev) (st : Nat) : Nat → Nat → Option Nat
  | 0, _ => none
  | fuel + 1, n =>
    let loc := st * 2 ^ 21 + n
    if n ≥ d.rawPoolIn st then none
    else if d.usedLocs.contains loc || d.retiredCh.contains (locChannel loc) || d.retiring.contains (locChannel loc) then
      d.scanFree st fuel (n + 1)
    else some loc

/-- A free stack frame of a stack. -/
def Dev.allocIn (d : Dev) (st : Nat) : Option Nat := d.scanFree st (32 * (d.usedLocs.length + 2)) 0

/-- The section that R21 chooses: the most free pool frames, ties to the lowest number. -/
def Dev.bestSection (d : Dev) : Nat :=
  (List.range d.stacks).foldl (fun b st => if d.freeIn st > d.freeIn b then st else b) 0

/-- Take a free pool frame (R73 step 1). -/
def Dev.alloc (d : Dev) : Option Nat :=
  if ! d.mapLaid || d.poolFree = 0 then none else d.allocIn d.bestSection

/-- TIER_WATER.HIGH and LOW in frames (R86): a LOW not below HIGH acts as HIGH − 1. -/
def Dev.waterHigh (d : Dev) : Nat := d.rf 0x7008 31 16 * d.pool / 1024
def Dev.waterLow (d : Dev) : Nat :=
  let hi := d.rf 0x7008 31 16
  let lo := d.rf 0x7008 15 0
  (if lo < hi then lo else hi - 1) * d.pool / 1024

/-- The frames pinned by a composition (TIER_PINQ_VAL.USED). -/
def Dev.pinned (d : Dev) (comp : Nat) : Nat :=
  (d.tmap.filter (fun p => p.2.pin && pComp (d.precOf p.2) == comp)).length

/-! Casks as destinations (R72, R77, R236). -/

/-- The slot's state. -/
def Dev.slot (d : Dev) (n : Nat) : SlotSt := smGet n SlotSt.empty d.slots

/-- Set a slot's state. -/
def Dev.setSlot (d : Dev) (n : Nat) (s : SlotSt) : Dev := { d with slots := smPut SlotSt.empty n s d.slots }

/-- The state code of a slot (R329): 0 empty or unchecked, 5 FOREIGN, otherwise the element's STATE. -/
def SlotSt.code (s : SlotSt) : Nat :=
  match s.cask with
  | none => 0
  | some c => if ! s.checked then 0 else if s.foreign then 5 else c.state

/-- Bytes of stored frame records a cask holds, and its free capacity of the exposed 54 TB (R323). -/
def caskUsed (c : Cask) : Nat := c.recs.foldl (fun a r => a + r.stored) 0
def caskRoom (c : Cask) : Nat := 54000000000000 - caskUsed c

/-- The records that stand in a cask's header log, which keeps the last two of each frame (R325). -/
def logUsed (c : Cask) : Nat :=
  c.recs.countP (fun r => decide (c.recs.countP (fun x => x.frame == r.frame && x.owner == r.owner && decide (x.seq > r.seq)) < 2))

/-- Whether the header log takes one more record: the reserve of 1 % is for OPEN records (R329). -/
def logRoom (c : Cask) (open_ : Bool) : Bool :=
  decide (logUsed c + 1 ≤ if open_ then c.logCap else c.logCap - ceilDiv c.logCap 100)

/-- Whether a slot's cask is bound, checked, loaded and powered: its frames can be read. -/
def SlotSt.readable (s : SlotSt) : Bool :=
  s.cask.isSome && s.rail && s.serving && (s.code == 2 || s.code == 3)

/-- Whether a demotion may go to the slot (R329, R332, R336): IN_SERVICE, not being evacuated or released, with room. -/
def SlotSt.canTake (s : SlotSt) : Bool :=
  s.readable && s.code == 2 && s.busy != 2 && s.busy != 3 && ! s.retrain
  && (match s.cask with | some c => decide (caskRoom c ≥ 65600) && logRoom c false | none => false)

/-- Whether a slot's cask takes a REMOTE record (R77). -/
def SlotSt.takesRemote (s : SlotSt) : Bool :=
  s.readable && s.code == 2 && (match s.cask with | some c => logRoom c false | none => false)

/-- Whether a slot's cask takes an OPEN record: one in service with log space, or a worn one with room in its log reserve (R77). -/
def SlotSt.takesOpen (s : SlotSt) : Bool :=
  s.readable && (s.code == 2 || s.code == 3) && (match s.cask with | some c => logRoom c true | none => false)

/-- The first slot from `start` on, wrapping, that satisfies `p` (R77, R236). -/
def Dev.slotFrom (d : Dev) (start : Nat) (p : SlotSt → Bool) : Option Nat :=
  ((List.range 4).map (fun i => (start + i) % 4)).find? (fun n => p (d.slot n))

/-- The slot that a demotion of frame `f` to T1 goes to (R236). -/
def Dev.demoteSlot (d : Dev) (f : Nat) : Option Nat := d.slotFrom (f / 8 % 4) SlotSt.canTake

/-- The slot that takes the REMOTE record of frame `f` (R77). -/
def Dev.remoteSlot (d : Dev) (f : Nat) : Option Nat :=
  d.slotFrom (f / 8 % 4) SlotSt.takesRemote

/-- The slot that takes the OPEN record of a frame whose entry names `cslot` (R77); none when no cask can take it. -/
def Dev.openSlot (d : Dev) (cslot : Nat) : Option Nat :=
  if (d.slot cslot).takesOpen then some cslot else d.slotFrom 0 SlotSt.takesOpen

/-- The DATA or ZERO record that holds a T1 frame's content on a cask: a REUSE record names it by SEQ. -/
def contentRec (rs : List CaskRec) (frame owner : Nat) : Option CaskRec :=
  (rs.filter (fun r => r.frame == frame && r.owner == owner && (r.kind == 1 || r.kind == 2))).foldl
    (fun b r => match b with | none => some r | some x => if r.seq > x.seq then some r else some x) none

/-- Append a record to a slot's cask (R77, R325, R334): the log keeps the last two records of each frame, the DATA or ZERO
record that still holds its content stays, and the bytes of the record and its log copy count as written. -/
def caskAppend (c : Cask) (r : CaskRec) : Cask :=
  let same := c.recs.filter (fun x => x.frame == r.frame && x.owner == r.owner)
  let keep := same.drop (same.length - 1)
  let content := if r.kind == 1 || r.kind == 2 then none else contentRec same r.frame r.owner
  { c with
    recs := c.recs.filter (fun x => ! (x.frame == r.frame && x.owner == r.owner))
      ++ (content.toList.filter (fun x => ! keep.contains x)) ++ keep ++ [r]
    bytesWritten := c.bytesWritten + r.stored + 64 }

/-- Low 64 bits of this node's UID. -/
def ownerId : Nat := Config.nodeUid % 2 ^ 64

/-- A record with no data. -/
def bareRec (kind frame seq prec : Nat) : CaskRec :=
  ⟨kind, 0x1F, 0x1F, false, frame, seq, ownerId, prec, 0, List.replicate 16 0, 0, ⟨0, 0⟩, [], [], [], 64⟩

/-- A record with no data of a frame whose placement record is `r`, with its SRC_FMT and the frame's LOSSY bit (R77). -/
def frameRec (kind frame : Nat) (r : Line) (e : TEntry) : CaskRec :=
  { bareRec kind frame 0 e.prec with srcFmt := pSrcFmt r, lossy := e.lossy }

/-- Append a record of this Ndonte to a slot's cask, with the next SEQ. -/
def Dev.appendRec (d : Dev) (slot : Nat) (r : CaskRec) : Dev :=
  let s := d.slot slot
  match s.cask with
  | none => d
  | some c =>
    { d.setSlot slot { s with cask := some (caskAppend c { r with seq := d.seqCtr }) } with seqCtr := d.seqCtr + 1 }

/-- The record with the highest SEQ among those of a frame with one OWNER. -/
def latestRec (rs : List CaskRec) (frame owner : Nat) : Option CaskRec :=
  (rs.filter (fun r => r.frame == frame && r.owner == owner)).foldl
    (fun b r => match b with | none => some r | some x => if r.seq > x.seq then some r else some x) none

/-- The content of a T1 frame as promotion decodes it (R78, R80, R81), and whether a stored block could not be decoded; none when
its cask cannot be read and the frame is not a ZERO frame. -/
def Dev.t1Decode (d : Dev) (f : Nat) (e : TEntry) : Option Decoded :=
  if e.zero then some ⟨[], [], false⟩
  else
    let s := d.slot e.cslot
    if ! s.readable then none
    else match s.cask with
      | none => none
      | some c => match contentRec c.recs f ownerId with
        | some r => some (kilnDecode r)
        | none => some ⟨[], List.range 2048, false⟩

/-- The bytes and the poison of a T1 frame's content. -/
def Dev.t1Content (d : Dev) (f : Nat) (e : TEntry) : Option (List Host.Cell × NSet) :=
  (d.t1Decode f e).map (fun x => (x.data, x.pois))

/-- The event of a decode that met a malformed block (R78, R159). -/
def Dev.kilnEvent (d : Dev) (f : Nat) (e : TEntry) : Dev :=
  match d.t1Decode f e with
  | some x => if x.bad then d.event .kilnBad [.frames f f] else d
  | none => d

/-! Physical lines (R90). -/

/-- The line number of an offset in a stack frame. -/
def plineOf (loc off : Nat) : Nat := 1024 * loc + off / 64 % 1024

/-- The physical line of an offset, where its frame is in T0 or being promoted into it. -/
def Dev.pline (d : Dev) (off : Nat) : Option Nat :=
  match smGet? (off / 65536) d.tmap with
  | some e =>
    if e.psn then none
    else if e.tier = 0 then some (plineOf e.loc off)
    else match smGet? (off / 65536) d.moves with
      | some m => if m.kind = .promote ∧ m.queued = 0 then some (plineOf m.dest off) else none
      | none => none
  | none => none

/-! Rings of host pages and free frames (R58). -/

/-- Whether a ring holds an entry, as home sees it. A TAIL that a host has advanced and not yet written back shows once the ring is read
through the directory: while a host holds the line, an entry may be there. -/
def Dev.ringMaybe (d : Dev) (base log : Nat) : Bool :=
  d.num base 4 % 2 ^ log != d.num (base + 4) 4 % 2 ^ log
  || (match (d.pline base).bind (fun pl => smGet? pl d.dir) with
    | some e => e.st == .owned
    | none => false)

/-- Owe a host page to a ring: it is given back as soon as the ring can be written (R58). -/
def Dev.ringGive (d : Dev) (base log v : Nat) : Dev := { d with ringOwed := d.ringOwed ++ [(base, log, v)] }

/-! Grants (R314). -/

/-- The grant that a T2_GRANT number names. -/
def Dev.grantBy (d : Dev) (id : Nat) : Option (Nat × Grant) :=
  d.grants.find? (fun p => bit p.2.word1 63 && bits p.2.word1 47 32 == id)

/-- The grant that a peer FA lies in. -/
def Dev.grantAt (d : Dev) (fa : Nat) : Option (Nat × Grant) :=
  d.grants.find? (fun p => bit p.2.word1 63 && decide (bits p.2.word0 59 0 ≤ fa ∧ fa < bits p.2.word0 59 0 + 65536 * bits p.2.word1 31 0))

/-- Give the grant frame at a peer FA back. -/
def Dev.freeGrant (d : Dev) (fa : Nat) : Dev :=
  match d.grantAt fa with
  | some (i, g) => { d with grants := smSet i { g with used := nsDel ((fa - bits g.word0 59 0) / 65536) g.used } d.grants }
  | none => d

/-- The lowest free frame of a grant, by number within it. -/
def Grant.freeFrame (g : Grant) : Option Nat :=
  (List.range (min (bits g.word1 31 0) (g.used.length + 1))).find? (fun i => ! g.used.contains i)

/-! Destinations and victims (R72). -/

/-- Whether the remote-placement table of 16,777,216 records has one left for another demotion (R65). -/
def Dev.remoteRoom (d : Dev) : Bool :=
  decide (d.remotes.length + (d.moves.filter (fun p => p.2.kind == .demote && p.2.destTier != 1)).length < 16777216)

/-- Where a demotion of frame `f` with record `r` can go, in the order T1, T2, T3: the tier and the cask slot. -/
def Dev.destination (d : Dev) (f : Nat) (r : Line) : Option (Nat × Nat) :=
  match (if pTier r 1 then d.demoteSlot f else none) with
  | some s => some (1, s)
  | none =>
    match d.remoteSlot f with
    | none => none
    | some s =>
      if ! d.remoteRoom then none else
      let room := match d.grantBy (pGrant r) with
        | some (_, g) => g.freeFrame.isSome
        | none => false
      if pTier r 2 && room then some (2, s)
      else if pTier r 3 && d.enabledFns.contains (pFunc r)
        && d.ringMaybe (pRing r) (pRingLog r) then some (3, s)
      else none

/-- Whether a frame holds an armed watched line (R72, R95). -/
def Dev.holdsWatch (d : Dev) (e : TEntry) : Bool :=
  d.dir.any (fun p => p.1 / 1024 == e.loc && p.2.watch.isSome)

/-- Whether a T0 frame may be demoted (R69, R72, R95): unpinned, not moving, holding no armed line, with a destination. A frame lost in
a rebuild has no stack frame and may be demoted too: its poison is stored (R82). -/
def Dev.canDemote (d : Dev) (f : Nat) (e : TEntry) : Bool :=
  e.tier == 0 && ! e.pin && ! e.mov && (smGet? f d.moves).isNone && (e.psn || ! d.holdsWatch e)
  && (d.destination f (d.precOf e)).isSome

/-- Whether a T0 frame may be chosen as a victim (R72): it may be demoted and has a stack frame to free. -/
def Dev.canLeave (d : Dev) (f : Nat) (e : TEntry) : Bool := ! e.psn && d.canDemote f e

/-- The frames that can leave T0. -/
def Dev.leavers (d : Dev) : List Nat := (d.tmap.filter (fun p => d.canLeave p.1 p.2)).map (·.1)

/-- TIER_STATUS.FULL (R72, R86, R350): no unpinned frame can leave T0, nor is any on its way out, or a retiring channel finds no
room. -/
def Dev.isFull (d : Dev) : Bool :=
  d.tierFull || (d.mapLaid && d.leavers.isEmpty && ! d.moves.any (fun p => p.2.kind == .demote))

/-- The next victim (R72): the highest age, and within it frame-number order from the rotating start. -/
def Dev.victim (d : Dev) : Option Nat :=
  d.leavers.foldl (fun best f =>
    let key (g : Nat) : Nat × Nat :=
      (match smGet? g d.tmap with | some e => d.age e | none => 0, ringSub (2 ^ 32) g d.victimStart)
    match best with
    | none => some f
    | some b =>
      let (af, of) := key f
      let (ab, ob) := key b
      if af > ab ∨ (af = ab ∧ of < ob) then some f else some b) none

/-! Moves (R73 to R75). -/

/-- Whether the turntable may start a move: the map is in use (R86), and one of the 64 frame movers is free. The frame buffers of R29
are never fewer than the movers. -/
def Dev.moverFree (d : Dev) : Bool := d.mapOn && decide (d.moves.length < 64)

/-- Whether a promotion may wait for a pool frame with its mover and buffer (R73 step 1): one mover stays for the demotion that it waits
for, or one runs (DESIGN CHOICE, log entry 173). -/
def Dev.mayQueue (d : Dev) : Bool := decide (d.moves.length < 63) || d.moves.any (fun p => p.2.kind == .demote)

/-- The next place in the order of promotions that wait for a pool frame. -/
def Dev.nextQueue (d : Dev) : Nat := d.moves.foldl (fun a p => max a p.2.queued) 0 + 1

/-- Whether the source of a frame outside T0 can be read. -/
inductive SourceSt where
  | ready
  | waits
  | lost
  deriving DecidableEq, Repr

/-- The source of a frame outside T0 (R75, R331 to R333): a cask that is being loaded, retrained or scanned is waited for, and one that is
unreadable otherwise is lost. -/
def Dev.sourceSt (d : Dev) (e : TEntry) : SourceSt :=
  if e.tier ≠ 1 || e.zero then .ready
  else
    let slot := d.slot e.cslot
    let waitable := slot.detect && slot.cask.isSome && slot.rail && (slot.loading || slot.retrain || slot.busy == 3)
    if ! slot.readable && ! waitable then .lost
    else if ! slot.readable || slot.retrain || slot.busy == 3 then .waits
    else .ready

/-- What starting a promotion finds. -/
inductive PromoStart where
  | started
  | joined
  | noRoom
  | full
  | unreadable
  deriving DecidableEq, Repr

/-- Take a mover and a buffer for a promotion (R73 step 1), with the stack frame `loc`, or with a place in the order of those that
wait for one. -/
def Dev.takeMover (d : Dev) (f : Nat) (e : TEntry) (loc queued : Nat) (demand : Bool) : Dev :=
  let src : Remote := if e.tier ≥ 2 then smGet e.loc ⟨0, 0⟩ d.remotes else ⟨0, 0⟩
  let m : Move := ⟨.promote, e.loc, loc, 0, false, e.tier, e.cslot, src, false, e.prec, d.precOf e, queued, [], []⟩
  let d := { (d.modEntry f (fun e => { e with mov := true })) with
             moves := smSet f m d.moves, openPend := smSet f 4 d.openPend }
  if demand then { d with demand := smSet f d.ageWindow d.demand } else d

/-- Start a promotion of a frame outside T0 (R73 step 1), or join the one in progress. With an unreadable source the
promotion fails at once (R75, R333). -/
def Dev.startPromotion (d : Dev) (f : Nat) (e : TEntry) (demand : Bool) : PromoStart × Dev :=
  match smGet? f d.moves with
  | some _ => (.joined, d)
  | none =>
    match d.sourceSt e with
    | .lost => (.unreadable, d)
    | .waits => (.noRoom, d)
    | .ready =>
      if ! d.moverFree then (.noRoom, d)
      else match d.alloc with
        | some loc => (.started, d.takeMover f e loc 0 demand)
        | none =>
          if d.isFull then (.full, d)
          else if d.mayQueue then (.started, d.takeMover f e 0 d.nextQueue demand)
          else (.noRoom, d)

/-- Whether a frame was promoted on demand in the current or the previous window (R72). -/
def Dev.demandedLately (d : Dev) (f : Nat) : Bool :=
  match smGet? f d.demand with
  | some w => decide (ringSub 256 d.ageWindow w ≤ 1)
  | none => false

/-- The content that a promotion brings for a frame: from its cask, or what has arrived from the peer or the host. -/
def Dev.promoContent (d : Dev) (f : Nat) (m : Move) : Option (List Host.Cell × NSet) :=
  match d.entry f with
  | none => none
  | some e => if e.tier = 1 then d.t1Content f e else some (m.data, m.pois)

/-- Abandon a demotion before its commit (R75): the frame stays in T0 with its content. The page or grant frame taken
for it is given back. LAST is set by the access that abandons it, where one does. -/
def Dev.abandonDemotion (d : Dev) (f : Nat) : Dev :=
  match smGet? f d.moves with
  | some m =>
    if m.kind != .demote then d else
      let d := { (d.modEntry f (fun e => { e with mov := false })) with moves := smErase f d.moves }
      if m.destTier = 3 then d.ringGive (pRing m.under) (pRingLog m.under) m.destRemote.addr
      else if m.destTier = 2 then d.freeGrant m.destRemote.addr
      else d
  | none => d

/-- Fail a promotion (R75, R333): the frame keeps its entry, the stack frame goes back to the pool. -/
def Dev.failPromotion (d : Dev) (f : Nat) : Dev :=
  match smGet? f d.moves with
  | some m =>
    if m.kind != .promote then d else
      { ((d.clearFrame f).modEntry f (fun e => { e with mov := false })) with
        moves := smErase f d.moves, openPend := smErase f d.openPend }
  | none => d

/-- The frame of a PSN entry takes a pool frame at its first write, filled with poison (R82). A rebuild of it in progress ends. -/
def Dev.psnToT0 (d : Dev) (f loc : Nat) : Dev :=
  { ((d.poisonFrame f).modEntry f (fun e => { e with psn := false, loc := loc, last := d.ageWindow, mov := false })) with
    moves := smErase f d.moves, wantRebuild := nsDel f d.wantRebuild }

/-- Remove a frame from the tier map: its stack frame goes back to the pool, its cask space is freed, and a grant
frame it used is free again (R301). -/
def Dev.dropFrame (d : Dev) (f : Nat) : Dev :=
  match smGet? f d.tmap with
  | none => d
  | some e =>
    let d := { (d.clearFrame f) with
      tmap := smErase f d.tmap, moves := smErase f d.moves, openPend := smErase f d.openPend, wantRebuild := nsDel f d.wantRebuild }
    let drop (c : Cask) : Cask := { c with recs := c.recs.filter (fun r => ! (r.frame == f && r.owner == ownerId)) }
    let d := { d with slots := d.slots.map (fun p => (p.1, { p.2 with cask := p.2.cask.map drop })) }
    if e.tier ≥ 2 then { d with remotes := smErase e.loc d.remotes } else d

end Sys2Proof.Machine
end

