-- ==== Sys2Proof/Machine/Fab.lean ====
section
/-! DEFINITION. The Meunol link and network shared by every message command: message and flit layouts, credits, routing,
and the source side of flows (R273, R274, R276, R280, R282, R289, R290). -/

namespace Sys2Proof.Machine

open Sys2Proof

/-! The status codes of R136. -/

def stOk : Nat := 0
def stShort : Nat := 1
def stPoison : Nat := 2
def stFault : Nat := 3
def stRevoked : Nat := 4
def stOwner : Nat := 5
def stRetry : Nat := 6
def stFenced : Nat := 7
def stTierFull : Nat := 8
def stFormat : Nat := 9
def stBounds : Nat := 10
def stResidue : Nat := 11
def stTimeout : Nat := 12
def stAborted : Nat := 13
def stVersion : Nat := 14
def stDenied : Nat := 15

/-- The lower of two statuses that is not OK (R137). -/
def worse (a b : Nat) : Nat := if a = 0 then b else if b = 0 then a else min a b

/-! Message bytes (R276). -/

/-- The length of a message: the header and the body, padded to a multiple of 8. -/
def msgLen (m : FabMsg) : Nat := 16 + 8 * ceilDiv m.body.length 8

/-- The FLAGS byte of a message. -/
def msgFlags (m : FabMsg) : Nat :=
  b2n m.first + 2 * b2n m.ackReq + 4 * b2n m.poison + 8 * b2n m.pin + 16 * (m.vc % 8)

/-- The bytes of a message. -/
def msgBytes (m : FabMsg) : List Byte :=
  leBytes 2 (m.dst % 4096) ++ leBytes 2 (if m.noId then 2 ^ 15 else m.src % 4096) ++ leBytes 3 (m.sidx % 2 ^ 20)
  ++ leBytes 1 m.type ++ leBytes 1 (msgFlags m) ++ leBytes 2 m.tag ++ leBytes 2 (m.ord % 1024 + 1024 * (m.part % 64))
  ++ leBytes 1 m.age ++ leBytes 2 (16 * (msgLen m / 8) + m.status % 16)
  ++ slice m.body 0 (msgLen m - 16)

/-- The length that a header states. -/
def headLen (bs : List Byte) : Nat := 8 * (fld bs 14 2 / 16)

/-- The message that a byte string of its own length spells. -/
def msgOf (bs : List Byte) : FabMsg :=
  let fl := fld bs 8 1
  { dst := fld bs 0 2 % 4096, src := fld bs 2 2 % 4096, noId := bit (fld bs 2 2) 15, sidx := fld bs 4 3 % 2 ^ 20
    type := fld bs 7 1, first := bit fl 0, ackReq := bit fl 1, poison := bit fl 2, pin := bit fl 3, vc := bits fl 6 4
    tag := fld bs 9 2, ord := fld bs 11 2 % 1024, part := fld bs 11 2 / 1024, age := fld bs 13 1
    status := fld bs 14 2 % 16, body := (bs.take (headLen bs)).drop 16 }

/-- Cut the whole messages off the front of a byte stream; PAD is dropped (R273). -/
def cutMsgs : Nat → List Byte → List FabMsg × List Byte
  | 0, bs => ([], bs)
  | fuel + 1, bs =>
    if bs.length < 16 then ([], bs)
    else
      let n := headLen bs
      if n < 16 then ([], [])
      else if bs.length < n then ([], bs)
      else
        let (ms, r) := cutMsgs fuel (bs.drop n)
        if fld bs 7 1 = 0 then (ms, r) else (msgOf bs :: ms, r)

/-- The group of a message type (R277, R290): 0, 1 or 2. -/
def typeGroup (t : Nat) : Nat :=
  if t ≥ 0x80 then 0 else if t = 1 ∨ t = 2 ∨ t = 3 ∨ t = 4 ∨ t = 9 then 1 else 2

/-- Whether a type is write-class (R277). -/
def writeClass (t : Nat) : Bool := t == 2 || t == 3 || t == 4 || t == 6 || t == 7

/-- The credits that a message spends (R274); NEIGH and PAD never leave the link and spend none. -/
def msgCredits (m : FabMsg) : Nat := if m.type = 0 ∨ m.type = 0x0B then 0 else ceilDiv (msgLen m) 64

/-! Ports and their link (R270, R273, R274). -/

/-- A port's state. -/
def Dev.port (d : Dev) (p : Nat) : PortSt := smGet p PortSt.empty d.ports

/-- Set a port's state. -/
def Dev.setPort (d : Dev) (p : Nat) (x : PortSt) : Dev := { d with ports := smPut PortSt.empty p x d.ports }

/-- Put a port into a state, with the pins of its module (R270, R409). -/
def Dev.setPortSt (d : Dev) (p : Nat) (st : PortState) : Dev :=
  let d := d.setPort p { d.port p with st := st }
  { d with pins := { d.pins with
      lmodEn := nsSet p (st == .training || st == .up || st == .doze) d.pins.lmodEn
      lmodKa := nsSet p (st == .doze) d.pins.lmodKa } }

/-- Start a training attempt (R270, R271). -/
def Dev.train (d : Dev) (p : Nat) : Dev := (d.setPortSt p .training).stat (0x10200 + 8 * p) 47 32 1

/-- Whether a port is UP. -/
def Dev.portUp (d : Dev) (p : Nat) : Bool := (d.port p).st == .up

/-- The credits in hand for a VC: its reserved ones and the shared pool. -/
def creditsFor (cr : List Nat) (vc : Nat) : Nat := nth cr vc 0 + nth cr 6 0

/-- Spend `n` credits of a VC, the reserved ones first. -/
def spendCredits (cr : List Nat) (vc n : Nat) : List Nat :=
  let own := min n (nth cr vc 0)
  (cr.set vc (nth cr vc 0 - own)).set 6 (nth cr 6 0 - (n - own))

/-- The return of credits that the next flit carries: the lowest VC with any owed, or none. -/
def owedNext (owed : List Nat) : Nat × Nat × List Nat :=
  match (List.range 7).find? (fun v => nth owed v 0 > 0) with
  | some v => let n := min 4095 (nth owed v 0); (v, n, owed.set v (nth owed v 0 - n))
  | none => (0, 0, owed)

/-- Put one flit of message space on the wire. -/
def emitFlit (p : Nat) (x : PortSt) (space : List Byte) : PortSt × Out :=
  let (v, n, owed) := owedNext x.owed
  let f : Flit := ⟨x.txSeq, x.rxGood, false, v, n, space⟩
  ({ x with txSeq := (x.txSeq + 1) % 4096, retry := x.retry ++ [f], owed := owed }, .flit p f)

/-- A PAD message that fills `n` bytes of space. -/
def padBytes (n : Nat) : List Byte :=
  msgBytes ⟨0, 0, false, 0, 0, false, false, false, false, 0, 0, 0, 0, 0, 0, List.replicate (n - 16) 0⟩

/-- The message space of the flits that carry a message: its bytes, filled up with PAD. A gap of 8 bytes takes a PAD
that runs on through the next flit. -/
def msgSpace (m : FabMsg) : List (List Byte) :=
  let bs := msgBytes m
  let gap := (248 - bs.length % 248) % 248
  let pad := if gap = 0 then [] else if gap < 16 then padBytes (gap + 248) else padBytes gap
  chunks 248 (bs ++ pad)

/-- Put a message on the wire of an UP port. -/
def emitMsg (p : Nat) (x : PortSt) (m : FabMsg) : PortSt × List Out :=
  (msgSpace m).foldl (fun (a : PortSt × List Out) sp => let (y, o) := emitFlit p a.1 sp; (y, o :: a.2))
    ({ x with credits := spendCredits x.credits m.vc (msgCredits m) }, [])

/-- The message that a queue entry sends at its turn: its AGE grows by the time it has been queued, in units of 4 µs (R282). Part of a unit
is dropped (DESIGN CHOICE, log entry 188). -/
def Dev.aged (d : Dev) (q : Queued) : FabMsg := { q.msg with age := min 255 (q.msg.age + (d.ticks - q.since) / 4000) }

/-- The credits of port `p` and a VC that messages hold which wait in a queue. -/
def queuedUse (p vc : Nat) (qs : List Queued) : Nat :=
  (qs.filter (fun q => q.inp == p && q.vc == vc)).foldl (fun a q => a + msgCredits q.msg) 0

/-- The credits in use of a VC of a port's receive buffer: by the messages received and not yet taken up, and by those in transit that
have not left. -/
def Dev.vcUse (d : Dev) (p vc : Nat) : Nat :=
  (d.inbox.filter (fun q => q.1 == p && q.2.vc == vc)).foldl (fun a q => a + msgCredits q.2) 0
  + d.ports.foldl (fun a x => a + queuedUse p vc x.2.txq) 0

/-- Owe a port's neighbour the `n` credits of a buffer that is free again, shared ones first, where `used` were in use. -/
def Dev.oweCredits (d : Dev) (p vc n used : Nat) : Dev :=
  if p ≥ 16 then d
  else
    let sh := min n (used - 128)
    let x := d.port p
    let owed := x.owed ++ List.replicate (7 - x.owed.length) 0
    let owed := owed.set vc (nth owed vc 0 + (n - sh))
    d.setPort p { x with owed := owed.set 6 (nth owed 6 0 + sh) }

/-- Free the receive buffers of messages that have left their queue, in order. -/
def Dev.releaseAll (d : Dev) : List Queued → Dev
  | [] => d
  | q :: qs => Dev.releaseAll (d.oweCredits q.inp q.vc (msgCredits q.msg) (d.vcUse q.inp q.vc + queuedUse q.inp q.vc (q :: qs))) qs

/-- What a port's queue comes to as it is sent: the port, the flits, the VCs that wait, what stays, what has gone, and what was discarded for
its age. -/
structure Pumping where
  port : PortSt
  outs : List Out
  blocked : List Nat
  left : List Queued
  gone : List Queued
  aged : Nat

/-- Send the next message of a queue, unless its VC waits. -/
def Dev.pumpOne (d : Dev) (p : Nat) (a : Pumping) (q : Queued) : Pumping :=
  let m := d.aged q
  if m.age ≥ 250 ∧ m.type ≠ 0x0B then { a with gone := a.gone ++ [q], aged := a.aged + 1 }
  else if a.blocked.contains m.vc || decide (creditsFor a.port.credits m.vc < msgCredits m)
      || decide (a.port.retry.length + (msgSpace m).length > 1024) then
    { a with blocked := m.vc :: a.blocked, left := a.left ++ [q] }
  else
    let (y, o) := emitMsg p a.port m
    { a with port := y, outs := o ++ a.outs, gone := a.gone ++ [q] }

/-- Send what the port's queue holds, as far as credits and the retry buffer of 1,024 flits allow; no VC waits for
another. A message whose AGE has reached 250 is discarded (R282). -/
def Dev.pump (d : Dev) (p : Nat) : Dev :=
  let x := d.port p
  if x.st != .up then d
  else
    let r := x.txq.foldl (d.pumpOne p) ⟨x, [], [], [], [], 0⟩
    let d := { d.setPort p { r.port with txq := r.left } with out := r.outs ++ d.out }
    (if r.aged = 0 then d else d.stat 0x10030 31 16 r.aged).releaseAll r.gone

/-- Queue a message on a port. -/
def Dev.enqueue (d : Dev) (p : Nat) (q : Queued) : Dev :=
  let x := d.port p
  (d.setPort p { x with txq := x.txq ++ [q] }).pump p

/-- Take a received message up: its buffer is free again and its credits are owed. -/
def Dev.takeUp (d : Dev) (p : Nat) (m : FabMsg) : Dev :=
  if d.inbox.contains (p, m) then
    ({ d with inbox := d.inbox.erase (p, m) } : Dev).oweCredits p m.vc (msgCredits m) (d.vcUse p m.vc)
  else d

/-! Routing (R288, R289). -/

/-- One step of CRC-32C over a bit. -/
def crcBit (c : Nat) : Nat := if c % 2 = 1 then (c / 2) ^^^ 0x82F63B78 else c / 2

/-- CRC-32C of a byte string. -/
def crc32c (bs : List Byte) : Nat :=
  (bs.foldl (fun c b => crcBit (crcBit (crcBit (crcBit (crcBit (crcBit (crcBit (crcBit (c ^^^ b.toNat)))))))))
    0xFFFFFFFF) ^^^ 0xFFFFFFFF

/-- What the router finds for a message. -/
inductive Route where
  | here
  | via (port vc : Nat)
  | fenced
  | none
  deriving DecidableEq, Repr

/-- The VC after a candidate's VCR. -/
def vcAfter (vc vcr : Nat) : Nat := if vcr = 1 then vc / 2 * 2 else if vcr = 2 then vc / 2 * 2 + 1 else vc

/-- The route entry of a node. -/
def Dev.rtEntry (d : Dev) (n : Nat) : Nat := d.reg (0x14000 + 4 * n)

/-- Whether input `i` may leave by port `p`, or, for 16, be delivered here (R297). -/
def Dev.turnOk (d : Dev) (i p : Nat) : Bool := bit (d.reg (0x10400 + 4 * i)) p

/-- The candidates of an entry for input `i` among the ports that `ok` admits (R288, R289). -/
def Dev.candidates (d : Dev) (e i : Nat) (ok : PortSt → Bool) : List (Nat × Nat) :=
  ((List.range 4).map (fun c => (bits e (7 * c + 4) (7 * c), bits e (7 * c + 6) (7 * c + 5)))).filter (fun c =>
    decide (c.1 < 16) && c.2 != 3 && ok (d.port c.1) && d.turnOk i c.1)

/-- Whether a port holds messages until it trains (R272): in DOZE, or in the training that follows it. -/
def dozing (x : PortSt) : Bool := x.st == .doze || (x.st == .training && x.waking)

/-- Choose among live candidates. -/
def Dev.pick (d : Dev) (m : FabMsg) (cs : List (Nat × Nat)) : Route :=
  match cs with
  | [] => .none
  | c0 :: _ =>
    let c := if m.pin then
        nth cs (crc32c (leBytes 2 m.dst ++ leBytes 2 m.src ++ leBytes 3 m.sidx) % cs.length) c0
      else cs.foldl (fun b c => if creditsFor (d.port c.1).credits (vcAfter m.vc c.2)
                                    > creditsFor (d.port b.1).credits (vcAfter m.vc b.2) then c else b) c0
    .via c.1 (vcAfter m.vc c.2)

/-- The router's choice for a message on input `i` (R289). A port in DOZE is taken when no candidate is UP, and the
message wakes it (R272, R296). -/
def Dev.route (d : Dev) (i : Nat) (m : FabMsg) : Route :=
  if d.hasNode && m.dst == d.node then (if d.turnOk i 16 then .here else .none)
  else
    let e := d.rtEntry m.dst
    if ! bit e 31 then (if bit e 30 then .fenced else .none)
    else match d.candidates e i (fun x => x.st == .up) with
      | [] => match d.candidates e i dozing with
        | [] => if bit e 30 then .fenced else .none
        | cs => d.pick m cs
      | cs => d.pick m cs

/-- Whether data messages are routed and delivered here (R291, R297). -/
def Dev.routing (d : Dev) : Bool := d.rf 0x10004 0 0 == 1 && d.partition.isSome

/-- Send a message onward from the input that it came on. A message in transit holds its receive buffer until it leaves; one without a live
candidate is discarded and counted in NOROUTE. -/
def Dev.sendOn (d : Dev) (q : Queued) : Dev :=
  let m := { q.msg with vc := q.vc }
  match d.route q.inp m with
  | .here => { d with inbox := d.inbox ++ [(q.inp, m)] }
  | .via p vc => d.enqueue p { q with msg := { m with vc := vc } }
  | _ => (d.stat 0x10030 47 32 1).releaseAll [q]

/-- Send a message that has come on input `i`, or of this node's own, onward. -/
def Dev.forward (d : Dev) (i : Nat) (m : FabMsg) : Dev := d.sendOn ⟨i, m.vc, d.ticks, m⟩

/-- A message of this node's own, with its header filled in. -/
def Dev.ownMsg (d : Dev) (dst sidx type : Nat) (body : List Byte) : FabMsg :=
  { dst := dst, src := if d.hasNode then d.node else 0, noId := ! d.hasNode, sidx := sidx, type := type, first := false
    ackReq := false, poison := false, pin := false, vc := 2 * typeGroup type, tag := d.tagCtr, ord := 0
    part := (d.partition).getD 0, age := 0, status := 0, body := body }

/-- Send a response to a request. -/
def Dev.respond (d : Dev) (req : FabMsg) (type status ord : Nat) (poison : Bool) (body : List Byte) : Dev :=
  let m := { d.ownMsg req.src req.sidx type body with tag := req.tag, ord := ord, status := status % 16, poison := poison }
  if d.routing then d.forward 16 m else d

/-- What issuing a request here finds (R289 step 4): nothing, or the status it completes with at once. A request to a node
whose entry has FENCED set completes with FENCED (R291). -/
def Dev.issueStatus (d : Dev) (dst : Nat) : Option Nat :=
  if ! d.routing then some stFenced
  else if bit (d.rtEntry dst) 30 && ! (d.hasNode && dst == d.node) then some stFenced
  else match d.route 16 (d.ownMsg dst 0 1 []) with
    | .fenced => some stFenced
    | .none => some stBounds
    | _ => none

/-- The descriptor that a request of this node is made for. -/
def ownerDesc : ReqFor → Option DescId
  | .desc i _ => some i
  | .subdesc i => some i
  | .rowMove i _ _ => some i
  | _ => none

/-- Count in the set of a descriptor's function (R383). -/
def Dev.countDesc (d : Dev) (i : DescId) (code n : Nat) : Dev :=
  match smGet? i.queue d.queues with
  | none => d
  | some x => d.count x.fn code n

/-- Charge message bytes to a descriptor's function and composition (R383, R395): code 0x08 sent, 0x09 received. -/
def Dev.chargeFab (d : Dev) (i : DescId) (code n : Nat) : Dev :=
  match (smGet? i.queue d.queues).bind (fun x => x.running.find? (fun r => r.seq == i.seq)) with
  | none => d
  | some r => (d.countDesc i code n).meter r.comp 3 n

/-- Send a message of this node's own, charged to the descriptor it is sent for. -/
def Dev.sendOwn (d : Dev) (m : FabMsg) : Dev :=
  let who := (d.fabOut.find? (fun o => o.msg.dst == m.dst && o.msg.sidx == m.sidx && o.msg.tag == m.tag)).bind
    (fun o => ownerDesc o.owner)
  (match who with
   | some i => d.chargeFab i 0x08 (msgLen m)
   | none => d).forward 16 m

/-- Issue a request that is not write-class, remembering who waits for its answer. -/
def Dev.request (d : Dev) (dst sidx type : Nat) (body : List Byte) (owner : ReqFor) : Dev :=
  let m := d.ownMsg dst sidx type body
  let d := { d with tagCtr := (d.tagCtr + 1) % 65536, fabOut := d.fabOut ++ [FabOut.mk m owner []] }
  d.sendOwn m

/-! Flows at their source (R280). -/

/-- How many of a flow's unacknowledged messages may be on the way: 256, and one ATOM among them. -/
def flowWindow (ms : List FabMsg) : Nat :=
  (ms.foldl (fun (a : Nat × Bool × Bool) m =>
    let (n, atom, closed) := a
    if closed || decide (n ≥ 256) || (atom && m.type == 4) then (n, atom, true)
    else (n + 1, atom || m.type == 4, false)) (0, false, false)).1

/-- The flow of a source index to a node. -/
def Dev.flowOut (d : Dev) (dst sidx : Nat) : Option FlowOut :=
  d.flowsOut.find? (fun f => f.dst == dst && f.sidx == sidx)

/-- Put a flow's state back. -/
def Dev.setFlowOut (d : Dev) (f : FlowOut) : Dev :=
  if d.flowsOut.any (fun g => g.dst == f.dst && g.sidx == f.sidx) then
    { d with flowsOut := d.flowsOut.map (fun g => if g.dst == f.dst && g.sidx == f.sidx then f else g) }
  else { d with flowsOut := d.flowsOut ++ [f] }

/-- Send a list of a flow's messages again or for the first time. -/
def Dev.sendAll (d : Dev) (ms : List FabMsg) : Dev := ms.foldl (fun d m => d.sendOwn m) d

/-- Issue a write-class message in its flow. -/
def Dev.writeOut (d : Dev) (dst sidx type : Nat) (body : List Byte) (ack poison : Bool) (owner : ReqFor) : Dev :=
  let f := (d.flowOut dst sidx).getD ⟨sidx, dst, 0, true, []⟩
  let m := { d.ownMsg dst sidx type body with first := f.fresh, pin := true, ackReq := ack, poison := poison, ord := f.next }
  let un := f.unacked ++ [m]
  let open_ := decide (flowWindow un = un.length)
  let d := { d with tagCtr := (d.tagCtr + 1) % 65536, fabOut := d.fabOut ++ [FabOut.mk m owner []] }
  let d := d.setFlowOut { f with next := (f.next + 1) % 1024, fresh := false, unacked := un }
  if open_ then d.sendOwn m else d

/-- The position of an ORD among a flow's messages on the way. -/
def ordAt (f : FlowOut) (ord : Nat) : Option Nat :=
  (f.unacked.take (flowWindow f.unacked)).findIdx? (fun m => m.ord == ord)

/-- Take the messages up to and including `ord` as acknowledged: what they were, and the messages that may now go. -/
def Dev.ackFlow (d : Dev) (dst sidx ord : Nat) : List FabMsg × Dev :=
  match d.flowOut dst sidx with
  | none => ([], d)
  | some f => match ordAt f ord with
    | none => ([], d)
    | some i =>
      let before := flowWindow f.unacked
      let rest := f.unacked.drop (i + 1)
      let after := flowWindow rest
      let fresh := (rest.take after).drop (before - (i + 1))
      let d := d.setFlowOut { f with unacked := rest }
      (f.unacked.take (i + 1), d.sendAll fresh)

/-- Resend a flow from one of its unacknowledged messages (R280, R282); with FIRST where `first` holds. -/
def Dev.resendFrom (d : Dev) (dst sidx i : Nat) (first : Bool) : Dev :=
  match d.flowOut dst sidx with
  | none => d
  | some f =>
    let un := f.unacked.take i ++ (match f.unacked.drop i with
      | m :: ms => (if first then { m with first := true } else m) :: ms
      | [] => [])
    let d := d.setFlowOut { f with unacked := un }
    d.sendAll ((un.take (flowWindow un)).drop i)

/-- End a flow (R282): its messages fail, and the next one starts it again with FIRST. -/
def Dev.endFlow (d : Dev) (dst sidx : Nat) : List FabMsg × Dev :=
  match d.flowOut dst sidx with
  | none => ([], d)
  | some f => (f.unacked, d.setFlowOut { f with unacked := [], fresh := true })

/-- The request that a response answers (R276). -/
def Dev.fabReq (d : Dev) (dst sidx tag : Nat) : Option FabOut :=
  d.fabOut.find? (fun o => o.msg.dst == dst && o.msg.sidx == sidx && o.msg.tag == tag)

/-- Forget a request. -/
def Dev.dropReq (d : Dev) (dst sidx tag : Nat) : Dev :=
  { d with fabOut := d.fabOut.filter (fun o => ! (o.msg.dst == dst && o.msg.sidx == sidx && o.msg.tag == tag)) }

/-! Started descriptors, as responses reach them. -/

/-- Change a started descriptor. -/
def Dev.modStarted (d : Dev) (q seq : Nat) (g : Started → Started) : Dev :=
  { d with queues := smMod q (fun x => { x with running := x.running.map (fun r => if r.seq = seq then g r else r) }) d.queues }

/-- Report a status for a part of a started descriptor (R137). -/
def Dev.noteStatus (d : Dev) (q seq st : Nat) : Dev :=
  d.modStarted q seq (fun r => { r with status := worse r.status st, detail := r.detail ||| 2 ^ (st % 16) })

end Sys2Proof.Machine
end

