-- ==== Sys2Proof/Machine/Home.lean ====
section
/-! DEFINITION. Home: extents and erasure groups of a frame, the write of a line with its parity deltas, the conditions an
access meets before it is served, and the coherence directory (R21, R22, R75, R83, R90 to R101, R300, R310 to R313). -/

namespace Sys2Proof.Machine

open Sys2Proof

/-! Extents (R298 to R300). -/

/-- EXT_TAB_BASE.EN. -/
def Dev.extOn (d : Dev) : Bool := d.rf 0xD000 0 0 == 1

/-- Whether an offset lies in the extent table (R299). -/
def Dev.inExtTab (d : Dev) (off : Nat) : Bool :=
  let base := bits (d.reg 0xD000) 47 16 * 65536
  d.extOn && decide (base ≤ off ∧ off < base + 2097152)

/-- The extent of a frame. -/
def Dev.extAt (d : Dev) (f : Nat) : Option Extent :=
  if d.extOn then d.extents.find? (fun e => decide (e.first ≤ f ∧ f < e.first + e.frames)) else none

/-- STATE of an extent entry (R299). -/
def extCode : ExtState → Nat
  | .active => 1
  | .lapsed => 2
  | .source => 3
  | .dest => 4
  | .doubt => 5
  | .moved => 6
  | .revoked => 7

/-- The bytes of an extent entry (R299). -/
def extBytes (e : Extent) : List Byte :=
  leBytes 4 e.id ++ leBytes 4 e.epoch ++ leBytes 4 e.first ++ leBytes 4 e.frames ++ leBytes 2 (e.comp % 1024)
  ++ leBytes 1 (extCode e.st) ++ leBytes 1 (b2n e.leased)
  ++ leBytes 2 (match e.peer with | some p => p % 4096 | none => 2 ^ 15) ++ List.replicate 10 0

/-- Write an extent's entry, or zeros for a freed one, into the table. -/
def Dev.syncExt (d : Dev) (slot : Nat) (bs : List Byte) : Dev :=
  Dev.setBytes bs (bits (d.reg 0xD000) 47 16 * 65536 + 32 * slot) d

/-- Put an extent's entry in place of the one with its ID, or in addition. -/
def Dev.setExt (d : Dev) (e : Extent) : Dev :=
  let d := if d.extents.any (fun x => x.id == e.id) then
      { d with extents := d.extents.map (fun x => if x.id = e.id then e else x) }
    else { d with extents := d.extents ++ [e] }
  d.syncExt e.slot (extBytes e)

/-- Remove an extent's entry. -/
def Dev.dropExt (d : Dev) (e : Extent) : Dev :=
  { d with extents := d.extents.filter (fun x => x.id != e.id) }.syncExt e.slot (List.replicate 32 0)

/-- The extent with an ID. -/
def Dev.extBy (d : Dev) (id : Nat) : Option Extent := d.extents.find? (fun e => e.id == id)

/-- Whether a node is a member of a composition (R300). -/
def Dev.member (d : Dev) (comp node : Nat) : Bool := bit (smGet (64 * comp + node / 64) 0 d.membs) (node % 64)

/-- What an extent's state answers to a fabric request or descriptor access: the status, 0 where it is served. -/
def extStatus : ExtState → Nat
  | .active | .source => stOk
  | .lapsed | .dest | .doubt => stOwner
  | .moved | .revoked => stRevoked

/-- Whether a host access is served by the extent's state. -/
def Dev.hostServed (d : Dev) (f : Nat) : Bool :=
  match d.extAt f with
  | none => true
  | some e => extStatus e.st == 0

/-- Record a refusal of R300: one event per source, per extent, per accounting window. -/
def Dev.extRefusal (d : Dev) (f src : Nat) (body : List EvField) : Dev :=
  match d.extAt f with
  | none => d
  | some e => d.eventWindow .extentState (e.id * 2 ^ 24 + src) ([.extent e.id e.epoch] ++ body)

/-! Erasure groups (R310 to R313). -/

/-- The fields of an erasure-group record held as 20 words. -/
def egId (w : List Nat) : Nat := bits (nth w 0 0) 15 0
def egK (w : List Nat) : Nat := bits (nth w 0 0) 23 16
def egSelf (w : List Nat) : Nat := bits (nth w 0 0) 31 24
def egDurable (w : List Nat) : Bool := bit (nth w 0 0) 32
def egValid (w : List Nat) : Bool := bit (nth w 0 0) 39
def egStripes (w : List Nat) : Nat := bits (nth w 1 0) 31 0
def egBase (w : List Nat) (i : Nat) : Nat := bits (nth w (4 + i) 0) 31 0
def egNode (w : List Nat) (i : Nat) : Nat := bits (nth w (4 + i) 0) 43 32
def egLost (w : List Nat) (i : Nat) : Bool := bit (nth w (4 + i) 0) 63

/-- The record of a group that this Ndonte holds. -/
def Dev.eg (d : Dev) (id : Nat) : Option (List Nat) := (d.egs.find? (fun p => egValid p.2 && egId p.2 == id)).map (·.2)

/-- The group that protects a frame (R310). -/
def Dev.egOf (d : Dev) (f : Nat) : Option (List Nat) :=
  match smGet? f d.tmap with
  | none => none
  | some e =>
    let g := pEgroup (d.precOf e)
    if g = 0 then none
    else match d.eg g with
      | none => none
      | some w =>
        let s := egSelf w
        if decide (s < egK w) && decide (egBase w s ≤ f ∧ f < egBase w s + egStripes w) then some w else none

/-- Whether a frame names a group it is not in range of. -/
def Dev.egMisfit (d : Dev) (f : Nat) : Bool :=
  match smGet? f d.tmap with
  | none => false
  | some e => pEgroup (d.precOf e) != 0 && (d.egOf f).isNone

/-- The SIDX of the erasure engine (R278). -/
def sidxErasure : Nat := 3 * 2 ^ 18 + 3

/-- Send one PARITY message (R312). -/
def Dev.sendParity (d : Dev) (w : List Nat) (role stripe line : Nat) (delta : Line) (poison : Bool) (id : Nat) : Dev :=
  let body := leBytes 2 (egId w) ++ leBytes 1 (egSelf w) ++ leBytes 1 role ++ leBytes 4 stripe ++ leBytes 2 line
    ++ List.replicate 6 0 ++ lineBytes delta
  d.writeOut (egNode w (egK w + role)) sidxErasure 7 body true poison (.parity id)

/-- Send the parity of one line write of a protected frame (R312, R313), and hold what waits for it. In durable mode a holder that cannot be
reached is waited for as any other, until it is marked LOST. -/
def Dev.parityOf (d : Dev) (off : Nat) (old new : Line) (poison : Bool) (req : Option MemReq) : Dev × Bool :=
  let f := off / 65536
  match d.egOf f with
  | none => (if d.egMisfit f then d.eventWindow .egDegraded f [.frames f f] else d, false)
  | some w =>
    let id := d.parity.foldl (fun a p => max a (p.id + 1)) 0
    let delta := if poison then new else old ^^^ new
    let roles := [0, 1].filter (fun r => ! egLost w (egK w + r))
    let go := roles.filter (fun r => (d.issueStatus (egNode w (egK w + r))).isNone || egNode w (egK w + r) == d.node)
    let d := go.foldl (fun d r => d.sendParity w r (f - egBase w (egSelf w)) (off / 64 % 1024) delta poison id) d
    let await := if egDurable w then roles else go
    if await.isEmpty then (d, false)
    else
      let t : ParityWait := ⟨id, off / 64, f, egId w, await, egDurable w, if egDurable w then req else none⟩
      ({ d with parity := d.parity ++ [t] }, egDurable w)

/-! Physical lines (R90). -/

/-- The stack of a line, and its directory set (R90), numbered over all stacks. -/
def plineStack (pl : Nat) : Nat := pl / 2 ^ 31
def dirSet (pl : Nat) : Nat := plineStack pl * 19531250 + pl % 2 ^ 31 % 19531250

/-- The offset of a line, through the tier-map entry, or the promotion, that names its stack frame. -/
def Dev.lineOff (d : Dev) (pl : Nat) : Nat :=
  match d.tmap.find? (fun p => p.2.tier == 0 && ! p.2.psn && p.2.loc == pl / 1024) with
  | some p => 65536 * p.1 + 64 * (pl % 1024)
  | none => match d.moves.find? (fun p => p.2.kind == .promote && p.2.queued == 0 && p.2.dest == pl / 1024) with
    | some p => 65536 * p.1 + 64 * (pl % 1024)
    | none => 0

/-- Raise a watch event to a block (R95). -/
def Dev.raise (d : Dev) (a : Armer) : Dev := if d.raised.contains a then d else { d with raised := d.raised ++ [a] }

/-- The blocks that watch a line (R95). -/
def Dev.watchers (d : Dev) (pl : Nat) : List Armer :=
  ((smGet? pl d.dir).bind (·.watch)).toList ++ (d.coWatch.filter (fun p => p.1 == pl)).map (·.2)

/-- Raise the watch event of a line to every block that watches it. -/
def Dev.raiseLine (d : Dev) (pl : Nat) : Dev := (d.watchers pl).foldl (fun d a => d.raise a) d

/-- Free every directory entry of a stack frame, whose lines no host holds any more, with what is known of its lines. -/
def Dev.dropLoc (d : Dev) (loc : Nat) : Dev :=
  { d with
    dir := smEraseRange (1024 * loc) (1024 * loc + 1024) d.dir
    snoopDue := d.snoopDue.filter (fun pl => pl / 1024 != loc)
    coWatch := d.coWatch.filter (fun p => p.1 / 1024 != loc)
    timedOut := d.timedOut.filter (fun p => p.2 / 1024 != loc) }

/-! Writes at home. -/

/-- Mark a frame as written in the copy bitmap of its transfer (R306 step 4). -/
def Dev.markCopied (d : Dev) (f : Nat) : Dev :=
  match d.extAt f with
  | none => d
  | some e => { d with xfers := d.xfers.map (fun x =>
      if x.extent == e.id then { x with todo := nsAdd (f - e.first) x.todo } else x) }

/-- Whether a write is that of a SCATTER_ADD (R223). -/
def Dev.scatters (d : Dev) (req : Option MemReq) : Bool :=
  match req with
  | some (.desc q n _ _) => ((smGet? q d.queues).bind (fun x => x.running.find? (fun r => r.seq == n && lf r.bytes 0 1 == 0x19))).isSome
  | _ => false

/-- Whether a masked write to the line at an offset writes a byte of a cached row. -/
def RowLine.written (r : RowLine) (off : Nat) (m : LineMask) : Bool :=
  (List.range 64).any (fun i => m.getLsbD i && decide (r.off ≤ 64 * (off / 64) + i ∧ 64 * (off / 64) + i < r.off + r.data.length))

/-- Drop the cached rows that share a line with a write; the write of a SCATTER_ADD updates the row it writes in place (R223). -/
def Dev.dropRows (d : Dev) (off : Nat) (m : LineMask) (req : Option MemReq) : Dev :=
  let hit (r : RowLine) : Bool := ! r.data.isEmpty && decide (r.off / 64 ≤ off / 64)
    && decide (off / 64 ≤ (r.off + (r.data.length - 1)) / 64)
  { d with rowCache := d.rowCache.filterMap (fun r =>
      if ! hit r then some r
      else if r.written off m && d.scatters req then some { r with data := d.bytes r.off r.data.length }
      else none) }

/-- Apply a write to a line at home (R99, R111): the bytes and their poison, LAST and DIRTY, the parity deltas of a
protected frame, and the watch event of new data. Whether its acknowledgement waits for parity is the second answer. -/
def Dev.applyWrite (d : Dev) (off : Nat) (data : Line) (m : LineMask) (poison : Bool) (req : Option MemReq) : Dev × Bool :=
  let f := off / 65536
  let old := d.line off
  let bad := d.linePoisoned off || poison
  let d := ((((d.writeLine off data m poison).touch f true).dropRows off m req).markCopied f)
  let (d, wait) := d.parityOf off old (d.line off) bad req
  (match d.pline off with
   | some pl => d.raiseLine pl
   | none => d, wait)

/-- Apply a write whose halves have poison of their own (R99). -/
def Dev.applyHalves (d : Dev) (off : Nat) (data : Line) (m : LineMask) (p0 p1 : Bool) (req : Option MemReq) : Dev × Bool :=
  if p0 = p1 then d.applyWrite off data m p0 req
  else (d.applyWrite off data (m &&& rangeMask 0 32) p0 none).1.applyWrite off data (m &&& rangeMask 32 64) p1 req

/-- Write a line with poison, as at a BISnp timeout (R98 step 1). -/
def Dev.poisonHome (d : Dev) (off : Nat) : Dev := (d.applyWrite off 0 fullMask true none).1

/-! The gate: what an access meets before it reaches the directory. -/

/-- The answer of the gate. -/
inductive Gate where
  | go
  | hold (w : WaitOn)
  | fail (st : Nat)
  deriving DecidableEq, Repr

/-! Starting promotions (R72, R73). -/

/-- The SIDX of the turntable mover that moves a frame (R278). -/
def sidxMover (f : Nat) : Nat := 2 * 2 ^ 18 + f % 64

/-- The survivors from which a lost frame of an erasure group is rebuilt (R316): member indices, P where it stands and
otherwise Q. None where the group does not allow it. -/
def egSurvivors (w : List Nat) : Option (List Nat) :=
  let k := egK w
  let ms := (List.range k).filter (· ≠ egSelf w)
  if ms.any (egLost w) then none
  else if ! egLost w k then some (ms ++ [k])
  else if ! egLost w (k + 1) then some (ms ++ [k + 1])
  else none

/-- The factor of a survivor's bytes in the rebuilt unit (R316). -/
def egCoeff (w : List Nat) (i : Nat) : Nat :=
  let k := egK w
  if ! egLost w k then 1
  else
    let inv := gfInv (gfExp (egSelf w))
    if i = k + 1 then inv else gfMul (gfExp i) inv

/-- Read the survivors of a frame's stripe for its rebuild; none where one cannot be asked. -/
def Dev.rebuildReads (d : Dev) (f : Nat) : Option Dev :=
  match d.egOf f with
  | none => none
  | some w => match egSurvivors w with
    | none => none
    | some ms =>
      if ms.any (fun i => (d.issueStatus (egNode w i)).isSome) then none
      else some (ms.foldl (fun d i =>
        let fa := egNode w i * 2 ^ 48 + 65536 * (egBase w i + (f - egBase w (egSelf w)))
        d.request (egNode w i) sidxErasure 5 (leBytes 8 fa ++ leBytes 4 65536 ++ List.replicate 4 0) (.rebuild f)) d)

/-- Ask for a promotion's source: a bulk read of the peer, or the host page's DMA, once it has its stack frame. With a peer that cannot be reached a
shard is rebuilt from its group (R314). None where the source is unreadable. -/
def Dev.fetchSource (d : Dev) (f : Nat) (m : Move) : Option Dev :=
  if m.queued ≠ 0 then some d
  else if m.destTier = 2 then
    match d.issueStatus (m.destRemote.addr / 2 ^ 48) with
    | none => some (d.request (m.destRemote.addr / 2 ^ 48) (sidxMover f) 5
        (leBytes 8 m.destRemote.addr ++ leBytes 4 65536 ++ List.replicate 4 0) (.promote f))
    | some _ => if m.destRemote.kind = 1 then d.rebuildReads f else none
  else if m.destTier = 3 then
    let fn := pFunc m.under
    if d.enabledFns.contains fn then some (d.send (.dmaRead fn m.destRemote.addr 65536)) else none
  else some d

/-- Start a promotion and ask for its source, or join the one in progress. -/
def Dev.beginPromo (d : Dev) (f : Nat) (e : TEntry) (demand : Bool) : PromoStart × Dev :=
  match d.startPromotion f e demand with
  | (.started, d) => match smGet? f d.moves with
    | none => (.started, d)
    | some m => match d.fetchSource f m with
      | some d => (.started, d)
      | none => (.unreadable, d.failPromotion f)
  | r => r

/-- The prefetch that a demand promotion of frame `f` starts (R72). A frame that finds no mover waits for one. -/
def Dev.prefetch (d : Dev) (f : Nat) (e : TEntry) : Dev :=
  let next := (List.range 4).map (fun i => f + 1 + i)
  let same (g : Nat) : Bool := match d.entry g with
    | some x => x.prec == e.prec && x.tier != 0
    | none => false
  if pPrefetch (d.precOf e) && decide (f ≥ 2) && d.demandedLately (f - 1) && d.demandedLately (f - 2) && next.all same then
    next.foldl (fun d g => match d.entry g with
      | some x => match d.beginPromo g x false with
        | (.noRoom, d) => { d with wantPromo := nsAdd g d.wantPromo }
        | (_, d) => d
      | none => d) d
  else d

/-- The access of a frame whose promotion runs or starts: a read waits for its sub-block (R22), a write for the whole
move (R75). -/
def Dev.gateMoving (d : Dev) (off : Nat) (write : Bool) : Gate :=
  let f := off / 65536
  let sub := off % 65536 / 4096
  match smGet? f d.moves with
  | some m => if ! write && bit m.landed sub then .go else if write then .hold (.move f) else .hold (.subBlock f sub)
  | none => .hold .frameRoom

/-- An access or a promotion that fails for want of a slot's cask (R333): one event per 1-second window. -/
def Dev.lostCask (d : Dev) (slot : Nat) : Dev :=
  d.eventSecond .caskPulled slot [.slot slot (((d.slot slot).cask.map (·.serial)).getD 0)]

/-- The access of a frame outside T0: it starts or joins a promotion (R21, R22, R72, R73). -/
def Dev.gateTier (d : Dev) (off : Nat) (write : Bool) (e : TEntry) : Gate × Dev :=
  let f := off / 65536
  let (r, d) := d.beginPromo f e true
  match r with
  | .started => (d.gateMoving off write, d.prefetch f e)
  | .joined => (d.gateMoving off write, d)
  | .noRoom =>
    let s := d.slot e.cslot
    (.hold (if e.tier == 1 && ! e.zero && (! s.readable || s.retrain || s.busy == 3) then .cask e.cslot else .frameRoom), d)
  | .full => (.fail stTierFull, d)
  | .unreadable => (.fail stPoison, if e.tier = 1 then d.lostCask e.cslot else d)

/-- What `openPend` holds for a promoted frame whose cask was pulled before its OPEN record was durable: the promotion has
failed, and the frame goes back to T1 once no host holds a line of it (R333). -/
def openLost : Nat := 5

/-- The access of a frame in T0: it abandons a demotion (R75), waits before a write for a relocation (R350) and for the
OPEN record (R83), and sets LAST (R71). -/
def Dev.gateT0 (d : Dev) (off : Nat) (write : Bool) (e : TEntry) : Gate × Dev :=
  let f := off / 65536
  let leaving : Bool := match smGet? f d.moves with | some m => m.kind == .demote | none => false
  let d := if leaving then (d.abandonDemotion f).touch f false else d
  if write && (match smGet? f d.moves with | some m => m.kind == .relocate | none => false) then (.hold (.move f), d)
  else if smGet? f d.openPend = some openLost then (.fail stPoison, d.lostCask e.cslot)
  else if write && (smGet? f d.openPend).isSome then
    (.hold (.openRecord f), if (d.openSlot e.cslot).isNone then d.eventSecond .openWait 0 [.frames f f] else d)
  else (.go, d.touch f false)

/-- The access of a frame lost in a rebuild (R82): reads are served as poison, the first write takes a pool frame. A demotion that is
storing its poison is abandoned (R75). -/
def Dev.gatePsn (d : Dev) (off : Nat) (write : Bool) : Gate × Dev :=
  let d := d.abandonDemotion (off / 65536)
  if ! write then (.go, d)
  else match d.alloc with
    | some loc => (.go, d.psnToT0 (off / 65536) loc)
    | none => (if d.isFull then .fail stTierFull else .hold .frameRoom, d)

/-- The tier-map part of the gate (R34, R82, R86, R424): `src` names the source in the event of R34. -/
def Dev.gateMap (d : Dev) (off : Nat) (src : List EvField) : Gate × Dev :=
  let f := off / 65536
  if d.mapOn && d.rootBusy.contains (f / 65536) then (.hold (.root (f / 65536)), d)
  else if d.mapOn && d.lostLeaves.contains (smGet (f / 65536) 65536 d.roots) then (.hold .rebuild, d)
  else match d.entry f with
    | none => (.fail stBounds, d.eventCounted .noEntry f ([.frames f f] ++ src))
    | some _ => (.go, d)

/-- The placement part of the gate: what an access of a frame that exists meets in its tier. -/
def Dev.gateFrame (d : Dev) (off : Nat) (write : Bool) : Gate × Dev :=
  match d.entry (off / 65536) with
  | none => (.fail stBounds, d)
  | some e =>
    if e.psn then d.gatePsn off write
    else if e.tier = 0 then d.gateT0 off write e
    else d.gateTier off write e

/-! The directory (R91 to R95). -/

/-- What a request wants of a line: S, A, data only, or a write. -/
inductive Want where
  | s
  | a
  | i
  | w
  deriving DecidableEq, Repr

/-- What the directory answers. -/
inductive DirAns where
  | serve
  | busy
  | held
  deriving DecidableEq, Repr

/-- The origin of window `n` of an LD (R38). -/
def Dev.winOrigin (d : Dev) (ld n : Nat) : Nat := d.reg (0x6400 + 8 * (8 * ld + n))

/-- The offset that an HPA names through the committed windows of an LD (R36). Where two of them cover the HPA, which no rule refuses or
resolves, the lowest-numbered decoder is taken (DESIGN CHOICE, log entry 177). -/
def Dev.hpaOff (d : Dev) (ld hpa : Nat) : Option Nat :=
  (List.range 8).findSome? (fun n => match smGet? (8 * ld + n) d.hdm with
    | some h => if decide (h.base ≤ hpa ∧ hpa < h.base + h.size) then some (hpa - h.base + d.winOrigin ld n) else none
    | none => none)

/-- The HPA of an offset in the committed windows of an LD (R36). A line of which no window of the LD is committed any more has none: the
offset itself stands for it (DESIGN CHOICE, log entry 177). -/
def Dev.hpaOf (d : Dev) (ld off : Nat) : Nat :=
  ((List.range 8).findSome? (fun n => match smGet? (8 * ld + n) d.hdm with
    | some h => if decide (d.winOrigin ld n ≤ off ∧ off < d.winOrigin ld n + h.size) then some (h.base + (off - d.winOrigin ld n)) else none
    | none => none)).getD off

/-- Whether a committed window of an LD covers an offset. -/
def Dev.covers (d : Dev) (ld off : Nat) : Bool :=
  (List.range 8).any (fun n => match smGet? (8 * ld + n) d.hdm with
    | some h => decide (d.winOrigin ld n ≤ off ∧ off < d.winOrigin ld n + h.size)
    | none => false)

/-- The LDs whose windows cover an offset (R93). -/
def Dev.covering (d : Dev) (off : Nat) : List Nat := (List.range 16).filter (fun ld => d.covers ld off)

/-- The sets of one section node that the directory cache holds: 786,432 shared out evenly (R28, R90). -/
def Dev.dirCacheMax (d : Dev) : Nat := 786432 / d.stacks

/-- The stack whose directory holds a set. -/
def setStack (s : Nat) : Nat := s / 19531250

/-- Bring a set into the directory cache of its section node (R90). Which set a full cache gives up is open. -/
def Dev.cacheSet (d : Dev) (s : Nat) : Dev :=
  if d.dirCache.contains s then d
  else
    let mine := d.dirCache.filter (fun x => setStack x == setStack s)
    if mine.length < d.dirCacheMax then { d with dirCache := nsAdd s d.dirCache }
    else
      let (v, d) := d.takeFree
      { d with dirCache := nsAdd s (nsDel (nth mine (v % mine.length) s) d.dirCache) }

/-- The hosts that may hold a line in SHARED. -/
def Dev.sharers (d : Dev) (e : DirEntry) (off : Nat) : List Nat := if e.ovf then d.covering off else e.ptrs

/-- The entries of a set. -/
def Dev.setEntries (d : Dev) (s : Nat) : SMap DirEntry := d.dir.filter (fun p => dirSet p.1 == s)

/-- An entry with no host: kept in NONE where it is watched, otherwise gone. -/
def Dev.freeEntry (d : Dev) (pl : Nat) (e : DirEntry) : Dev :=
  match e.watch with
  | some a => { d with dir := smSet pl ⟨.none, false, [], [], some a, none⟩ d.dir }
  | none => { d with dir := smErase pl d.dir, snoopDue := nsDel pl d.snoopDue }

/-- The hosts of a line that a back-invalidate can be sent to: those that still answer (R100). -/
def Dev.answering (d : Dev) (e : DirEntry) (off : Nat) : List Nat := (d.sharers e off).filter (fun l => ! d.unresp.contains l)

/-- Put an entry into a state with the given holders. -/
def Dev.putEntry (d : Dev) (pl : Nat) (st : DirState) (ptrs : List Nat) (w : Option Armer) : Dev :=
  { d with dir := smSet pl ⟨st, false, ptrs, ptrs, w, none⟩ d.dir }

/-- Add a sharer; a fifth distinct host sets OVF (R91). -/
def addSharer (e : DirEntry) (h : Nat) : DirEntry :=
  let seen := if e.seen.contains h then e.seen else e.seen ++ [h]
  if e.ovf || decide (seen.length > 4) then { e with ovf := true, ptrs := [], seen := seen }
  else { e with ptrs := if e.ptrs.contains h then e.ptrs else e.ptrs ++ [h], seen := seen }

/-- Grant OWNED to a host; on a watched line a snoop falls due (R95). -/
def Dev.grantOwned (d : Dev) (pl h : Nat) (w : Option Armer) : Dev :=
  let d := d.putEntry pl .owned [h] w
  if w.isSome then { d with snoopDue := nsAdd pl d.snoopDue } else d

/-- The home trackers that hold a request of a class at a section (R97): C3 for engines, otherwise C2. -/
def reqIsC3 : MemReq → Bool
  | .devRead .. | .devWrite .. | .desc .. | .arm .. | .notify .. => true
  | .hostRead .. | .hostWrite .. | .hostWb .. | .evict .. | .fab .. => false

/-- The section node of a line (R97). -/
def Dev.lineNode (d : Dev) (line : Nat) : Nat := plineStack ((d.pline (64 * line)).getD 0)

/-- The trackers in use at a section by one class: those of requests that back-invalidates hold, and those reserved with a starvation
mark (R97). -/
def Dev.trackers (d : Dev) (st : Nat) (c3 : Bool) : Nat :=
  let held := d.dir.filterMap (fun p => p.2.bi.bind (·.req))
  (d.dir.filter (fun p => plineStack p.1 == st && (match p.2.bi with
    | some b => (match b.req with | some r => reqIsC3 r == c3 | none => false)
    | none => false))).length
  + (d.refused.filter (fun r => r.mark.isSome && reqIsC3 r.req == c3 && ! held.contains r.req && d.lineNode r.line == st)).length

/-- Whether a tracker of the request's class is free at a section. -/
def Dev.trackerFree (d : Dev) (st : Nat) (r : MemReq) : Bool :=
  let own := d.trackers st (reqIsC3 r)
  let other := d.trackers st (! reqIsC3 r)
  decide (own < 64) || decide ((own - 64) + (other - 64) < 896)

/-- Whether one of the 64 trackers that a class has reserved at a section is free for a starvation mark (R97). -/
def Dev.reservedFree (d : Dev) (st : Nat) (r : MemReq) : Bool := decide (d.trackers st (reqIsC3 r) < 64)

/-- Start back-invalidates of a line toward the hosts among `dests` that still answer (R92, R100), each at its own HPA (R36). An answer
of such a host is then one to this back-invalidate (R99). -/
def Dev.startBi (d : Dev) (pl off : Nat) (e : DirEntry) (dests : List Nat) (inv : Bool) (req : Option MemReq)
    (victim watch : Bool) : Dev :=
  let dests := dests.filter (fun l => ! d.unresp.contains l)
  let d := { d with
    dir := smSet pl { e with bi := some ⟨dests, inv, req, victim, watch⟩ } d.dir
    timedOut := d.timedOut.filter (fun p => ! (p.2 == pl && dests.contains p.1)) }
  let d := dests.foldl (fun d l => d.send (.bisnp l (d.hpaOf l (64 * (off / 64))) inv)) d
  if e.ovf && inv then d.stat 0x8010 15 0 dests.length else d

/-- Call a line back whole with no request waiting for it: its entry is freed at once where none of the hosts answers any more (R100). -/
def Dev.callBack (d : Dev) (pl off : Nat) (e : DirEntry) (dests : List Nat) : Dev :=
  if (dests.filter (fun l => ! d.unresp.contains l)).isEmpty then d.freeEntry pl e
  else d.startBi pl off e dests true none true false

/-- Settle a line whose holders no longer answer (R100): a line held in OWNED by such an LD is poisoned, its pointers in
SHARED are dropped. -/
def Dev.settleLine (d : Dev) (pl off : Nat) : Dev :=
  match smGet? pl d.dir with
  | none => d
  | some e =>
    if e.bi.isSome then d
    else match e.st with
      | .owned => if e.ptrs.any (fun l => d.unresp.contains l) then (d.poisonHome off).freeEntry pl e else d
      | .shared =>
        let ps := e.ptrs.filter (fun l => ! d.unresp.contains l)
        if e.ovf then d else if ps.isEmpty then d.freeEntry pl e
        else { d with dir := smSet pl { e with ptrs := ps } d.dir }
      | .none => d

/-- The rank of an entry as a capacity victim (R94). -/
def victimRank (e : DirEntry) : Nat :=
  match e.st with
  | .shared => if e.ovf then 5 else e.ptrs.length
  | .owned => 6
  | .none => 7

/-- The victim of a full set, from its rotating start: the position and the line. -/
def Dev.dirVictim (d : Dev) (s : Nat) : Option (Nat × Nat × DirEntry) :=
  let es := d.setEntries s
  let rot := smGet s 0 d.dirRot
  let cs := (List.range es.length).filterMap (fun i => let j := (rot + i) % es.length
    match es[j]? with
    | some (pl, e) => if e.bi.isNone && e.watch.isNone then some (j, pl, e) else none
    | none => none)
  cs.foldl (fun b c => match b with
    | none => some c
    | some x => if victimRank c.2.2 < victimRank x.2.2 then some c else some x) none

/-- Room for a new entry in a line's set: an entry is free, a victim's back-invalidate is started for the request, or
none can be taken (R94). How the set's rotating start moves is not stated: the entries stand in the order of their lines, and the
start moves just past each victim (DESIGN CHOICE, log entry 25). -/
def Dev.dirRoom (d : Dev) (pl : Nat) (req : MemReq) : DirAns × Dev :=
  let s := dirSet pl
  if (d.setEntries s).length < 8 then (.serve, d)
  else if ! d.trackerFree (plineStack pl) req then (.busy, d)
  else match d.dirVictim s with
    | none => (.busy, d)
    | some (j, vpl, _) =>
      let off := d.lineOff vpl
      let d := { d with dirRot := smPut 0 s ((j + 1) % 8) d.dirRot }
      let d := d.settleLine vpl off
      match smGet? vpl d.dir with
      | none => (.serve, d)
      | some e =>
        let dests := d.answering e off
        if dests.isEmpty then (.serve, d.freeEntry vpl e)
        else (.held, d.startBi vpl off e dests true (some req) true false)

/-- The directory's answer to a request for a line (R92). `h` is the host that asks, none for a device-side access. -/
def Dev.dirStage (d : Dev) (off pl : Nat) (h : Option Nat) (want : Want) (req : MemReq) : DirAns × Dev :=
  let d := (d.cacheSet (dirSet pl)).settleLine pl off
  let e := (smGet? pl d.dir).getD ⟨.none, false, [], [], none, none⟩
  let listed := (smGet? pl d.dir).isSome
  let snoop (dests : List Nat) (inv : Bool) : DirAns × Dev :=
    if dests.isEmpty then (.serve, d)
    else if ! d.trackerFree (plineStack pl) req then (.busy, d)
    else (.held, d.startBi pl off e dests inv (some req) false false)
  if e.bi.isSome then (.busy, d)
  else match e.st, h, want with
    | .none, some l, .s =>
      let (r, d) := if listed then (.serve, d) else d.dirRoom pl req
      if r = .serve then (.serve, d.putEntry pl .shared [l] e.watch) else (r, d)
    | .none, some l, .a =>
      let (r, d) := if listed then (.serve, d) else d.dirRoom pl req
      if r = .serve then (.serve, d.grantOwned pl l e.watch) else (r, d)
    | .none, _, _ => (.serve, d)
    | .shared, some l, .s => (.serve, { d with dir := smSet pl (addSharer e l) d.dir })
    | .shared, some l, .a =>
      let others := (d.answering e off).filter (· ≠ l)
      if others.isEmpty then (.serve, d.grantOwned pl l e.watch) else snoop others true
    | .shared, _, .w =>
      let all := (d.answering e off).filter (fun x => ! (e.ovf && h == some x))
      if all.isEmpty then (.serve, d.freeEntry pl e) else snoop all true
    | .shared, _, _ => (.serve, d)
    | .owned, some l, x =>
      if e.ptrs.contains l then
        match x with
        | .s => (.serve, d.putEntry pl .shared [l] e.watch)
        | .a => (.serve, d.grantOwned pl l e.watch)
        | .i | .w => (.serve, d.freeEntry pl e)
      else match x with
        | .s | .i => snoop e.ptrs false
        | .a | .w => snoop e.ptrs true
    | .owned, none, .w => snoop e.ptrs true
    | .owned, none, _ => snoop e.ptrs false

/-- The marks held on a line (R97), as places in the marking order. -/
def Dev.marks (d : Dev) (line : Nat) : List Nat :=
  (d.refused.filter (fun r => r.line == line)).filterMap (·.mark)

/-- Whether a request is an access of a descriptor's run, which is presented again until the run has all that it needs. -/
def isDescReq : MemReq → Bool
  | .desc .. => true
  | .hostRead .. | .hostWrite .. | .hostWb .. | .evict .. | .devRead .. | .devWrite .. | .fab .. | .arm .. | .notify .. => false

/-- Count a refusal of a request at home (R97): after the second one it takes a starvation mark with a reserved tracker,
or a ticket where 14 marks are held, no reserved tracker is free, or other tickets of the line wait. -/
def Dev.refuse (d : Dev) (req : MemReq) (line : Nat) : Dev :=
  match d.refused.find? (fun r => r.req == req) with
  | none => { d with refused := d.refused ++ [⟨req, line, 1, none, none⟩] }
  | some x =>
    let n := x.refusals + 1
    let room := decide ((d.marks line).length < 14) && d.reservedFree (d.lineNode line) req
      && ! d.refused.any (fun r => r.line == line && r.ticket.isSome)
    let due := x.mark.isNone && x.ticket.isNone && decide (n ≥ 2)
    let y : Refused := { x with
      refusals := n
      mark := if due && room then some (d.markCtr + 1) else x.mark
      ticket := if due && ! room then some (d.markCtr + 1) else x.ticket }
    let d := { d with
      refused := d.refused.map (fun r => if r.req = req then y else r)
      markCtr := if due then d.markCtr + 1 else d.markCtr }
    if due && room then d.stat 0x8010 31 16 1 else d

/-- Forget a request's refusals: it has been served. -/
def Dev.unrefuse (d : Dev) (req : MemReq) : Dev := { d with
  refused := d.refused.filter (fun r => r.req != req)
  found := d.found.filter (fun x => x.1 != req)
  lapseOk := if isDescReq req then d.lapseOk else d.lapseOk.filter (fun x => x.2 != req) }

/-- The first of some marks. -/
def firstMark (ms : List Nat) : Option Nat :=
  ms.foldl (fun (a : Option Nat) m => some (match a with | none => m | some b => min b m)) none

/-- Whether two requests are accesses of one descriptor or of one fabric request, or are the same. -/
def sameParty (a b : MemReq) : Bool :=
  match a, b with
  | .desc q n _ _, .desc p m _ _ => q == p && n == m
  | .fab i _ _, .fab j _ _ => i == j
  | a, b => a == b

/-- A request whose back-invalidates have all been answered has been accepted: no mark of another request refuses it (R97), so
it stands before every marked one until it is served. -/
def Dev.accepted (d : Dev) (req : MemReq) (line : Nat) : Dev :=
  { d with refused := ⟨req, line, 2, some 0, none⟩ :: d.refused.filter (fun r => r.req != req) }

/-- Whether a request holds a tracker in BI_WAIT. -/
def Dev.holdsTracker (d : Dev) (r : MemReq) : Bool :=
  d.dir.any (fun p => match p.2.bi with | some b => b.req == some r | none => false)

/-- Whether a request stores to its line. -/
def reqStores : MemReq → Bool
  | .hostWrite .. | .hostWb .. | .devWrite .. | .notify .. => true
  | .desc _ _ _ w | .fab _ _ w => w
  | .hostRead .. | .evict .. | .devRead .. | .arm .. => false

/-- The line a request names. -/
def reqLine : MemReq → Nat
  | .hostRead _ off _ _ | .hostWrite _ off _ _ _ _ | .hostWb _ off _ _ _ _ | .devRead _ off _ _ _ | .devWrite _ off _ _ _ _ _
  | .desc _ _ off _ | .fab _ off _ | .arm _ off | .notify _ off _ _ | .evict _ off => off / 64

/-- The erasure-engine trackers that are taken (R290): by writes whose parity is outstanding, and by the writes to protected frames that have
been accepted and are not yet served, apart from `req`. -/
def Dev.egTaken (d : Dev) (req : MemReq) : Nat :=
  let held := d.dir.filterMap (fun p => p.2.bi.bind (·.req)) ++ (d.refused.filter (fun r => r.mark == some 0)).map (·.req)
  d.parity.length + (held.filter (fun r => r != req && reqStores r && (d.egOf (reqLine r / 1024)).isSome)).length

/-- Whether a write finds the tracker that it needs: the frame is not protected, or an erasure-engine tracker is free (R290). Each write of a
run is held against the trackers on its own, and a write-back that a back-invalidate needs waits for none (DESIGN CHOICE, log entry 187). -/
def Dev.egFree (d : Dev) (off : Nat) (req : MemReq) : Bool :=
  ! reqStores req || (d.egOf (off / 65536)).isNone
  || (let n := d.egTaken req; n == 0 || decide (n ≤ Config.egTrackers))

/-- What a request meets at its line's home before the directory (R97): while marks are held, only the request marked first goes on, a
ticket holder waits for its mark, and a request without a tracker of its own needs a free one, as a write to a protected frame needs one of
the erasure engine (R290). -/
def Dev.dirGate (d : Dev) (off : Nat) (req : MemReq) : Option DirAns × Dev :=
  let line := off / 64
  let first := firstMark (d.marks line)
  let own := d.refused.find? (fun r => r.req == req)
  let mine := firstMark ((d.refused.filter (fun r => r.line == line && sameParty r.req req)).filterMap (·.mark))
  if d.holdsTracker req then (some .held, d)
  else if (own.bind (·.ticket)).isSome then (some .busy, d)
  else if first.isSome && first != mine then (some .busy, d.refuse req line)
  else if mine.isNone && ! d.trackerFree (d.lineNode line) req then (some .busy, d.refuse req line)
  else if ! d.egFree off req then (some .busy, d.refuse req line)
  else (none, d)

/-- Present a request at a line's home (R92, R97). -/
def Dev.dirTry (d : Dev) (off pl : Nat) (h : Option Nat) (want : Want) (req : MemReq) : DirAns × Dev :=
  match d.dirGate off req with
  | (some a, d) => (a, d)
  | (none, d) =>
    let (a, d) := d.dirStage off pl h want req
    match a with
    | .serve => (.serve, d.unrefuse req)
    | .busy => (.busy, d.refuse req (off / 64))
    | .held => (.held, d)

/-- One LD has answered a back-invalidate of a line: it holds the line no longer, or keeps S. -/
def biAnswer (e : DirEntry) (ld : Nat) (keepS : Bool) : DirEntry :=
  match e.bi with
  | none => e
  | some b =>
    let keep := keepS && ! b.inv
    { e with ptrs := if keep then e.ptrs else e.ptrs.filter (· ≠ ld), bi := some { b with await := b.await.filter (· ≠ ld) } }

/-- Put an entry whose answer has been taken in place, and end its BI_WAIT when it was the last: the state the
transition reaches before the held request is served. That request is the first answer. The answer to a watch BISnpData, or to what stands
for one, raises the line's event (R95). -/
def Dev.biStep (d : Dev) (pl : Nat) (e : DirEntry) : Option MemReq × Dev :=
  match e.bi with
  | none => (none, d)
  | some b =>
    if ! b.await.isEmpty then (none, { d with dir := smSet pl e d.dir })
    else
      let d := if b.watch then d.raiseLine pl else d
      let d := { d with snoopDue := nsDel pl d.snoopDue }
      let all := b.inv && (b.req.isSome || b.victim)
      let d := if e.ovf && ! all then { d with dir := smSet pl { e with bi := none } d.dir }
        else if e.ptrs.isEmpty || (e.ovf && all) then d.freeEntry pl { e with bi := none }
        else { d with dir := smSet pl { e with st := .shared, seen := e.ptrs, bi := none } d.dir }
      (b.req, d)

/-! The order of one source's accesses (R109, R110). -/

/-- The sources of accesses at home (R109): a host LD, or an engine. -/
inductive Src where
  | ld (n : Nat)
  | eng (e : Engine)
  deriving DecidableEq, Repr

/-- The source of a request. The runs of descriptors and the flows of the fabric keep an order of their own. -/
def reqSrc : MemReq → Option Src
  | .hostRead ld .. | .hostWrite ld .. | .hostWb ld .. | .evict ld _ => some (.ld ld)
  | .devRead e .. | .devWrite e .. => some (.eng e)
  | .notify .. => some (.eng .queueFront)
  | .desc .. | .fab .. | .arm .. => none

/-- Whether a request of a source writes. -/
def reqWrites : MemReq → Bool
  | .hostWrite .. | .hostWb .. | .devWrite .. | .notify .. => true
  | .hostRead .. | .evict .. | .devRead .. | .desc .. | .fab .. | .arm .. => false

/-- The requests at home that have been presented and not yet served. What the port holds for want of a tracker has not been presented. -/
def Dev.presented (d : Dev) : List MemReq :=
  ((d.waiting.filter (fun w => w.on != .order && w.on != .tracker)).map (·.req)) ++ d.refused.map (·.req)
  ++ d.dir.filterMap (fun p => p.2.bi.bind (·.req))

/-- Whether a write of a source other than `r` has been presented and not yet served. -/
def Dev.writePending (d : Dev) (s : Src) (r : Option MemReq) : Bool :=
  d.presented.any (fun x => some x != r && reqWrites x && reqSrc x == some s)

/-- Whether the answer to a back-invalidate of the line depends on this write-back of the line (R92). -/
def Dev.wbNeeded (d : Dev) (r : MemReq) : Bool :=
  match r with
  | .hostWb ld off .. => (match (d.pline off).bind (fun pl => smGet? pl d.dir) with
    | some e => ((e.bi.map (·.await)).getD []).contains ld
    | none => false)
  | _ => false

/-- Whether a request stands behind an earlier write of its source: a write behind any of them (R109), a read behind one to its
line (R110). A write-back that a back-invalidate in flight needs goes on. -/
def Dev.behind (d : Dev) (r : MemReq) : Bool :=
  match reqSrc r with
  | none => false
  | some s =>
    if reqWrites r then ! d.wbNeeded r && d.writePending s (some r)
    else (d.presented ++ (d.waiting.filter (fun w => w.on == .order)).map (·.req)).any
      (fun x => reqWrites x && reqSrc x == some s && reqLine x == reqLine r)

/-! Arming a watched line (R95). -/

/-- The answer to an arming. -/
inductive ArmAns where
  | armed
  | failed
  | busy
  | held
  deriving DecidableEq, Repr

/-- Arm a line for a block. A line that another block watches is watched by both. On a line that a host already holds in OWNED, of whose
delay the rule says nothing, a snoop is due at the arming (DESIGN CHOICE, log entry 178). -/
def Dev.arm (d : Dev) (who : Armer) (off pl : Nat) : ArmAns × Dev :=
  let d := (d.cacheSet (dirSet pl)).settleLine pl off
  let watched := ((d.setEntries (dirSet pl)).filter (fun p => p.2.watch.isSome)).length
  match smGet? pl d.dir with
  | some e =>
    if (d.watchers pl).contains who then (.armed, d)
    else if e.watch.isNone && decide (watched ≥ 6) then (.failed, d)
    else if e.bi.isSome then (.busy, d)
    else
      let d := if e.watch.isSome then { d with coWatch := d.coWatch ++ [(pl, who)] }
        else { d with dir := smSet pl { e with watch := some who } d.dir }
      (.armed, if e.st = .owned then { d with snoopDue := nsAdd pl d.snoopDue } else d)
  | none =>
    if watched ≥ 6 then (.failed, d)
    else
      let (r, d) := d.dirRoom pl (.arm who off)
      match r with
      | .serve => (.armed, d.putEntry pl .none [] (some who))
      | .busy => (.busy, d)
      | .held => (.held, d)

/-- Disarm one line of a block: another block that watches it stays. -/
def Dev.disarmLine (d : Dev) (who : Armer) (pl : Nat) : Dev :=
  let d := { d with coWatch := d.coWatch.filter (fun p => ! (p.1 == pl && p.2 == who)) }
  match smGet? pl d.dir with
  | none => d
  | some e =>
    if e.watch != some who then d
    else match d.coWatch.find? (fun p => p.1 == pl) with
      | some p => { d with dir := smSet pl { e with watch := some p.2 } d.dir, coWatch := d.coWatch.erase p }
      | none =>
        let e := { e with watch := none }
        if e.st = .none ∧ e.bi.isNone then { d with dir := smErase pl d.dir } else { d with dir := smSet pl e d.dir }

/-- Disarm every line of a block. -/
def Dev.disarm (d : Dev) (who : Armer) : Dev :=
  (smKeys d.dir).foldl (fun d pl => d.disarmLine who pl)
    { d with raised := d.raised.filter (· ≠ who), polledLines := d.polledLines.filter (· ≠ who) }

end Sys2Proof.Machine
end

