-- ==== Sys2Proof/Machine/Access.lean ====
section
/-! DEFINITION. How an engine of this Ndonte reads and writes the store while it runs a descriptor or serves a fabric
request: line by line at home or over Meunol, with its writes held back until the whole run has what it needs
(R20 to R23, R110, R117, R120, R300). -/

namespace Sys2Proof.Machine

open Sys2Proof

/-- An engine as the ENGINE field codes it (R55): its class in the upper 4 bits, its instance in the lower 12. -/
def engineCode : Engine → Nat
  | .bay n => n % 4096
  | .scanner n => 0x1000 + n % 4096
  | .turntable => 0x2000
  | .kiln => 0x3000
  | .dispatcher => 0x4000
  | .agent => 0x5000
  | .queueFront => 0x6000

/-- Who an access is made for. -/
inductive Runner where
  | desc (q seq : Nat)
  | fab (id : Nat)
  | unit
  deriving DecidableEq, Repr

/-- What an access is made under: the runner, the composition and node that R300 checks, the LD of the queue's host
function (R104), the PASID, and the SIDX of its fabric requests. `checked` is false for the block's own tables. `eng` is the engine that
makes the access (R21), `ent` the timetable entry that it is made for, plus one, or 0. -/
structure Ctx where
  run : Runner
  comp : Nat
  src : Nat
  fromFab : Bool
  grant : Bool
  ld : Option Nat
  pasid : Nat
  sidx : Nat
  checked : Bool
  eng : Engine
  ent : Nat
  stage : Nat
  deriving DecidableEq, Repr

/-- Why a run ends early: with a status, or to be presented again when what it waits for has come. -/
inductive Halt where
  | done (st : Nat)
  | need
  deriving DecidableEq, Repr

/-- One write of a run, within one line: the FA of its first byte, its bytes, and whether the data is poisoned. -/
structure LogRun where
  fa : Nat
  bytes : List Byte
  poison : Bool
  deriving DecidableEq, Repr

/-- The engine that makes an access of a run at this Ndonte (R386). -/
inductive AccBy where
  | bay
  | scanner
  | turntable
  deriving DecidableEq, Repr

/-- One access of a run, as the counters and samples see it (R383, R386). -/
structure Acc where
  fa : Nat
  write : Bool
  atomic : Bool
  poison : Bool
  who : AccBy
  stage : Nat
  tier : Option Nat
  cached : Bool
  deriving DecidableEq, Repr

/-- A run's state: the block, the writes made so far in order, the count of remote atomics, the accesses made, the translations taken, and
those under which the access that the run waits on has been issued. -/
structure RunSt where
  d : Dev
  log : List LogRun
  atoms : Nat
  acc : List Acc
  trs : List Issued
  iss : List Issued

/-- A computation of an engine. -/
abbrev M (α : Type) := ReaderT Ctx (ExceptT Halt (StateM RunSt)) α

/-- The block as it stands. -/
def getDev : M Dev := do return (← get).d

/-- Change the block. -/
def modDev (f : Dev → Dev) : M Unit := modify (fun s => { s with d := f s.d })

/-- End with a status. -/
def halt (st : Nat) : M α := throw (.done st)

/-- End the run for now: it is presented again. -/
def need : M α := throw .need

/-- End with a status unless a condition holds. -/
def ensure (b : Bool) (st : Nat) : M Unit := if b then pure () else halt st

/-- The run waits on an access of the page that an FA lies in: it has been issued under the translations that gave the page (R50). -/
def waitsOn (fa : Nat) : M α := do
  modify (fun s => { s with iss := s.trs.filter (fun t => t.fa == fa / 65536) })
  need

/-- The marker of a request that an engine has in a tracker. -/
def Ctx.req (c : Ctx) (off : Nat) (write : Bool) : MemReq :=
  match c.run with
  | .desc q n => .desc q n off write
  | .fab i => .fab i off write
  | .unit => .desc 65536 0 off write

/-- A line's bytes with the poison of its two code words. -/
structure LineVal where
  data : Line
  p0 : Bool
  p1 : Bool
  deriving DecidableEq, Repr

/-- The line at a local offset as home holds it. -/
def Dev.lineVal (d : Dev) (off : Nat) : LineVal :=
  ⟨d.line off, d.poisonAt (64 * (off / 64)), d.poisonAt (64 * (off / 64) + 32)⟩

/-- The poison of a code word after a masked write (R99). -/
def wordAfter (p : Bool) (m : LineMask) (poison : Bool) (c : Nat) : Bool :=
  if maskWord m c = 0 then p else if poison then true else if maskWord m c = 2 ^ 32 - 1 then false else p

/-- A line after a write of some of its bytes. -/
def LineVal.put (v : LineVal) (lo : Nat) (bs : List Byte) (poison : Bool) : LineVal :=
  let m := rangeMask lo (min 64 (lo + bs.length))
  ⟨bytesLine (splice (lineBytes v.data) lo (bs.take (64 - lo))), wordAfter v.p0 m poison 0, wordAfter v.p1 m poison 1⟩

/-- A line as a run sees it: home's value with the run's own earlier writes (R110). -/
def overlay (log : List LogRun) (fa : Nat) (v : LineVal) : LineVal :=
  (log.filter (fun r => r.fa / 64 == fa / 64)).foldl (fun v r => v.put (r.fa % 64) r.bytes r.poison) v

/-- The revocation entry that names an LD and a frame (R103). -/
def Dev.revFor (d : Dev) (ld f : Nat) : Option Revocation :=
  d.revs.find? (fun r => bit r.lds ld && decide (r.first ≤ f ∧ f < r.first + r.frames))

/-- Record a refusal under a revocation: one event per LD, per extent, per accounting window (R104). -/
def Dev.revokeEvent (d : Dev) (ld : Nat) (r : Revocation) : Dev :=
  d.eventWindow .revokeRefused (r.extent * 16 + ld) [.ld ld, .extent r.extent r.epoch]

/-- Whether a local access passes the checks of R299, R104 and R300: the status it ends with, 0 where it passes. -/
def Dev.extCheck (d : Dev) (c : Ctx) (off : Nat) (write : Bool) : Nat × Dev :=
  let f := off / 65536
  if ! c.checked then (0, d)
  else if d.inExtTab off && (write || ! c.fromFab) then (stDenied, d)
  else
    match c.ld.bind (fun l => (d.revFor l f).map (fun r => (l, r))) with
    | some (l, r) => (stRevoked, d.revokeEvent l r)
    | none => match d.extAt f with
      | none => (0, d)
      | some e =>
        let okComp := if c.fromFab then d.member e.comp c.src && (c.grant || c.comp == 1024 || c.comp == e.comp)
          else c.comp == e.comp
        let src := if c.fromFab then c.src else 8192 + c.comp
        let who : List EvField := if c.fromFab then [.node c.src] else [.pasid c.pasid]
        if ! okComp then (stDenied, d.extRefusal f src who)
        else
          let early := match c.run with
            | .fab i => d.fabIn.any (fun x => x.id == i && x.early.contains e.id)
            | _ => d.lapseOk.contains (e.id, c.req off write)
          let st := if early then 0 else extStatus e.st
          if st = 0 then (0, d) else (st, d.extRefusal f src who)

/-- The FA of a local offset. -/
def Dev.ownFa (d : Dev) (off : Nat) : Nat := d.node * 2 ^ 48 + off

/-- Whether an FA names this Ndonte. -/
def Dev.isOwn (d : Dev) (fa : Nat) : Bool := fa / 2 ^ 48 == d.node

/-- The offset of an FA. -/
def faOff (fa : Nat) : Nat := fa % 2 ^ 48

/-- What a request's sample says of where its line was found (R386): what was noted as it first waited, else the frame's tier and, with
bit 4, that the line's directory set is not cached. -/
def Dev.foundBits (d : Dev) (off : Nat) (r : MemReq) : Nat :=
  match d.found.find? (fun x => x.1 == r) with
  | some x => x.2
  | none => ((d.entry (off / 65536)).map (·.tier)).getD 0 + (match d.pline off with
    | some pl => if d.dirCache.contains (dirSet pl) then 0 else 16
    | none => 0)

/-- Note for the sample of a request that waits where it has been found, and with bit 2 that it waits on a move. -/
def Dev.noteFound (d : Dev) (r : MemReq) (v : Nat) (moved : Bool) : Dev :=
  { d with found := d.found.filter (fun x => x.1 != r) ++ [(r, if moved && ! bit v 2 then v + 4 else v)] }

/-- Whether what a request waits on is a move of its frame (R75). -/
def WaitOn.isMove : WaitOn → Bool
  | .subBlock .. => true
  | .move _ => true
  | .frameRoom => true
  | _ => false

/-- Run the accesses of one stage of a composition (R175, R386). -/
def atStage (n : Nat) (m : M α) : M α := withReader (fun c => { c with stage := n }) m

/-- Note an access of a run. -/
def noteAcc (fa : Nat) (write atomic poison : Bool) : M Unit := do
  let c ← read
  modify (fun s => { s with acc := s.acc ++ [⟨fa, write, atomic, poison, .bay, c.stage,
    if s.d.isOwn fa then some (s.d.foundBits (faOff fa) (c.req (64 * (faOff fa / 64)) write)) else none, false⟩] })

/-- Note the reads by which a scanner or the turntable takes `n` bytes of a stored frame record, one for each sub-block. -/
def noteStored (fa n : Nat) (who : AccBy) (poison : Bool) : M Unit := do
  let c ← read
  modify (fun s => { s with
    acc := s.acc ++ (List.range ((fa + n + 4095) / 4096 - fa / 4096)).map (fun i =>
      ⟨max fa (4096 * (fa / 4096 + i)), false, false, poison, who, c.stage, some 1, false⟩) })

/-- Note the read of a row that the row cache serves (R222, R386). -/
def noteCached (fa : Nat) : M Unit := do
  let c ← read
  modify (fun s => { s with acc := s.acc ++ [⟨fa, false, false, false, .bay, c.stage, some 8, true⟩] })

/-- Count in the set of a run's function; the block's own work and fabric requests count in no set (R383). -/
def Dev.countRun (d : Dev) (c : Ctx) (code n : Nat) : Dev :=
  match c.run with
  | .desc q s => d.countDesc ⟨q, s⟩ code n
  | _ => d

/-- The promotions in progress. -/
def Dev.promos (d : Dev) : Nat := (d.moves.filter (fun p => p.2.kind == .promote)).length

/-- Note a run that waits on a frame's promotion (R75). -/
def Dev.awaits (d : Dev) (w : WaitOn) (r : MemReq) : Dev :=
  let add (f : Nat) : Dev := if d.promoWait.contains (f, r) then d else { d with promoWait := d.promoWait ++ [(f, r)] }
  match w with
  | .subBlock f _ => add f
  | .move f => add f
  | _ => d

/-- The source of an access as an event names it (R34). -/
def Ctx.source (c : Ctx) : List EvField :=
  match c.run with
  | .desc q _ => [.queue q]
  | .fab _ => [.node c.src]
  | .unit => [.unit (engineCode c.eng)]

/-- Make one local line ready for an access: the checks of R283, the tier gate, and the directory. -/
def readyLine (off : Nat) (write : Bool) : M Unit := do
  let c ← read
  let d ← getDev
  let (g, d) := d.gateMap off c.source
  modDev (fun _ => d)
  match g with
  | .fail st => halt st
  | .hold _ => waitsOn (d.ownFa off)
  | .go =>
    let (st, d) := d.extCheck c off write
    modDev (fun _ => d)
    if st ≠ 0 then halt st
    let n := d.promos
    let line := c.req (64 * (off / 64)) write
    let v := d.foundBits off line
    let note (d : Dev) (moved : Bool) : Dev := match c.run with | .desc .. => d.noteFound line v moved | _ => d
    let (g, d) := d.gateFrame off write
    let d := d.countRun c 0x06 (d.promos - n)
    modDev (fun _ => d)
    match g with
    | .fail st => halt st
    | .hold w =>
      modDev (fun d => (note d w.isMove).awaits w (c.req off write))
      waitsOn (d.ownFa off)
    | .go => match d.pline off with
      | none => pure ()
      | some pl =>
        let n := d.out.length
        let (a, d) := d.dirTry off pl none (if write then .w else .i) (c.req off write)
        let d := (d.countRun c 0x0C (d.out.length - n)).countRun c 0x0D (if a = .busy then 1 else 0)
        modDev (fun _ => if bit v 4 then note d false else d)
        if a ≠ .serve then waitsOn (d.ownFa off)

/-- The started descriptor of a run. -/
def Dev.startedOf (d : Dev) (q seq : Nat) : Option Started :=
  (smGet? q d.queues).bind (fun x => x.running.find? (fun r => r.seq == seq))

/-- The remote lines a run has read. -/
def Dev.remoteOf (d : Dev) (c : Ctx) : List RemoteLine :=
  match c.run with
  | .desc q n => ((d.startedOf q n).map (·.remote)).getD []
  | _ => []

/-- The descriptor of a run. -/
def Ctx.did (c : Ctx) : DescId :=
  match c.run with
  | .desc q n => ⟨q, n⟩
  | _ => ⟨65536, 0⟩

/-- Cut a rising list of line numbers into runs of consecutive ones, of at most 1,024 lines. -/
def runsOf : List Nat → List (Nat × Nat)
  | [] => []
  | x :: xs => match runsOf xs with
    | [] => [(x, 1)]
    | (y, n) :: rs => if x + 1 = y ∧ n < 1024 then (x, n + 1) :: rs else (x, 1) :: (y, n) :: rs

/-- Whether a read of a remote line is already on its way for a descriptor. -/
def Dev.fetching (d : Dev) (c : Ctx) (line : Nat) : Bool :=
  d.fabOut.any (fun o => match o.owner with
    | .desc i l => i == c.did && decide (l ≤ line ∧ line < l + (if o.msg.type = 5 then fld o.msg.body 8 4 / 64 else 1))
        && (o.msg.type == 1 || o.msg.type == 5)
    | _ => false)

/-- Ask peers for the remote lines that a run lacks: RD for one line, BULK_RD for more. -/
def fetchLines (lines : List Nat) : M Unit := do
  let c ← read
  let d ← getDev
  let have_ := d.remoteOf c
  let miss := lines.filter (fun l => ! d.isOwn (64 * l) && ! have_.any (fun r => r.line == l))
  if miss.isEmpty then pure ()
  else
    match c.run with
    | .desc .. =>
      let rec go : List (Nat × Nat) → M Unit
        | [] => pure ()
        | (l, n) :: rs => do
          let d ← getDev
          match d.issueStatus (64 * l / 2 ^ 48) with
          | some st => halt st
          | none =>
            modDev (fun d => if n = 1 then d.request (64 * l / 2 ^ 48) c.sidx 1 (leBytes 8 (64 * l)) (.desc c.did l)
              else d.request (64 * l / 2 ^ 48) c.sidx 5 (leBytes 8 (64 * l) ++ leBytes 4 (64 * n) ++ List.replicate 4 0)
                (.desc c.did l))
            go rs
      go (runsOf (miss.filter (fun l => ! d.fetching c l)))
      modify (fun s => { s with iss := s.trs.filter (fun t => miss.any (fun l => t.fa == l / 1024)) })
      need
    | _ => halt stBounds

/-- Read one line by its FA. -/
def rdLine (fa : Nat) : M LineVal := do
  let c ← read
  let s ← get
  if s.d.isOwn fa then
    readyLine (faOff fa) false
    let s ← get
    let v := overlay s.log fa (s.d.lineVal (faOff fa))
    noteAcc fa false false (v.p0 || v.p1)
    return v
  else
    match (s.d.remoteOf c).find? (fun r => r.line == fa / 64) with
    | some r =>
      if r.status ≠ 0 then halt r.status
      noteAcc fa false false r.poison
      return overlay s.log fa ⟨r.data, r.poison, r.poison⟩
    | none => fetchLines [fa / 64]; need

/-- Read the lines of a list in order. -/
def rdLines : List Nat → M (List LineVal)
  | [] => pure []
  | l :: ls => do
    let v ← rdLine (64 * l)
    let vs ← rdLines ls
    return v :: vs

/-- Read `n` bytes from an FA, with the poison of each byte's code word. -/
def rdRaw (fa n : Nat) : M (List Byte × List Bool) := do
  let ls := (linesOf fa n).map (· / 64)
  fetchLines ls
  let vs ← rdLines ls
  let bs := vs.flatMap (fun v => lineBytes v.data)
  let ps := vs.flatMap (fun v => List.replicate 32 v.p0 ++ List.replicate 32 v.p1)
  return ((bs.drop (fa % 64)).take n, (ps.drop (fa % 64)).take n)

/-- Read `n` bytes from an FA; a poisoned code word among them ends the run with POISON. -/
def rd (fa n : Nat) : M (List Byte) := do
  let (bs, ps) ← rdRaw fa n
  if ps.any id then halt stPoison
  return bs

/-- Write bytes within one line: a local line is made ready now, the write itself waits for the end of the run. -/
def wrRun (fa : Nat) (bs : List Byte) (poison : Bool) : M Unit := do
  let d ← getDev
  if d.isOwn fa then readyLine (faOff fa) true
  else match d.issueStatus (fa / 2 ^ 48) with
    | some st => halt st
    | none => pure ()
  noteAcc fa true false poison
  modify (fun s => { s with log := s.log ++ [⟨fa, bs, poison⟩] })

/-- Write the runs of a list in order. -/
def wrRuns (poison : Bool) : List (Nat × List Byte) → M Unit
  | [] => pure ()
  | (a, bs) :: rs => do wrRun a bs poison; wrRuns poison rs

/-- Write bytes at an FA. -/
def wr (fa : Nat) (bs : List Byte) (poison : Bool := false) : M Unit := wrRuns poison (lineRuns (bs.length / 64 + 2) fa bs)

/-- A remote atomic (R277): the OLD value with its poison (R283), once the peer has answered. The `k`-th atomic of a run keeps its answer under
its own number beyond every line. -/
def atomRemote (fa op a b : Nat) : M (Nat × Bool) := do
  let c ← read
  let s ← get
  let key := 2 ^ 64 + s.atoms
  set { s with atoms := s.atoms + 1 }
  match (s.d.remoteOf c).find? (fun r => r.line == key) with
  | some r =>
    if r.status ≠ 0 then halt r.status
    let old := lf r.data 0 8
    noteAcc fa (! r.poison && (op ≠ 2 || old = a)) true r.poison
    return (old, r.poison)
  | none =>
    match s.d.issueStatus (fa / 2 ^ 48) with
    | some st => halt st
    | none =>
      let busy := s.d.fabOut.any (fun o => o.owner == .desc c.did key)
      if ! busy then
        modDev (fun d => d.writeOut (fa / 2 ^ 48) c.sidx 4
          (leBytes 8 fa ++ leBytes 1 op ++ List.replicate 7 0 ++ leBytes 8 a ++ leBytes 8 b) false false (.desc c.did key))
      need

/-- The new value of an atomic (R277): 0 ADD, 1 OR, 2 CMPWR, 3 SWAP. -/
def atomNew (op old a b : Nat) : Nat :=
  if op = 0 then (old + a) % 2 ^ 64 else if op = 1 then old ||| a else if op = 2 then (if old = a then b else old) else a

/-- An atomic on 8 bytes: the value before it, and whether it is poisoned. A poisoned value stays as it is. -/
def atomRaw (fa op a b : Nat) : M (Nat × Bool) := do
  let d ← getDev
  if d.isOwn fa then
    let (bs, ps) ← rdRaw fa 8
    let old := leNat bs
    let bad := ps.any id
    let writes := ! bad && (op ≠ 2 || old = a)
    if writes then wr fa (leBytes 8 (atomNew op old a b))
    modify (fun s =>
      let k := s.acc.length - (if writes then 2 else 1)
      { s with acc := s.acc.take k ++ ((s.acc.drop k).take 1).map (fun (a : Acc) =>
          { a with fa := fa, write := writes, atomic := true, poison := bad }) })
    return (old, bad)
  else atomRemote fa op a b

/-- An atomic of an engine: the value before it; a poisoned one ends the run with POISON. -/
def atom (fa op a b : Nat) : M Nat := do
  let (old, bad) ← atomRaw fa op a b
  if bad then halt stPoison
  return old

/-- The bytes and mask of a run as a whole-line write. -/
def runLine (r : LogRun) : Line × LineMask :=
  let lo := r.fa % 64
  (bytesLine (List.replicate lo 0 ++ r.bytes), rangeMask lo (min 64 (lo + r.bytes.length)))

/-- Carry out one held write. -/
def Dev.commitRun (c : Ctx) (d : Dev) (r : LogRun) : Dev :=
  let (data, m) := runLine r
  if d.isOwn r.fa then (d.applyWrite (faOff r.fa) data m r.poison (some (c.req (faOff r.fa) true))).1
  else d.writeOut (r.fa / 2 ^ 48) c.sidx 2
    (leBytes 8 (64 * (r.fa / 64)) ++ leBytes 8 m.toNat ++ lineBytes data) false r.poison (.desc c.did (r.fa / 64))

/-- Carry out the held writes of a run, in order. -/
def Dev.commit (c : Ctx) (d : Dev) (log : List LogRun) : Dev := log.foldl (Dev.commitRun c) d

/-- Run a computation on a block. -/
def Dev.runM (d : Dev) (c : Ctx) (m : M α) : Except Halt α × RunSt := (m c).run ⟨d, [], 0, [], [], []⟩

/-- The context of the block's own tables and engines. -/
def unitCtx : Ctx := ⟨.unit, 0, 0, false, false, none, 0, 3 * 2 ^ 18, false, .queueFront, 0, 255⟩

/-- Run a computation of one of the block's own units to its end: its writes are carried out, or none of them where it
must wait. -/
def Dev.unitRun (d : Dev) (m : M α) : Option α × Dev :=
  match d.runM unitCtx m with
  | (.ok a, s) => (some a, Dev.commit unitCtx s.d s.log)
  | (.error _, s) => (none, s.d)

/-- Run a computation of one of the block's own units, and say why it did not end. -/
def Dev.unitTry (d : Dev) (m : M α) : Except Halt α × Dev :=
  match d.runM unitCtx m with
  | (.ok a, s) => (.ok a, Dev.commit unitCtx s.d s.log)
  | (.error h, s) => (.error h, s.d)

/-! Rings of host pages and free frames (R58). -/

/-- Take an entry of a ring: the one at slot HEAD, which then advances; none where the ring is empty. -/
def takeRing (base log : Nat) : M (Option Nat) := do
  let d ← getDev
  let n := 2 ^ log
  let h := leNat (← rd (d.ownFa base) 4) % n
  let t := leNat (← rd (d.ownFa (base + 4)) 4) % n
  if h = t then return none
  let v := leNat (← rd (d.ownFa (base + 64 + 8 * h)) 8)
  wr (d.ownFa base) (leBytes 4 ((h + 1) % n))
  return some v

/-- Give an entry back: it is written at slot HEAD − 1, and HEAD then moves back. -/
def giveRing (base log v : Nat) : M Unit := do
  let d ← getDev
  let n := 2 ^ log
  let h := (leNat (← rd (d.ownFa base) 4) + n - 1) % n
  wr (d.ownFa (base + 64 + 8 * h)) (leBytes 8 v)
  wr (d.ownFa base) (leBytes 4 h)

/-- Give the host pages owed back to their rings, as far as the rings can be written now. -/
def Dev.giveOwed (d : Dev) : Dev :=
  d.ringOwed.foldl (fun (d : Dev) x => match d.unitRun (giveRing x.1 x.2.1 x.2.2) with
    | (some _, e) => { e with ringOwed := e.ringOwed.erase x }
    | (none, e) => e) d

end Sys2Proof.Machine
end

