-- ==== Sys2Proof/Machine/Sample.lean ====
section
/-! DEFINITION. Sampling of memory accesses, and the charging of a run's accesses to its counter set (R383, R386, R387). -/

namespace Sys2Proof.Machine

open Sys2Proof

/-- What a sample record says of its access (R386). -/
structure SampleOf where
  kind : Nat
  write : Bool
  atomic : Bool
  poison : Bool
  queue : Nat
  tag : Nat
  opcode : Nat
  fa : Nat
  pasid : Nat
  engine : Nat
  comp : Nat
  stage : Nat
  tier : Option Nat

/-- Whether the next access of a kind is sampled in a set (R386): one in each run of 2^(RATE + 10), at a position that
the model leaves free in place of the LFSR's. -/
def Dev.sampleHit (d : Dev) (set kind : Nat) : Bool × Dev :=
  let ctl := d.reg (pmcKey set 0x90)
  if ! bit ctl 0 || ! bit (bits ctl 12 8) kind then (false, d)
  else
    let len := 2 ^ (min 14 (bits ctl 4 1) + 10)
    let v := smGet set 0 d.sampleRun
    let n := v % 2 ^ 32
    let (pos, d) := if n = 0 then (let (x, d) := d.takeFree; (x % len, d)) else (v / 2 ^ 32, d)
    (n == pos, { d with sampleRun := smPut 0 set (if n + 1 = len then 0 else n + 1 + 2 ^ 32 * pos) d.sampleRun })

/-- The bytes of a sample record. The latency, for an access of another node the tier byte and, but for a bay, the instance are free values:
no rule fixes them from what the model holds. -/
def sampleBytes (d : Dev) (x : SampleOf) (phase : Bool) (v : Nat) : List Byte :=
  leBytes 1 x.kind ++ leBytes 1 (b2n x.write + 2 * b2n x.atomic + 4 * b2n x.poison + 128 * b2n phase) ++ leBytes 2 x.queue
  ++ leBytes 2 x.tag ++ leBytes 1 x.stage ++ leBytes 1 x.opcode ++ leBytes 8 x.fa
  ++ leBytes 4 x.pasid ++ leBytes 1 (x.tier.getD (v % 32)) ++ leBytes 1 (x.engine / 4096)
  ++ leBytes 2 (if x.engine < 4096 ∧ x.kind = 0 then x.engine else v / 32 % 65536) ++ leBytes 4 (v / 2 ^ 24)
  ++ List.replicate 4 0 ++ leBytes 8 d.ticks ++ leBytes 2 (x.comp % 1024) ++ leBytes 2 (x.fa / 2 ^ 48 % 4096) ++ List.replicate 20 0

/-- Write a record at TAIL and advance it; a full ring, or the limit of all samples, drops it. The answer says whether it was kept. -/
def sampleWrite (base n : Nat) (rec_ : Bool → List Byte) (phase many : Bool) : M Bool := do
  let d ← getDev
  let head := leNat (← rd (d.ownFa base) 4) % n
  let tail := leNat (← rd (d.ownFa (base + 4)) 4) % n
  if many ∨ (tail + 1) % n = head then
    let drops := leNat (← rd (d.ownFa (base + 8)) 4)
    wr (d.ownFa (base + 8)) (leBytes 4 (satAdd drops 1 0xFFFFFFFF))
    return false
  wr (d.ownFa (base + 64 + 64 * tail)) (rec_ phase)
  wr (d.ownFa (base + 4)) (leBytes 4 ((tail + 1) % n))
  return true

/-- Count a sample in the second of reference ticks that runs: whether it is above 10 M of that second (R387). -/
def Dev.sampleRate (d : Dev) : Bool × Dev :=
  let sec := d.ticks / 10 ^ 9
  let n := if d.smpWin.1 = sec then d.smpWin.2 else 0
  if n ≥ 10000000 then (true, d) else (false, { d with smpWin := (sec, n + 1) })

/-- Take a sample of an access into a set's ring (R387). The pass of the ring is kept beside the sampling position. A
sample that cannot be written at once is dropped, since sampling never delays an access. -/
def Dev.sample (d : Dev) (set : Nat) (x : SampleOf) : Dev :=
  let (hit, d) := d.sampleHit set x.kind
  if ! hit then d
  else
    let r := d.reg (pmcKey set 0x88)
    let n := 2 ^ max 8 (min 20 (bits r 4 0))
    let base := bits r 47 6 * 64
    let pass := smGet (4096 + set) 0 d.sampleRun
    let (v, d) := d.takeFree
    let (many, d) := d.sampleRate
    let tail := d.num (base + 4) 4 % n
    match d.unitRun (sampleWrite base n (fun p => sampleBytes d x p v) (pass == 0) many) with
    | (some true, d) =>
      if tail + 1 = n then { d with sampleRun := smPut 0 (4096 + set) (1 - pass) d.sampleRun } else d
    | (_, d) => d.count set 0x13 1

/-- KIND of an access of a descriptor at this Ndonte, and its engine (R386): a stored frame record is read by a scanner or the turntable,
anything else by the engine that runs the descriptor. An access of the dispatcher or the queue front end is of no kind. -/
def accKind (c : Ctx) (a : Acc) : Option (Nat × Nat) :=
  match a.who with
  | .scanner => some (1, 0x1000)
  | .turntable => some (2, 0x2000)
  | .bay => match c.eng with
    | .bay n => some (0, engineCode (.bay n))
    | .turntable => some (2, 0x2000)
    | .scanner n => some (1, engineCode (.scanner n))
    | .kiln | .dispatcher | .agent | .queueFront => none

/-- Forget what was noted for the samples of a run's accesses. -/
def Dev.forgetFound (d : Dev) (c : Ctx) : Dev :=
  { d with found := d.found.filter (fun x => match x.1, c.run with
    | .desc q n _ _, .desc p m => ! (q == p && n == m)
    | _, _ => true) }

/-- Charge a descriptor's accesses to its function's set (R383) and sample them (R386): an access of another node is a fabric
request, and what is read from a stored frame record or from the row cache is no line of T0. -/
def Dev.chargeAcc (d : Dev) (c : Ctx) (acc : List Acc) : Dev :=
  match c.run with
  | .desc q n => match smGet? q d.queues, d.startedOf q n with
    | some x, some r =>
      acc.foldl (fun (d : Dev) a =>
        let own := d.isOwn a.fa
        let d := if own && a.who == .bay && ! a.cached then d.count x.fn (if a.write then 0x05 else 0x04) 1 else d
        match (if own then accKind c a else some (4, 0x5000)) with
        | none => d
        | some (k, eng) => d.sample x.fn ⟨k, a.write, a.atomic, a.poison && ! a.write, q, lf r.bytes 2 2, lf r.bytes 0 1, a.fa,
          c.pasid, eng, c.comp, a.stage, a.tier⟩) (if acc.isEmpty then d else d.forgetFound c)
    | _, _ => d
  | _ => d

/-- Charge a host's access to the set of its LD's physical function. -/
def Dev.chargeHost (d : Dev) (ld off : Nat) (write poison : Bool) (tier : Nat) : Dev :=
  let set := 64 * ld
  let comp := match d.extAt (off / 65536) with
    | some e => e.comp
    | none => match smGet? (off / 65536) d.tmap with
      | some e => pComp (d.precOf e)
      | none => 0
  (d.count set (if write then 0x05 else 0x04) 1).sample set
    ⟨3, write, false, poison && ! write, 0xFFFF, 0, 0, d.ownFa off, ld, 0, comp, 255, some tier⟩

end Sys2Proof.Machine
end

