-- ==== Sys2Proof/Machine/Translate.lean ====
section
/-! DEFINITION. PASID contexts, page tables, translation caches, faults and fault areas, completion and fault signals,
and migration on fault (R39 to R60, R145, R418). -/

namespace Sys2Proof.Machine

open Sys2Proof

/-! Functions (R126, R127, R422). -/

/-- The index of a function among the QCT records, from FUNC of R41. The numbers of host functions and of endpoint groups run to 1,023
(R126): a larger one names no function, and its index stands beyond every record. -/
def funcIndex (func : Nat) : Nat :=
  if func % 4096 ≥ 1024 then 4096 + func % 4096 else if bit func 15 then 1024 + func % 4096 else func % 4096

/-- FUNC of a function index. -/
def funcCode (fi : Nat) : Nat := if fi ≥ 1024 then 2 ^ 15 + (fi - 1024) else fi

/-- Whether a function index is a host function. -/
def isHostFn (fi : Nat) : Bool := decide (fi < 1024)

/-- QCT_RANGE of a function: BASE, COUNT and PRIV; a host function's COUNT is at most 2,048. -/
def Dev.qBase (d : Dev) (fi : Nat) : Nat := d.rf (qctKey fi 0) 13 0
def Dev.qCount (d : Dev) (fi : Nat) : Nat := d.rf (qctKey fi 0) 30 16
def Dev.qPriv (d : Dev) (fi : Nat) : Bool := d.rf (qctKey fi 0) 31 31 == 1

/-! MSI-X and signals (R145, R418). -/

/-- An MSI-X table entry; vectors are masked at reset. -/
def msixEmpty : MsixEntry := ⟨0, 0, true⟩

/-- Send the message of an MSI-X vector, or set its pending bit where it is masked (the PCIe MSI-X rules). -/
def Dev.msixSend (d : Dev) (fn v : Nat) : Dev :=
  let e := smGet (2048 * fn + v) msixEmpty d.msix
  if e.masked then { d with pba := nsAdd (2048 * fn + v) d.pba } else d.send (.msix fn v e.addr e.data)

/-- What presenting a request at home gives. -/
inductive PresAns where
  | served
  | refused
  | held
  | waits (w : WaitOn)
  deriving DecidableEq, Repr

/-- Set ERRPEND of a host function; where it was clear and ERREN is set, vector 0 is sent (R419). -/
def Dev.errPend (d : Dev) (fi : Nat) : Dev :=
  if ! isHostFn fi || d.reg (intStsKey fi) % 2 = 1 then d
  else
    let d := d.setReg (intStsKey fi) 1
    if d.reg (intCtlKey fi) % 2 = 1 then d.msixSend fi 0 else d

/-- An ACTIVE queue enters ERROR (R131). -/
def Dev.queueErr (d : Dev) (q : Nat) : Dev :=
  match smGet? q d.queues with
  | none => d
  | some x =>
    if x.st ≠ .active then d
    else
      let d := { d with queues := smSet q { x with st := .error } d.queues }
      let d := (d.setRf (qctKey x.fn 4) 2 2 1).setRf (qctKey x.fn 4) 29 16 x.lq
      (d.event .queueError [.queue q]).errPend x.fn

/-- Write a notification word into this Ndonte's own store. A write that is refused puts its queue into ERROR. -/
def Dev.notifyAt (d : Dev) (q off : Nat) (data : Line) (m : LineMask) : PresAns × Dev :=
  let (g, d) := d.gateMap off [.queue q]
  match g with
  | .fail _ => (.served, d.queueErr q)
  | .hold w => (.waits w, d)
  | .go =>
    if d.inExtTab off || ! d.hostServed (off / 65536) then (.served, d.queueErr q)
    else
      let (g, d) := d.gateFrame off true
      match g with
      | .fail _ => (.served, d.queueErr q)
      | .hold w => (.waits w, d)
      | .go => match d.pline off with
        | none => (.served, d)
        | some pl =>
          let (a, d) := d.dirTry off pl none .w (.notify q off data m)
          match a with
          | .busy => (.refused, d)
          | .held => (.held, d)
          | .serve => (.served, (d.applyWrite off data m false none).1)

/-- The notification word (R145). -/
def notifyWord (fault : Bool) (q count : Nat) : Nat := b2n fault * 2 ^ 62 + q % 2 ^ 14 * 2 ^ 32 + count % 2 ^ 32

/-- The SIDX of the queue front end. -/
def sidxFront : Nat := 3 * 2 ^ 18

/-- Send a signal of a queue: MSI-X for a host function, a notification word for an endpoint group (R145). -/
def Dev.signal (d : Dev) (qid : Nat) (x : Queue) (fault : Bool) : Dev :=
  let d := if fault then d else d.count x.fn 0x12 1
  if isHostFn x.fn then d.msixSend x.fn x.lq
  else
    let fa := lf x.ctx 24 8
    let bs := leBytes 8 (notifyWord fault qid x.count)
    let m := rangeMask (fa % 64) (fa % 64 + 8)
    let data := bytesLine (List.replicate (fa % 64) 0 ++ bs)
    if d.isOwn fa then
      let r : MemReq := .notify qid (faOff fa) data m
      if d.behind r then { d with waiting := d.waiting ++ [⟨r, .order⟩] }
      else match d.notifyAt qid (faOff fa) data m with
        | (.waits w, d) => { d with waiting := d.waiting ++ [⟨r, w⟩] }
        | (_, d) => d
    else match d.issueStatus (fa / 2 ^ 48) with
      | some _ => d.queueErr qid
      | none => d.writeOut (fa / 2 ^ 48) sidxFront 2 (leBytes 8 (64 * (fa / 64)) ++ leBytes 8 m.toNat ++ lineBytes data)
          false false (.notify qid)

/-! PASID contexts (R40, R41). -/

/-- A PASID context entry. -/
structure PasidCtx where
  root : Nat
  fqBase : Nat
  fqLog : Nat
  mpool : Nat
  mpoolLog : Nat
  func : Nat
  comp : Nat
  notify : Nat
  hmig : Bool
  deriving DecidableEq, Repr

/-- The context entry that 32 bytes spell; none where it is invalid. -/
def ctxOf (bs : List Byte) : Option PasidCtx :=
  let fl := fld bs 30 2
  let fq := fld bs 8 8
  let mp := fld bs 16 8
  let hm := bit fl 1
  if ! bit fl 0 || decide (bits fq 3 0 > 8) || (hm && ! decide (4 ≤ mp % 64 ∧ mp % 64 ≤ 16)) then none
  else some ⟨bits (fld bs 0 8) 47 12 * 4096, bits fq 47 12 * 4096, bits fq 3 0 + 4, bits mp 47 6 * 64, mp % 64,
    fld bs 24 2, fld bs 26 2 % 1024, fld bs 28 2 % 2 ^ 14, hm⟩

/-- Read a structure of this Ndonte's own range at device scope: the status where a line is poisoned or its frame has no
tier-map entry (R44), with one event per PASID per accounting window. -/
def rdTab (pasid off n : Nat) : M (Except Nat (List Byte)) := do
  let d ← getDev
  let (g, d') := d.gateMap off [.pasid pasid]
  match g with
  | .fail st =>
    modDev (fun _ => d'.eventWindow .walkPoison pasid [.pasid pasid, .status st])
    return .error st
  | _ =>
    let (bs, ps) ← withReader (fun c => { c with checked := false }) (rdRaw (d.ownFa off) n)
    if ps.any id then
      modDev (fun d => d.eventWindow .walkPoison pasid [.pasid pasid, .status stPoison])
      return .error stPoison
    else return .ok bs

/-- The context of a PASID: the status where it cannot be used (R134 check 2). -/
def pasidCtx (pasid : Nat) : M (Except Nat PasidCtx) := do
  let d ← getDev
  let dir := d.reg 0x6000
  if ! bit dir 0 then return .error stBounds
  let r ← rdTab pasid (bits dir 47 12 * 4096 + 8 * (pasid / 1024 % 1024)) 8
  match r with
  | .error st => return .error st
  | .ok bs =>
    let e := leNat bs
    if ! bit e 0 then return .error stBounds
    let r ← rdTab pasid (bits e 47 12 * 4096 + 32 * (pasid % 1024)) 32
    match r with
    | .error st => return .error st
    | .ok bs => match ctxOf bs with
      | none => return .error stBounds
      | some c => return .ok c

/-! Page tables (R42 to R44). -/

/-- The index of a DVA at a level, and the bits that one leaf of the level spans. -/
def dvaIndex (dva lvl : Nat) : Nat :=
  if lvl = 0 then bits dva 47 39 else if lvl = 1 then bits dva 38 30 else if lvl = 2 then bits dva 29 21 else bits dva 20 16
def leafBits (lvl : Nat) : Nat := if lvl = 1 then 30 else if lvl = 2 then 21 else 16

/-- Whether an entry is malformed at a level (R43). -/
def malformed (e lvl : Nat) : Bool :=
  let leaf := bit e 1
  (lvl == 0 && leaf) || (lvl == 3 && ! leaf)
  || (leaf && lvl == 2 && bits e 20 16 != 0) || (leaf && lvl == 1 && bits e 29 16 != 0)
  || (leaf && bits e 15 8 != 0) || (! leaf && bits e 59 48 != 0) || (! leaf && decide (lvl ≤ 1) && bits e 11 8 != 0)
  || (bit e 4 && (lvl != 3 || ! leaf || bit e 0))

/-- What a walk finds. -/
inductive WalkRes where
  | leaf (lvl entry : Nat)
  | fault (kind level : Nat)
  | migrate (leafAddr entry : Nat)
  | ends (st : Nat)
  deriving DecidableEq, Repr

/-- The leaf translations, and of them the table pointers, that the central cache has room for (R46), and the leaf translations of one
section copy. -/
def tlbMax : Nat := 262144
def tptrMax : Nat := 32768
def tlbSecMax : Nat := 16384

/-- Put an item into a cache of `n` places. Which item a full cache gives up is open. -/
def Dev.cachePut [BEq α] (d : Dev) (n : Nat) (xs : List α) (x : α) : List α × Dev :=
  if xs.length < n then (xs ++ [x], d)
  else
    let (v, d) := d.takeFree
    (xs.eraseIdx (v % xs.length) ++ [x], d)

/-- Keep a table pointer (R46): it takes a place of its own kind or, below their limit, one of the whole cache. -/
def Dev.keepPtr (d : Dev) (t : TlbPtr) : Dev :=
  if d.tptr.contains t then d
  else if d.tptr.length < tptrMax ∧ d.tlb.length + d.tptr.length ≥ tlbMax then
    let (v, d) := d.takeFree
    { d with tlb := d.tlb.eraseIdx (v % d.tlb.length), tptr := d.tptr ++ [t] }
  else
    let (ts, d) := d.cachePut tptrMax d.tptr t
    { d with tptr := ts }

/-- The pointers that the cache holds for a DVA below a level (R46). -/
def Dev.cachedPtr (d : Dev) (pasid dva lvl : Nat) : Option Nat :=
  (d.tptr.find? (fun t => t.pasid == pasid && t.lvl == lvl && t.pre == dva / 2 ^ (if lvl = 0 then 39 else leafBits lvl))).map (·.table)

/-- Where the walk of a DVA starts (R46): at the deepest table that a cached pointer names, otherwise at the root. The levels left and the
table. -/
def Dev.walkStart (d : Dev) (pasid dva : Nat) (cx : PasidCtx) : Nat × Nat :=
  match d.cachedPtr pasid dva 2, d.cachedPtr pasid dva 1, d.cachedPtr pasid dva 0 with
  | some t, _, _ => (1, t)
  | none, some t, _ => (2, t)
  | none, none, some t => (3, t)
  | none, none, none => (4, cx.root)

/-- Walk the tables from a level on (R44); `n` levels are left. -/
def walkFrom (pasid dva : Nat) (cx : PasidCtx) : Nat → Nat → M WalkRes
  | 0, _ => return .fault 3 3
  | n + 1, table => do
    let lvl := 3 - n
    let addr := table + 8 * dvaIndex dva lvl
    let r ← rdTab pasid addr 8
    match r with
    | .error st => return .ends st
    | .ok bs =>
      let e := leNat bs
      if ! bit e 0 then
        if ! bit e 4 then return .fault 1 lvl
        if lvl ≠ 3 || ! bit e 1 || bit cx.func 15 then return .fault 3 lvl
        if ! cx.hmig then return .fault 1 lvl
        return .migrate addr e
      if malformed e lvl then return .fault 3 lvl
      if bit e 1 then return .leaf lvl e
      let t := bits e 47 16 * 65536 + bits e 15 8 * 256
      modDev (fun d => d.keepPtr ⟨pasid, dva / 2 ^ (if lvl = 0 then 39 else leafBits lvl), lvl, t⟩)
      walkFrom pasid dva cx n t

/-- Whether an invalidation in progress covers a page and its translation. -/
def invCovers (i : Invalidation) (pasid page fa : Nat) : Bool :=
  if i.mode = 0 then (i.all || i.pasid == pasid) && decide (i.start / 65536 ≤ page ∧ page < i.start / 65536 + i.frames)
  else decide (i.start / 65536 ≤ fa / 65536 ∧ fa / 65536 < i.start / 65536 + i.frames)

/-- The FA that a leaf gives for a DVA. -/
def leafFa (lvl e dva : Nat) : Nat :=
  let m := 2 ^ leafBits lvl
  bits e 59 16 * 65536 / m * m + dva % m

/-! Faults (R53 to R57). -/

/-- Enter a fault in the outstanding set, or join the waiting set of one with the same page and kind (R54). -/
def Dev.addFault (d : Dev) (pasid dva kind access level : Nat) (who : DescId) (tag eng : Nat) (waits : Bool) : Dev :=
  let page := dva / 65536
  if d.faults.any (fun f => f.pasid == pasid && f.page == page && f.kind == kind) && kind ≠ 4 then
    { d with faults := d.faults.map (fun f =>
        if f.pasid == pasid && f.page == page && f.kind == kind && waits && ! f.waiters.contains who
        then { f with waiters := f.waiters ++ [who] } else f) }
  else
    { d with
      faults := d.faults ++ [⟨d.faultCtr, pasid, page, kind, access, who.queue, tag, eng, dva, level,
        if waits then [who] else [], false⟩]
      faultCtr := (d.faultCtr + 1) % 2 ^ 32 }

/-- The bytes of a fault record (R55). -/
def faultBytes (f : FaultEntry) (phase : Bool) : List Byte :=
  leBytes 1 f.kind ++ leBytes 1 (f.access + 128 * b2n phase) ++ leBytes 2 f.queue ++ leBytes 2 f.tag ++ leBytes 2 f.engine
  ++ leBytes 8 f.dva ++ leBytes 4 f.pasid ++ leBytes 4 f.waiters.length ++ leBytes 4 f.id ++ leBytes 1 f.level
  ++ List.replicate 3 0

/-- What writing waiting faults leaves: the area, the faults written, whether a signal is due for a record or for FULL, and HEAD as it was
read. -/
structure FaultFlush where
  area : FaultArea
  written : List Nat
  record : Bool
  fullNow : Bool
  head : Nat

/-- Write waiting faults of a PASID into its area of `n` slots in order, while slots are free (R55, R57). STATUS is written where it
changes, or where faults wait. -/
def writeFaults (base n : Nat) : List FaultEntry → FaultFlush → M FaultFlush
  | [], st => do
    let d ← getDev
    let full := decide (ringSub n st.area.tail st.head ≥ n - 1)
    if full || st.area.full then wr (d.ownFa (base + 8)) (leBytes 4 (b2n full) ++ leBytes 4 0)
    return { st with area := { st.area with full := full }, fullNow := full && ! st.area.full }
  | f :: fs, st => do
    let d ← getDev
    let used := ringSub n st.area.tail st.head
    if used ≥ n - 1 then
      wr (d.ownFa (base + 8)) (leBytes 4 1 ++ leBytes 4 (fs.length + 1))
      return { st with area := { st.area with full := true }, fullNow := ! st.area.full }
    else
      let t := st.area.tail
      wr (d.ownFa (base + 64 + 32 * t)) (faultBytes f st.area.phase)
      wr (d.ownFa (base + 4)) (leBytes 4 ((t + 1) % n))
      let a := { st.area with tail := (t + 1) % n, phase := if t + 1 = n then ! st.area.phase else st.area.phase }
      writeFaults base n fs { st with area := a, written := st.written ++ [f.id], record := true }

/-- Read HEAD of a fault area, and write what waits. -/
def fillArea (base n : Nat) (fs : List FaultEntry) (a : FaultArea) : M FaultFlush := do
  let d ← getDev
  let head := leNat (← rd (d.ownFa base) 4) % n
  writeFaults base n fs ⟨a, [], false, false, head⟩

/-- Signal a PASID's fault area on NOTIFY_Q (R41, R55): no signal where the queue is not ACTIVE. -/
def Dev.signalFaults (d : Dev) (cx : PasidCtx) : Dev :=
  let fi := funcIndex cx.func
  if fi < 2048 ∧ cx.notify < d.qCount fi then
    match smGet? (d.qBase fi + cx.notify) d.queues with
    | some x => if x.st = .active then d.signal (d.qBase fi + cx.notify) x true else d
    | none => d
  else d

/-- Signal a new record: at once when no window runs, otherwise at the window's end (R55). -/
def Dev.signalRecord (d : Dev) (pasid : Nat) (cx : PasidCtx) : Dev :=
  match smGet? pasid d.areas with
  | none => d
  | some a =>
    if a.window then { d with areas := smSet pasid { a with pendingSignal := true } d.areas }
    else { d with areas := smSet pasid { a with window := true } d.areas }.signalFaults cx

/-- Arm or disarm a PASID's control line (R95), HEAD having been read. A frame outside T0 is promoted first: the arming is presented by
itself; one that finds its line's set busy is presented again. -/
def Dev.armFaults (d : Dev) (pasid head : Nat) : Dev :=
  match smGet? pasid d.areas with
  | none => d
  | some a =>
    let who : Armer := .faultArea pasid
    if a.tail ≠ head || d.faults.any (fun f => f.pasid == pasid && ! f.written) then
      match d.pline a.base with
      | none => { d with waiting := d.waiting ++ [⟨.arm who a.base, .order⟩] }
      | some pl =>
        let (r, d) := d.arm who a.base pl
        let d := { d with areas := smSet pasid { a with armed := decide (r = .armed) } d.areas }
        match r with
        | .failed => if d.polledLines.contains who then d else { d with polledLines := d.polledLines ++ [who] }
        | .busy => d.refuse (.arm who a.base) (a.base / 64)
        | .armed | .held => d
    else { (d.disarm who) with areas := smSet pasid { a with armed := false } d.areas }

/-- A PASID's fault area as the context entry places it. At its first use it starts at slot 0 with PHASE 1. When FQ_BASE changes, or the
PASID is used again, no rule starts it anew: TAIL, cut to the slots there are, and PHASE go on (DESIGN CHOICE, log entry 182). -/
def Dev.areaOf (d : Dev) (pasid : Nat) (cx : PasidCtx) : FaultArea × Dev :=
  match smGet? pasid d.areas with
  | none => (⟨cx.fqBase, 0, true, false, false, false, false⟩, d)
  | some a =>
    let a' := { a with base := cx.fqBase, tail := a.tail % 2 ^ cx.fqLog }
    if a.base = cx.fqBase then (a', d) else ({ a' with armed := false }, d.disarm (.faultArea pasid))

/-- Write what waits in a PASID's fault area, signal it, and keep its control line armed or polled. The answer is false where that must be
tried again. -/
def Dev.flushTry (d : Dev) (pasid : Nat) : Bool × Dev :=
  match d.unitRun (pasidCtx pasid) with
  | (some (.ok cx), d) =>
    let (a, d) := d.areaOf pasid cx
    let waiting := d.faults.filter (fun f => f.pasid == pasid && ! f.written)
    match d.unitRun (fillArea cx.fqBase (2 ^ cx.fqLog) waiting a) with
    | (some r, d) =>
      let mark (f : FaultEntry) : FaultEntry := if r.written.contains f.id then { f with written := true } else f
      let d := (d.faults.filter (fun f => r.written.contains f.id)).foldl (fun d f => d.countDesc ⟨f.queue, 0⟩ 0x0B 1) d
      let left := (d.faults.map mark).filter (fun f => ! (f.kind == 4 && f.written))
      let d := { d with areas := smSet pasid r.area d.areas, faults := left }
      let d := if r.record || r.fullNow then d.signalRecord pasid cx else d
      (true, d.armFaults pasid r.head)
    | (none, d) => (false, { d with areas := smSet pasid a d.areas })
  | (r, d) => (r.isSome, d)

/-- Write what waits in a PASID's fault area as far as it goes now. -/
def Dev.flushFaults (d : Dev) (pasid : Nat) : Dev := (d.flushTry pasid).2

/-- Try the fault areas again in which a fault waits for its record though a slot is free. -/
def Dev.faultStep (d : Dev) : Dev :=
  let ps := ((d.faults.filter (fun f => ! f.written)).map (·.pasid)).eraseDups
  (ps.filter (fun p => match smGet? p d.areas with | some a => ! a.full | none => true)).foldl Dev.flushFaults d

/-! Translation (R44, R46, R47). -/

/-- The tag of a run's descriptor. -/
def Dev.tagOf (d : Dev) (c : Ctx) : Nat :=
  match c.run with
  | .desc q n => ((d.startedOf q n).map (fun r => lf r.bytes 2 2)).getD 0
  | _ => 0

/-- Change a timetable being run. -/
def Dev.modTable (d : Dev) (i : DescId) (g : Timetable → Timetable) : Dev :=
  { d with timetables := d.timetables.map (fun t => if t.desc = i then g t else t) }

/-- The timetable of a descriptor. -/
def Dev.table (d : Dev) (i : DescId) : Option Timetable := d.timetables.find? (fun t => t.desc == i)

/-- The context of a run stalls on a page and kind of fault (R54): the descriptor, or one entry of a timetable (R265). -/
def Dev.stalls (d : Dev) (c : Ctx) (page kind : Nat) : Dev :=
  if c.ent = 0 then d.modStarted c.did.queue c.did.seq (fun r => { r with phase := .faulted })
  else d.modTable c.did (fun t => { t with stalled := t.stalled ++ [(c.ent - 1, page, kind)] })

/-- Stall a run on a fault (R54). -/
def stallFault (dva kind access level : Nat) : M α := do
  let c ← read
  modDev (fun d => (d.addFault c.pasid dva kind access level c.did (d.tagOf c) (engineCode c.eng) true).stalls c (dva / 65536) kind)
  need

/-- The host function through which a PASID's migrations run. -/
def PasidCtx.fn (cx : PasidCtx) : Nat := cx.func % 4096

/-- Begin a migration on fault, or join the one of the page (R59 steps 1 and 2): the ring's entry is taken at once. -/
def startMigration (dva access : Nat) (cx : PasidCtx) (leafAddr entry : Nat) : M α := do
  let c ← read
  let d ← getDev
  let page := dva / 65536
  if d.migrations.any (fun m => m.pasid == c.pasid && m.page == page) then
    modDev (fun d =>
      let d := { d with migrations := d.migrations.map (fun m =>
        if m.pasid == c.pasid && m.page == page && ! m.waiters.contains c.did then { m with waiters := m.waiters ++ [c.did] } else m) }
      if c.ent = 0 then d else d.stalls c page 5)
    need
  else
    match d.unitTry (takeRing cx.mpool cx.mpoolLog) with
    | (.error .need, e) => do
      modDev (fun _ => e)
      need
    | (.error (.done st), e) => do
      modDev (fun _ => e)
      halt st
    | (.ok none, e) => do
      modDev (fun _ => e)
      stallFault dva 6 access 3
    | (.ok (some f), e) => do
      modDev (fun _ =>
        let e := { e with migrations := e.migrations ++
          [Migration.mk c.pasid page leafAddr entry (f % 2 ^ 32) [c.did] false access dva (engineCode c.eng)] }.send
          (.dmaRead cx.fn (bits entry 59 16 * 65536) 65536)
        if c.ent = 0 then e else e.stalls c page 5)
      need

/-- The section whose copy an engine's translations go to (R46). -/
def engSection : Engine → Option Nat
  | .bay n => some (n / 16)
  | .scanner _ | .turntable | .kiln | .dispatcher | .agent | .queueFront => none

/-- The cached leaf of a page: in the section copy of the engine, or in the central cache (R46). An invalidation in progress that covers it
sends the translation to the tables (R50). -/
def Dev.cachedLeaf (d : Dev) (c : Ctx) (dva : Nat) : Option TlbLeaf :=
  let page := dva / 65536
  let hit (t : TlbLeaf) : Bool := t.pasid == c.pasid && decide (t.page ≤ page ∧ page < t.page + 2 ^ (leafBits t.lvl - 16))
    && ! d.invs.any (fun i => invCovers i c.pasid page (leafFa t.lvl t.entry dva))
  match (engSection c.eng).bind (fun s => (d.tlbSec.find? (fun x => x.1 == s && hit x.2)).map (·.2)) with
  | some t => some t
  | none => d.tlb.find? hit

/-- Keep a leaf translation in the section copy of the engine that uses it, and in the central cache (R46). -/
def Dev.keepLeaf (d : Dev) (c : Ctx) (t : TlbLeaf) : Dev :=
  let d := if d.tlb.contains t then d
    else
      let (ts, d) := d.cachePut (tlbMax - d.tptr.length) d.tlb t
      { d with tlb := ts }
  match engSection c.eng with
  | none => d
  | some s =>
    if d.tlbSec.contains (s, t) then d
    else
      let mine := d.tlbSec.filter (fun x => x.1 == s)
      let (ts, d) := d.cachePut tlbSecMax mine (s, t)
      { d with tlbSec := d.tlbSec.filter (fun x => x.1 != s) ++ ts }

/-- Use a leaf for an access: its permissions, and the FA. An atomic or read-modify-write needs both (R44). -/
def useLeaf (dva access lvl e : Nat) : M Nat := do
  let c ← read
  let fa := leafFa lvl e dva
  if (bit access 1 && ! bit e 3) || (bit access 0 && ! bit e 2) then stallFault dva 2 access lvl
  modDev (fun d => if d.invs.any (fun i => invCovers i c.pasid (dva / 65536) fa) then d
    else d.keepLeaf c ⟨c.pasid, dva / 2 ^ leafBits lvl * 2 ^ (leafBits lvl - 16), lvl, e⟩)
  modify (fun s => { s with trs := s.trs ++ [⟨c.ent, dva / 65536, access, fa / 65536, false⟩] })
  return fa

/-- A translation under which an access of this run waits though an invalidation has since withdrawn it: the access completes under it
(R50, R52). -/
def Dev.oldIssue (d : Dev) (c : Ctx) (dva access : Nat) : Option Issued :=
  match d.startedOf c.did.queue c.did.seq with
  | none => none
  | some r => r.issued.find? (fun t => t.old && t.ent == c.ent && t.page == dva / 65536 && t.access == access)

/-- Translate a DVA for an access: bit 0 of `access` reads, bit 1 writes, bit 2 marks an atomic. -/
def xlate (dva access : Nat) : M Nat := do
  let c ← read
  ensure (decide (dva < 2 ^ 48)) stBounds
  let d ← getDev
  match d.oldIssue c dva access, d.cachedLeaf c dva with
  | some t, _ => do
    modify (fun s => { s with trs := s.trs ++ [t] })
    return 65536 * t.fa + dva % 65536
  | none, some t => useLeaf dva access t.lvl t.entry
  | none, none =>
    let r ← pasidCtx c.pasid
    match r with
    | .error st => halt st
    | .ok cx =>
      let d ← getDev
      let (n, table) := d.walkStart c.pasid dva cx
      let w ← walkFrom c.pasid dva cx n table
      modDev (fun d => d.countRun c 0x0A 1)
      match w with
      | .ends st => halt st
      | .fault kind lvl => stallFault dva kind access lvl
      | .migrate a e => startMigration dva access cx a e
      | .leaf lvl e => useLeaf dva access lvl e

/-- Keep the translations under which a run's access has been issued and waits: those of one timetable entry, or of the descriptor. -/
def Dev.setIssued (d : Dev) (c : Ctx) (ts : List Issued) : Dev :=
  d.modStarted c.did.queue c.did.seq (fun r => { r with issued := r.issued.filter (fun t => t.ent != c.ent) ++ ts })

/-- Cut `[dva, dva + n)` at 64 KiB pages. -/
def pageRuns : Nat → Nat → Nat → List (Nat × Nat)
  | 0, _, _ => []
  | fuel + 1, dva, n =>
    if n = 0 then [] else
      let k := min n (65536 - dva % 65536)
      (dva, k) :: pageRuns fuel (dva + k) (n - k)

/-- The pages of a run of DVAs. -/
def pagesOf (dva n : Nat) : List (Nat × Nat) := pageRuns (n / 65536 + 2) dva n

/-- Translate every page of a run: the FA and length of each piece. -/
def xlateAll (access : Nat) : List (Nat × Nat) → M (List (Nat × Nat))
  | [] => pure []
  | (a, k) :: rs => do
    let fa ← xlate a access
    let xs ← xlateAll access rs
    return (fa, k) :: xs

/-- Read pieces of the store. -/
def rdPieces : List (Nat × Nat) → M (List Byte × List Bool)
  | [] => pure ([], [])
  | (fa, k) :: rs => do
    let (bs, ps) ← rdRaw fa k
    let (cs, qs) ← rdPieces rs
    return (bs ++ cs, ps ++ qs)

/-- Read `n` bytes from a DVA with the poison of each byte. -/
def rdRawV (dva n : Nat) : M (List Byte × List Bool) := do
  let ps ← xlateAll 1 (pagesOf dva n)
  rdPieces ps

/-- Read `n` bytes from a DVA; a poisoned code word among them ends the run with POISON. -/
def rdV (dva n : Nat) : M (List Byte) := do
  let (bs, ps) ← rdRawV dva n
  if ps.any id then halt stPoison
  return bs

/-- Write pieces of the store. -/
def wrPieces (poison : Bool) : List (Nat × Nat) → List Byte → M Unit
  | [], _ => pure ()
  | (fa, k) :: rs, bs => do
    wr fa (bs.take k) poison
    wrPieces poison rs (bs.drop k)

/-- Write bytes at a DVA. -/
def wrV (dva : Nat) (bs : List Byte) (poison : Bool := false) : M Unit := do
  let ps ← xlateAll 2 (pagesOf dva bs.length)
  wrPieces poison ps bs

/-- Whether a range of DVAs stays within 48 bits; a range that does not is out of range (R39). -/
def dvaFits (dva n : Nat) : Bool := decide (dva + n ≤ 2 ^ 48)

end Sys2Proof.Machine
end

