-- ==== Sys2Proof/Machine/Attention.lean ====
section
/-! DEFINITION. Near-store attention: KV blocks, the partials over their rows and the rule that merges them (R164, R167,
R184 to R200, R279), and the order of reductions that the manual leaves open. -/

namespace Sys2Proof.Machine

open Sys2Proof

/-! Arrival order (R164, R167): the model leaves the order and grouping of a reduction to free values. -/

/-- Put a list into the order that a number names: the number picks the first element, and its quotient the rest. -/
def shuffleN : Nat → Nat → List α → List α
  | 0, _, xs => xs
  | n + 1, v, xs =>
    if xs.length ≤ 1 then xs
    else match xs[v % xs.length]? with
      | some x => x :: shuffleN n (v / xs.length) (xs.eraseIdx (v % xs.length))
      | none => xs

/-- Put a list into the order that a number names. -/
def shuffle (v : Nat) (xs : List α) : List α := shuffleN xs.length v xs

/-- Cut a list into runs: bit `i` of the number begins a new run after element `i`. -/
def cutRuns (v : Nat) : Nat → List α → List (List α)
  | _, [] => []
  | _, [x] => [[x]]
  | i, x :: xs =>
    match cutRuns v (i + 1) xs with
    | [] => [[x]]
    | r :: rs => if bit v i then [x] :: r :: rs else (x :: r) :: rs

/-- The next free value of a run. -/
def freeM : M Nat := do
  let d ← getDev
  let (v, d) := d.takeFree
  modDev (fun _ => d)
  return v

/-- The parts in which a reduction takes its terms: an order and a grouping, both open. One term or none needs neither. -/
def arrivals (xs : List α) : M (List (List α)) := do
  if xs.length ≤ 1 then return [xs]
  let v ← freeM
  let w ← freeM
  return cutRuns w 0 (shuffle v xs)

/-! Attention partials (R196 to R198). -/

/-- The partial of one query head: m, l and o. -/
structure AttnPart where
  m : Val
  l : Val
  o : List Val
  deriving DecidableEq, Repr

/-- The partial over no row. -/
def AttnPart.none (dim : Nat) : AttnPart := ⟨.inf true, .fin false 0 0, List.replicate dim (.fin false 0 0)⟩

/-- The partial that a NaN or an infinity reaches (R196). -/
def AttnPart.bad (dim : Nat) : AttnPart := ⟨.nan, .nan, List.replicate dim .nan⟩

/-! Dot products (R153, R164). -/

/-- The multiply-accumulates of one step of a bay on operands of a format (R153): FP32 and INT32 run on the vector unit. -/
def macRate (f : Nat) : Nat :=
  if f = 0x07 ∨ f = 0x0C ∨ f = 0x10 then 2048
  else if f = 0x01 ∨ f = 0x02 ∨ f = 0x12 then 512
  else if f = 0x00 ∨ f = 0x0E then 64
  else if f = 0x11 then 8192
  else 1024

/-- The products of one dot that a step takes, for `nr` dots of `n` products of an operand pair, at the rate of the slower class (R153):
all of them where one step holds the dots, otherwise some number that is not stated. -/
def dotCut (f g nr n : Nat) : Nat :=
  let r := min (macRate f) (macRate g)
  if nr * n ≤ r then n else 1 + Config.dotCut nr n % r

/-- The operand pairs of a dot in the order in which they are added (R164): `k` to a step, in each step in an order that is fixed and not
stated, the steps in the order of their arrival that `v` names. -/
def dotPairs (k v : Nat) (a b : List α) : List (α × α) :=
  (shuffle v (chunks k (List.zipWith Prod.mk a b))).flatMap (fun c => shuffle (Config.dotOrder c.length) c)

/-- A dot product in FP32: every product exact, one rounding per addition (R164). -/
def dot32 (k v : Nat) (a b : List Val) : Val :=
  (dotPairs k v a b).foldl (fun s p => ffma p.1 p.2 s) (.fin false 0 0)

/-- A number for the arrival order of a run's steps, where its dots take more than one. -/
def stepsM (k n : Nat) : M Nat := if k < n then freeM else pure 0

/-- One dot product of a run, of operands of two formats. -/
def dotM (f g : Nat) (a b : List Val) : M Val := do
  let n := min a.length b.length
  let k := dotCut f g 1 n
  let v ← stepsM k n
  return dot32 k v a b

/-- A value rounded to BF16. -/
def toBf16 (v : Val) : Val := decF bf16 ((encF bf16 v).getD 0x7FC0)

/-- Take one row into a head's partial (R170, R196): the score, from the dot of query and K, the running maximum and sum, and the
weighted V. -/
def attnRow (c qk : Val) (p : AttnPart) (v : List Val) : AttnPart :=
  let s := fmul c qk
  if s.special || p.m == .nan then AttnPart.bad p.o.length
  else
    let up := p.m.lt s
    let a := if up then fexp (fsub p.m s) else .fin false 1 0
    let m := if up then s else p.m
    let w := fexp (fsub s m)
    ⟨m, ffma p.l a w, List.zipWith (fun o x => ffma (toBf16 w) x (fmul o a)) p.o v⟩

/-- The factor of a part against the common maximum (R198). -/
def mergeFactor (bigM : Val) (p : AttnPart) : Val := if p.m = .inf true then .fin false 0 0 else fexp (fsub p.m bigM)

/-- Merge the partials of one head in the order given (R198). -/
def attnMerge (dim : Nat) (ps : List AttnPart) : AttnPart :=
  let bigM := ps.foldl (fun m p => fmax m p.m) (.inf true)
  if bigM = .inf true then AttnPart.none dim
  else ps.foldl (fun r p =>
    let a := mergeFactor bigM p
    ⟨bigM, ffma p.l a r.l, List.zipWith (fun o x => ffma x a o) r.o p.o⟩) ⟨bigM, .fin false 0 0, List.replicate dim (.fin false 0 0)⟩

/-- The shape of an attention run (R194). -/
structure AttnShape where
  g : Nat
  dim : Nat
  kvfmt : Nat
  qfmt : Nat
  scale : Nat
  deriving DecidableEq, Repr

/-- Whether D is a head dimension (R184). -/
def okDim (n : Nat) : Bool := [64, 80, 96, 128, 192, 256].contains n

/-- The storage formats of a KV block and the query formats (R187, R194). -/
def okKvFmt (f : Nat) : Bool := [0x02, 0x03, 0x08, 0x12].contains f
def okQFmt (f : Nat) : Bool := [0x00, 0x01, 0x02, 0x03].contains f

/-- Whether D and the format go together: MXFP8 and KVL4 need a multiple of 32 (R184). -/
def dimFits (n f : Nat) : Bool := ! (n == 80 && (f == 0x08 || f == 0x12))

/-- Row bytes and block bytes of a KV block (R184). -/
def kvRowBytes (f n : Nat) : Nat := (vecBytes f n).getD 0
def kvBlockBytes (f n : Nat) : Nat := 128 * kvRowBytes f n

/-- Whether an FA can be a block's first byte (R185). -/
def blockOk (fa bytes : Nat) : Bool := decide (fa % 256 = 0) && decide (fa % 65536 + bytes ≤ 65536)

/-- The K and V rows of a block's bytes up to a limit; none when a group is malformed. -/
def kvRows (f n limit : Nat) (bs : List Byte) : Option (List (List Val × List Val)) :=
  let rb := kvRowBytes f n
  (List.range limit).foldr (fun t acc => match acc, decVec f n (slice bs (t * rb) rb), decVec f n (slice bs ((64 + t) * rb) rb) with
    | some rs, some k, some v => some ((k, v) :: rs)
    | _, _, _ => none) (some [])

/-! Reading stored frames in place (R199, R201). -/

/-- Wait until a stored frame can be read in place, as its promotion would wait (R75, R82, R199, R331): whether its source is there, false
where that is lost. -/
def openInPlace (off : Nat) : M Bool := do
  let c ← read
  let (g, d) := (← getDev).gateMap off c.source
  modDev (fun _ => d)
  match g with
  | .fail st => halt st
  | .hold _ => waitsOn (d.ownFa off)
  | .go =>
    let (st, d) := d.extCheck c off false
    modDev (fun _ => d)
    if st ≠ 0 then halt st
    match (d.entry (off / 65536)).map (fun e => d.sourceSt e) with
    | some .waits => waitsOn (d.ownFa off)
    | some .lost => return false
    | _ => return true

/-- Bytes of a stored frame, read in place through the kiln (R199), with the poison of each byte. -/
def rdInPlace (off n : Nat) : M (List Byte × List Bool) := do
  if ! (← openInPlace off) then halt stPoison
  let d ← getDev
  let f := off / 65536
  match d.entry f with
  | none => halt stBounds
  | some e =>
    match d.t1Content f e with
    | none => halt stPoison
    | some (data, pois) =>
      let base := off % 65536
      let ps := (List.range n).map (fun i => pois.contains ((base + i) / 32))
      modDev (fun d => d.kilnEvent f e)
      noteStored (d.ownFa off) n .turntable (ps.any id)
      return (cellBytes data base n, ps)

/-- Whether a block of this Ndonte is read in place: its frame is in T1 and no promotion of it runs (R199, R201). -/
def Dev.inPlace (d : Dev) (off : Nat) : Bool :=
  match d.entry (off / 65536) with
  | some e => e.tier == 1 && ! e.psn && (smGet? (off / 65536) d.moves).isNone
  | none => false

/-! Sections and their bays (R21, R181). -/

/-- Whether every bay is fenced (R181). -/
def Dev.noBay (d : Dev) : Bool := decide (d.fencedBays.length ≥ d.bays)

/-- The bays of a section that are not fenced. -/
def Dev.openBays (d : Dev) (s : Nat) : List Nat := ((List.range 16).map (16 * s + ·)).filter (fun b => ! d.fencedBays.contains b)

/-- The section that runs the parts of section `s` (R181): itself, or the next on the ring that has a bay not fenced. -/
def Dev.openSection (d : Dev) (s : Nat) : Option Nat :=
  ((List.range d.stacks).map (fun i => (s + i) % d.stacks)).find? (fun s => ! (d.openBays s).isEmpty)

/-- The section whose stack holds the frame of an offset, where one does. -/
def Dev.sectionOf (d : Dev) (off : Nat) : Option Nat :=
  match d.entry (off / 65536) with
  | some e => if e.tier = 0 ∧ ! e.psn then some (locStack e.loc) else none
  | none => none

/-! The parts of an attention run at this Ndonte (R198, R199). -/

/-- Run a computation to its end: its answer, or the status it fails with. -/
def caught (m : M α) : M (Except Nat α) :=
  tryCatch (do let a ← m; return .ok a) (fun h => match h with
    | .done st => pure (.error st)
    | .need => throw .need)

/-- What one block gives (R199): the part that it belongs to, a section's over T0 blocks or over those read in place, and its rows in the
order of their arrival (R164), or the status it fails with. -/
structure Chunk where
  part : Nat × Bool
  rows : Except Nat (List (List Val × List Val))

/-- The rows of a block that this Ndonte reads itself. -/
def chunkRows (sh : AttnShape) (here : Bool) (fa limit : Nat) : M (List (List Val × List Val)) := do
  let n := kvBlockBytes sh.kvfmt sh.dim
  let (bs, ps) ← if here then atStage 1 (rdInPlace (faOff fa) n) else atStage 0 (rdRaw fa n)
  let rb := kvRowBytes sh.kvfmt sh.dim
  if (ps.take (limit * rb)).any id || ((ps.drop (64 * rb)).take (limit * rb)).any id then halt stPoison
  match kvRows sh.kvfmt sh.dim limit bs with
  | none => halt stFormat
  | some rows =>
    let v ← stepsM 1 rows.length
    return shuffle v rows

/-- Run a block: one block is one chunk (R199). -/
def attnChunk (sh : AttnShape) (inplace : Bool) (fa limit : Nat) : M Chunk := do
  let off := faOff fa
  let here := inplace && (← getDev).inPlace off
  let slot := (((← getDev).entry (off / 65536)).map (·.cslot)).getD 0
  let rows ← caught (chunkRows sh here fa limit)
  let d ← getDev
  let sec := if here then some (Config.caskSection slot % d.stacks) else d.sectionOf off
  return ⟨(((sec.bind d.openSection).getD d.stacks), here), rows⟩

/-- Run the blocks that this Ndonte reads itself, in list order; a limit of 0 skips the block (R186). -/
def attnChunks (sh : AttnShape) (inplace : Bool) : List (Nat × Nat) → M (List Chunk)
  | [] => pure []
  | (fa, limit) :: rest => do
    let here ← if limit = 0 then pure [] else (do let c ← attnChunk sh inplace fa limit; return [c])
    let more ← attnChunks sh inplace rest
    return here ++ more

/-- The chunks by part. -/
def chunkParts (cs : List Chunk) : List (List Chunk) :=
  ((cs.map (·.part)).eraseDups).map (fun p => cs.filter (fun c => c.part == p))

/-- The rows of a chunk that has not failed. -/
def Chunk.good (c : Chunk) : List (List Val × List Val) := match c.rows with | .ok rs => rs | .error _ => []

/-- The statuses that a part reports: those of its chunks that failed, OK where none did (R23, R137). -/
def partEnds (cs : List Chunk) : List Nat :=
  let bad := cs.filterMap (fun c => match c.rows with | .error st => some st | .ok _ => none)
  if bad.isEmpty then [0] else bad

/-- The rows that took part, and the blocks read in place. -/
def chunkCounts (cs : List Chunk) : Nat × Nat :=
  ((cs.map (fun c => c.good.length)).foldl (· + ·) 0, cs.countP (fun c => c.part.2))

/-- The partial of head `g` over the rows of a chunk (R196); `v` names the arrival of its steps. -/
def chunkPartial (sh : AttnShape) (v g : Nat) (q : List Val) (rows : List (List Val × List Val)) : AttnPart :=
  let k := dotCut sh.qfmt sh.kvfmt sh.g sh.dim
  ((List.range rows.length).zip rows).foldl (fun p x =>
    attnRow (v32 sh.scale) (dot32 k (Config.stepOrder v (64 * g + x.1)) q x.2.1) p x.2.2) (AttnPart.none sh.dim)

/-- Merge the partials of one part (R198): each bay merges those of its chunks, and the section those of its bays. Which bay runs a chunk,
and the order of arrival, are open. -/
def mergePart (dim : Nat) (ps : List AttnPart) : M AttnPart := do
  let bays ← arrivals ps
  let v ← stepsM 1 bays.length
  return attnMerge dim (shuffle v (bays.map (attnMerge dim)))

/-- The partial of head `g` over each part. -/
def partPartials (sh : AttnShape) (g : Nat) (q : List Val) : List (List Chunk) → M (List AttnPart)
  | [] => pure []
  | cs :: rest => do
    let v ← stepsM (dotCut sh.qfmt sh.kvfmt sh.g sh.dim) sh.dim
    let p ← mergePart sh.dim (((List.range cs.length).zip cs).map (fun x =>
      chunkPartial sh (Config.stepOrder v x.1) g q x.2.good))
    let ps ← partPartials sh g q rest
    return p :: ps

/-- The partial of each head: the dispatcher merges those of the parts and of the peers in the order of their arrival (R198). -/
def attnHeads (sh : AttnShape) (parts : List (List Chunk)) (peers : Nat → List AttnPart) : Nat → List (List Val) → M (List AttnPart)
  | _, [] => pure []
  | g, q :: qs => do
    let own ← partPartials sh g q parts
    let all := own ++ peers g
    let v ← stepsM 1 all.length
    let ps ← attnHeads sh parts peers (g + 1) qs
    return attnMerge sh.dim (shuffle v all) :: ps

/-- The query vectors of a group; none when one is malformed. -/
def queries (sh : AttnShape) (bs : List Byte) : Option (List (List Val)) :=
  let n := (vecBytes sh.qfmt sh.dim).getD 0
  (List.range sh.g).foldr (fun i acc => match acc, decVec sh.qfmt sh.dim (slice bs (i * n) n) with
    | some qs, some q => some (q :: qs)
    | _, _ => none) (some [])

/-- One result record (R197) with o in a format. -/
def attnRecord (ofmt : Nat) (p : AttnPart) : List Byte :=
  leBytes 4 (f32 p.m) ++ leBytes 4 (f32 p.l) ++ (encVec ofmt p.o).getD []

/-- The partial that a record with FP32 o holds. -/
def recordPart (dim : Nat) (bs : List Byte) : AttnPart :=
  ⟨v32 (fld bs 0 4), v32 (fld bs 4 4), (List.range dim).map (fun j => v32 (fld bs (8 + 4 * j) 4))⟩

/-- The checks of the first phase on the shape (R195). -/
def attnShapeStatus (sh : AttnShape) (ofmt : Nat) : Nat :=
  if ! okDim sh.dim || ! decide (1 ≤ sh.g ∧ sh.g ≤ 16) || (v32 sh.scale).special || ! (Val.fin false 0 0).lt (v32 sh.scale) then stBounds
  else if ! okKvFmt sh.kvfmt || ! okQFmt sh.qfmt || ! (ofmt == 0 || ofmt == 2) then stFormat
  else if ! dimFits sh.dim sh.kvfmt then stBounds
  else stOk

/-! Sub-descriptors at the peer (R200, R279). -/

/-- The shape that fragment 0 of a SUBDESC states. -/
def subShape (h : List Byte) : AttnShape := ⟨fld h 3 1, fld h 4 2, fld h 6 1, fld h 7 1, fld h 12 4⟩

/-- The blocks and limits of a SUBDESC's payload. -/
def subBlocks (h pl : List Byte) : List (Nat × Nat) :=
  let sh := subShape h
  let qn := sh.g * (vecBytes sh.qfmt sh.dim).getD 0
  let n := fld h 16 4
  let lim := bit (fld h 10 2) 0
  (List.range n).map (fun i => (fld pl (qn + 8 * i) 8, if lim then fld pl (qn + 8 * n + 4 * i) 4 else 64))

/-- What a sub-descriptor gives: the status and DETAIL of the whole, the records, the rows that took part, and the blocks read in
place. -/
structure SubEnd where
  st : Nat
  detail : Nat
  recs : List Byte
  rows : Nat
  inPlace : Nat

/-- Whether a block that a sub-descriptor lists is one of this Ndonte's and passes the checks of R195. -/
def Dev.subBlockOk (d : Dev) (sh : AttnShape) (b : Nat × Nat) : Bool :=
  decide (b.1 < 2 ^ 60) && d.isOwn b.1 && blockOk b.1 (kvBlockBytes sh.kvfmt sh.dim) && decide (b.2 ≤ 64)

/-- Run a sub-descriptor (R200): it is checked, split and merged as a descriptor of this Ndonte. A block that fails the checks of
classification is a failed part of its own. -/
def runSub (h pl : List Byte) : M SubEnd := do
  let sh := subShape h
  let d ← getDev
  let st := if fld h 2 1 ≠ 1 then stBounds else attnShapeStatus sh 0
  if st ≠ 0 then halt st
  if d.noBay then halt stFenced
  let bl := subBlocks h pl
  match queries sh pl with
  | none => halt stFormat
  | some qs =>
    let cs ← attnChunks sh (bit (fld h 10 2) 1) (bl.filter (d.subBlockOk sh))
    let parts := chunkParts cs
    let ends := (bl.filter (fun b => ! d.subBlockOk sh b)).map (fun _ => stBounds) ++ parts.flatMap partEnds
    let st := ends.foldl worse 0
    let detail := ends.foldl (fun a st => a ||| 2 ^ st) (if ends.isEmpty then 1 else 0)
    let (rows, k) := chunkCounts cs
    if st ≠ 0 then return ⟨st, detail, [], 0, 0⟩
    let heads ← attnHeads sh parts (fun _ => []) 0 qs
    return ⟨0, detail, heads.flatMap (attnRecord 0), rows, k⟩

end Sys2Proof.Machine
end

