-- ==== Sys2Proof/Machine/Serve.lean ====
section
/-! DEFINITION. Serving requests at home: host and device-side accesses, armings, and the requests that land over Meunol,
with what releases those that wait (R92, R95, R97, R277, R280, R281, R283, R312). -/

namespace Sys2Proof.Machine

open Sys2Proof

/-! The host port (R89). -/

/-- Whether a request comes from a host. -/
def isHostReq : MemReq → Bool
  | .hostRead .. | .hostWrite .. | .hostWb .. | .evict .. => true
  | .devRead .. | .devWrite .. | .desc .. | .fab .. | .arm .. | .notify .. => false

/-- The host requests that hold a request tracker of the host port, each once: a write-back that answers a back-invalidate is of class C0
and holds none (R96). -/
def Dev.hostOut (d : Dev) : List MemReq :=
  (((d.waiting.filter (fun w => w.on != .tracker)).map (·.req) ++ d.refused.map (·.req)
    ++ d.dir.filterMap (fun p => p.2.bi.bind (·.req))).filter (fun r => isHostReq r && ! d.wbNeeded r)).eraseDups

/-- The host port's request trackers in use. -/
def Dev.hostTrackers (d : Dev) : Nat := d.hostOut.length

/-- The trackers that one LD holds. -/
def Dev.ldTrackers (d : Dev) (ld : Nat) : Nat := (d.hostOut.filter (fun r => reqSrc r == some (.ld ld))).length

/-- Whether a tracker is free for a request of an LD (R89): one of the 2,048 that is neither reserved for another class nor kept
back for the 32 that every other active LD is always able to have. -/
def Dev.hasTracker (d : Dev) (ld : Nat) : Bool :=
  decide (d.ldTrackers ld < 32)
  || decide (d.hostTrackers + ((d.activeLds.filter (· ≠ ld)).map (fun l => 32 - d.ldTrackers l)).foldl (· + ·) 0 < 1856)

/-- DevLoad (R89): 0 light, 1 optimal, 2 moderate overload, 3 severe overload. -/
def Dev.devLoad (d : Dev) : Nat :=
  let n := d.hostTrackers
  if n ≥ 1844 || d.waiting.any (fun w => w.on == .tracker) then 3 else if n ≥ 1536 then 2 else if n ≥ 1024 then 1 else 0

/-- The completion that grants no state, S, or E. -/
def cmpI : Nat := 0
def cmpS : Nat := 1
def cmpE : Nat := 2

/-- Answer a host read with poison and no cache state (R92). -/
def Dev.hostPoison (d : Dev) (ld tag : Nat) : Dev := d.send (.hostData ld tag cmpI d.devLoad 0 true)

/-- Acknowledge a host write. -/
def Dev.hostAck (d : Dev) (ld tag : Nat) : Dev := d.send (.hostCmp ld tag d.devLoad)

/-- A revocation that refuses an LD's request to a frame (R103): the requests accepted before it complete normally. -/
def Dev.revokedFor (d : Dev) (ld f : Nat) (req : MemReq) : Option Revocation :=
  d.revs.find? (fun r => bit r.lds ld && decide (r.first ≤ f ∧ f < r.first + r.frames) && ! r.accepted.contains req)

/-- Whether a host request was accepted before the revoke point of its frame's extent (R306, R309), or before its lease lapsed (R304). -/
def Dev.acceptedHost (d : Dev) (f : Nat) (req : MemReq) : Bool :=
  match d.extAt f with
  | none => false
  | some e => d.revs.any (fun r => r.extent == e.id && r.accepted.contains req) || d.lapseOk.contains (e.id, req)

/-- What refuses or holds a host request before it reaches home: none where nothing does. The Boolean says that the
request is refused rather than held. -/
def Dev.hostGate (d : Dev) (ld off : Nat) (write : Bool) (req : MemReq) : Option (Option WaitOn) × Dev :=
  let f := off / 65536
  if d.power.st != .run || ! d.power.ready then (some (some .power), d)
  else if d.unresp.contains ld then (some (some (.sweep ld)), d)
  else match d.revokedFor ld f req with
    | some r => (some none, d.revokeEvent ld r)
    | none =>
      let (g, d) := d.gateMap off [.ld ld]
      match g with
      | .fail _ => (some none, d)
      | .hold w => (some (some w), d)
      | .go =>
        if ! d.hostServed f && ! d.acceptedHost f req then (some none, d.extRefusal f (4096 + ld) [.ld ld])
        else if write && d.inExtTab off then (some none, d)
        else
          let (g, d) := d.gateFrame off write
          match g with
          | .fail st => (some none, if st = stTierFull then d.eventSecond .fullPoison 0 [.ld ld, .frames f f] else d)
          | .hold w => (some (some w), d)
          | .go => (none, d)

/-- What a host asks of the directory. -/
def askWant : Ask → Want
  | .s => .s
  | .a => .a
  | .i => .i

/-- The completion of a host read that is served. -/
def askCmp : Ask → Nat
  | .s => cmpS
  | .a => cmpE
  | .i => cmpI

/-- Serve a host read (R92). -/
def Dev.hostReadAt (d : Dev) (ld off : Nat) (ask : Ask) (tag : Nat) : PresAns × Dev :=
  let req : MemReq := .hostRead ld off ask tag
  let v := d.foundBits off req
  match d.hostGate ld off false req with
  | (some (some w), d) => (.waits w, d.noteFound req v w.isMove)
  | (some none, d) => (.served, d.hostPoison ld tag)
  | (none, d) => match d.pline off with
    | none => (.served, d.hostPoison ld tag)
    | some pl =>
      let (a, d) := d.dirTry off pl (some ld) (askWant ask) req
      match a with
      | .busy => (.refused, d.noteFound req v false)
      | .held => (.held, d.noteFound req v false)
      | .serve => (.served, (d.chargeHost ld off false (d.linePoisoned off) v).send
          (.hostData ld tag (askCmp ask) d.devLoad (d.line off) (d.linePoisoned off)))

/-- Serve a host write (R92): a dropped one is acknowledged. -/
def Dev.hostWriteAt (d : Dev) (ld off : Nat) (data : Line) (m : LineMask) (poison : Bool) (tag : Nat) : PresAns × Dev :=
  let req : MemReq := .hostWrite ld off data m poison tag
  let v := d.foundBits off req
  match d.hostGate ld off true req with
  | (some (some w), d) => (.waits w, d.noteFound req v w.isMove)
  | (some none, d) => (.served, d.hostAck ld tag)
  | (none, d) => match d.pline off with
    | none => (.served, d.hostAck ld tag)
    | some pl =>
      let (a, d) := d.dirTry off pl (some ld) .w req
      match a with
      | .busy => (.refused, d.noteFound req v false)
      | .held => (.held, d.noteFound req v false)
      | .serve =>
        let (d, wait) := (d.chargeHost ld off true poison v).applyWrite off data m poison (some req)
        (.served, if wait then d else d.hostAck ld tag)

/-- Apply a write-back of the holder of a line (R92). While a back-invalidate asks the holder for the line, its answer settles the entry. -/
def Dev.takeWb (d : Dev) (ld off pl : Nat) (data : Line) (poison keepS : Bool) (tag : Nat) : PresAns × Dev :=
  let (d, wait) := d.applyWrite off data fullMask poison (some (.hostWrite ld off data fullMask poison tag))
  let d := match smGet? pl d.dir with
    | none => d
    | some e => if e.bi.isSome then d else if keepS then d.putEntry pl .shared [ld] e.watch else d.freeEntry pl e
  (.served, if wait then d else d.hostAck ld tag)

/-- Whether a line's entry names an LD as its OWNED holder. -/
def Dev.owns (d : Dev) (ld pl : Nat) : Bool :=
  match smGet? pl d.dir with
  | some e => e.st == .owned && e.ptrs.contains ld
  | none => false

/-- Serve a host's write-back (R92, R97, R99): one from an LD that the entry does not name as the OWNED holder is late. One that a
back-invalidate in flight needs goes past every gate. -/
def Dev.hostWbAt (d : Dev) (ld off : Nat) (data : Line) (poison keepS : Bool) (tag : Nat) : PresAns × Dev :=
  let req : MemReq := .hostWb ld off data poison keepS tag
  let late (d : Dev) : Dev := (d.stat 0x8010 47 32 1).hostAck ld tag
  if d.unresp.contains ld then (.served, late d)
  else
    let (g, d) := if d.wbNeeded req then (.go, d) else d.gateMap off [.ld ld]
    match g with
    | .fail _ => (.served, late d)
    | .hold w => (.waits w, d)
    | .go => match d.pline off with
      | none => (.served, late d)
      | some pl =>
        let d := d.cacheSet (dirSet pl)
        if ! d.owns ld pl then (.served, late d)
        else if d.wbNeeded req then d.takeWb ld off pl data poison keepS tag
        else match d.hostGate ld off true req with
          | (some (some w), d) => (.waits w, d)
          | (some none, d) => (.served, d.hostAck ld tag)
          | (none, d) => match d.dirGate off req with
            | (some .held, d) => (.held, d)
            | (some _, d) => (.refused, d)
            | (none, d) => d.takeWb ld off pl data poison keepS tag

/-- Serve a clean-eviction notice (R92): it is refused as any request is while its line is in BI_WAIT or marked (R97), and one that finds
no pointer of its LD has no effect. -/
def Dev.evictAt (d : Dev) (ld off : Nat) : PresAns × Dev :=
  let req : MemReq := .evict ld off
  if d.unresp.contains ld then (.waits (.sweep ld), d)
  else match d.pline off with
    | none => (.served, d)
    | some pl =>
      match (d.cacheSet (dirSet pl)).dirGate off req with
      | (some .held, d) => (.held, d)
      | (some _, d) => (.refused, d)
      | (none, d) => match smGet? pl d.dir with
        | none => (.served, d)
        | some e =>
          if e.bi.isSome then (.refused, d.refuse req (off / 64))
          else if e.ovf || ! e.ptrs.contains ld then (.served, d)
          else
            let ps := e.ptrs.filter (· ≠ ld)
            (.served, if e.st = .owned || ps.isEmpty then d.freeEntry pl e else { d with dir := smSet pl { e with ptrs := ps } d.dir })

/-- The engine that makes a device-side access, as the source that an event names (R34). -/
def engineField : MemReq → List EvField
  | .devRead e .. | .devWrite e .. => [.unit (engineCode e)]
  | _ => []

/-- The arming block as the source that an event names (R34). -/
def armerField : Armer → List EvField
  | .queue q => [.queue q]
  | .faultArea p => [.pasid p]
  | .semaphore q _ => [.queue q]

/-- Serve a device-side read or write (R92), whose halves arrive with the poison that the die network gives them (R20). -/
def Dev.devAt (d : Dev) (off : Nat) (write : Bool) (data : Line) (m : LineMask) (p0 p1 : Bool) (tag : Nat) (req : MemReq) :
    PresAns × Dev :=
  let (g, d) := d.gateMap off (engineField req)
  match g with
  | .fail st => (.served, d.send (.devDone tag st))
  | .hold w => (.waits w, d)
  | .go =>
    let (g, d) := d.gateFrame off write
    match g with
    | .fail st => (.served, d.send (.devDone tag st))
    | .hold w => (.waits w, d)
    | .go => match d.pline off with
      | none => (.served, if write then d.send (.devDone tag stOk) else d.send (.devData tag 0 true true))
      | some pl =>
        let (a, d) := d.dirTry off pl none (if write then .w else .i) req
        match a with
        | .busy => (.refused, d)
        | .held => (.held, d)
        | .serve =>
          if write then
            let (d, wait) := d.applyHalves off data m p0 p1 (some req)
            (.served, if wait then d else d.send (.devDone tag stOk))
          else (.served, d.send (.devData tag (d.line off) (p0 || d.poisonAt off) (p1 || d.poisonAt (off + 32))))

/-- Arm a line for a block, promoting its frame first (R95); a line that cannot be armed is polled. -/
def Dev.armAt (d : Dev) (who : Armer) (off : Nat) : PresAns × Dev :=
  let (g, d) := d.gateMap off (armerField who)
  match g with
  | .fail _ => (.served, d)
  | .hold w => (.waits w, d)
  | .go =>
    let (g, d) := d.gateFrame off false
    match g with
    | .fail _ => (.served, d)
    | .hold w => (.waits w, d)
    | .go => match d.pline off with
      | none => (.served, d)
      | some pl =>
        let (a, d) := d.arm who off pl
        match a with
        | .armed => (.served, d.raise who)
        | .failed => (.served, match who with
          | .queue _ => d
          | _ => if d.polledLines.contains who then d else { d with polledLines := d.polledLines ++ [who] })
        | .busy => (.refused, d.refuse (.arm who off) (off / 64))
        | .held => (.held, d)

/-! Requests that land over Meunol (R277, R280, R283). -/

/-- The context of a fabric request. COMP 1024 stands for a request that carries no composition. -/
def fabCtx (x : FabIn) : Ctx := ⟨.fab x.id, 1024, x.msg.src, true, false, none, 0, 0, true, .agent, 0, 255⟩

/-- The byte runs that a mask names within a line. -/
def maskRuns (data m : List Byte) : List (Nat × List Byte) :=
  let mk := leNat m
  (List.range 64).foldr (fun i acc =>
    if ! bit mk i then acc
    else match acc with
      | (j, bs) :: rest => if j = i + 1 then (i, nth data i 0 :: bs) :: rest else (i, [nth data i 0]) :: acc
      | [] => [(i, [nth data i 0])]) []

/-- The parts of a bulk read's answer: runs of up to 32 lines from the first, each wholly poisoned or wholly good. `cur` is
the part being gathered, with its offset. -/
def bulkParts (off : Nat) (cur : Option (Nat × List Byte × Bool)) : List (List Byte × Bool) → List (Nat × List Byte × Bool)
  | [] => cur.toList
  | (bs, p) :: ls =>
    match cur with
    | none => bulkParts (off + 64) (some (off, bs, p)) ls
    | some (o, cs, q) =>
      if p = q ∧ cs.length < 2048 then bulkParts (off + 64) (some (o, cs ++ bs, q)) ls
      else (o, cs, q) :: bulkParts (off + 64) (some (off, bs, p)) ls

/-- What a served request answers: the type, the status, whether it is poisoned, and the body. -/
structure FabAns where
  type : Nat
  poison : Bool
  body : List Byte

/-- The member checks of a PARITY message (R312): the group's record where this node holds the role. -/
def Dev.parityHolder (d : Dev) (m : FabMsg) : Option (List Nat) :=
  match d.eg (fld m.body 0 2) with
  | none => none
  | some w => if egSelf w = egK w + fld m.body 3 1 ∧ fld m.body 3 1 ≤ 1 ∧ fld m.body 4 4 < egStripes w then some w else none

/-- Serve a request at home: nothing of another node's range lands here (R290). A sub-descriptor is taken in as its context runs; here
its acknowledgement takes its turn. -/
def serveMsg (m : FabMsg) : M (List FabAns) := do
  let fa := fld m.body 0 8
  let d ← getDev
  ensure (m.type ≥ 6 || d.isOwn fa) stBounds
  if m.type = 1 then
    let v ← rdLine (64 * (fa / 64))
    return [⟨0x81, v.p0 || v.p1, lineBytes v.data⟩]
  else if m.type = 2 then
    wrRuns m.poison ((maskRuns (slice m.body 16 64) (slice m.body 8 8)).map (fun r => (64 * (fa / 64) + r.1, r.2)))
    return []
  else if m.type = 3 then
    let n := fld m.body 8 1
    ensure (decide (1 ≤ n ∧ n ≤ 32)) stBounds
    wr (64 * (fa / 64)) (slice m.body 16 (64 * n)) m.poison
    return []
  else if m.type = 4 then
    ensure (decide (fa % 8 = 0)) stBounds
    let (old, bad) ← atomRaw fa (fld m.body 8 1) (fld m.body 16 8) (fld m.body 24 8)
    return [⟨0x84, bad, leBytes 8 old⟩]
  else if m.type = 5 then
    let n := fld m.body 8 4
    ensure (decide (fa % 64 = 0 ∧ n % 64 = 0 ∧ 64 ≤ n ∧ n ≤ 65536)) stBounds
    let (bs, ps) ← rdRaw fa n
    let ls := (chunks 64 bs).zip ((chunks 64 ps).map (fun p => p.any id))
    return (bulkParts 0 none ls).map (fun r => ⟨0x85, r.2.2, leBytes 4 r.1 ++ List.replicate 4 0 ++ r.2.1⟩)
  else if m.type = 6 then return []
  else if m.type = 7 then
    match d.parityHolder m with
    | none => halt stBounds
    | some w =>
      let role := fld m.body 3 1
      let at_ := d.ownFa (65536 * (egBase w (egK w + role) + fld m.body 4 4) + 64 * (fld m.body 8 2 % 1024))
      let delta := slice m.body 16 64
      withReader (fun c => { c with checked := false }) (do
        if m.poison then wr at_ (List.replicate 64 0) true
        else
          let v ← rdLine at_
          let k := if role = 0 then 1 else gfExp (fld m.body 2 1)
          let x := delta.map (fun b => BitVec.ofNat 8 (gfMul k b.toNat))
          if v.p0 || v.p1 then wr at_ (List.replicate 64 0) true
          else wr at_ (xorBytes (lineBytes v.data) x) false)
      return []
  else halt stBounds

/-- The flow of a source at this destination. -/
def Dev.flowIn (d : Dev) (src sidx : Nat) : Option FlowIn := d.flowsIn.find? (fun f => f.src == src && f.sidx == sidx)

/-- Put a flow's state back. -/
def Dev.setFlowIn (d : Dev) (f : FlowIn) : Dev :=
  if d.flowsIn.any (fun g => g.src == f.src && g.sidx == f.sidx) then
    { d with flowsIn := d.flowsIn.map (fun g => if g.src == f.src && g.sidx == f.sidx then f else g) }
  else { d with flowsIn := d.flowsIn ++ [f] }

/-- Acknowledge a write-class message that has been applied (R281): WRACK where it was asked for, or where the message
was refused; otherwise WRDONE once 32 messages have been applied. -/
def Dev.ackWrite (d : Dev) (m : FabMsg) (status : Nat) : Dev :=
  let f := (d.flowIn m.src m.sidx).getD ⟨m.src, m.sidx, 0, 0, none, false, false⟩
  if m.ackReq || m.type = 7 || status ≠ 0 then
    (d.setFlowIn { f with sinceDone := 0, timer := false }).respond m 0x83 status m.ord false []
  else if f.sinceDone + 1 ≥ 32 then
    (d.setFlowIn { f with sinceDone := 0, timer := false }).respond m 0x82 0 m.ord false []
  else d.setFlowIn { f with sinceDone := f.sinceDone + 1, timer := true }

/-- Finish a request that has been served: answers, acknowledgement, and the end of its refusals. -/
def Dev.fabDone (d : Dev) (x : FabIn) (status : Nat) (ans : List FabAns) : Dev :=
  let m := x.msg
  let d := { d with
    fabIn := d.fabIn.filter (fun y => y.id != x.id)
    refused := d.refused.filter (fun r => match r.req with | .fab i _ _ => i != x.id | _ => true) }
  let fail : List FabAns := if m.type = 1 then [⟨0x81, false, List.replicate 64 0⟩] else if m.type = 4 then [⟨0x84, false, List.replicate 8 0⟩]
    else if m.type = 5 then [⟨0x85, false, List.replicate 8 0⟩] else []
  let d := (if status = 0 then ans else fail).foldl (fun d a => d.respond m a.type status m.ord a.poison a.body) d
  if m.type = 4 then
    let f := (d.flowIn m.src m.sidx).getD ⟨m.src, m.sidx, 0, 0, none, false, false⟩
    match ans with
    | a :: _ => d.setFlowIn { f with lastAtom := some (m.ord, leNat a.body, a.poison) }
    | [] => d
  else if writeClass m.type then d.ackWrite m status
  else d

/-- Whether a durable write of a request still waits for parity. -/
def Dev.parityPending (d : Dev) (id : Nat) : Bool :=
  d.parity.any (fun p => match p.forReq with | some (.fab i _ _) => i == id | _ => false)

/-- Try to serve one request that landed here. -/
def Dev.serveFab (d : Dev) (x : FabIn) : Dev :=
  if x.applied then (if d.parityPending x.id then d else
      let old := (((d.flowIn x.msg.src x.msg.sidx).bind (·.lastAtom)).map (·.2)).getD (0, false)
      d.fabDone x 0 (if x.msg.type = 4 then [⟨0x84, old.2, leBytes 8 old.1⟩] else []))
  else
    let c := fabCtx x
    match d.runM c (serveMsg x.msg) with
    | (.error .need, s) => s.d
    | (.error (.done st), s) => s.d.fabDone x st []
    | (.ok ans, s) =>
      let d := Dev.commit c s.d s.log
      if d.parityPending x.id then
        if x.msg.type = 4 then
          -- the answer of an atomic waits as its acknowledgement does
          let f := (d.flowIn x.msg.src x.msg.sidx).getD ⟨x.msg.src, x.msg.sidx, 0, 0, none, false, false⟩
          let d := d.setFlowIn { f with lastAtom := ans.head?.map (fun a => (x.msg.ord, leNat a.body, a.poison)) }
          { d with fabIn := d.fabIn.map (fun y => if y.id = x.id then { y with applied := true } else y) }
        else { d with fabIn := d.fabIn.map (fun y => if y.id = x.id then { y with applied := true } else y) }
      else d.fabDone x 0 ans

/-- Whether an earlier write of the same source still waits before a request (R109, R110). -/
def Dev.behindWrite (d : Dev) (x : FabIn) : Bool :=
  (d.fabIn.takeWhile (fun y => y.id != x.id)).any (fun y =>
    writeClass y.msg.type && y.msg.src == x.msg.src && y.msg.sidx == x.msg.sidx)

/-- Try every request that landed here, in order of arrival. -/
def Dev.serveFabs (d : Dev) : Dev :=
  d.fabIn.foldl (fun d x => match d.fabIn.find? (fun y => y.id == x.id) with
    | some y => if d.behindWrite y then d else d.serveFab y
    | none => d) d

/-- The number under which a sub-descriptor's accesses stand. -/
def subId (x : SubCtx) : Nat := 2 ^ 48 + x.src * 2 ^ 36 + x.sidx * 2 ^ 16 + x.tag

/-- Forget a sub-descriptor that has ended. -/
def Dev.subGone (d : Dev) (x : SubCtx) : Dev := { d with
  subs := d.subs.filter (fun y => ! (y.src == x.src && y.sidx == x.sidx && y.tag == x.tag))
  refused := d.refused.filter (fun r => match r.req with | .fab i _ _ => i != subId x | _ => true) }

/-- The request that a sub-descriptor's answer answers. -/
def Dev.subReq (d : Dev) (x : SubCtx) : FabMsg := { d.ownMsg 0 x.sidx 6 [] with src := x.src, tag := x.tag }

/-- The composition that a sub-descriptor carries, to which its work is charged (R200). -/
def subComp (head : List Byte) : Nat := fld head 8 2 % 1024

/-- End a sub-descriptor with its answer. Its bay time, whose length the model leaves free, and the answer's bytes are charged to
the composition that it carries (R200, R395). -/
def Dev.subAnswer (d : Dev) (x : SubCtx) (st : Nat) (body : List Byte) : Dev :=
  let (bay, e) := (d.subGone x).takeFree
  let sent := if d.routing then 16 + 8 * ceilDiv body.length 8 else 0
  ((e.meter (subComp x.head) 2 bay).meter (subComp x.head) 3 sent).respond (d.subReq x) 0x86 st 0 false body

/-- End a sub-descriptor with a status. -/
def Dev.subFail (d : Dev) (x : SubCtx) (st : Nat) : Dev := d.subAnswer x st (leBytes 2 (2 ^ st) ++ List.replicate 22 0)

/-- Try one complete sub-descriptor (R279, R200). -/
def Dev.serveSub (d : Dev) (x : SubCtx) : Dev :=
  let h := x.head
  let c : Ctx := ⟨.fab (subId x), subComp h, x.src, true, bit (fld h 10 2) 2, none, 0, 0, true, .agent, 0, 255⟩
  match d.runM c (runSub h x.payload) with
  | (.error .need, s) => s.d
  | (.error (.done st), s) => s.d.subFail x st
  | (.ok r, s) =>
    s.d.subAnswer x r.st (leBytes 2 r.detail ++ List.replicate 6 0 ++ leBytes 8 r.rows ++ leBytes 8 r.inPlace ++ r.recs)

/-- Try every complete sub-descriptor. -/
def Dev.serveSubs (d : Dev) : Dev := (d.subs.filter (·.complete)).foldl (fun d x => d.serveSub x) d

/-! Presenting and releasing. -/

/-- Count what presenting a host's request causes in the set of its LD's physical function (R383): promotions,
back-invalidates and refusals. -/
def Dev.counted (d : Dev) (ld : Nat) (f : Dev → PresAns × Dev) : PresAns × Dev :=
  let (a, e) := f d
  let snoops := ((e.out.take (e.out.length - d.out.length)).filter (fun o => match o with | .bisnp .. => true | _ => false)).length
  (a, ((e.count (64 * ld) 0x06 (e.promos - d.promos)).count (64 * ld) 0x0C snoops).count (64 * ld) 0x0D (if a = .refused then 1 else 0))

/-- Present a request at home. -/
def Dev.present (d : Dev) (r : MemReq) : PresAns × Dev :=
  match r with
  | .hostRead ld off ask tag => d.counted ld (fun d => d.hostReadAt ld off ask tag)
  | .hostWrite ld off data m p tag => d.counted ld (fun d => d.hostWriteAt ld off data m p tag)
  | .hostWb ld off data p k tag => d.counted ld (fun d => d.hostWbAt ld off data p k tag)
  | .devRead _ off p0 p1 tag => d.devAt off false 0 0 p0 p1 tag r
  | .devWrite _ off data m p0 p1 tag => d.devAt off true data m p0 p1 tag r
  | .arm who off => d.armAt who off
  | .notify q off data m => d.notifyAt q off data m
  | .evict ld off => d.counted ld (fun d => d.evictAt ld off)
  | .desc .. => (.served, d)
  | .fab .. => (.served, (d.serveFabs).serveSubs)

/-- Present a request and keep it where it must wait. The answer says whether it has been served. -/
def Dev.offer (d : Dev) (r : MemReq) : Bool × Dev :=
  if d.behind r then (false, { d with waiting := d.waiting ++ [⟨r, .order⟩] })
  else match d.present r with
    | (.waits w, d) => (false, { d with waiting := d.waiting ++ [⟨r, w⟩] })
    | (.served, d) => (true, match r with | .desc .. | .fab .. => d | _ => d.unrefuse r)
    | (_, d) => (false, d)

/-- A write of a source has been served: what stands behind it is presented, in order. -/
def Dev.freeOrder (d : Dev) (s : Src) : Dev :=
  let mine (w : Waiting) : Bool := w.on == .order && reqSrc w.req == some s
  (d.waiting.filter mine).foldl (fun d w => (d.offer w.req).2) { d with waiting := d.waiting.filter (fun w => ! mine w) }

/-- Present a request, and what stands behind it once it has been served. -/
def Dev.submit (d : Dev) (r : MemReq) : Dev :=
  match d.offer r, reqSrc r with
  | (true, d), some s => if reqWrites r then d.freeOrder s else d
  | (_, d), _ => d

/-- Present what stands behind a write that is gone, or a write-back that a back-invalidate needs. -/
def Dev.orderStep (d : Dev) : Dev :=
  match d.waiting.find? (fun w => w.on == .order && ! d.behind w.req) with
  | some w => { d with waiting := d.waiting.erase w }.submit w.req
  | none => d

/-- Count the time that a host's access waited on a move (R383), whose length the model leaves free. -/
def Dev.countWait (d : Dev) (w : Waiting) : Dev :=
  let ld := match w.req with
    | .hostRead ld _ _ _ => some ld
    | .hostWrite ld _ _ _ _ _ => some ld
    | _ => none
  match w.on, ld with
  | .subBlock .., some l => let (v, d) := d.takeFree; d.count (64 * l) 0x07 v
  | .move .., some l => let (v, d) := d.takeFree; d.count (64 * l) 0x07 v
  | _, _ => d

/-- Whether a request of an LD is held at the port. -/
def Dev.heldFirst (d : Dev) (l : Nat) : Option Waiting :=
  d.waiting.find? (fun w => w.on == .tracker && reqSrc w.req == some (.ld l))

/-- Let the held requests in, in the order of their arrival, where a tracker is free for each and for those before it of its LD. -/
def Dev.admitHeld (d : Dev) : Dev :=
  (d.waiting.filter (fun w => w.on == .tracker)).foldl (fun (d : Dev) w => match reqSrc w.req with
    | some (.ld l) =>
      if d.heldFirst l = some w ∧ d.hasTracker l then ({ d with waiting := d.waiting.erase w } : Dev).submit w.req else d
    | _ => d) d

/-- Present again what waited on a condition that has ended, and the fabric requests and sub-descriptors. -/
def Dev.wake (d : Dev) (p : WaitOn → Bool) : Dev :=
  let ready := d.waiting.filter (fun w => p w.on)
  let d := { d with waiting := d.waiting.filter (fun w => ! p w.on) }
  (((ready.foldl (fun d w => (d.countWait w).submit w.req) d).serveFabs).serveSubs).admitHeld

/-- A host request at the port: it is held while no tracker is free for it (R89), or an earlier one of its LD is held. A write-back that
answers a back-invalidate waits for no tracker (R96). -/
def Dev.hostSubmit (d : Dev) (r : MemReq) : Dev :=
  match reqSrc r with
  | some (.ld l) =>
    if d.wbNeeded r || (d.hasTracker l && (d.heldFirst l).isNone) then d.submit r
    else { d with waiting := d.waiting ++ [⟨r, .tracker⟩] }
  | _ => d.submit r

/-- Complete the transition of a line whose entry is given, and serve the request that held its tracker. -/
def Dev.biFinish (d : Dev) (pl : Nat) (e : DirEntry) : Dev :=
  match d.biStep pl e with
  | (some r, d) => (((match r with | .desc .. | .arm .. => d | _ => d.accepted r (reqLine r)).submit r).admitHeld)
  | (none, d) => d

/-- The holder of a role has acknowledged a parity update (R313), or is waited for no longer: what waited for the last one goes on. -/
def Dev.parityAck (d : Dev) (id role : Nat) : Dev :=
  match d.parity.find? (fun p => p.id == id) with
  | none => d
  | some p =>
    let left := p.await.filter (· ≠ role)
    if ! left.isEmpty then { d with parity := d.parity.map (fun x => if x.id = id then { x with await := left } else x) }
    else
      let d := { d with parity := d.parity.filter (fun x => x.id != id) }
      match p.forReq with
      | some (.hostWrite ld _ _ _ _ tag) => d.hostAck ld tag
      | some (.devWrite _ _ _ _ _ _ tag) => d.send (.devDone tag stOk)
      | some (.fab ..) => d.serveFabs
      | _ => d

/-- A parity update has ended without an answer (R313, R319): in durable mode its holder is waited for until it is marked LOST. -/
def Dev.parityUnanswered (d : Dev) (id role : Nat) : Dev :=
  match d.parity.find? (fun p => p.id == id) with
  | some p => if p.durable then d else d.parityAck id role
  | none => d

end Sys2Proof.Machine
end

