-- ==== Sys2Proof/Machine/Run.lean ====
section
/-! DEFINITION. The shape every meaning has: a change of the block, and what a descriptor's run leaves (R23, R134 to R137,
R143). -/

namespace Sys2Proof.Machine

open Sys2Proof

/-- A command that changes the block alone. -/
def State.onDev (s : State) (f : Dev → Dev) : Host.Outcome State Fault Refusal := .next { s with dev := f s.dev }

/-- The frames from `first` on whose tier-map entry exists. -/
def Dev.framesIn (d : Dev) (first n : Nat) : List Nat := smKeys (smRange first (first + n) d.tmap)

/-- End a descriptor's run with a status and its results (R137). -/
def Dev.finish (d : Dev) (q seq st r0 r1 : Nat) : Dev :=
  let d := if st = 0 then d else d.noteStatus q seq st
  let mine (r : MemReq) : Bool := match r with | .desc a b _ _ => a == q && b == seq | _ => false
  let d := { d with refused := d.refused.filter (fun r => ! mine r.req), found := d.found.filter (fun x => ! mine x.1) }
  d.modStarted q seq (fun r => { r with phase := .finished, res0 := r0, res1 := r1 })

/-- RESULT0 and RESULT1 of a descriptor that ends where no rule states them: 0 for NOP, FENCE, WRITE_ACK and the admin
commands (R135, R147), otherwise free values. -/
def Dev.openResults (d : Dev) (op : Nat) : Nat × Nat × Dev :=
  if op = 0x04 ∨ op = 0x05 ∨ op ≥ 0x7F then (0, 0, d)
  else
    let (a, d) := d.takeFree
    let (b, d) := d.takeFree
    (a % 2 ^ 64, b % 2 ^ 64, d)

/-- End a descriptor's run with a status for which no rule states its results. -/
def Dev.finishOpen (d : Dev) (op q seq st : Nat) : Dev :=
  let (a, b, d) := d.openResults op
  d.finish q seq st a b

/-- The LD of a queue's host function (R104). -/
def queueLd (x : Queue) : Option Nat := if isHostFn x.fn then some (x.fn / 64) else none

/-- The PASID a descriptor names. -/
def descPasid (l : Line) : Nat := lf l 4 4 % 2 ^ 20

/-- The engine that runs a descriptor (R21): the queue front end for an admin command, the dispatcher for a timetable, a frame mover for a
transfer of one frame or more, otherwise the bay it was given. -/
def descEng (b : Line) (bay : Nat) : Engine :=
  let op := lf b 0 1
  if 0x80 ≤ op then .queueFront
  else if op = 0x03 then .dispatcher
  else if (op = 0x01 ∧ lf b 24 8 ≥ 65536) ∨ (op = 0x02 ∧ lf b 16 8 ≥ 65536) then .turntable
  else .bay bay

/-- The SIDX under which an engine sends (R278): the request slot of a bay, a scanner, a mover, or the queue front end; else the dispatcher. -/
def engSidx (slot : Nat) : Engine → Nat
  | .bay n => n % 128 * 512 + slot % 512
  | .scanner n => 2 ^ 18 + n % 32
  | .turntable => 2 * 2 ^ 18 + slot % 64
  | .queueFront => 3 * 2 ^ 18
  | .kiln | .dispatcher | .agent => 3 * 2 ^ 18 + 1

/-- The context of a descriptor's run. -/
def descCtx (q : Nat) (x : Queue) (r : Started) : Ctx :=
  let eng := descEng r.bytes r.bay
  ⟨.desc q r.seq, r.comp, 0, false, false, queueLd x, descPasid r.bytes, engSidx r.seq eng, true, eng, 0, 255⟩

/-- Charge a run that has ended: its accesses, and the bay time and move waits, whose lengths the model leaves free. -/
def Dev.chargeRun (d : Dev) (c : Ctx) (acc : List Acc) : Dev :=
  let d := d.chargeAcc c acc
  let (bay, d) := d.takeFree
  let (wait, d) := d.takeFree
  ((d.countRun c 0x03 bay).countRun c 0x07 wait).meter c.comp 2 bay

/-- Run the meaning of a started descriptor whose opcode is `op`, as long as it is running: its status and results, or
nothing yet where it must wait. -/
def Dev.runDesc (d : Dev) (op q seq : Nat) (m : Line → M (Nat × Nat × Nat)) : Dev :=
  match smGet? q d.queues with
  | none => d
  | some x => match x.running.find? (fun r => r.seq == seq) with
    | none => d
    | some r =>
      if r.phase ≠ .running || lf r.bytes 0 1 ≠ op then d
      else
        let c := descCtx q x r
        match d.runM c (m r.bytes) with
        | (.ok (st, r0, r1), s) => ((Dev.commit c s.d s.log).chargeRun c s.acc).finish q seq st r0 r1
        | (.error (.done st), s) => ((Dev.commit c s.d s.log).chargeRun c s.acc).finishOpen op q seq st
        | (.error .need, s) => (s.d.setIssued c s.iss).flushFaults c.pasid

/-- The meaning of a descriptor command. -/
def State.desc (s : State) (op q seq : Nat) (m : Line → M (Nat × Nat × Nat)) : Host.Outcome State Fault Refusal :=
  s.onDev (fun d => d.runDesc op q seq m)

/-- A run that ends with a status and no results that a rule states. -/
def openRun (st : Nat) : M (Nat × Nat × Nat) := do
  let d ← getDev
  let (a, d) := d.takeFree
  let (b, d) := d.takeFree
  modDev (fun _ => d)
  return (st, a % 2 ^ 64, b % 2 ^ 64)

/-- A run that ends with OK and no results. -/
def okRun : M (Nat × Nat × Nat) := return (stOk, 0, 0)

end Sys2Proof.Machine
end

