-- ==== Sys2Proof/Machine/V36.lean ====
section
/-! DEFINITION. The code V36 and the poison of a code word (R339 to R341), and the error account of each location (R344 to
R346). -/

namespace Sys2Proof.Machine

open Sys2Proof

/-! V36 (R339). -/

/-- The poison mask on the four check symbols (R340). -/
def v36Mask : List Nat := [0x8E, 0x5B, 0xD1, 0x27]

/-- The check symbols of 32 data symbols: the remainder after division by the generator. -/
def v36Check (data : List Nat) : List Nat :=
  data.foldl (fun r s =>
    let fb := nth r 0 0 ^^^ s
    [nth r 1 0 ^^^ gfMul fb 0x0F, nth r 2 0 ^^^ gfMul fb 0x36, nth r 3 0 ^^^ gfMul fb 0x78, gfMul fb 0x40]) [0, 0, 0, 0]

/-- Symbols `i` of a word with another word's symbols added. -/
def xorSyms (a b : List Nat) : List Nat := List.zipWith (· ^^^ ·) a b

/-- A word with the poison mask put on, or taken off. -/
def v36Masked (r : List Nat) : List Nat := r.take 32 ++ xorSyms (r.drop 32) v36Mask

/-- The code word of 32 data bytes, poisoned where `p` holds. -/
def v36Encode (data : List Byte) (p : Bool) : List Byte :=
  let d := (slice data 0 32).map (·.toNat)
  let w := d ++ v36Check d
  (if p then v36Masked w else w).map (BitVec.ofNat 8)

/-- Syndrome `j` of a word: its value at α^j. -/
def v36Syn (r : List Nat) (j : Nat) : Nat := r.foldl (fun a s => gfMul a (gfExp j) ^^^ s) 0

/-- The four syndromes. -/
def v36Syns (r : List Nat) : List Nat := (List.range 4).map (v36Syn r)

/-- The syndromes of an error of value `e` at symbol `i`. -/
def errSyns (i e : Nat) : List Nat := (List.range 4).map (fun j => gfMul e (gfExp (j * (35 - i) % 255)))

/-- The one error, as symbol and value, that gives these syndromes. -/
def oneError (s : List Nat) : Option (List (Nat × Nat)) :=
  ((List.range 36).find? (fun i => nth s 0 0 != 0 && errSyns i (nth s 0 0) == s)).map (fun i => [(i, nth s 0 0)])

/-- The values of two errors at symbols `i` and `j` that give the first two syndromes. -/
def pairValues (s : List Nat) (i j : Nat) : Nat × Nat :=
  let x := gfExp (35 - i)
  let y := gfExp (35 - j)
  let e := gfMul (nth s 1 0 ^^^ gfMul (nth s 0 0) y) (gfInv (x ^^^ y))
  (e, nth s 0 0 ^^^ e)

/-- The two errors that give these syndromes. -/
def twoErrors (s : List Nat) : Option (List (Nat × Nat)) :=
  (List.range 36).findSome? (fun i => (List.range i).findSome? (fun j =>
    let (e, f) := pairValues s i j
    if e ≠ 0 ∧ f ≠ 0 ∧ xorSyms (errSyns i e) (errSyns j f) = s then some [(i, e), (j, f)] else none))

/-- A word with errors taken off. -/
def fixErrors (r : List Nat) (es : List (Nat × Nat)) : List Nat := es.foldl (fun r e => r.set e.1 (nth r e.1 0 ^^^ e.2)) r

/-- What a decoder makes of a received word: its data, whether it is poisoned, whether it is uncorrectable, and how many
symbols were corrected. -/
structure V36Ans where
  data : List Byte
  poison : Bool
  bad : Bool
  fixed : Nat
  deriving DecidableEq, Repr

/-- The classification of R341. -/
def v36Decode (word : List Byte) : V36Ans :=
  let r := (slice word 0 36).map (·.toNat)
  let data (w : List Nat) : List Byte := (w.take 32).map (BitVec.ofNat 8)
  let m := v36Masked r
  let s := v36Syns r
  let sm := v36Syns m
  if s = [0, 0, 0, 0] then ⟨data r, false, false, 0⟩
  else if sm = [0, 0, 0, 0] then ⟨data m, true, false, 0⟩
  else match oneError sm with
    | some e => ⟨data (fixErrors m e), true, false, 1⟩
    | none => match oneError s with
      | some e => ⟨data (fixErrors r e), false, false, 1⟩
      | none => match twoErrors s with
        | some e => ⟨data (fixErrors r e), false, false, 2⟩
        | none => ⟨data r, true, true, 0⟩

/-! Locations and their accounts (R344, R345). -/

/-- The location of an index within a kind. -/
def locId (kind i : Nat) : Nat := 512 * kind + i
def locKind (loc : Nat) : Nat := loc / 512 % 8
def locIndex (loc : Nat) : Nat := loc % 512

/-- Whether a location exists on this part (R344). -/
def Dev.locExists (d : Dev) (loc : Nat) : Bool :=
  let i := locIndex loc
  match locKind loc with
  | 0 => decide (i < 32 * d.stacks)
  | 1 => decide (i < d.bays)
  | 2 => decide (i < 32)
  | 3 => decide (i < 16)
  | 4 => true
  | 5 => decide (i < 22)
  | _ => false

/-- The account of a location. -/
def Dev.score (d : Dev) (loc : Nat) : LocScore := smGet loc ⟨0, 0, 0, false⟩ d.scores

/-- Set the account of a location. -/
def Dev.setScore (d : Dev) (loc : Nat) (x : LocScore) : Dev := { d with scores := smPut ⟨0, 0, 0, false⟩ loc x d.scores }

/-- The thresholds of a kind (R345, R355). -/
def Dev.thrLimit (d : Dev) (kind : Nat) : Nat := d.rf (thrKey kind) 63 32
def Dev.thrWarn (d : Dev) (kind : Nat) : Nat := d.rf (thrKey kind) 31 8
def Dev.thrShift (d : Dev) (kind : Nat) : Nat := min 16 (d.rf (thrKey kind) 7 3)

/-- The largest score, in units of 2^-16. -/
def scoreTop : Nat := (2 ^ 32 - 1) * 65536

/-- Charge corrected symbols, uncorrectable words and check failures to a location (R344, R345). -/
def Dev.charge (d : Dev) (loc ce ue : Nat) : Dev :=
  if ce = 0 ∧ ue = 0 then d
  else
    let x := d.score loc
    d.setScore loc { x with
      ce := satAdd x.ce ce (2 ^ 24 - 1)
      ue := satAdd x.ue ue 255
      score := satAdd x.score (ce * 2 ^ (16 - d.thrShift (locKind loc)) + ue * 64 * 65536) scoreTop }

/-- The fields that name a location, its score and its counts in an event (R346). -/
def Dev.locFields (d : Dev) (loc : Nat) : List EvField :=
  let x := d.score loc
  [.loc loc, .score (x.score / 65536), .count x.ce, .count x.ue]

end Sys2Proof.Machine
end

