-- ==== Sys2Proof/Machine/Wake.lean ====
section
/-! DEFINITION. Leaving STOP and undoing its entry, with their accounting (R361 to R364), and what a register path meets
before its access is carried out (R376, R378, R428). -/

namespace Sys2Proof.Machine

open Sys2Proof

/-- PWR_MODE.SVC (R364). -/
def Dev.svc (d : Dev) : Nat := d.rf 0x200C 1 0

/-- Account a refused STOP request (`kind` 0) or an aborted entry (`kind` 1) (R364). -/
def Dev.accountStop (d : Dev) (kind unit : Nat) : Dev :=
  let d := if d.svc = 0 then
      let d := if kind = 0 then d.stat 0x2010 15 0 1 else d.stat 0x2010 31 16 1
      (d.setRf 0x2010 35 32 unit).setRf 0x2010 36 36 kind
    else d
  d.event (if kind = 0 then .stopRefused else .stopAborted) [.unit unit]

/-- Account a wake (R364). -/
def Dev.accountWake (d : Dev) (src idx : Nat) : Dev :=
  let d := if d.svc = 0 then d
    else ((d.setRf 0x2018 3 0 src).setRf 0x2018 7 4 (if src = 2 ∨ src = 3 ∨ src = 4 then idx else 0)).setRf 0x2018 63 32 d.sec
  d.event .woke [.unit src]

/-- Undo an entry of STOP (R361): the ports it sent to DOZE train again, and the block is in RUN. -/
def Dev.undoEntry (d : Dev) : Dev :=
  let d := d.power.dozed.foldl (fun d p => if (d.port p).st = .doze then d.train p else d) d
  { d with power := { d.power with st := .run, step := 0, linkL1 := false, dozed := [], snapshot := [], aonLost := false } }

/-- Abort an entry of STOP (R361). -/
def Dev.abortEntry (d : Dev) (unit : Nat) : Dev :=
  if d.power.st ≠ .entering then d else d.undoEntry.accountStop 1 unit

/-- Begin a wake (R362, R363): one runs, whatever fires after it. -/
def Dev.startWake (d : Dev) (src idx : Nat) : Dev :=
  if d.power.st ≠ .stop then d
  else { d with power := { d.power with st := .waking, waking := src, wakeStep := 0 } }.accountWake src idx

/-- A host request or CXL.io access arrives (R361, R362): it aborts an entry of STOP or starts the wake. -/
def Dev.hostArrives (d : Dev) : Dev := (d.abortEntry 9).startWake 1 0

/-! Register paths. -/

/-- What a register access meets on its path: it passes, waits, is refused with a status (1 DENIED, 2 BOUNDS, 3 BUSY,
4 unsupported request), or finds the part without power. -/
inductive PathAns where
  | pass
  | hold
  | refuse (r : Nat)
  | drop
  deriving DecidableEq, Repr

/-- Whether an MCTP access comes in an SPDM session that authenticated its requester (R370, R376). -/
def Dev.authenticated (d : Dev) (session : Option Nat) : Bool :=
  match session with
  | none => false
  | some i => d.fw.sessions.any (fun x => x.transport == 16 && x.id == i && x.mutualAuth)

/-- A path's half-register latches (R416). -/
def Dev.latch (d : Dev) (p : Path) : Latch := smGet (pathKey p) ⟨none, none⟩ d.latches

/-- Set them. -/
def Dev.setLatch (d : Dev) (p : Path) (l : Latch) : Dev := { d with latches := smPut ⟨none, none⟩ (pathKey p) l d.latches }

/-- A write on a management path: a GO field or STOP waits for a live update's restart (R378); outside RUN a write is
refused with BUSY, except PWR_CTRL (R428). -/
def Dev.mgmtAns (d : Dev) (go pwr : Bool) : PathAns :=
  if go && d.fw.restarting then .hold else if d.power.st != .run && ! pwr then .refuse 3 else .pass

/-- What a write meets on its path. `own` is the host function in whose space the register also lies. Until step 8 of the boot
an access waits; where no image can run, only MCTP is answered (R366). -/
def Dev.pathAns (d : Dev) (p : Path) (own : Option Nat) (go pwr : Bool) : PathAns :=
  if ! d.power.pwrgd then .drop
  else if ! d.power.ready && ! d.power.stuck then .hold
  else match p with
  | .fn f => if d.power.stuck then .drop else if own != some f then .refuse 4 else if d.power.st != .run then .hold else .pass
  | .mctp s =>
    if d.fw.restarting then .hold
    else if d.rf 0x1004 0 0 = 1 ∧ ! d.authenticated s then .refuse 1
    else d.mgmtAns go pwr
  | .fm => if d.power.stuck then .drop else d.mgmtAns go pwr
  | .mgmt => if d.power.stuck then .drop else d.mgmtAns go pwr

/-- Whether a refusal is counted in SEC_STS.NAUTH (R376). -/
def Dev.nauthCount (d : Dev) (p : Path) : Dev :=
  match p with
  | .mctp s => if d.rf 0x1004 0 0 = 1 ∧ ! d.authenticated s then
      { d with fw := { d.fw with naUth := satAdd d.fw.naUth 1 65535 } } else d
  | _ => d

/-- A register write at an offset by a path: the command waits, is refused, or has its effect. It ends what an access before it
has left in the path's latches. -/
def State.onPath (s : State) (p : Path) (own : Option Nat) (go pwr : Bool) (off : Nat) (c : Instr) (f : State → State) : State :=
  match s.dev.pathAns p own go pwr with
  | .pass => f { s with dev := s.dev.setLatch p ⟨none, none⟩ }
  | .hold => { s with dev := { (match p with | .fn _ => s.dev.hostArrives | _ => s.dev) with held := s.dev.held ++ [c] } }
  | .refuse r => { s with dev := ((s.dev.setLatch p ⟨none, none⟩).nauthCount p).send (.regStatus (pathKey p) off r) }
  | .drop => s

/-- The same for an effect on the block alone. -/
def State.onPathDev (s : State) (p : Path) (own : Option Nat) (go pwr : Bool) (off : Nat) (c : Instr) (f : Dev → Dev) : State :=
  s.onPath p own go pwr off c (fun s => { s with dev := f s.dev })

end Sys2Proof.Machine
end

