-- ==== Sys2Proof/Machine/HostPort.lean ====
section
/-! DEFINITION. The host port's and signal box's commands: host reads and writes, back-invalidate answers, retries at
home, timeouts and sweeps, HDM decoders, watch events, and the ends of host revocations (R35 to R37, R87 to R106). -/

namespace Sys2Proof.Machine

open Sys2Proof

/-- Whether host traffic of an LD reaches Ndonte: the link is up and the LD is active (R87, R366). -/
def Dev.hostUp (d : Dev) (ld : Nat) : Bool := d.power.linkUp && d.activeLds.contains ld

/-- A host request whose HPA lies in no committed window is answered as unsupported and recorded (R36). -/
def Dev.hostMiss (d : Dev) (ld hpa tag : Nat) : Dev :=
  (d.send (.hostUnsupported ld tag)).event .hpaMiss [.ld ld, .fa hpa]

/-- A request that reaches the host node now was not accepted before any revoke point (R103). -/
def Dev.fresh (d : Dev) (r : MemReq) : Dev :=
  { d with revs := d.revs.map (fun (x : Revocation) => { x with accepted := x.accepted.filter (fun y => y != r) }) }

/-- Take a host request to the line its HPA names. -/
def Dev.hostReq (d : Dev) (ld hpa tag : Nat) (r : Nat → MemReq) : Dev :=
  if ! d.hostUp ld then d
  else match d.hpaOff ld hpa with
    | none => d.hostMiss ld hpa tag
    | some off => (d.hostArrives.fresh (r (64 * (off / 64)))).hostSubmit (r (64 * (off / 64)))

/-- HOST_READ (R92). -/
def execHostRead (ld hpa : Nat) (ask : Ask) (tag : Nat) (s : State) : Host.Outcome State Fault Refusal :=
  s.onDev (fun d => d.hostReq ld hpa tag (fun off => .hostRead ld off ask tag))

/-- HOST_WRITE (R92). -/
def execHostWrite (ld hpa : Nat) (data : Line) (mask : LineMask) (poison : Bool) (tag : Nat) (s : State) :
    Host.Outcome State Fault Refusal :=
  s.onDev (fun d => d.hostReq ld hpa tag (fun off => .hostWrite ld off data mask poison tag))

/-- HOST_WRITE_BACK (R92, R99). -/
def execHostWriteBack (ld hpa : Nat) (data : Line) (poison keepS : Bool) (tag : Nat) (s : State) :
    Host.Outcome State Fault Refusal :=
  s.onDev (fun d => d.hostReq ld hpa tag (fun off => .hostWb ld off data poison keepS tag))

/-- CLEAN_EVICTION_NOTICE (R92). -/
def execCleanEvictionNotice (ld hpa : Nat) (s : State) : Host.Outcome State Fault Refusal :=
  s.onDev (fun d => d.hostReq ld hpa 0 (fun off => .evict ld off))

/-- A half of a line with the data of a code word in its place. -/
def putHalf (data : Line) (upper : Bool) (bs : List Byte) : Line := bytesLine (splice (lineBytes data) (32 * b2n upper) bs)

/-- A payload after it has crossed nodes of the die network (R20, R341, R344): each code word is checked at each node, corrected there, and
one that arrives uncorrectable or poisoned goes on with the poison mask. The answer is the data and the poison of its halves. -/
def Dev.crossNodes (d : Dev) (data : Line) (p0 p1 : Bool) (hops : List Hop) : (Line × Bool × Bool) × Dev :=
  hops.foldl (fun (x : (Line × Bool × Bool) × Dev) h =>
    let a := v36Decode h.symbols
    let bad := a.bad || a.poison
    let d := if h.node < 16 then x.2.charge (locId 5 h.node) a.fixed (b2n a.bad) else x.2
    ((if bad then x.1.1 else putHalf x.1.1 h.upper a.data, x.1.2.1 || (bad && ! h.upper), x.1.2.2 || (bad && h.upper)), d))
    ((data, p0, p1), d)

/-- DEVICE_ACCESS (R92). -/
def execDeviceAccess (eng : Engine) (off : Nat) (write : Bool) (data : Payload) (mask : LineMask) (poison : Bool) (tag : Nat)
    (s : State) : Host.Outcome State Fault Refusal :=
  let off := 64 * (off / 64)
  s.onDev (fun d =>
    let ((data, p0, p1), d) := d.crossNodes data.line (write && poison) (write && poison) data.hops
    d.submit (if write then .devWrite eng off data mask p0 p1 tag else .devRead eng off p0 p1 tag))

/-- Take an answer to a back-invalidate (R92, R99): the data it carries is applied before the held request is served, and
an answer that nothing awaits is late. -/
def Dev.biRsp (d : Dev) (ld off : Nat) (keepS : Bool) (wb : Option Line) (poison : Bool) : Dev :=
  let late : Dev := d.stat 0x8010 47 32 1
  match d.pline off with
  | none => late
  | some pl =>
    if d.timedOut.contains (ld, pl) then { late with timedOut := d.timedOut.erase (ld, pl) }
    else match smGet? pl d.dir with
      | none => late
      | some e =>
        if d.unresp.contains ld || ! ((e.bi.map (·.await)).getD []).contains ld then late
        else
          let d := match wb with
            | some data => (d.applyWrite off data fullMask poison none).1
            | none => d
          d.biFinish pl (biAnswer e ld keepS)

/-- BIRSP (R92). -/
def execBirsp (ld hpa : Nat) (keepS : Bool) (wb : Option Line) (poison : Bool) (s : State) :
    Host.Outcome State Fault Refusal :=
  s.onDev (fun d => if ! d.hostUp ld then d else match d.hpaOff ld hpa with
    | none => d.stat 0x8010 47 32 1
    | some off => d.biRsp ld (64 * (off / 64)) keepS wb poison)

/-- BICONFLICT (R87). -/
def execBiconflict (ld hpa : Nat) (s : State) : Host.Outcome State Fault Refusal :=
  s.onDev (fun d => if ! d.hostUp ld then d else match d.hpaOff ld hpa with
    | none => d.hostMiss ld hpa 0
    | some _ => d.send (.biConflictAck ld (64 * (hpa / 64))))

/-- REQUEST_REPRESENT (R97): the `i`-th refused request is presented again; a ticket holder is not. -/
def execRequestRepresent (i : Nat) (s : State) : Host.Outcome State Fault Refusal :=
  s.onDev (fun d => match d.refused[i]? with
    | none => d
    | some r => if r.ticket.isSome || d.holdsTracker r.req || d.waiting.any (fun w => w.req == r.req) then d else (d.submit r.req).admitHeld)

/-- The ticket holder of a line that is due next. -/
def Dev.nextTicket (d : Dev) (line : Nat) : Option Refused :=
  d.refused.foldl (fun b r => if r.line ≠ line then b else match r.ticket, b with
    | none, _ => b
    | some _, none => some r
    | some t, some x => if t < x.ticket.getD 0 then some r else b) none

/-- STARVATION_TICKET_GRANT (R97). -/
def execStarvationTicketGrant (line : Nat) (s : State) : Host.Outcome State Fault Refusal :=
  s.onDev (fun d => match d.nextTicket line with
    | none => d
    | some r =>
      if (d.marks line).length ≥ 14 || ! d.reservedFree (d.lineNode line) r.req then d
      else
        let give (x : Refused) : Refused := if x.req = r.req then { x with mark := some (d.markCtr + 1), ticket := none } else x
        let d := { d with refused := d.refused.map give, markCtr := d.markCtr + 1 }
        ((d.stat 0x8010 31 16 1).submit r.req).admitHeld)

/-- The code of an entry's state for an event: 1 SHARED, 2 OWNED. -/
def stCode : DirState → Nat
  | .none => 0
  | .shared => 1
  | .owned => 2

/-- Treat an LD as unresponsive and start or join a sweep (R100). -/
def Dev.silence (d : Dev) (ld : Nat) : Dev :=
  { d with unresp := nsAdd ld d.unresp, sweep := some (nsAdd ld (d.sweep.getD [])) }

/-- BISNP_TIMEOUT (R98), in its four steps. -/
def execBisnpTimeout (ld off : Nat) (s : State) : Host.Outcome State Fault Refusal :=
  s.onDev (fun d => match d.pline off with
    | none => d
    | some pl => match smGet? pl d.dir with
      | none => d
      | some e =>
        if ! ((e.bi.map (·.await)).getD []).contains ld then d
        else
          let off := 64 * (off / 64)
          let d := d.poisonHome off
          let d := { d with timedOut := d.timedOut ++ [(ld, pl)] }
          let d := d.biFinish pl (biAnswer e ld false)
          ((d.silence ld).stat 0x8010 63 48 1).event .bisnpTimeout [.ld ld, .fa (d.ownFa off), .unit (stCode e.st)])

/-- Sweep one entry (R100): the pointers of the LDs whose bits are set are dropped, and a line that one of them holds in OWNED is poisoned.
In BI_WAIT the pointers are the hosts awaited, so nothing more is awaited of such an LD (DEDUCED, log entry 180). -/
def Dev.sweepLine (d : Dev) (pl : Nat) : Dev :=
  let off := d.lineOff pl
  match smGet? pl d.dir with
  | none => d
  | some e => match e.bi with
    | none => d.settleLine pl off
    | some b =>
      let gone := d.unresp.filter (fun l => e.ptrs.contains l || b.await.contains l)
      if gone.isEmpty then d
      else
        let d := if e.st = .owned && e.ptrs.any (fun l => gone.contains l) then d.poisonHome off else d
        d.biFinish pl (gone.foldl (fun e l => biAnswer e l false) e)

/-- SWEEP_END (R100): every entry has been swept, the bits clear together, and the LDs' held requests proceed. -/
def execSweepEnd (s : State) : Host.Outcome State Fault Refusal :=
  s.onDev (fun d => match d.sweep with
    | none => d
    | some lds =>
      let d := (smKeys d.dir).foldl Dev.sweepLine d
      let d := { d with unresp := d.unresp.filter (fun l => ! lds.contains l), sweep := none }
      d.wake (fun w => match w with | .sweep l => lds.contains l | _ => false))

/-- WATCH_SNOOP (R95): DIR_WATCH.NS after a grant of OWNED on a watched line, BISnpData goes to the host; a back-invalidate
in flight stands for it. -/
def execWatchSnoop (off : Nat) (s : State) : Host.Outcome State Fault Refusal :=
  s.onDev (fun d => match d.pline off with
    | none => d
    | some pl =>
      if ! d.snoopDue.contains pl then d
      else
        let d := { d with snoopDue := nsDel pl d.snoopDue }
        let d := d.settleLine pl (64 * (off / 64))
        match smGet? pl d.dir with
        | none => d
        | some e =>
          if e.st ≠ .owned || e.watch.isNone then d
          else match e.bi with
            | some b => { d with dir := smSet pl { e with bi := some { b with watch := true } } d.dir }
            | none => d.startBi pl off e e.ptrs false none false true)

/-! HDM decoders (R35 to R38, R88, R106). -/

/-- Whether a commit passes the checks of R35, R37 and R88. No rule says what a size of 0, which is a multiple of 256 MiB, does: it is
refused (DESIGN CHOICE, log entry 179). -/
def Dev.commitOk (d : Dev) (ld n base size ways : Nat) (biEnable : Bool) : Bool :=
  let org := d.winOrigin ld n
  biEnable && ways == 1 && decide (size > 0) && decide (base % 2 ^ 28 = 0 ∧ size % 2 ^ 28 = 0) && decide (org + size ≤ 2 ^ 48)
  && (smGet? (8 * ld + n) d.hdm).isNone
  && (List.range 8).all (fun k => match smGet? (8 * ld + k) d.hdm with
    | some h => decide (org + size ≤ d.winOrigin ld k ∨ d.winOrigin ld k + h.size ≤ org)
    | none => true)

/-- HDM_DECODER_COMMIT (R35, R37, R88): a commit that fails leaves the decoder uncommitted. -/
def execHdmDecoderCommit (ld n base size ways : Nat) (biEnable : Bool) (s : State) : Host.Outcome State Fault Refusal :=
  s.onDev (fun d =>
    if ! d.hostUp ld || decide (n ≥ 8) then d
    else if d.commitOk ld n base size ways biEnable then
      { d with hdm := smSet (8 * ld + n) ⟨base, size⟩ d.hdm }.send (.commitResult ld n true)
    else d.send (.commitResult ld n false))

/-- Whether a committed window of an LD covers a frame of a revocation's range. -/
def Dev.revTouches (d : Dev) (ld : Nat) (r : Revocation) : Bool :=
  (List.range 8).any (fun k => match smGet? (8 * ld + k) d.hdm with
    | some h => decide (d.winOrigin ld k < 65536 * (r.first + r.frames) ∧ 65536 * r.first < d.winOrigin ld k + h.size)
    | none => false)

/-- Free the revocation entries whose LDs have all uncommitted (R106): an LD has when no committed window of it covers a frame of the
range once the revoke has completed. One that has none then has nothing left to uncommit (DEDUCED, log entry 181). -/
def Dev.freeRevs (d : Dev) (ld : Nat) : Dev :=
  let revs := d.revs.map (fun r => if bit r.lds ld && ! r.draining && ! d.revTouches ld r then { r with freed := r.freed ||| 2 ^ ld } else r)
  { d with revs := revs.filter (fun r => r.freed != r.lds) }

/-- Uncommit one decoder. -/
def Dev.uncommit (d : Dev) (ld n : Nat) : Dev := { d with hdm := smErase (8 * ld + n) d.hdm }.freeRevs ld

/-- HDM_DECODER_UNCOMMIT (R38, R106). -/
def execHdmDecoderUncommit (ld n : Nat) (s : State) : Host.Outcome State Fault Refusal :=
  s.onDev (fun d => if n ≥ 8 || (smGet? (8 * ld + n) d.hdm).isNone then d else d.uncommit ld n)

/-! Revoking an extent from hosts (R103 to R106). -/

/-- The lines of a frame range that the directory tracks. -/
def Dev.linesTracked (d : Dev) (first n : Nat) : List Nat :=
  (smKeys d.dir).filter (fun pl => let f := d.lineOff pl / 65536; decide (first ≤ f ∧ f < first + n))

/-- The LDs that a revocation names among the holders of an entry. -/
def revHolders (d : Dev) (r : Revocation) (e : DirEntry) (off : Nat) : List Nat :=
  (d.sharers e off).filter (fun l => bit r.lds l)

/-- The lines with OVF whose covering LDs a revocation has asked. -/
def Dev.askedLines (d : Dev) (extent : Nat) : NSet := ((d.revs.find? (fun r => r.extent == extent && r.draining)).map (·.asked)).getD []

/-- Note that a revocation has asked the covering LDs of a line with OVF. -/
def Dev.noteAsked (d : Dev) (extent pl : Nat) : Dev :=
  { d with revs := d.revs.map (fun r => if r.extent == extent && r.draining then { r with asked := nsAdd pl r.asked } else r) }

/-- Step 4 of R103 for one line: back-invalidate the named LDs that may hold it; a back-invalidate in flight stands. A line with OVF is
asked once, since its pointers do not say who has answered. -/
def Dev.revokeLine (d : Dev) (r : Revocation) (pl : Nat) : Dev :=
  let off := d.lineOff pl
  let d := d.settleLine pl off
  match smGet? pl d.dir with
  | none => d
  | some e =>
    let dests := (revHolders d r e off).filter (fun l => ! d.unresp.contains l)
    if e.bi.isSome || e.st = .none || dests.isEmpty || (e.ovf && (d.askedLines r.extent).contains pl) then d
    else
      let d := d.startBi pl off e dests true none false false
      if e.ovf then d.noteAsked r.extent pl else d

/-- Step 4 of R103 for every tracked line of the range. -/
def Dev.revokeLines (d : Dev) (r : Revocation) : Dev :=
  (d.linesTracked r.first r.frames).foldl (fun d pl => d.revokeLine r pl) d

/-- Whether the directory names an LD of the revocation in its range: by a pointer, as an LD awaited, or with OVF as a covering LD that
has not been asked. -/
def Dev.revokeHeld (d : Dev) (r : Revocation) : Bool :=
  (d.linesTracked r.first r.frames).any (fun pl => match smGet? pl d.dir with
    | none => false
    | some e => e.ptrs.any (fun l => bit r.lds l) || (match e.bi with | some b => b.await.any (fun l => bit r.lds l) | none => false)
      || (e.ovf && ! (d.askedLines r.extent).contains pl
        && ! ((revHolders d r e (d.lineOff pl)).filter (fun l => ! d.unresp.contains l)).isEmpty))

/-- The host requests that home or the port holds. -/
def Dev.hostHeld (d : Dev) : List MemReq :=
  ((d.waiting.map (·.req)) ++ (d.refused.map (·.req))
    ++ d.dir.filterMap (fun p => p.2.bi.bind (·.req))).filter isHostReq

/-- The LD and offset of a host request. -/
def hostOf : MemReq → Option (Nat × Nat)
  | .hostRead ld off _ _ => some (ld, off)
  | .hostWrite ld off _ _ _ _ => some (ld, off)
  | .hostWb ld off _ _ _ _ => some (ld, off)
  | .evict .. | .devRead .. | .devWrite .. | .desc .. | .fab .. | .arm .. | .notify .. => none

/-- The requests of the named LDs to a range that home holds. -/
def Dev.heldIn (d : Dev) (lds first n : Nat) : List MemReq :=
  d.hostHeld.filter (fun r => match hostOf r with
    | some (ld, off) => bit lds ld && decide (first ≤ off / 65536 ∧ off / 65536 < first + n)
    | none => false)

/-- Whether a move of a frame of a range is in progress. -/
def Dev.movesIn (d : Dev) (first n : Nat) : Bool := d.moves.any (fun p => decide (first ≤ p.1 ∧ p.1 < first + n))

/-- Whether a fabric request accepted before an extent's revoke point is still to be answered (R306, R309). -/
def Dev.earlyFab (d : Dev) (extent : Nat) : Bool := d.fabIn.any (fun x => x.early.contains extent)

/-- Whether durable writes of a range still wait for parity (R309). -/
def Dev.parityIn (d : Dev) (first n : Nat) : Bool :=
  d.parity.any (fun p => p.durable && decide (first ≤ p.frame ∧ p.frame < first + n))

/-- A revocation's drain has ended: LDs with no window of the range need not uncommit, and its descriptor completes, or the transfer that
it belongs to goes on. -/
def Dev.revokeEnds (d : Dev) (r : Revocation) (st : Nat) : Dev :=
  let d := (List.range 16).foldl Dev.freeRevs d
  match r.desc with
  | some i => d.finish i.queue i.seq st 0 0
  | none => { d with xfers := d.xfers.map (fun x => if x.extent = r.extent then { x with drained := true } else x) }

/-- The drain of an extent's revocation is over; the entry stays. -/
def Dev.drainEnded (d : Dev) (extent : Nat) : Dev :=
  { d with revs := d.revs.map (fun (x : Revocation) => if x.extent == extent && x.draining then { x with draining := false } else x) }

/-- Whether a revocation still has a request outstanding that was accepted before its revoke point. -/
def Dev.acceptedOut (d : Dev) (r : Revocation) : Bool := (d.heldIn r.lds r.first r.frames).any (fun x => r.accepted.contains x)

/-- REVOKE_DRAIN_END (R103): steps 3 to 5 have ended; what they still wait for is asked for again. -/
def execRevokeDrainEnd (extent : Nat) (s : State) : Host.Outcome State Fault Refusal :=
  s.onDev (fun d => match d.revs.find? (fun r => r.extent == extent && r.draining) with
    | none => d
    | some r =>
      if d.acceptedOut r then d
      else
        let d := d.revokeLines r
        if d.revokeHeld r || d.movesIn r.first r.frames || d.earlyFab r.extent || d.parityIn r.first r.frames then d
        else
          (d.drainEnded r.extent).revokeEnds r stOk)

/-- EXT_REVOKE_TMO_EXPIRY (R105): lines still named are poisoned without setting DIR_UNRESP, and the descriptor completes
with TIMEOUT. -/
def execExtRevokeTmoExpiry (extent : Nat) (s : State) : Host.Outcome State Fault Refusal :=
  s.onDev (fun d => match d.revs.find? (fun r => r.extent == extent && r.draining) with
    | none => d
    | some r =>
      let d := (d.linesTracked r.first r.frames).foldl (fun d pl => match smGet? pl d.dir with
        | none => d
        | some e =>
          let off := d.lineOff pl
          let named := (e.ptrs ++ ((e.bi.map (·.await)).getD [])).filter (fun l => bit r.lds l)
          if named.isEmpty then d
          else
            let d := d.poisonHome off
            let e := { e with ptrs := e.ptrs.filter (fun l => ! bit r.lds l) }
            match e.bi with
            | none => if e.ptrs.isEmpty && ! e.ovf then d.freeEntry pl e else { d with dir := smSet pl e d.dir }
            | some b => d.biFinish pl { e with bi := some { b with await := b.await.filter (fun l => ! bit r.lds l) } }) d
      (d.drainEnded r.extent).revokeEnds r stTimeout)

end Sys2Proof.Machine
end

