-- ==== Sys2Proof/Machine/Queue.lean ====
section
/-! DEFINITION. The queue front end and the dispatcher: doorbell lines, the start of descriptors, completions and their
signals, the ERROR state, and the creation and deletion of queues (R126 to R148). -/

namespace Sys2Proof.Machine

open Sys2Proof

/-! The copy of a queue's context entry (R128). -/

/-- The rings and the doorbell line. -/
def Queue.sqBase (x : Queue) : Nat := bits (lf x.ctx 0 8) 47 6 * 64
def Queue.cqBase (x : Queue) : Nat := bits (lf x.ctx 8 8) 47 6 * 64
def Queue.db (x : Queue) : Nat := bits (lf x.ctx 16 8) 47 6 * 64
/-- The entries of the rings. -/
def Queue.sqN (x : Queue) : Nat := 2 ^ lf x.ctx 32 1
def Queue.cqN (x : Queue) : Nat := 2 ^ lf x.ctx 33 1
/-- Whether the queue is SERIAL; queue 0 always is. -/
def Queue.serial (x : Queue) : Bool := x.lq == 0 || lf x.ctx 34 1 == 1
/-- MAXINF as it acts. -/
def Queue.maxInf (x : Queue) : Nat := min (max 1 (min 1024 (lf x.ctx 36 2))) (x.cqN - 1)
/-- WEIGHT as it acts (R128). -/
def Queue.weight (x : Queue) : Nat := max 1 (min 64 (lf x.ctx 35 1))
/-- The signal fields. -/
def Queue.coalN (x : Queue) : Nat := lf x.ctx 38 2
def Queue.coalNs (x : Queue) : Nat := min 1000000 (lf x.ctx 40 4)
def Queue.ien (x : Queue) : Bool := bit (lf x.ctx 44 4) 0
/-- The completions posted and not yet consumed. -/
def Queue.posted (x : Queue) : Nat := ringSub x.cqN x.cqNext x.cqHead
/-- Whether the reservation of R138 allows a start. -/
def Queue.room (x : Queue) : Bool := decide (x.posted + x.running.length < x.cqN - 1)

/-- Put a queue's state back. -/
def Dev.setQ (d : Dev) (q : Nat) (x : Queue) : Dev := { d with queues := smSet q x d.queues }

/-! Doorbell lines (R139 to R141). -/

/-- Take the submitted slots from SQ_HEAD to SQ_TAIL. The answer says whether all were read; a slot whose read fails is
taken as poisoned. -/
def Dev.fetchSlots (q : Nat) : Nat → Dev → Bool × Dev
  | 0, d => (true, d)
  | n + 1, d =>
    match smGet? q d.queues with
    | none => (true, d)
    | some x =>
      if x.sqHead = x.sqTail then (true, d)
      else
        let take (d : Dev) (bs : List Byte) (p0 p1 : Bool) : Dev :=
          d.setQ q { x with
            sqHead := (x.sqHead + 1) % x.sqN, nextSeq := x.nextSeq + 1
            staged := x.staged ++ [Staged.mk x.nextSeq (bytesLine bs) p0 p1] }
        match d.unitTry (rdRaw (d.ownFa (x.sqBase + 64 * x.sqHead)) 64) with
        | (.error .need, d) => (false, d)
        | (.error (.done _), d) => Dev.fetchSlots q n (take d [] true true)
        | (.ok (bs, ps), d) => Dev.fetchSlots q n (take d bs (nth ps 0 false) (nth ps 32 false))

/-- Take a doorbell line's two fields (R139). In DRAINING and ERROR only CQ_HEAD is taken. -/
def Dev.takeDoorbell (d : Dev) (q : Nat) (x : Queue) (tail head : Nat) : Bool × Dev :=
  let headOk := decide (head < x.cqN) && decide (ringSub x.cqN head x.cqHead ≤ x.posted)
  match x.st with
  | .active =>
    if decide (tail ≥ x.sqN) || ! headOk then (true, d.queueErr q)
    else Dev.fetchSlots q x.sqN (d.setQ q { x with cqHead := head, sqTail := tail })
  | _ => (true, if headOk then d.setQ q { x with cqHead := head } else d)

/-- Read a queue's doorbell line (R140). The answer says whether the reading is over; a line that reads as poison puts
the queue into ERROR. -/
def Dev.readDoorbell (d : Dev) (q : Nat) : Bool × Dev :=
  match smGet? q d.queues with
  | none => (true, d)
  | some x =>
    match d.unitTry (rdRaw (d.ownFa x.db) 64) with
    | (.error .need, d) => (false, d)
    | (.error (.done _), d) => (true, d.queueErr q)
    | (.ok (bs, ps), d) =>
      if ps.any id then (true, d.queueErr q) else d.takeDoorbell q x (fld bs 0 4) (fld bs 4 4)

/-! The start of descriptors (R133, R134, R138, R143). -/

/-- The opcodes of R133 that any queue but 0 takes, the admin commands, and those of queue 0. -/
def plainOps : List Nat :=
  [0x01, 0x02, 0x03, 0x04, 0x08, 0x10, 0x11, 0x18, 0x19, 0x1A, 0x20, 0x21, 0x22, 0x28, 0x30, 0x38, 0x40, 0x41]
def isAdminOp (op : Nat) : Bool := decide (0x80 ≤ op ∧ op ≤ 0x84)
def opAllowed (lq op : Nat) : Bool :=
  op == 0x05 || op == 0x7F || (if lq = 0 then isAdminOp op else plainOps.contains op)

/-- Whether a descriptor is a FENCE. -/
def isFence (r : Started) : Bool := lf r.bytes 0 1 == 0x05 && ! r.pois0

/-- Whether the next descriptor of a queue may start (R143). -/
def Queue.mayStart (x : Queue) (s : Staged) : Bool :=
  decide (x.running.length < x.maxInf) && x.room
  && ! x.running.any (fun r => isFence r && r.phase != .finished)
  && (x.running.isEmpty || ! (x.serial || (! s.pois0 && bit (lf s.bytes 1 1) 0)))

/-! What a descriptor binds as it starts (R210, R231, R232). -/

/-- Whether tables are in use, their number, and where the handle table lies (R208, R231). -/
def Dev.embOn (d : Dev) : Bool := d.rf 0xB000 0 0 == 1
def Dev.handles (d : Dev) : Nat := max 1 (min 65536 (d.rf 0xB008 16 0))
def Dev.handleAt (d : Dev) (h : Nat) : Nat := bits (d.reg 0xB000) 47 6 * 64 + 64 * h

/-- Whether indexes are in use, their number, and where the index table lies (R232, R250). -/
def Dev.vsrOn (d : Dev) : Bool := d.rf 0xC000 0 0 == 1
def Dev.indexes (d : Dev) : Nat := max 1 (min 4096 (d.rf 0xC008 12 0))
def Dev.indexAt (d : Dev) (h : Nat) : Nat := bits (d.reg 0xC000) 47 7 * 128 + 128 * h

/-- The handle whose record a descriptor copies as it starts, with the place and the length of the record; none where it has none. -/
def Dev.bindsAt (d : Dev) (l : Line) : Option (Nat × Nat × Nat) :=
  let op := lf l 0 1
  let table (h : Nat) : Option (Nat × Nat × Nat) := if d.embOn && decide (h < d.handles) then some (h, d.handleAt h, 64) else none
  let index (h : Nat) : Option (Nat × Nat × Nat) := if d.vsrOn && decide (h < d.indexes) then some (h, d.indexAt h, 128) else none
  if op = 0x18 ∨ op = 0x19 then table (lf l 24 4)
  else if op = 0x20 then index (lf l 24 4)
  else if op = 0x21 then index (lf l 36 4)
  else if op = 0x22 then index (lf l 20 4)
  else none

/-- The notes of a descriptor that starts: the handle that it binds and its record, with a third one where that reads as poison. -/
def startNote (l : Line) : M (List Nat) := do
  let d ← getDev
  match d.bindsAt l with
  | none => return []
  | some (h, at_, n) =>
    let (bs, ps) ← rdRaw (d.ownFa at_) n
    return [h, leNat bs] ++ if ps.any id then [1] else []

/-- The checks of R134 on opcode and PASID: the status, the composition of the PASID, and what the descriptor binds. -/
def startChecks (d : Dev) (x : Queue) (l : Line) : M (Nat × Nat × List Nat) := do
  let op := lf l 0 1
  if ! opAllowed x.lq op then return (stBounds, 0, [])
  match ← pasidCtx (descPasid l) with
  | .error st => return (st, 0, [])
  | .ok cx =>
    if funcIndex cx.func ≠ x.fn ∧ ! (d.qPriv x.fn && isAdminOp op) then return (stDenied, 0, [])
    return (stOk, cx.comp, ← startNote l)

/-- A started descriptor, running or already ended with a status, with the bay it is given and what it has bound. -/
def newStarted (s : Staged) (comp st r0 r1 bay : Nat) (note : List Nat) : Started :=
  ⟨s.seq, s.bytes, s.pois0, s.pois1, comp, if st = 0 then .running else .finished, st, if st = 0 then 0 else 2 ^ st, r0, r1, [], [],
    0, 0, note, [], bay, []⟩

/-! The bay of a descriptor (R21, R181). -/

/-- The descriptors that a bay runs. -/
def Dev.bayLoad (d : Dev) (b : Nat) : Nat :=
  (d.queues.map (fun p => p.2.running.countP (fun r => r.bay == b && r.phase != .finished))).foldl (· + ·) 0

/-- The bay that runs a new descriptor of a function: round robin over the bays of the section nearest the requester's port with a free
request slot (R21), or of the next section on the ring that has a bay not fenced (R181). The section next to the port by which an endpoint
group submits is open. -/
def Dev.pickBay (d : Dev) (fi : Nat) : Nat × Dev :=
  let (sec, d) := if isHostFn fi then (0, d) else let (v, d) := d.takeFree; (v % d.stacks, d)
  match d.openSection sec with
  | none => (0, d)
  | some s =>
    let bs := (d.openBays s).filter (fun b => decide (d.bayLoad b < 512))
    let turn := smGet s 0 d.bayTurn
    let b := match bs.find? (fun b => decide (turn ≤ b % 16)) with
      | some b => b
      | none => bs.headD (16 * s)
    (b, { d with bayTurn := smPut 0 s ((b % 16 + 1) % 16) d.bayTurn })

/-- The results of a descriptor that ends as it starts. -/
def Dev.startResults (d : Dev) (s : Staged) (st : Nat) : Nat × Nat × Dev :=
  if st = 0 then (0, 0, d) else d.openResults (if s.pois0 then 0 else lf s.bytes 0 1)

/-- Whether a descriptor is running. -/
def Dev.runs (d : Dev) (i : DescId) : Bool := (d.startedOf i.queue i.seq).any (fun r => r.phase != .finished)

/-- Move the front staged descriptor of a queue among the started ones. A switch or move of a table takes its place in their order (R210). -/
def Dev.begin_ (d : Dev) (q : Nat) (x : Queue) (s : Staged) (comp st : Nat) (note : List Nat) : Dev :=
  let (a, b, d) := d.startResults s st
  let (bay, d) := if st = 0 then d.pickBay x.fn else (0, d)
  let d := { d with
    switchQ := if st = 0 ∧ lf s.bytes 0 1 = 0x1A then (d.switchQ.filter (fun (x : Nat × DescId) => d.runs x.2)) ++ [(lf s.bytes 16 4, DescId.mk q s.seq)] else d.switchQ }
  d.setQ q { x with staged := x.staged.drop 1, running := x.running ++ [newStarted s comp st a b bay note] }

/-- Whether a queue is being emptied with ABORT. -/
def Queue.aborting (x : Queue) : Bool := match x.del with | some y => y.abort | none => false

/-- Complete the front unstarted descriptor of a queue with ABORTED (R148 step 2), as its completion ring has room. -/
def Dev.abortNext (d : Dev) (q : Nat) : Dev :=
  match smGet? q d.queues with
  | none => d
  | some x => match x.staged, x.del with
    | s :: _, some y =>
      if y.abort && x.room then
        let (a, b, d) := d.startResults s stAborted
        d.setQ q { x with
          staged := x.staged.drop 1, running := x.running ++ [newStarted s 0 stAborted a b 0 []]
          del := some { y with aborted := y.aborted + 1 } }
      else d
    | _, _ => d

/-! Arbitration (R144). -/

/-- Whether a queue has a descriptor that may start now. -/
def Queue.startable (x : Queue) : Bool :=
  match x.staged with
  | [] => false
  | s :: _ => ! x.aborting && (x.st == .active || x.st == .draining) && x.mayStart s

/-- The first of some rising numbers beyond `k`, or the first of all. -/
def nextAfter (k : Nat) (xs : List Nat) : Option Nat :=
  match xs.find? (fun x => decide (k < x)) with
  | some x => some x
  | none => xs.head?

/-- The queue that the dispatcher serves next, and where the arbitration then stands: an admin queue, one descriptor each in turn;
otherwise the queue whose turn it is while starts are left to it, or the next one, which gets WEIGHT starts. A queue that cannot start loses
its turn. A start that waits for its tables holds back no other queue. -/
def Dev.arbNext (d : Dev) : Option (Nat × Arb) :=
  let can := d.queues.filter (fun p => p.2.startable && ! d.arb.stuck.contains p.1)
  match nextAfter d.arb.admin ((can.filter (fun p => p.2.lq == 0)).map (·.1)) with
  | some q => some (q, { d.arb with admin := q })
  | none =>
    let qs := can.map (·.1)
    if qs.contains d.arb.queue && decide (d.arb.left > 0) then some (d.arb.queue, { d.arb with left := d.arb.left - 1 })
    else match nextAfter d.arb.queue qs with
      | some q => some (q, { d.arb with queue := q, left := (((smGet? q d.queues).map Queue.weight).getD 1) - 1 })
      | none => none

/-- The arbitration after a start of queue `q`; none where it is not the queue's turn. One whose start has waited goes on. -/
def Dev.turnOf (d : Dev) (q : Nat) : Option Arb :=
  if d.arb.stuck.contains q then some { d.arb with stuck := d.arb.stuck.filter (· ≠ q) }
  else match d.arbNext with
    | some (p, a) => if p = q then some a else none
    | none => none

/-- Start the next descriptor of a queue that is ACTIVE or being drained, if it is its turn (R144). -/
def Dev.startNext (d : Dev) (q : Nat) : Dev :=
  match smGet? q d.queues with
  | none => d
  | some x => match x.staged with
    | [] => d
    | s :: _ =>
      if x.aborting then d.abortNext q
      else if ! x.startable then d
      else match d.turnOf q with
        | none => d
        | some a =>
          let d := { d with arb := a }
          if s.pois0 || s.pois1 then d.begin_ q x s 0 stPoison []
          else match d.unitTry (startChecks d x s.bytes) with
            | (.error .need, d) => { d with arb := { d.arb with stuck := d.arb.stuck ++ [q] } }
            | (.error (.done st), d) => d.begin_ q x s 0 st []
            | (.ok (st, comp, note), d) => d.begin_ q x s comp st note

/-- DESCRIPTOR_START (R143). -/
def execDescriptorStart (q : Nat) (s : State) : Host.Outcome State Fault Refusal :=
  s.onDev (fun d => if d.power.st = .run then d.startNext q else d)

/-! Completions and signals (R135, R138, R145, R146). -/

/-- Whether something that a descriptor sent or wrote is not yet acknowledged (R117, R120). -/
def Dev.outstanding (d : Dev) (i : DescId) : Bool :=
  d.fabOut.any (fun o => ownerDesc o.owner == some i)
  || d.parity.any (fun p => match p.forReq with | some (.desc a b _ _) => a == i.queue && b == i.seq | _ => false)

/-- The bytes of a completion (R135). -/
def completionBytes (q : Nat) (x : Queue) (r : Started) : List Byte :=
  leBytes 2 (if r.pois0 then 0 else lf r.bytes 2 2) ++ leBytes 2 r.status ++ leBytes 2 x.sqHead ++ leBytes 2 (q % 2 ^ 14)
  ++ leBytes 8 r.res0 ++ leBytes 8 r.res1 ++ leBytes 2 (if r.detail = 0 then 2 ^ r.status else r.detail)
  ++ leBytes 1 (if r.pois0 then 0 else lf r.bytes 0 1) ++ List.replicate 4 0 ++ leBytes 1 (b2n x.phase + 2 * b2n r.pois0)

/-- Write a completion into its slot. On a poisoned line the whole line is written, and the other half is marked as not
yet posted (R138). -/
def postM (x : Queue) (bs : List Byte) : M Unit := do
  let d ← getDev
  let off := x.cqBase + 32 * x.cqNext
  readyLine off true
  let d' ← getDev
  if d'.linePoisoned off then
    let other := List.replicate 31 0 ++ leBytes 1 (b2n (! x.phase))
    wr (d.ownFa (64 * (off / 64))) (if off % 64 = 0 then bs ++ other else other ++ bs)
  else wr (d.ownFa off) bs

/-- The queue after a completion has been posted: the next slot, PHASE and COUNT. -/
def Queue.advance (x : Queue) (seq : Nat) : Queue :=
  let n := (x.cqNext + 1) % x.cqN
  { x with
    cqNext := n, phase := if n = 0 then ! x.phase else x.phase, count := (x.count + 1) % 2 ^ 32
    running := x.running.filter (fun r => r.seq != seq) }

/-- Send the pending completion signal of a queue. -/
def Dev.sendPending (d : Dev) (q : Nat) (x : Queue) : Dev :=
  let x := { x with unsignalled := 0, coalWait := false }
  (d.setQ q x).signal q x false

/-- Account a posted completion toward a signal (R146). -/
def Dev.signalPosted (d : Dev) (q : Nat) (x : Queue) (quiet : Bool) : Dev :=
  if ! x.ien || quiet then d.setQ q x
  else
    let x := { x with unsignalled := x.unsignalled + 1 }
    if x.coalN = 0 ∨ x.unsignalled ≥ x.coalN ∨ x.coalNs = 0 then d.sendPending q x
    else d.setQ q { x with coalWait := true }

/-- End a deletion when nothing of the queue is left (R148 steps 4 and 5). -/
def Dev.endDelete (d : Dev) (q : Nat) : Dev :=
  match smGet? q d.queues with
  | none => d
  | some x => match x.del with
    | none => d
    | some y =>
      if ! x.staged.isEmpty || ! x.running.isEmpty then d
      else
        let d := if x.unsignalled > 0 ∧ x.ien then d.sendPending q x else d
        let d := d.disarm (.queue q)
        let d := { d with queues := smErase q d.queues, arb := { d.arb with stuck := d.arb.stuck.filter (· ≠ q) } }
        match y.admin with
        | some a => d.finish a.queue a.seq stOk y.aborted 0
        | none => d

/-- A completion that cannot be written (R131, R148): the queue enters ERROR; while it is being deleted the descriptor
counts among those for which nothing is posted, once where it was counted as ABORTED. -/
def Dev.postFailed (d : Dev) (q : Nat) (x : Queue) (seq : Nat) : Dev :=
  match x.del with
  | none => d.queueErr q
  | some y => (d.setQ q { x with
      running := x.running.filter (fun r => r.seq != seq)
      del := some { y with aborted := y.aborted + b2n (! x.running.any (fun r => r.seq == seq && r.status == stAborted)) } }).endDelete q

/-- Post the completion of a descriptor that has ended (R23, R120, R137). -/
def Dev.complete (d : Dev) (q n : Nat) : Dev :=
  match smGet? q d.queues with
  | none => d
  | some x => match x.running.find? (fun r => r.seq == n) with
    | none => d
    | some r =>
      if r.phase ≠ .finished || d.outstanding ⟨q, n⟩ || d.writePending (.eng .queueFront) none then d
      else match d.unitTry (postM x (completionBytes q x r)) with
        | (.error .need, d) => d
        | (.error (.done _), d) => d.postFailed q x n
        | (.ok _, d) =>
          let d := (d.count x.fn 0x01 1).count x.fn 0x02 (if r.status = 0 then 0 else 1)
          let search := ! r.pois0 && lf r.bytes 0 1 == 0x20
          let d := (d.stat 0xC010 63 32 (b2n search)).stat 0xC010 15 8 (b2n (search && r.status == stShort))
          let d := { d with
            rowLocks := d.rowLocks.filter (fun l => l.desc != DescId.mk q n)
            switchQ := d.switchQ.filter (fun x => x.2 != DescId.mk q n)
            searches := d.searches.filter (fun x => x.desc != DescId.mk q n) }
          ((d.signalPosted q (x.advance n) (! r.pois0 && bit (lf r.bytes 1 1) 1)).abortNext q).endDelete q

/-- DESCRIPTOR_COMPLETE (R23). -/
def execDescriptorComplete (q n : Nat) (s : State) : Host.Outcome State Fault Refusal := s.onDev (fun d => d.complete q n)

/-- COAL_NS_EXPIRY (R146). -/
def execCoalNsExpiry (q : Nat) (s : State) : Host.Outcome State Fault Refusal :=
  s.onDev (fun d => match smGet? q d.queues with
    | none => d
    | some x => if x.coalWait && decide (x.unsignalled > 0) then d.sendPending q x else d)

/-! Creation and deletion (R129, R130, R148). -/

/-- Whether `[off, off + n)` lies in this Ndonte's range, in frames whose placement record pins them (R129). -/
def Dev.pinnedRange (d : Dev) (off n : Nat) : Bool :=
  decide (off + n ≤ 2 ^ 48) && (List.range ((off + n - 1) / 65536 + 1 - off / 65536)).all (fun i =>
    match d.entry (off / 65536 + i) with
    | some e => pPin (d.precOf e)
    | none => false)

/-- The checks of R129 on a queue's context entry. -/
def Dev.createOk (d : Dev) (x : Queue) : Bool :=
  decide (4 ≤ lf x.ctx 32 1 ∧ lf x.ctx 32 1 ≤ 16) && decide (4 ≤ lf x.ctx 33 1 ∧ lf x.ctx 33 1 ≤ 16)
  && d.pinnedRange x.sqBase (64 * x.sqN) && d.pinnedRange x.cqBase (32 * x.cqN) && d.pinnedRange x.db 64
  && (isHostFn x.fn || (decide (lf x.ctx 24 8 < 2 ^ 60) && lf x.ctx 24 8 % 8 == 0))
  && ! d.queues.any (fun p => p.2.db == x.db)

/-- A queue as it starts (R130). -/
def newQueue (fi lq : Nat) (ctx : Line) : Queue := ⟨fi, lq, ctx, .active, 0, 0, 0, 0, true, 0, 0, false, 0, [], [], none⟩

/-- Arm the doorbell line of a queue that passes its checks, its frame having been promoted (R95), and read it once. -/
def Dev.openQueue (d : Dev) (q : Nat) (x : Queue) : Option Nat × Dev :=
  if ! d.createOk x then (some stBounds, d)
  else match d.gateFrame x.db false with
    | (.fail _, d) => (some stBounds, d)
    | (.hold _, d) => (none, d)
    | (.go, d) => match d.pline x.db with
      | none => (some stBounds, d)
      | some pl => match d.arm (.queue q) x.db pl with
        | (.failed, d) => (some stBounds, d)
        | (.armed, d) =>
          let (exceeds, d) := (d.setQ q x).readDoorbell q
          (some stOk, if exceeds then d else d.raise (.queue q))
        | (_, d) => (none, d)

/-- Create local queue `lq` of a function from its context entry: the status, or none while it must wait. -/
def Dev.createQueue (d : Dev) (fi lq : Nat) : Option Nat × Dev :=
  let q := d.qBase fi + lq
  if (smGet? q d.queues).isSome then (some stBounds, d)
  else match d.unitTry (rdRaw (d.ownFa (bits (d.reg (qctKey fi 8)) 47 6 * 64 + 64 * lq)) 64) with
    | (.error .need, d) => (none, d)
    | (.error (.done _), d) => (some stBounds, d)
    | (.ok (bs, ps), d) => if ps.any id then (some stBounds, d) else d.openQueue q (newQueue fi lq (bytesLine bs))

/-- Put a queue into DRAINING (R148 step 1). -/
def Dev.drain (d : Dev) (q : Nat) (abort : Bool) (admin : Option DescId) : Dev :=
  match smGet? q d.queues with
  | none => d
  | some x =>
    let d := d.setQ q { x with st := .draining, del := some ⟨abort || x.st == .error, x.sqTail, 0, admin⟩ }
    (x.staged.foldl (fun d _ => d.abortNext q) d).endDelete q

/-- Begin the deletion of a queue: the disarm point reads SQ_TAIL once more. The answer is false while that read must
wait. -/
def Dev.beginDelete (d : Dev) (q : Nat) (abort : Bool) (admin : Option DescId) : Bool × Dev :=
  match smGet? q d.queues with
  | none => (true, d)
  | some x =>
    if x.st = .error then (true, d.drain q true admin)
    else
      let (exceeds, d) := d.readDoorbell q
      if exceeds then (true, d.drain q abort admin) else (false, d)

/-- Turn the deletion of a queue that drains into one with ABORT. -/
def Dev.abortDrain (d : Dev) (q : Nat) : Dev :=
  match smGet? q d.queues with
  | none => d
  | some x =>
    let d := d.setQ q { x with del := x.del.map (fun (y : Deleting) => { y with abort := true }) }
    (x.staged.foldl (fun d _ => d.abortNext q) d).endDelete q

/-- Delete every queue of a function as with ABORT (R141, R151), one that is being drained included. Where a doorbell read would have to
wait, what has been read stands. -/
def Dev.deleteAll (d : Dev) (fi : Nat) : Dev :=
  (d.queues.filter (fun p => p.2.fn == fi)).foldl (fun d p =>
    if p.2.st = .draining then d.abortDrain p.1
    else match d.beginDelete p.1 true none with
      | (true, d) => d
      | (false, d) => d.drain p.1 true none) d

end Sys2Proof.Machine
end

