-- ==== Sys2Proof/Machine/Admin.lean ====
section
/-! DEFINITION. The admin commands of queue 0 and the registers of a function's queues: QUEUE_CREATE, QUEUE_DELETE, GET_INFO,
QCT_RANGE, QCT_CTRL.EN, function level reset and MSI-X unmasking (R127, R141, R145, R147 to R151, R427). -/

namespace Sys2Proof.Machine

open Sys2Proof

/-- The function of the queue that a run's descriptor was submitted to. -/
def runFn : M Nat := do
  let c ← read
  let d ← getDev
  match c.run with
  | .desc q _ => return ((smGet? q d.queues).map (·.fn)).getD 0
  | _ => return 0

/-- The local queue that an admin command names: 1 to COUNT − 1. -/
def localQueue (l : Line) : M Nat := do
  let d ← getDev
  let fi ← runFn
  let q := lf l 8 2
  ensure (decide (1 ≤ q ∧ q < d.qCount fi)) stBounds
  return q

/-- QUEUE_CREATE (R129, R147). -/
def queueCreateM (l : Line) : M (Nat × Nat × Nat) := do
  let lq ← localQueue l
  let fi ← runFn
  let d ← getDev
  let (r, d) := d.createQueue fi lq
  modDev (fun _ => d)
  match r with
  | none => need
  | some st =>
    ensure (st == stOk) st
    return (stOk, d.qBase fi + lq, 0)

/-- QUEUE_CREATE (R129). -/
def execQueueCreate (q n : Nat) (s : State) : Host.Outcome State Fault Refusal := s.desc 0x80 q n queueCreateM

/-- QUEUE_DELETE (R147, R148): it ends when the queue has been disabled. -/
def queueDeleteM (mode : Nat) (l : Line) : M (Nat × Nat × Nat) := do
  let lq ← localQueue l
  let m := lf l 10 1
  ensure (decide (m ≤ 1)) stBounds
  if m ≠ mode then need
  let fi ← runFn
  let c ← read
  let d ← getDev
  match smGet? (d.qBase fi + lq) d.queues with
  | none => halt stBounds
  | some x => match x.del with
    | some y => if y.admin = some c.did then need else halt stBounds
    | none =>
      modDev (fun d => (d.beginDelete (d.qBase fi + lq) (mode == 1) (some c.did)).2)
      need

/-- QUEUE_DELETE_DRAIN (R148). -/
def execQueueDeleteDrain (q n : Nat) (s : State) : Host.Outcome State Fault Refusal := s.desc 0x81 q n (queueDeleteM 0)

/-- QUEUE_DELETE_ABORT (R148). -/
def execQueueDeleteAbort (q n : Nat) (s : State) : Host.Outcome State Fault Refusal := s.desc 0x81 q n (queueDeleteM 1)

/-- ID_PART (R423). -/
def Dev.idPart (d : Dev) : Nat := match d.part with | .v8n => 0x56080640 | .v6n => 0x56060480

/-- The information buffer of GET_INFO (R147). -/
def infoBytes (d : Dev) (fi : Nat) : List Byte :=
  leBytes 4 d.idPart ++ leBytes 4 (d.reg 4) ++ leBytes 2 (funcCode fi) ++ leBytes 2 (d.qBase fi) ++ leBytes 2 (d.qCount fi)
  ++ leBytes 2 d.node ++ leBytes 1 (d.partition.getD 0) ++ leBytes 1 d.stacks ++ leBytes 1 (b2n d.training) ++ List.replicate 45 0

/-- GET_INFO (R147). -/
def execGetInfo (q n : Nat) (s : State) : Host.Outcome State Fault Refusal :=
  s.desc 0x84 q n (fun l => do
    let d ← getDev
    let fi ← runFn
    wrV (lf l 8 8) (infoBytes d fi)
    okRun)

/-! Registers of a function (R127, R151, R422). -/

/-- Whether a range of queue IDs would overlap another function's or run past 16,383 (R127). -/
def Dev.rangeTaken (d : Dev) (fi base count : Nat) : Bool :=
  decide (base + count > 16384) || (List.range 2048).any (fun f =>
    f != fi && decide (base < d.qBase f + d.qCount f ∧ d.qBase f < base + count ∧ 0 < count ∧ 0 < d.qCount f))

/-- The effect of a write of QCT_RANGE (R127): nothing while EN is set; a range that is taken is refused with RREJ. -/
def Dev.writeRange (d : Dev) (fi value : Nat) : Dev :=
  if d.rf (qctKey fi 16) 0 0 = 1 ∨ fi ≥ 2048 then d
  else
    let count := bits value 30 16
    let count := if isHostFn fi then min count 2048 else count
    if d.rangeTaken fi (bits value 13 0) count then d.setRf (qctKey fi 4) 3 3 1
    else d.setReg (qctKey fi 0) (bits value 13 0 + 2 ^ 16 * count + 2 ^ 31 * bits value 31 31)

/-- QCT_RANGE_WRITE (R127). -/
def execQctRangeWrite (path : Path) (fn value : Nat) (s : State) : Host.Outcome State Fault Refusal :=
  .next (s.onPathDev path none false false (qctKey fn 0) (.qctRangeWrite path fn value) (fun d => d.writeRange fn value))

/-- Creation of queue 0 of a function (R151): BUSY stands while it must wait, as for queues that are still being deleted. -/
def Dev.openAdmin (d : Dev) (fi : Nat) : Dev :=
  if d.queues.any (fun p => p.2.fn == fi) then d.setRf (qctKey fi 4) 1 1 1
  else match d.createQueue fi 0 with
  | (none, d) => d.setRf (qctKey fi 4) 1 1 1
  | (some 0, d) => d.setRf (qctKey fi 4) 1 1 0
  | (some _, d) => ((((d.setRf (qctKey fi 4) 1 1 0).setRf (qctKey fi 4) 2 2 1).setRf (qctKey fi 4) 29 16 0).errPend fi)

/-- The effect of a write of QCT_CTRL.EN (R151). -/
def Dev.writeEn (d : Dev) (fi : Nat) (en : Bool) : Dev :=
  let was := d.rf (qctKey fi 16) 0 0 == 1
  if en then
    if was then (if d.rf (qctKey fi 4) 1 1 = 1 then d.openAdmin fi else d)
    else if d.qCount fi = 0 ∨ fi ≥ 2048 then d
    else (d.setRf (qctKey fi 16) 0 0 1).openAdmin fi
  else if ! was then d
  else ((d.setRf (qctKey fi 16) 0 0 0).setRf (qctKey fi 4) 1 1 0).deleteAll fi

/-- Go on with the creation of each queue 0 that has had to wait (R151). -/
def Dev.adminStep (d : Dev) : Dev :=
  (d.regs.filter (fun p => decide (0x30000 ≤ p.1 ∧ p.1 < 0x40000 ∧ p.1 % 32 = 4) && bit p.2 1)).foldl (fun d p =>
    let fi := (p.1 - 0x30000) / 32
    if d.rf (qctKey fi 16) 0 0 = 1 then d.openAdmin fi else d) d

/-- QCT_CTRL_EN (R151): a host function writes its own, the management function those of endpoint groups (R422). -/
def execQctCtrlEn (path : Path) (fn : Nat) (en : Bool) (s : State) : Host.Outcome State Fault Refusal :=
  .next (s.onPathDev path (if isHostFn fn then some fn else none) false false (qctKey fn 16) (.qctCtrlEn path fn en) (fun d =>
    match path with
    | .fn _ => d.writeEn fn en
    | _ => if isHostFn fn then d else d.writeEn fn en))

/-- Reset the registers of the host functions that `sel` names (R427). -/
def Dev.resetFns (d : Dev) (sel : Nat → Bool) : Dev :=
  let keep (k : Nat) : Bool :=
    if 0x30000 ≤ k ∧ k < 0x38000 then k % 32 = 0 || ! sel ((k - 0x30000) / 32)
    else if 0x1000000 ≤ k ∧ k < 0x1040000 then ! sel ((k - 0x1000000) / 0x100)
    else if 0x2000000 ≤ k ∧ k < 0x2002000 then ! sel ((k - 0x2000000) / 8)
    else true
  let other (v : Nat) : Bool := ! (decide (v / 2048 < 1024) && sel (v / 2048))
  { d with
    regs := d.regs.filter (fun p => keep p.1)
    msix := d.msix.filter (fun p => other p.1)
    pba := d.pba.filter other
    sampleRun := d.sampleRun.filter (fun p => ! (decide (p.1 % 4096 < 1024) && sel (p.1 % 4096)))
    latches := d.latches.filter (fun p => ! (decide (3 ≤ p.1) && sel (p.1 - 3))) }

/-- FUNCTION_LEVEL_RESET (R141, R365). -/
def execFunctionLevelReset (fn : Nat) (s : State) : Host.Outcome State Fault Refusal :=
  s.onDev (fun d => if isHostFn fn then (d.deleteAll fn).resetFns (· == fn) else d)

/-- Clear a vector's mask and send the message that was held (R145). -/
def Dev.unmask (d : Dev) (fn v : Nat) : Dev :=
  let k := 2048 * fn + v
  let e := smGet k msixEmpty d.msix
  let d := { d with msix := smPut msixEmpty k { e with masked := false } d.msix }
  if d.pba.contains k then { d with pba := nsDel k d.pba }.send (.msix fn v e.addr e.data) else d

/-- MSIX_VECTOR_UNMASK (R145). -/
def execMsixVectorUnmask (fn vector : Nat) (s : State) : Host.Outcome State Fault Refusal :=
  .next (s.onPathDev (.fn fn) (some fn) false false (0x800C + 16 * vector) (.msixVectorUnmask fn vector) (fun d =>
    if isHostFn fn ∧ vector < 2048 then d.unmask fn vector else d))

end Sys2Proof.Machine
end

