-- ==== Sys2Proof/Machine/Sha3.lean ====
section
/-! DEFINITION. SHA3-256, which fingerprints KV blocks (R189) and digests firmware (R371, R373). -/

namespace Sys2Proof.Machine

open Sys2Proof

/-- A lane of the permutation's state; lane `x + 5 y` is that of column x and row y. -/
abbrev Lane := BitVec 64

/-- The lane of a column and row, both modulo 5. -/
def laneAt (a : List Lane) (x y : Nat) : Lane := nth a (x % 5 + 5 * (y % 5)) 0

/-- The rotation of each lane. -/
def laneRot : List Nat :=
  [0, 1, 62, 28, 27, 36, 44, 6, 55, 20, 3, 10, 43, 25, 39, 41, 45, 15, 21, 8, 18, 2, 61, 56, 14]

/-- The constants of the 24 rounds. -/
def roundConst : List Lane :=
  [0x0000000000000001, 0x0000000000008082, 0x800000000000808A, 0x8000000080008000, 0x000000000000808B, 0x0000000080000001,
   0x8000000080008081, 0x8000000000008009, 0x000000000000008A, 0x0000000000000088, 0x0000000080008009, 0x000000008000000A]
  ++ [0x000000008000808B, 0x800000000000008B, 0x8000000000008089, 0x8000000000008003, 0x8000000000008002, 0x8000000000000080,
   0x000000000000800A, 0x800000008000000A, 0x8000000080008081, 0x8000000000008080, 0x0000000080000001, 0x8000000080008008]

/-- One round of the permutation. -/
def keccakRound (a : List Lane) (rc : Lane) : List Lane :=
  let c := (List.range 5).map (fun x => (List.range 5).foldl (fun s y => s ^^^ laneAt a x y) 0)
  let e := (List.range 5).map (fun x => nth c ((x + 4) % 5) 0 ^^^ (nth c ((x + 1) % 5) 0).rotateLeft 1)
  let t := (List.range 25).map (fun i => (nth a i 0 ^^^ nth e (i % 5) 0).rotateLeft (nth laneRot i 0))
  let b := (List.range 25).map (fun i => laneAt t (i % 5 + 3 * (i / 5)) (i % 5))
  let r := (List.range 25).map (fun i =>
    laneAt b (i % 5) (i / 5) ^^^ (~~~ (laneAt b (i % 5 + 1) (i / 5)) &&& laneAt b (i % 5 + 2) (i / 5)))
  match r with
  | x :: xs => (x ^^^ rc) :: xs
  | [] => []

/-- The permutation. -/
def keccak (a : List Lane) : List Lane := roundConst.foldl keccakRound a

/-- Take one block of 136 bytes into the state. -/
def absorb (a : List Lane) (block : List Byte) : List Lane :=
  keccak ((List.range 25).map (fun i => nth a i 0 ^^^ BitVec.ofNat 64 (fld block (8 * i) 8)))

/-- The message with its padding. -/
def sha3Pad (bs : List Byte) : List Byte :=
  let k := 136 - bs.length % 136
  bs ++ (if k = 1 then [0x86] else [0x06] ++ List.replicate (k - 2) 0 ++ [0x80])

/-- The 32 bytes of the SHA3-256 digest of a message. -/
def sha3 (bs : List Byte) : List Byte :=
  (((chunks 136 (sha3Pad bs)).foldl absorb (List.replicate 25 0)).take 4).flatMap (fun l => leBytes 8 l.toNat)

end Sys2Proof.Machine
end

