-- ==== Sys2Proof/Machine/Simple.lean ====
section
/-! DEFINITION. The plain descriptors NOP, FENCE, WRITE_ACK, COPY and FILL (R113, R117, R118, R142, R176), and the commands
of the translation unit: invalidations, fault resumption and migration on fault (R49 to R60, R149). -/

namespace Sys2Proof.Machine

open Sys2Proof

/-- NOP (R133). -/
def execNop (q n : Nat) (s : State) : Host.Outcome State Fault Refusal := s.desc 0x7F q n (fun _ => okRun)

/-- A scope code (R113): 5 to 7 are reserved. -/
def scopeM (b : Nat) : M Nat := do
  ensure (decide (b % 8 ≤ 4)) stBounds
  return b % 8

/-- FENCE (R118): it ends once every earlier descriptor of the queue has completed; each of those completed only when its
writes were visible at FABRIC scope. -/
def fenceM (l : Line) : M (Nat × Nat × Nat) := do
  let _ ← scopeM (lf l 8 1)
  let c ← read
  let d ← getDev
  match c.run with
  | .desc q n =>
    let earlier := match smGet? q d.queues with
      | some x => x.running.any (fun r => decide (r.seq < n))
      | none => false
    if earlier then need
    okRun
  | _ => okRun

/-- FENCE (R118). -/
def execFence (q n : Nat) (s : State) : Host.Outcome State Fault Refusal := s.desc 0x05 q n fenceM

/-- WRITE_ACK (R117, R142): with FABRIC named, a write to another node is an acknowledged one (R116). -/
def writeAckM (l : Line) : M (Nat × Nat × Nat) := do
  let dest := lf l 8 8
  let len := lf l 16 1
  ensure (decide (1 ≤ len ∧ len ≤ 24 ∧ dest % 64 + len ≤ 64)) stBounds
  let scope ← scopeM (lf l 17 1)
  let fa ← xlate dest 2
  let bs := leBytes len (lf l 40 24)
  let d ← getDev
  if d.isOwn fa || scope != 4 then wr fa bs
  else
    let c ← read
    match d.issueStatus (fa / 2 ^ 48) with
    | some st => halt st
    | none =>
      let (data, m) := runLine ⟨fa, bs, false⟩
      noteAcc fa true false false
      modDev (fun d => d.writeOut (fa / 2 ^ 48) c.sidx 2 (leBytes 8 (64 * (fa / 64)) ++ leBytes 8 m.toNat ++ lineBytes data) true false
        (.desc c.did (fa / 64)))
  okRun

/-- WRITE_ACK (R117). -/
def execWriteAck (q n : Nat) (s : State) : Host.Outcome State Fault Refusal := s.desc 0x04 q n writeAckM

/-- Cut bytes with their poison into runs of one kind. -/
def poisonRuns : List (Byte × Bool) → List (Bool × List Byte)
  | [] => []
  | (b, p) :: xs => match poisonRuns xs with
    | (q, bs) :: rs => if p = q then (q, b :: bs) :: rs else (p, [b]) :: (q, bs) :: rs
    | [] => [(p, [b])]

/-- Write runs of bytes, each poisoned or good, from an FA on. -/
def wrMixed (fa : Nat) : List (Bool × List Byte) → M Unit
  | [] => pure ()
  | (p, bs) :: rs => do
    wr fa bs p
    wrMixed (fa + bs.length) rs

/-- Write bytes with their poison over translated pieces. -/
def wrPiecesMixed : List (Nat × Nat) → List (Byte × Bool) → M Unit
  | [], _ => pure ()
  | (fa, k) :: rs, xs => do
    wrMixed fa (poisonRuns (xs.take k))
    wrPiecesMixed rs (xs.drop k)

/-- A transfer shorter than a frame runs on bays (R21), which ends it with FENCED when every bay is fenced (R181). -/
def movedByBays (len : Nat) : M Unit := do
  let d ← getDev
  ensure (decide (65536 ≤ len) || ! d.noBay) stFenced

/-- COPY (R176). A poisoned source code word is stored poisoned at the destination (R99), and the descriptor that read it
completes with POISON. -/
def copyM (l : Line) : M (Nat × Nat × Nat) := do
  let src := lf l 8 8
  let dst := lf l 16 8
  let len := lf l 24 8
  ensure (decide (1 ≤ len ∧ len ≤ 2 ^ 40)) stBounds
  ensure (decide (src + len ≤ dst ∨ dst + len ≤ src)) stBounds
  ensure (dvaFits src len && dvaFits dst len) stBounds
  movedByBays len
  let (bs, ps) ← atStage 0 (rdRawV src len)
  let dests ← xlateAll 2 (pagesOf dst len)
  atStage 1 (wrPiecesMixed dests (bs.zip ps))
  openRun (if ps.any id then stPoison else stOk)

/-- COPY (R176). -/
def execCopy (q n : Nat) (s : State) : Host.Outcome State Fault Refusal := s.desc 0x01 q n copyM

/-- The first `n` bytes of a pattern repeated. -/
def repeated (pat : List Byte) (n : Nat) : List Byte := (List.range n).map (fun i => nth pat (i % pat.length) 0)

/-- FILL (R176). -/
def fillM (l : Line) : M (Nat × Nat × Nat) := do
  let dst := lf l 8 8
  let len := lf l 16 8
  let plen := lf l 32 1
  ensure (decide (1 ≤ len ∧ len ≤ 2 ^ 40)) stBounds
  ensure ([1, 2, 4, 8].contains plen) stBounds
  ensure (dvaFits dst len) stBounds
  movedByBays len
  atStage 1 (wrV dst (repeated (leBytes plen (lf l 24 8)) len))
  openRun stOk

/-- FILL (R176). -/
def execFill (q n : Nat) (s : State) : Host.Outcome State Fault Refusal := s.desc 0x02 q n fillM

/-! Invalidations (R49 to R52, R149). -/

/-- Whether an admin command that names a PASID names another function's (R149). -/
def otherFns (pasid : Nat) : M Bool := do
  let fi ← runFn
  let d ← getDev
  if d.qPriv fi then return false
  match ← pasidCtx pasid with
  | .error _ => return false
  | .ok cx => return funcIndex cx.func != fi

/-- Whether a DVA span of a cached pointer overlaps an invalidation's range. -/
def ptrCovered (i : Invalidation) (t : TlbPtr) : Bool :=
  if i.mode = 1 then true
  else
    let span := 2 ^ (if t.lvl = 0 then 39 else leafBits t.lvl)
    (i.all || i.pasid == t.pasid) && decide (t.pre * span < i.start + 65536 * i.frames ∧ i.start < (t.pre + 1) * span)

/-- Whether a cached leaf falls under an invalidation. -/
def leafCovered (i : Invalidation) (t : TlbLeaf) : Bool :=
  let pages := 2 ^ (leafBits t.lvl - 16)
  if i.mode = 0 then
    (i.all || i.pasid == t.pasid) && decide (t.page < i.start / 65536 + i.frames ∧ i.start / 65536 < t.page + pages)
  else
    let first := bits t.entry 59 16 / pages * pages
    decide (first < i.start / 65536 + i.frames ∧ i.start / 65536 < first + pages)

/-- Whether an access that a descriptor has issued and that waits was issued under a translation that an invalidation covers. -/
def issuedUnder (i : Invalidation) (r : Started) (t : Issued) : Bool := invCovers i (descPasid r.bytes) t.page (65536 * t.fa)

/-- Mark the accesses of a queue's descriptors that wait under translations which an invalidation withdraws. -/
def Queue.outdate (i : Invalidation) (x : Queue) : Queue :=
  { x with running := x.running.map (fun (r : Started) => { r with
      issued := r.issued.map (fun (t : Issued) => if issuedUnder i r t then { t with old := true } else t) }) }

/-- Mark a range as withdrawing and drop what the caches hold of it (R50 steps 2 and 3): the accesses issued before stay under their
translations, and a migration of a covered page is abandoned (R60). -/
def Dev.withdraw (d : Dev) (i : Invalidation) : Dev :=
  { d with
    invs := d.invs ++ [i]
    queues := d.queues.map (fun p => (p.1, p.2.outdate i))
    tlb := d.tlb.filter (fun t => ! leafCovered i t)
    tlbSec := d.tlbSec.filter (fun x => ! leafCovered i x.2)
    tptr := if i.walk then d.tptr.filter (fun t => ! ptrCovered i t) else d.tptr
    migrations := d.migrations.map (fun m =>
      if invCovers i m.pasid m.page (d.ownFa (65536 * m.frame)) then { m with dropped := true } else m) }

/-- INVALIDATE_RANGE (R49, R50). Its transfers in flight are the requests that descriptors have at other nodes, and the accesses that wait
here. -/
def invalidateM (l : Line) : M (Nat × Nat × Nat) := do
  let c ← read
  let d ← getDev
  let id := c.did
  if d.invs.any (fun i => i.queue == id.queue && i.seq == id.seq) then need
  let bs ← rdV (lf l 8 8) 32
  let w := fld bs 0 4
  let fl := fld bs 4 4
  let i : Invalidation := ⟨id.queue, id.seq, fl % 2, bit w 31, w % 2 ^ 20, fld bs 8 8, fld bs 16 4, bit fl 1, []⟩
  ensure (decide (i.frames ≠ 0 ∧ i.start % 65536 = 0 ∧ i.start < 2 ^ (if i.mode = 0 then 48 else 60))) stBounds
  let fi ← runFn
  if ! d.qPriv fi && (i.all || i.mode == 1) then halt stDenied
  if i.mode = 0 ∧ ! i.all then
    let other ← otherFns i.pasid
    if other then halt stDenied
  let d ← getDev
  if d.invs.length ≥ 64 then need
  let fly := (d.fabOut.filter (fun o => (ownerDesc o.owner).isSome)).map (·.msg)
  modDev (fun d => d.withdraw { i with inflight := fly })
  need

/-- INVALIDATE_RANGE (R50). -/
def execInvalidateRange (q n : Nat) (s : State) : Host.Outcome State Fault Refusal := s.desc 0x82 q n invalidateM

/-- Whether an access issued under a translation that an invalidation has withdrawn still waits here (R50 step 4). -/
def Dev.issuedWaits (d : Dev) (i : Invalidation) : Bool :=
  d.queues.any (fun p => p.2.running.any (fun r => r.phase == .running && r.issued.any (fun t => t.old && issuedUnder i r t)))

/-- INVALIDATION_ACK (R50, R51): the last engine has acknowledged, which none does while a transfer issued before the mark
is in flight. -/
def execInvalidationAck (q n : Nat) (s : State) : Host.Outcome State Fault Refusal :=
  s.onDev (fun d => match d.invs.find? (fun i => i.queue == q && i.seq == n) with
    | none => d
    | some i =>
      if d.fabOut.any (fun o => i.inflight.contains o.msg) || d.issuedWaits i then d
      else { d with invs := d.invs.filter (fun j => ! (j.queue == q && j.seq == n)) }.finish q n stOk 0 0)

/-! Fault resumption (R56). -/

/-- Let the contexts that wait on a page and kind of fault walk again: descriptors, and entries of timetables. -/
def Dev.resumeWaiters (d : Dev) (ws : List DescId) (page kind : Nat) : Dev :=
  ws.foldl (fun d i => (d.modStarted i.queue i.seq (fun r => if r.phase = .faulted then { r with phase := .running } else r)).modTable i
    (fun t => { t with stalled := t.stalled.filter (fun x => ! (x.2.1 == page && x.2.2 == kind)) })) d

/-- Fail an entry of a timetable with a status (R265). -/
def Timetable.fail (t : Timetable) (i st : Nat) : Timetable :=
  { t with states := t.states.set i 3, sts := t.sts ++ [st], stalled := t.stalled.filter (fun x => x.1 != i) }

/-- Complete a timetable's descriptor once no entry runs and either one has failed or all have completed (R265). -/
def Dev.tableEnds (d : Dev) (i : DescId) : Dev :=
  match d.timetables.find? (fun t => t.desc == i) with
  | none => d
  | some t =>
    let failed := t.states.findIdx? (· == 3)
    if t.states.any (fun s => s == 1 || s == 4) || (failed.isNone && t.states.any (· == 0)) then d
    else
      let d := { (d.disarm (.semaphore i.queue i.seq)) with timetables := d.timetables.filter (fun t => t.desc != i) }
      let d := t.sts.foldl (fun d st => d.noteStatus i.queue i.seq st) d
      d.finish i.queue i.seq (t.sts.foldl worse 0) (failed.getD t.states.length) (t.states.countP (· == 2))

/-- Fail the entries of a timetable that stall on a page and kind of fault. -/
def Dev.failEntries (d : Dev) (i : DescId) (page kind : Nat) : Dev :=
  (d.modTable i (fun t => (t.stalled.filter (fun x => x.2.1 == page && x.2.2 == kind)).foldl (fun t x => t.fail x.1 stFault) t)).tableEnds i

/-- Complete the descriptors that wait on a fault with FAULT_PENDING; of a timetable that runs, the entries that wait fail. -/
def Dev.failWaiters (d : Dev) (f : FaultEntry) : Dev :=
  f.waiters.foldl (fun d i => match d.startedOf i.queue i.seq with
    | some r => if r.phase = .faulted then d.finishOpen (lf r.bytes 0 1) i.queue i.seq stFault else d.failEntries i f.page f.kind
    | none => d) d

/-- Take an outstanding fault away, as it has been answered. -/
def Dev.dropFault (d : Dev) (id : Nat) : Dev := { d with faults := d.faults.filter (fun f => f.id != id) }

/-- FAULT_RESUME (R56, R149). -/
def faultResumeM (action : Nat) (l : Line) : M (Nat × Nat × Nat) := do
  let pasid := lf l 8 4 % 2 ^ 20
  let a := lf l 16 1
  ensure (decide (a ≤ 1)) stBounds
  if a ≠ action then need
  let other ← otherFns pasid
  if other then halt stDenied
  let d ← getDev
  match d.faults.find? (fun f => f.pasid == pasid && f.id == lf l 12 4 && f.written && f.kind != 4) with
  | none => halt stBounds
  | some f =>
    modDev (fun d => let d := d.dropFault f.id
      if action = 0 then d.resumeWaiters f.waiters f.page f.kind else d.failWaiters f)
    okRun

/-- FAULT_RESUME_RETRY (R56). -/
def execFaultResumeRetry (q n : Nat) (s : State) : Host.Outcome State Fault Refusal := s.desc 0x83 q n (faultResumeM 0)

/-- FAULT_RESUME_FAIL (R56). -/
def execFaultResumeFail (q n : Nat) (s : State) : Host.Outcome State Fault Refusal := s.desc 0x83 q n (faultResumeM 1)

/-- FAULT_SIGNAL_EXPIRY (R55). -/
def execFaultSignalExpiry (pasid : Nat) (s : State) : Host.Outcome State Fault Refusal :=
  s.onDev (fun d => match smGet? pasid d.areas with
    | none => d
    | some a =>
      if ! a.window then d
      else if ! a.pendingSignal then { d with areas := smSet pasid { a with window := false } d.areas }
      else match d.unitRun (pasidCtx pasid) with
        | (some (.ok cx), d) => { d with areas := smSet pasid { a with pendingSignal := false } d.areas }.signalFaults cx
        | (_, d) => d)

/-- FAULT_HEAD_POLL (R55). -/
def execFaultHeadPoll (pasid : Nat) (s : State) : Host.Outcome State Fault Refusal :=
  s.onDev (fun d => if d.polledLines.contains (.faultArea pasid) then d.flushFaults pasid else d)

/-- FAULT_TMO_EXPIRY (R56): Ndonte applies FAIL itself and records an event. -/
def execFaultTmoExpiry (id : Nat) (s : State) : Host.Outcome State Fault Refusal :=
  s.onDev (fun d => match d.faults.find? (fun f => f.id == id && f.kind != 4) with
    | none => d
    | some f =>
      if d.rf 0x6008 13 0 = 0 then d
      else (((d.dropFault id).failWaiters f).event .faultTimeout [.pasid f.pasid, .queue f.queue]).flushFaults f.pasid)

/-! Migration on fault (R59, R60). -/

/-- The leaf that a migrated page gets. -/
def migratedLeaf (d : Dev) (m : Migration) : Nat :=
  3 + bits m.leafVal 3 2 * 4 + d.ownFa (65536 * m.frame) / 65536 * 65536

/-- Step 4 of R59: the compare-and-write. Whether it took place is the answer. -/
def migrateCommit (m : Migration) (data : List Byte) (cx : PasidCtx) : M Bool := do
  let d ← getDev
  wr (d.ownFa (65536 * m.frame)) (slice data 0 65536)
  let old := leNat (← rd (d.ownFa m.leafAddr) 8)
  if old = m.leafVal ∧ ! m.dropped then
    wr (d.ownFa m.leafAddr) (leBytes 8 (migratedLeaf d m))
    return true
  else
    giveRing cx.mpool cx.mpoolLog m.frame
    return false

/-- Forget a migration. -/
def Dev.endMigration (d : Dev) (m : Migration) : Dev :=
  { d with migrations := d.migrations.filter (fun x => ! (x.pasid == m.pasid && x.page == m.page)) }

/-- The tag of a started descriptor. -/
def Dev.descTag (d : Dev) (i : DescId) : Nat := ((d.startedOf i.queue i.seq).map (fun r => lf r.bytes 2 2)).getD 0

/-- A migration has ended, and what waits on the page walks again. -/
def Dev.migrationOver (d : Dev) (m : Migration) : Dev := (d.endMigration m).resumeWaiters m.waiters m.page 5

/-- The DMA of a migration has failed (R59): the frame goes back to the ring, and the waiting contexts stall on a MIGRATE_FAILED record. One
that has been abandoned writes no record (R60). -/
def Dev.migrateFails (d : Dev) (m : Migration) (cx : PasidCtx) : Dev :=
  match d.unitRun (giveRing cx.mpool cx.mpoolLog m.frame) with
  | (none, d) => d
  | (some _, d) =>
    if m.dropped then d.migrationOver m
    else
      let d := m.waiters.foldl (fun d i =>
        (d.addFault m.pasid m.dva 5 m.access 3 i (d.descTag i) m.engine true).modStarted i.queue i.seq (fun r =>
          if r.phase = .running ∧ (d.table i).isNone then { r with phase := .faulted } else r)) (d.endMigration m)
      d.flushFaults m.pasid

/-- The page's host DMA has ended: the leaf is replaced, the migration is abandoned, or a MIGRATE_FAILED record is
written. -/
def Dev.migrated (d : Dev) (m : Migration) (ok : Bool) (data : List Byte) (cx : PasidCtx) : Dev :=
  let first := m.waiters.head?.getD ⟨0, 0⟩
  if ! ok then d.migrateFails m cx
  else match d.unitTry (migrateCommit m data cx) with
    | (.error .need, d) => d
    | (.error (.done _), d) => d.migrateFails m cx
    | (.ok true, d) => ((d.migrationOver m).addFault m.pasid m.dva 4 m.access 3 first (d.descTag first) m.engine false).flushFaults m.pasid
    | (.ok false, d) => d.migrationOver m

/-- MIGRATION_DMA_DONE (R59, R60). -/
def execMigrationDmaDone (pasid page : Nat) (ok : Bool) (data : List Byte) (s : State) : Host.Outcome State Fault Refusal :=
  s.onDev (fun d => match d.migrations.find? (fun m => m.pasid == pasid && m.page == page) with
    | none => d
    | some m => match d.unitRun (pasidCtx pasid) with
      | (some (.ok cx), d) => d.migrated m ok data cx
      | (_, d) => d)

end Sys2Proof.Machine
end

