-- ==== Sys2Proof/Machine/Moves.lean ====
section
/-! DEFINITION. The turntable's commands: promotions, demotions and relocations of frames, their OPEN records, and the age
windows (R71 to R83, R101). -/

namespace Sys2Proof.Machine

open Sys2Proof

/-! The ends of a promotion (R73, R75). -/

/-- Whether a wait is for a frame's promotion or relocation. -/
def onMove (f : Nat) (w : WaitOn) : Bool :=
  match w with
  | .subBlock g _ => g == f
  | .move g => g == f
  | _ => false

/-- Answer a host's request whose promotion failed: poison, or a dropped write; for want of a pool frame one event per 1-second window
(R72). -/
def Dev.answerHost (d : Dev) (ld off st : Nat) : Dev :=
  if st = stTierFull then d.eventSecond .fullPoison 0 [.ld ld, .frames (off / 65536) (off / 65536)] else d

/-- Answer a request that waited on a promotion which failed with a status (R72, R75): reads are answered with poison, writes are
dropped, descriptors complete with the status. -/
def Dev.answerWith (d : Dev) (st : Nat) (r : MemReq) : Dev :=
  match r with
  | .hostRead ld off _ tag => (d.answerHost ld off st).hostPoison ld tag
  | .hostWrite ld off _ _ _ tag => (d.answerHost ld off st).hostAck ld tag
  | .hostWb ld off _ _ _ tag => (d.answerHost ld off st).hostAck ld tag
  | .devRead _ _ _ _ tag => d.send (.devDone tag st)
  | .devWrite _ _ _ _ _ _ tag => d.send (.devDone tag st)
  | .arm _ _ | .evict _ _ => d
  | .notify q _ _ _ => d.queueErr q
  | .desc q n _ _ => match d.startedOf q n with
    | some r =>
      -- a timetable's entry and a search's part meet the unreadable frame when they are presented again
      if r.phase = .running ∧ lf r.bytes 0 1 ≠ 0x03 ∧ lf r.bytes 0 1 ≠ 0x20 then d.finishOpen (lf r.bytes 0 1) q n st else d
    | none => d
  | .fab i _ _ => match d.fabIn.find? (fun x => x.id == i) with
    | some x => d.fabDone x st []
    | none => match d.subs.find? (fun x => subId x == i) with
      | some x => d.subFail x st
      | none => d

/-- Answer a request that waited on a promotion whose source became unreadable (R75). -/
def Dev.answerFailed (d : Dev) (r : MemReq) : Dev := d.answerWith stPoison r

/-- End a frame's promotion without the frame, answer what waited on it with a status, and let what waited for its mover go on. -/
def Dev.promoEndsWith (d : Dev) (f st : Nat) : Dev :=
  let runs := (d.promoWait.filter (fun p => p.1 == f)).map (·.2)
  let held := (d.waiting.filter (fun w => onMove f w.on)).map (·.req)
  let d := { (d.failPromotion f) with
    promoWait := d.promoWait.filter (fun p => p.1 != f)
    waiting := d.waiting.filter (fun w => ! onMove f w.on)
    fabOut := d.fabOut.filter (fun (o : FabOut) => o.owner != .promote f && o.owner != .rebuild f) }
  ((held ++ runs).foldl (fun (d : Dev) r => d.answerWith st r) d).wake (fun w => w == .frameRoom)

/-- Fail a frame's promotion whose source cannot be read (R75). -/
def Dev.promoFailed (d : Dev) (f : Nat) : Dev := d.promoEndsWith f stPoison

/-- The promotion that waits longest for a pool frame (R73 step 1). -/
def Dev.firstQueued (d : Dev) : Option (Nat × Move) :=
  d.moves.foldl (fun b p =>
    if p.2.queued = 0 then b else match b with
      | none => some p
      | some q => if p.2.queued < q.2.queued then some p else some q) none

/-- Free pool frames go to the promotions that wait for one, in order (R73 step 1); once none can come free, they fail (R72). -/
def Dev.giveRoom : Nat → Dev → Dev
  | 0, d => d
  | n + 1, d => match d.firstQueued with
    | none => d
    | some (f, m) => match d.alloc with
      | some loc =>
        let m := { m with dest := loc, queued := 0 }
        let e := { d with moves := smSet f m d.moves }
        Dev.giveRoom n (match e.fetchSource f m with
          | some e => e
          | none => e.promoFailed f)
      | none => if d.isFull then Dev.giveRoom n (d.promoEndsWith f stTierFull) else d

/-- Whether what a promotion's source sends has all arrived: nothing is awaited from a peer. -/
def Dev.sourceHere (d : Dev) (f : Nat) : Bool :=
  ! d.fabOut.any (fun o => o.owner == .promote f || o.owner == .rebuild f)

/-- The content that a promotion decodes for a frame, where the whole of it can be read now. `extra` is what a host page
sent. -/
def Dev.moveContent (d : Dev) (f : Nat) (m : Move) (e : TEntry) : Option (List Host.Cell × NSet) :=
  if e.tier = 1 then d.t1Content f e else some (m.data, m.pois)

/-- Let one sub-block land (R73 step 4). -/
def Dev.land (d : Dev) (f sub : Nat) (m : Move) (content : List Host.Cell × NSet) : Dev :=
  let d := d.fillSub f sub content.1 content.2
  { d with moves := smSet f { m with landed := m.landed ||| 2 ^ sub } d.moves }

/-- The sub-blocks that a host page's DMA sent. -/
def subCells (sub : Nat) (data : List Byte) : List Host.Cell :=
  (bytesCells (slice data 0 4096)).map (fun c => (4096 * sub + c.1, c.2))

/-- PROMOTION_SUBBLOCK_LAND (R22, R73): reads that wait on the sub-block are released. -/
def Dev.subLands (d : Dev) (f sub : Nat) (data : List Byte) : Dev :=
  match smGet? f d.moves, smGet? f d.tmap with
  | some m, some e =>
    if m.kind ≠ .promote || m.queued ≠ 0 || e.psn || sub ≥ 16 || bit m.landed sub || ! d.sourceHere f then d
    else
      let content := if m.destTier = 3 then some (subCells sub data, []) else d.moveContent f m e
      match content with
      | none => d.promoFailed f
      | some c => (d.land f sub m c).wake (fun w => w == .subBlock f sub)
  | _, _ => d

/-- PROMOTION_SUBBLOCK_LAND (R22). -/
def execPromotionSubblockLand (frame sub : Nat) (data : List Byte) (s : State) : Host.Outcome State Fault Refusal :=
  s.onDev (fun d => d.subLands frame sub data)

/-- Let every sub-block land that has not yet. -/
def Dev.landRest (d : Dev) (f : Nat) (m : Move) (c : List Host.Cell × NSet) : Dev :=
  (List.range 16).foldl (fun d j => if bit m.landed j then d else d.fillSub f j c.1 c.2) d

/-- Give back what held a promoted frame at its peer or host: the grant's frame, or the host page (R58, R73). -/
def Dev.freeSource (d : Dev) (e : TEntry) (m : Move) : Dev :=
  if e.tier = 2 then { d with remotes := smErase e.loc d.remotes }.freeGrant m.destRemote.addr
  else if e.tier = 3 then
    { d with remotes := smErase e.loc d.remotes }.ringGive (pRing m.under) (pRingLog m.under) m.destRemote.addr
  else d

/-- The entry of a frame that has been promoted (R73 step 5); from a cask under EVACUATE it counts as written (R336). -/
def promotedEntry (e : TEntry) (loc : Nat) (evac : Bool) : TEntry :=
  { e with tier := 0, loc := loc, dirty := evac, t1c := e.tier == 1 && ! evac, mov := false, zero := false }

/-- Try the promotions that were asked for and wait for a mover or a pool frame. While the map is not in use they go on waiting (R86). -/
def Dev.tryWanted (d : Dev) : Dev :=
  if ! d.mapOn then d
  else d.wantPromo.foldl (fun d f => match d.entry f with
    | none => { d with wantPromo := nsDel f d.wantPromo }
    | some e =>
      if e.tier = 0 then { d with wantPromo := nsDel f d.wantPromo }
      else match d.beginPromo f e false with
        | (.noRoom, d) => d
        | (_, d) => { d with wantPromo := nsDel f d.wantPromo }) d

/-- PROMOTION_COMPLETE (R73 steps 5 and 6): the entry is written, the mover and the buffer are freed, and what waits on the
frame goes on. A promotion whose source has become unreadable fails (R75). -/
def Dev.promoEnds (d : Dev) (f : Nat) : Dev :=
  match smGet? f d.moves, smGet? f d.tmap with
  | some m, some e =>
    if m.kind ≠ .promote || m.queued ≠ 0 || e.psn || ! d.sourceHere f || (m.destTier == 3 && m.landed != 65535) then d
    else match d.moveContent f m e with
      | none => d.promoFailed f
      | some c =>
        let d := if m.destTier = 3 then d else d.landRest f m c
        let d := d.kilnEvent f e
        let evac := e.tier == 1 && (d.slot e.cslot).busy == 2
        let d := (d.setEntry f (promotedEntry e m.dest evac)).freeSource e m
        let d := { d with moves := smErase f d.moves, promoWait := d.promoWait.filter (fun p => p.1 != f) }
        (d.giveOwed.wake (fun w => onMove f w || w == .frameRoom)).tryWanted
  | _, _ => d

/-- PROMOTION_COMPLETE (R73). -/
def execPromotionComplete (frame : Nat) (s : State) : Host.Outcome State Fault Refusal := s.onDev (fun d => d.promoEnds frame)

/-- OPEN_RECORD_DURABLE (R77, R83): the record goes to the cask that can take it, and writes of the frame proceed. -/
def Dev.openDurable (d : Dev) (f : Nat) : Dev :=
  match smGet? f d.openPend, smGet? f d.tmap with
  | some v, some e => match (if v = openLost then none else d.openSlot e.cslot) with
    | none => d
    | some n =>
      let d := d.appendRec n (frameRec 4 f (d.precOf e) e)
      Dev.wake { d with openPend := smErase f d.openPend } (fun w => w == WaitOn.openRecord f)
  | _, _ => d

/-- OPEN_RECORD_DURABLE (R83). -/
def execOpenRecordDurable (frame : Nat) (s : State) : Host.Outcome State Fault Refusal := s.onDev (fun d => d.openDurable frame)

/-! Demotions (R72, R74, R101). -/

/-- Whether a write waits for an OPEN record that no cask can take (R83). -/
def Dev.openStuck (d : Dev) : Option Nat :=
  d.waiting.findSome? (fun w => match w.on with
    | .openRecord f => match smGet? f d.tmap with
      | some e => if (d.openSlot e.cslot).isNone then some f else none
      | none => none
    | _ => none)

/-- R83: one event for each 1-second window in which a write waits for an OPEN record that no cask can take. -/
def Dev.openEvents (d : Dev) : Dev :=
  match d.openStuck with
  | some f => d.eventSecond .openWait 0 [.frames f f]
  | none => d

/-- The tracked lines of a stack frame. -/
def Dev.linesOfLoc (d : Dev) (loc : Nat) : List Nat := (smKeys d.dir).filter (fun pl => pl / 1024 == loc)

/-- Back-invalidate every tracked line of a frame that no back-invalidate is out for (R101). -/
def Dev.clearLines (d : Dev) (f loc : Nat) : Dev :=
  (d.linesOfLoc loc).foldl (fun d pl =>
    let off := 65536 * f + 64 * (pl % 1024)
    let d := d.settleLine pl off
    match smGet? pl d.dir with
    | none => d
    | some e => if e.bi.isSome || e.st = .none then d else d.callBack pl off e (d.sharers e off)) d

/-- End the back-invalidates that no host is left to answer. -/
def Dev.endEmptyBi (d : Dev) (loc : Nat) : Dev :=
  (d.linesOfLoc loc).foldl (fun d pl => match smGet? pl d.dir with
    | none => d
    | some e => match e.bi with
      | some b => if b.await.isEmpty then d.biFinish pl e else d
      | none => d) d

/-- The tracked lines of a T0 frame: one lost in a rebuild has no stack frame. -/
def Dev.frameLines (d : Dev) (e : TEntry) : List Nat := if e.psn then [] else d.linesOfLoc e.loc

/-- Back-invalidate every tracked line of a T0 frame, where it has a stack frame (R74 step 2). -/
def Dev.callLines (d : Dev) (f : Nat) (e : TEntry) : Dev := if e.psn then d else (d.clearLines f e.loc).endEmptyBi e.loc

/-- Start the demotion of a frame (R74 steps 1 and 2); nothing where it has no destination. -/
def Dev.beginDemotion (d : Dev) (f : Nat) (e : TEntry) : Dev :=
  let r := d.precOf e
  if ! d.moverFree then d
  else match d.destination f r with
    | none => d
    | some (t, slot) =>
      let start (d : Dev) (k : Nat) (rem : Remote) : Dev :=
        let m : Move := ⟨.demote, e.loc, k, 0, false, t, slot, rem, false, e.prec, r, 0, [], []⟩
        let d := { (d.modEntry f (fun e => { e with mov := true })) with
          moves := smSet f m d.moves, victimStart := (f + 1) % 2 ^ 32, wantDemote := nsDel f d.wantDemote }
        d.callLines f e
      if t = 1 then start d 0 ⟨0, 0⟩
      else if t = 2 then match d.grantBy (pGrant r) with
        | none => d
        | some (i, g) => match g.freeFrame with
          | none => d
          | some k => start { d with grants := smSet i { g with used := nsAdd k g.used } d.grants } k
              ⟨bits g.word0 59 0 + 65536 * k, if pEgroup r = 0 then 0 else 1⟩
      else match d.unitRun (takeRing (pRing r) (pRingLog r)) with
        | (some (some page), d) => start d 0 ⟨page, 2⟩
        | (_, d) => d

/-- The demotions in progress. -/
def Dev.demotions (d : Dev) : Nat := (d.moves.filter (fun p => p.2.kind == .demote)).length

/-- Start demotions of victims until the frames free and coming free reach HIGH (R72). -/
def Dev.evict : Nat → Dev → Dev
  | 0, d => d
  | n + 1, d =>
    if ! d.moverFree || decide (d.poolFree + d.demotions ≥ max 1 d.waterHigh) then d
    else match d.victim with
      | none => d
      | some f => match smGet? f d.tmap with
        | none => d
        | some e => Dev.evict n (d.beginDemotion f e)

/-- Start the demotions that PLACE asked for. While the map is not in use they go on waiting (R86). -/
def Dev.tryDemotes (d : Dev) : Dev :=
  if ! d.mapOn then d
  else d.wantDemote.foldl (fun d f => match d.entry f with
    | none => { d with wantDemote := nsDel f d.wantDemote }
    | some e => if d.canDemote f e then d.beginDemotion f e else { d with wantDemote := nsDel f d.wantDemote }) d

/-- DEMOTION_START (R72): below LOW demotions begin, and go on until HIGH is reached. A LOW of no frame acts as one. -/
def Dev.startDemotions (d : Dev) : Dev :=
  if ! d.mapOn || d.power.st ≠ .run then d
  else
    let free := d.poolFree
    let on := if free ≥ max 1 d.waterHigh then false else d.evicting || decide (free < max 1 d.waterLow)
    let d := ({ d with evicting := on }).tryDemotes
    if on then Dev.evict 64 d else d

/-- DEMOTION_START (R72). -/
def execDemotionStart (s : State) : Host.Outcome State Fault Refusal := s.onDev (fun d => d.startDemotions)

/-- The lines of a frame for a write to its place at a peer: runs of up to 32 wholly good lines, and the two halves of a
line with poison. -/
def demoteRuns (pois : NSet) : List (Nat × Nat × Bool) :=
  (List.range 1024).foldr (fun i acc =>
    let bad := pois.contains (2 * i) || pois.contains (2 * i + 1)
    if bad then (i, 1, true) :: acc
    else match acc with
      | (j, n, false) :: rest => if j = i + 1 ∧ n < 32 then (i, n + 1, false) :: rest else (i, 1, false) :: acc
      | _ => (i, 1, false) :: acc) []

/-- Write a frame's content to its place at a peer. -/
def Dev.copyOut (d : Dev) (f addr : Nat) (data : List Host.Cell) (pois : NSet) (owner : ReqFor) : Dev :=
  let node := addr / 2 ^ 48
  (demoteRuns pois).foldl (fun d (i, n, bad) =>
    let at_ := addr + 64 * i
    let bs := cellBytes data (64 * i) (64 * n)
    if ! bad then d.writeOut node (sidxMover f) 3 (leBytes 8 at_ ++ leBytes 1 n ++ List.replicate 7 0 ++ bs) true false owner
    else
      [0, 1].foldl (fun d c =>
        d.writeOut node (sidxMover f) 2 (leBytes 8 at_ ++ leBytes 8 (rangeMask (32 * c) (32 * c + 32)).toNat ++ bs) true
          (pois.contains (2 * i + c)) owner) d) d

/-- Write a frame to its place at a peer (R74 step 5). -/
def Dev.sendFrame (d : Dev) (f addr : Nat) : Dev := d.copyOut f addr (d.frameData f) (d.framePois f) (.demote f)

/-- A DATA record of a frame encoded without loss (R77, R78). -/
def plainRec (f : Nat) (r : Line) (e : TEntry) (data : List Host.Cell) (pois : NSet) : CaskRec :=
  let sub := plainSubs (pSrcFmt r) data pois
  { frameRec 1 f r e with encLen := 65536, sub := sub, data := plainStream (pSrcFmt r) sub data, pois := pois, stored := 64 + subBytes sub }

/-- A DATA record of a frame encoded with loss (R80, R81); none where it cannot be encoded so (R160). -/
def lossyRec (f : Nat) (r : Line) (e : TEntry) (data : List Host.Cell) (pois : NSet) : Option CaskRec :=
  (lossyStream (pSrcFmt r) (pLossyFmt r) data pois).map (fun x =>
    let sub := lossySubs (pLossyFmt r) x.1 x.2
    { frameRec 1 f r e with
      encFmt := pLossyFmt r, lossy := true, encLen := x.1.length, sub := sub, data := bytesCells x.1, pois := x.2, stored := 64 + subBytes sub })

/-- A record whose sub-blocks are all METHOD 0 is stored as a ZERO record (R78): the record, ZERO and LOSSY. -/
def zeroed (f : Nat) (r : Line) (e : TEntry) (c : CaskRec) : CaskRec × Bool × Bool :=
  if c.sub.all (fun v => subMethod v == 0) then ({ frameRec 2 f r e with lossy := c.lossy }, true, c.lossy) else (c, false, c.lossy)

/-- The record that a demotion to T1 writes, and what the entry becomes (R77 to R81): a REUSE record where the cask's copy still holds,
a ZERO record for a frame of zeros, and otherwise a DATA record, lossy where the record allows it and the content can be encoded so. -/
def Dev.t1Record (d : Dev) (f : Nat) (e : TEntry) (m : Move) : CaskRec × Bool × Bool :=
  let r := m.under
  let data := d.frameData f
  let pois := d.framePois f
  let content := match (d.slot m.destSlot).cask with
    | some c => contentRec c.recs f ownerId
    | none => none
  let changed := ! e.t1c || e.dirty
  match (if ! changed && e.cslot == m.destSlot then content else none) with
  | some c => if c.kind = 2 then (frameRec 2 f r e, true, e.lossy) else ({ frameRec 5 f r e with reuse := c.seq }, false, e.lossy)
  | none =>
    let lossy := pLossy r && changed
    if data.isEmpty && pois.isEmpty then ({ frameRec 2 f r e with lossy := e.lossy || lossy }, true, e.lossy || lossy)
    else match (if lossy then lossyRec f r e data pois else none) with
      | some c => zeroed f r e c
      | none => zeroed f r e (plainRec f r e data pois)

/-- Steps 6 and 7 of R74: the entry names the destination, the stack frame is free, and what waits for one goes on. A frame
whose new record does not allow the tier is promoted again (R75). -/
def Dev.demoted (d : Dev) (f : Nat) (e : TEntry) : Dev :=
  let d := { (d.clearFrame f).setEntry f { e with mov := false, dirty := false, t1c := false, psn := false } with moves := smErase f d.moves }
  let d := if pTier (d.precOf e) e.tier then d else { d with wantPromo := nsAdd f d.wantPromo }
  let d := (Dev.giveRoom 64 d).wake (fun w => w == .frameRoom)
  let d := d.tryWanted.tryDemotes
  if d.poolFree ≥ max 1 d.waterHigh then { d with evicting := false } else d

/-- The lowest free index of the remote-placement table, which has 16,777,216 records (R65); a demotion to a peer or a host has one left
for it. -/
def Dev.freeRemote (d : Dev) : Nat :=
  ((List.range (d.remotes.length + 1)).find? (fun i => (smGet? i d.remotes).isNone)).getD 0

/-- Commit a demotion to T2 or T3: the REMOTE record, the remote-placement record and the entry. -/
def Dev.remoteCommit (d : Dev) (f : Nat) (e : TEntry) (m : Move) : Dev :=
  let i := d.freeRemote
  let d := { d with remotes := smSet i m.destRemote d.remotes }
  let d := d.appendRec m.destSlot { frameRec 3 f m.under e with remote := m.destRemote }
  d.demoted f { e with tier := m.destTier, cslot := m.destSlot, loc := i, zero := false }

/-- DEMOTION_COMMIT (R74, R75): with tracked lines left it asks for them again; with its destination gone it is abandoned. -/
def Dev.commitDemotion (d : Dev) (f : Nat) : Dev :=
  match smGet? f d.moves, smGet? f d.tmap with
  | some m, some e =>
    if m.kind ≠ .demote then d
    else
      let s := d.slot m.destSlot
      let ok := if m.destTier = 1 then s.canTake else s.takesRemote
      if ! ok then d.abandonDemotion f
      else if ! (d.frameLines e).isEmpty then d.callLines f e
      else if d.parity.any (fun p => p.frame == f && p.durable) then d
      else if m.destTier = 1 then
        let (r, zero, lossy) := d.t1Record f e m
        (d.appendRec m.destSlot r).demoted f { e with tier := 1, cslot := m.destSlot, loc := 0, zero := zero, lossy := lossy }
      else if m.destTier = 2 then
        if m.landed = 0 then
          match d.issueStatus (m.destRemote.addr / 2 ^ 48) with
          | some _ => d.abandonDemotion f
          | none => { d with moves := smSet f { m with landed := 1 } d.moves }.sendFrame f m.destRemote.addr
        else if d.fabOut.any (fun o => o.owner == .demote f) then d
        else d.remoteCommit f e m
      else
        let fn := pFunc m.under
        if ! d.enabledFns.contains fn then d.abandonDemotion f
        else (d.send (.dmaWrite fn m.destRemote.addr (cellBytes (d.frameData f) 0 65536))).remoteCommit f e m
  | _, _ => d

/-- DEMOTION_COMMIT (R74). -/
def execDemotionCommit (frame : Nat) (s : State) : Host.Outcome State Fault Refusal := s.onDev (fun d => d.commitDemotion frame)

/-! Relocations (R73, R95, R350). -/

/-- Start the relocation of a T0 frame to a pool frame in another channel, in the same stack where it has one; none without
room. -/
def Dev.beginRelocation (d : Dev) (f : Nat) (e : TEntry) : Option Dev :=
  if ! d.moverFree || d.poolFree = 0 then none
  else match (match d.allocIn (locStack e.loc) with | some l => some l | none => d.alloc) with
    | none => none
    | some loc =>
      let m : Move := ⟨.relocate, e.loc, loc, 0, false, 0, 0, ⟨0, 0⟩, false, e.prec, d.precOf e, 0, [], []⟩
      let d := { (d.modEntry f (fun e => { e with mov := true })) with moves := smSet f m d.moves }
      some ((d.clearLines f e.loc).endEmptyBi e.loc)

/-- RELOCATION_COMMIT (R73, R101, R350): once no host holds a line of the frame, its watched lines are freed, the entry
names the new stack frame, and the blocks re-arm their lines there and read them once. -/
def Dev.relocated (d : Dev) (f : Nat) : Dev :=
  match smGet? f d.moves, smGet? f d.tmap with
  | some m, some e =>
    if m.kind ≠ .relocate then d
    else
      let held := (d.linesOfLoc e.loc).filter (fun pl => match smGet? pl d.dir with
        | some x => x.st != .none || x.bi.isSome
        | none => false)
      if ! held.isEmpty then (d.clearLines f e.loc).endEmptyBi e.loc
      else
        let watched := (d.linesOfLoc e.loc).flatMap (fun pl => (d.watchers pl).map (fun a => (a, 65536 * f + 64 * (pl % 1024))))
        let d := { (d.dropLoc e.loc) with moves := smErase f d.moves }
        let d := d.setEntry f { e with loc := m.dest, mov := false }
        let d := watched.foldl (fun d (a, off) => d.submit (.arm a off)) d
        ((d.wake (fun w => onMove f w || w == .frameRoom)).tryWanted).tryDemotes
  | _, _ => d

/-- RELOCATION_COMMIT (R73). -/
def execRelocationCommit (frame : Nat) (s : State) : Host.Outcome State Fault Refusal := s.onDev (fun d => d.relocated frame)

/-! Age windows (R71). -/

/-- AGE_WINDOW_BOUNDARY (R71): the next window's number and length, and every 64 windows the limit on LAST. TIER_AGE.MS is given from 1
to 60,000 and 0 acts as 1: a larger value acts as 60,000 (DESIGN CHOICE, log entry 175). -/
def Dev.nextWindow (d : Dev) : Dev :=
  let w := (d.ageWindow + 1) % 256
  { d with
    ageWindow := w
    ageMs := max 1 (min 60000 (d.rf 0x7004 15 0))
    demand := d.demand.filter (fun p => decide (ringSub 256 w p.2 ≤ 1))
    tmap := if w % 64 = 0 then
        d.tmap.map (fun p => if d.age p.2 ≥ 192 then (p.1, { p.2 with last := ringSub 256 w 192 }) else p)
      else d.tmap }

/-- AGE_WINDOW_BOUNDARY (R71). -/
def execAgeWindowBoundary (s : State) : Host.Outcome State Fault Refusal := s.onDev (fun d => d.nextWindow)

end Sys2Proof.Machine
end

