-- ==== Sys2Proof/Machine/TierMap.lean ====
section
/-! DEFINITION. The tier map's own commands: its copies and their loss, the rebuild of a leaf from the cask headers, root
entries, TIER_MAP_CFG and the pin quotas (R64, R66, R70, R82, R86, R367, R424). -/

namespace Sys2Proof.Machine

open Sys2Proof

/-! Copies of leaves (R64, R82). -/

/-- The stack that holds copy `c` of a leaf; none where the copy is lost. -/
def Dev.leafStack (d : Dev) (leaf c : Nat) : Option Nat :=
  match smGet? (2 * leaf + c) d.leafAt with
  | some 0 => none
  | some (st + 1) => some st
  | none => some ((leaf + (if c = 0 then 0 else d.stacks / 2)) % d.stacks)

/-- The populated leaf slots. -/
def Dev.leafSlots (d : Dev) : List Nat := d.roots.map (·.2)

/-- TIER_STATUS.MAP_DEGRADED. -/
def Dev.mapDegraded (d : Dev) : Bool :=
  d.leafSlots.any (fun l => ! d.lostLeaves.contains l && ((d.leafStack l 0).isNone || (d.leafStack l 1).isNone))

/-- Steps 1 and 3 of R82 for one stack: its copies are lost; a leaf without any copy is lost. -/
def Dev.loseCopies (d : Dev) (st : Nat) : Dev :=
  let hit := d.leafSlots.filter (fun l => d.leafStack l 0 == some st || d.leafStack l 1 == some st)
  let d := hit.foldl (fun d l =>
    let c := if d.leafStack l 0 = some st then 0 else 1
    let d := { d with leafAt := smSet (2 * l + c) 0 d.leafAt }
    if (d.leafStack l (1 - c)).isNone then { d with lostLeaves := nsAdd l d.lostLeaves } else d) d
  if hit.isEmpty then d else d.event .mapDegraded [.count hit.length]

/-- TIER_MAP_COPY_LOSS (R82). The copies into spare slots are made as time passes. -/
def execTierMapCopyLoss (stack : Nat) (s : State) : Host.Outcome State Fault Refusal :=
  s.onDev (fun d => if stack < d.stacks then d.loseCopies stack else d)

/-- The spare leaf slots of a stack that hold no copy. -/
def Dev.sparesIn (d : Dev) (st : Nat) : Nat :=
  residues (ceilDiv (2 * d.leaves) d.stacks) st d.stacks
  - (d.leafSlots.flatMap (fun l => [2 * l, 2 * l + 1])).countP (fun k => smGet? k d.leafAt == some (st + 1))

/-- Step 2 of R82 for every affected leaf: its surviving copy is copied into a spare slot of a stack that holds no other
copy of it; without one the leaf stays on one copy. -/
def Dev.mendLeaves (d : Dev) : Dev :=
  d.leafSlots.foldl (fun d l =>
    if d.lostLeaves.contains l then d
    else
      let lost := [0, 1].filter (fun c => (d.leafStack l c).isNone)
      lost.foldl (fun d c =>
        match (List.range d.stacks).find? (fun st => decide (d.sparesIn st > 0) && d.leafStack l (1 - c) != some st) with
        | some st => { d with leafAt := smSet (2 * l + c) (st + 1) d.leafAt }
        | none => d) d) d

/-! Entries from the header logs (R82 steps 4 and 5, R367, R424). -/

/-- Whether a slot's header log is read: its cask is installed, serves and is not FOREIGN. -/
def SlotSt.logged (s : SlotSt) : Bool := s.readable

/-- Whether a bound cask is still loading: a rebuild waits for its header log (R337). -/
def Dev.casksLoad (d : Dev) : Bool := (List.range 4).any (fun n => (d.slot n).loading)

/-- The latest record of a frame over every installed cask, with the slot it lies in. -/
def Dev.latest (d : Dev) (f : Nat) : Option (Nat × CaskRec) :=
  (List.range 4).foldl (fun b n =>
    let s := d.slot n
    match (if s.logged then s.cask.bind (fun c => latestRec c.recs f ownerId) else none), b with
    | some r, some (_, x) => if r.seq > x.seq then some (n, r) else b
    | some r, none => some (n, r)
    | none, _ => b) none

/-- A PSN entry (R82). -/
def psnEntry (prec last : Nat) (pin lossy : Bool) : TEntry := ⟨0, pin, false, false, lossy, false, false, 0, true, prec, last, 0⟩

/-- Write a frame's entry from its latest record; nothing where it has none (R82 step 5, R424). The rule does not state LAST, and PIN is no
field of a record: LAST is the current window, and PIN follows the record's placement record without a promotion (DESIGN CHOICE, log
entry 176). -/
def Dev.entryFromLog (d : Dev) (f : Nat) : Dev :=
  match d.latest f with
  | none => d
  | some (n, r) =>
    let pin := pPin (d.prec r.prec)
    let e : TEntry := ⟨1, pin, false, false, r.lossy, r.kind == 2, false, n, false, r.prec, d.ageWindow, 0⟩
    if r.kind = 4 then (d.clearFrame f).setEntry f (psnEntry r.prec d.ageWindow pin r.lossy)
    else if r.kind = 3 then
      let i := d.freeRemote
      { d with remotes := smSet i r.remote d.remotes }.setEntry f { e with tier := if r.remote.kind = 2 then 3 else 2, loc := i }
    else d.setEntry f e

/-- The frames of a root that a cask's log names. -/
def Dev.loggedFrames (d : Dev) (root : Nat) : NSet :=
  (List.range 4).foldl (fun a n =>
    let s := d.slot n
    match (if s.logged then s.cask else none) with
    | some c => c.recs.foldl (fun a r => if r.owner = ownerId ∧ r.frame / 65536 = root then nsAdd r.frame a else a) a
    | none => a) []

/-- Build the leaf of a newly populated root (R424): frames without a record have no entry. -/
def Dev.buildLeaf (d : Dev) (root : Nat) : Dev := (d.loggedFrames root).foldl (fun d f => d.entryFromLog f) d

/-- Write the entries of a lost leaf (R82 step 5): every one of its 65,536 frames that no record names becomes PSN, with PREC 0 (DESIGN
CHOICE, log entry 176). -/
def Dev.leafFromLog (d : Dev) (root : Nat) : Dev :=
  let lo := 65536 * root
  let blank := (List.range 65536).map (fun i => (lo + i, psnEntry 0 d.ageWindow false false))
  let d := { d with tmap := d.tmap.filter (fun (p : Nat × TEntry) => decide (p.1 < lo)) ++ blank
    ++ d.tmap.filter (fun (p : Nat × TEntry) => decide (lo + 65536 ≤ p.1)) }
  d.buildLeaf root

/-- LEAF_BUILD_DONE (R424). -/
def execLeafBuildDone (root : Nat) (s : State) : Host.Outcome State Fault Refusal :=
  s.onDev (fun d =>
    if ! d.rootBusy.contains root || d.casksLoad then d
    else Dev.wake { (d.buildLeaf root) with rootBusy := nsDel root d.rootBusy } (fun w => w == WaitOn.root root))

/-! The rebuild of a lost leaf (R82 steps 4 to 7). -/

/-- Start the rebuild of a PSN frame from its erasure group, where it has one (R82 step 6). Without a free mover or pool frame the rebuild
waits; where none can come free, or a survivor cannot be asked, the frame keeps PSN. -/
def Dev.beginRebuild (d : Dev) (f : Nat) : Dev :=
  let gone : Dev := { d with wantRebuild := nsDel f d.wantRebuild }
  let waits : Dev := { d with wantRebuild := nsAdd f d.wantRebuild }
  if (smGet? f d.moves).isSome || (d.extAt f).isNone || (d.egOf f).isNone || ! d.psnAt f then gone
  else if ! d.moverFree then waits
  else match d.alloc with
    | none => if d.isFull then gone else waits
    | some loc => match gone.rebuildReads f with
      | none => gone
      | some d =>
        let m : Move := ⟨.promote, 0, loc, 0, false, 0, 0, ⟨0, 0⟩, false, 0, rec0, 0, [], []⟩
        { d with moves := smSet f m d.moves }

/-- Start the rebuilds that wait. -/
def Dev.startRebuilds (d : Dev) : Dev := d.wantRebuild.foldl (fun d f => d.beginRebuild f) d

/-- End the rebuild of a PSN frame whose survivors have all been read: it loses PSN. -/
def Dev.endRebuild (d : Dev) (f : Nat) : Dev :=
  match smGet? f d.moves, smGet? f d.tmap with
  | some m, some e =>
    if ! e.psn || m.kind != .promote || d.fabOut.any (fun o => o.owner == .rebuild f) then d
    else { (d.fillFrame f m.data m.pois).setEntry f { e with psn := false, loc := m.dest, last := d.ageWindow } with
      moves := smErase f d.moves }
  | _, _ => d

/-- Give up the rebuild of a frame: it keeps PSN. -/
def Dev.dropRebuild (d : Dev) (f : Nat) : Dev :=
  match smGet? f d.tmap with
  | some e => if e.psn then
      { d with moves := smErase f d.moves, fabOut := d.fabOut.filter (fun o => o.owner != .rebuild f) } else d
  | none => d

/-- The frames of a root that have an entry. -/
def Dev.rootFrames (d : Dev) (root : Nat) : List Nat := smKeys (smRange (65536 * root) (65536 * root + 65536) d.tmap)

/-- Steps 4 to 6: what hosts hold of the lost frames is called back first; then every entry is written from the logs, the
stack frames are free, and the rebuilds of protected frames start. -/
def Dev.rewriteLeaf (d : Dev) (leaf root : Nat) : Dev :=
  let fs := d.rootFrames root
  let locs := fs.filterMap (fun f => match smGet? f d.tmap with
    | some e => if e.tier = 0 ∧ ! e.psn then some (f, e.loc) else none
    | none => none)
  let d := locs.foldl (fun d x => (d.clearLines x.1 x.2).endEmptyBi x.2) d
  let left := locs.any (fun x => (d.linesOfLoc x.2).any (fun pl => match smGet? pl d.dir with
    | some e => e.st != .none || e.bi.isSome
    | none => false))
  if left then d
  else
    let armed := locs.flatMap (fun x => (d.linesOfLoc x.2).flatMap d.watchers)
    let d := locs.foldl (fun d x => d.dropLoc x.2) d
    let d := armed.foldl (fun d a => d.raise a) d
    let d := fs.foldl (fun d f => { (d.clearFrame f) with
      remotes := match smGet? f d.tmap with | some e => if e.tier ≥ 2 then smErase e.loc d.remotes else d.remotes | none => d.remotes
      moves := smErase f d.moves, openPend := smErase f d.openPend }) d
    let d := d.leafFromLog root
    let d := { d with leafAt := smErase (2 * leaf) (smErase (2 * leaf + 1) d.leafAt), leafWritten := nsAdd leaf d.leafWritten }
    (d.rootFrames root).foldl (fun d f => match smGet? f d.tmap with
      | some e => if e.psn then d.beginRebuild f else d
      | none => d) d

/-- Step 7: the leaf is in use again, and the accesses that waited go on. -/
def Dev.finishLeaf (d : Dev) (leaf root : Nat) : Dev :=
  let fs := d.rootFrames root
  let psn := (fs.filter (fun f => match smGet? f d.tmap with | some e => e.psn | none => false)).length
  let d := { d with lostLeaves := nsDel leaf d.lostLeaves, leafWritten := nsDel leaf d.leafWritten }
  (d.event .leafLost [.frames (65536 * root) (65536 * root + 65535), .count psn]).wake (fun w => w == .rebuild)

/-- TIER_MAP_REBUILD (R82): once for the entries, and again for the end once the rebuilds it started have ended. -/
def execTierMapRebuild (leaf : Nat) (s : State) : Host.Outcome State Fault Refusal :=
  s.onDev (fun d => match d.roots.find? (fun p => p.2 == leaf) with
    | none => d
    | some (root, _) =>
      if ! d.lostLeaves.contains leaf || d.casksLoad then d
      else
        let d := if d.leafWritten.contains leaf then d else d.rewriteLeaf leaf root
        if ! d.leafWritten.contains leaf then d
        else if (d.rootFrames root).any (fun f => d.fabOut.any (fun o => o.owner == .rebuild f))
            || d.wantRebuild.any (fun f => f / 65536 == root) then d
        else d.finishLeaf leaf root)

/-! Registers (R70, R86, R424). -/

/-- SEC_LOCK.TIER (R381). -/
def lockTier : Nat := 1

/-- The effect of a write of TIER_MAP_CFG (R86): LEAVES is fixed at the first EN = 1. -/
def Dev.writeMapCfg (d : Dev) (v : Nat) : Dev :=
  let v := if d.mapLaid then setBits v 17 1 d.leaves else v
  let was := d.mapOn
  let d := d.setReg 0x7000 (bits v 17 0)
  if was || ! d.mapOn then d
  else if d.mapLaid then { d with rootBusy := d.rootNew.foldl (fun a r => nsAdd r a) d.rootBusy, rootNew := [] }
  else { d with mapLaid := true, rootBusy := (smKeys d.roots).foldl (fun a r => nsAdd r a) [], rootNew := [] }

/-- TIER_MAP_ENABLE (R86, R367). -/
def execTierMapEnable (path : Path) (value : Nat) (s : State) : Host.Outcome State Fault Refusal :=
  .next (s.onPath path none false false 0x7000 (.tierMapEnable path value) (fun s =>
    if bit s.lock lockTier then s else { s with dev := s.dev.writeMapCfg value }))

/-- The effect of a write of a root entry (R424). -/
def Dev.writeRoot (d : Dev) (root v : Nat) : Dev :=
  let d := if bit v 62 then d.setReg 0x7028 0 else d
  let leaf := bits v 16 1
  let refuse : Dev := d.setReg 0x7028 (2 ^ 62)
  match bit v 0, smGet? root d.roots with
  | true, some l => if l = leaf then d else refuse
  | false, none => d
  | true, none =>
    if leaf < d.leaves ∧ ! d.leafSlots.contains leaf ∧ d.rootBusy.isEmpty then
      let d := { d with roots := smSet root leaf d.roots, leafAt := smErase (2 * leaf) (smErase (2 * leaf + 1) d.leafAt) }
      if d.mapOn then { d with rootBusy := nsAdd root d.rootBusy } else { d with rootNew := nsAdd root d.rootNew }
    else refuse
  | false, some _ =>
    if (d.rootFrames root).isEmpty ∧ d.rootBusy.isEmpty then
      { d with roots := smErase root d.roots, rootNew := nsDel root d.rootNew }
    else refuse

/-- TIER_ROOT_WRITE (R424). -/
def execTierRootWrite (path : Path) (value : Nat) (s : State) : Host.Outcome State Fault Refusal :=
  .next (s.onPathDev path none false false 0x7028 (.tierRootWrite path value) (fun d =>
    d.writeRoot (bits (d.sel path 0x7024) 15 0) value))

/-- The effect of a write of a pin quota (R70). -/
def Dev.writeQuota (d : Dev) (comp v : Nat) : Dev :=
  let q := bits v 31 0
  let others := d.quota.foldl (fun a p => if p.1 = comp then a else a + p.2) 0
  if 16 * (others + q) > 15 * d.pool then d.setRf 0x7020 3 3 1 else { d with quota := smPut 0 comp q d.quota }

/-- PIN_QUOTA_WRITE (R70). -/
def execPinQuotaWrite (path : Path) (value : Nat) (s : State) : Host.Outcome State Fault Refusal :=
  .next (s.onPathDev path none false false 0x7010 (.pinQuotaWrite path value) (fun d =>
    d.writeQuota (bits (d.sel path 0x700C) 9 0) value))

end Sys2Proof.Machine
end

