-- ==== Sys2Proof/Machine/OptRow.lean ====
section
/-! DEFINITION. OPT_STEP: hyperparameters and state, the update of one row, row locks, and the descriptor (R226, R251 to
R258). -/

namespace Sys2Proof.Machine

open Sys2Proof

/-! Ends of runs with more than one status (R137). -/

/-- Note the statuses of a run's parts. -/
def noteAll (sts : List Nat) : M Unit := do
  let c ← read
  modDev (fun d => match c.run with
    | .desc q n => sts.foldl (fun d st => d.noteStatus q n st) d
    | _ => d)

/-- End a run with every status that its parts reported. -/
def endRun (sts : List Nat) (r0 r1 : Nat) : M (Nat × Nat × Nat) := do
  noteAll sts
  return (sts.foldl worse 0, r0 % 2 ^ 64, r1 % 2 ^ 64)

/-- The statuses of a run some of whose items failed while others did not: whether a part of it had none that failed, and reports OK, lies
in how the items were spread over the parts, which is open (DESIGN CHOICE, log entry 185). -/
def mixedEnds (good : Bool) (sts : List Nat) : M (List Nat) := do
  if ! good || sts.all (· == 0) then return sts
  let v ← freeM
  return if v % 2 = 1 then 0 :: sts else sts

/-- Make the writes of a computation, or none of them where it fails. -/
def allOrNone (m : M α) : M α := do
  let s ← get
  tryCatch m (fun h => do
    modify (fun t => { t with log := s.log })
    throw h)

/-! Row locks (R226). -/

/-- The section nearest the port through which a descriptor was submitted: that of the bay it was given (R21). -/
def Dev.portSection (d : Dev) (i : DescId) : Nat := (((d.startedOf i.queue i.seq).map (·.bay)).getD 0) / 16

/-- The section that works on a row for a descriptor (R216): that of its frame, or, for a row of another node or outside T0, the one nearest
the port; the next on the ring where all its bays are fenced (R181). -/
def Dev.rowSection (d : Dev) (who : DescId) (fa : Nat) : Nat :=
  let s := ((if d.isOwn fa then d.sectionOf (faOff fa) else none).getD (d.portSection who))
  (d.openSection s).getD s

/-- The row locks that a section's table of 4,096 entries holds. -/
def Dev.locksIn (d : Dev) (sec : Nat) : List RowLock := d.rowLocks.filter (fun l => d.rowSection l.desc l.fa == sec)

/-- Wait while another descriptor holds a row's lock. -/
def waitRow (fa : Nat) : M Unit := do
  let c ← read
  let d ← getDev
  if d.rowLocks.any (fun l => l.fa == fa && l.desc != c.did) then need

/-- Wait until a row's lock can be taken: no other descriptor holds it, and other descriptors leave room in the section's table. -/
def waitLock (fa : Nat) : M Unit := do
  waitRow fa
  let c ← read
  let d ← getDev
  if ((d.locksIn (d.rowSection c.did fa)).filter (fun l => l.desc != c.did)).length ≥ 4096 then need

/-- Note a row lock that a run took. Where the section's table is full, the descriptor's own oldest update in it has ended. -/
def Dev.lockRow (d : Dev) (who : DescId) (fa : Nat) : Dev :=
  if d.rowLocks.any (fun l => l.fa == fa) then d
  else
    let here := d.locksIn (d.rowSection who fa)
    let gone := if here.length < 4096 then none else here.find? (fun l => l.desc == who)
    { d with rowLocks := (match gone with | some l => d.rowLocks.erase l | none => d.rowLocks) ++ [⟨fa, who⟩] }

/-- Note the row locks that a run took. -/
def lockRows (fas : List Nat) : M Unit := do
  let c ← read
  modDev (fun d => fas.foldl (fun d fa => d.lockRow c.did fa) d)

/-- ROW_LOCK_RELEASE (R226). -/
def Dev.unlockRow (d : Dev) (fa : Nat) : Dev := { d with rowLocks := d.rowLocks.filter (fun l => l.fa != fa) }

/-! The hyperparameter block (R253). -/

/-- The hyperparameters of a step. -/
structure OptHyp where
  lr : Val
  b1 : Val
  b2 : Val
  eps : Val
  wd : Val
  bc1 : Val
  bc2 : Val
  gscale : Val
  nesterov : Bool

/-- The hyperparameters that 64 bytes spell. -/
def optHyp (bs : List Byte) : OptHyp :=
  let v (k : Nat) : Val := v32 (fld bs k 4)
  ⟨v 0, v 4, v 8, v 12, v 16, v 20, v 24, v 28, bit (fld bs 32 4) 0⟩

/-- Zero and one in FP32. -/
def zero32 : Val := .fin false 0 0
def one32 : Val := .fin false 1 0

/-- Whether a value is a number no less than zero, and whether it lies in [0, 1). -/
def notNeg (v : Val) : Bool := v != .nan && ! v.lt zero32
def inUnit (v : Val) : Bool := notNeg v && v.lt one32

/-- Whether every hyperparameter that an algorithm uses lies in its range. -/
def hypOk (algo : Nat) (h : OptHyp) : Bool :=
  ! h.lr.special && notNeg h.lr && ! h.gscale.special && ! h.gscale.isZero && notNeg h.wd
  && (algo == 2 || zero32.lt h.eps) && (algo == 1 || inUnit h.b1) && (algo != 0 || inUnit h.b2)

/-! The state block (R254). -/

/-- The state of an optimizer. -/
structure OptState where
  w : Nat
  s1 : Nat
  s2 : Nat
  emit : Nat
  stamp : Nat
  rowsWord : Nat
  rowLen : Nat
  wfmt : Nat
  sfmt : Nat
  efmt : Nat

/-- The state block that 64 bytes spell. -/
def optState (bs : List Byte) : OptState :=
  ⟨fld bs 0 8, fld bs 8 8, fld bs 16 8, fld bs 24 8, fld bs 32 8, fld bs 40 8, fld bs 48 4, fld bs 52 1, fld bs 53 1, fld bs 54 1⟩

/-- The rows of state. -/
def OptState.rows (s : OptState) : Nat := s.rowsWord

/-- The formats that gradients and emitted weights may have. -/
def gradFmts : List Nat := [0x02, 0x08, 0x09, 0x0A, 0x0B, 0x0C, 0x0D]
def emitFmts : List Nat := [0x02, 0x01, 0x03, 0x04, 0x08, 0x09, 0x0C]

/-- The range checks of a state block: BOUNDS (R258). -/
def OptState.inRange (s : OptState) (algo : Nat) : Bool :=
  decide (1 ≤ s.rowsWord ∧ s.rowsWord < 2 ^ 40) && decide (1 ≤ s.rowLen ∧ s.rowLen ≤ 65536) && (algo != 0 || s.s2 != 0)
  && ! (isMx s.efmt && s.rowLen % 32 != 0)

/-- The format checks of a state block: FORMAT (R258). Row-wise Adagrad ignores SFMT (R254). -/
def OptState.fmtsOk (s : OptState) (algo : Nat) : Bool :=
  [0x00, 0x02].contains s.wfmt && (algo == 1 || [0x00, 0x02].contains s.sfmt) && (emitFmts.contains s.efmt || (s.emit == 0 && s.efmt == 0x1F))

/-! The update of one row (R255). -/

/-- The state of one element: w, s1 and s2. -/
structure OptElem where
  w : Val
  s1 : Val
  s2 : Val

/-- v × rsqrt(v) for a positive v, and 0 otherwise, plus ε. -/
def optDen (v eps : Val) : Val := fadd (if zero32.lt v then fmul v (frsqrt v) else zero32) eps

/-- One element under AdamW. -/
def adamw (h : OptHyp) (g : Val) (x : OptElem) : OptElem :=
  let w := fsub x.w (fmul (fmul h.lr h.wd) x.w)
  let s1 := fadd (fmul h.b1 x.s1) (fmul (fsub one32 h.b1) g)
  let s2 := fadd (fmul h.b2 x.s2) (fmul (fmul (fsub one32 h.b2) g) g)
  let den := optDen (fmul s2 h.bc2) h.eps
  ⟨fsub w (fdiv (fmul h.lr (fmul s1 h.bc1)) den), s1, s2⟩

/-- One element under row-wise Adagrad, with the row's denominator. -/
def adagrad (h : OptHyp) (den g : Val) (w : Val) : Val :=
  fsub (fsub w (fmul (fmul h.lr h.wd) w)) (fdiv (fmul h.lr g) den)

/-- The row's accumulator under Adagrad: the sum of squares is formed in element order. -/
def adagradAcc (a : Val) (gs : List Val) : Val :=
  fadd a (fdiv (gs.foldl (fun s g => fadd s (fmul g g)) zero32) (ofInt gs.length))

/-- One element under SGD with momentum. -/
def sgd (h : OptHyp) (g : Val) (x : OptElem) : OptElem :=
  let g := fadd g (fmul h.wd x.w)
  let s1 := fadd (fmul h.b1 x.s1) g
  ⟨fsub x.w (fmul h.lr (if h.nesterov then fadd g (fmul h.b1 s1) else s1)), s1, x.s2⟩

/-- A row of state: the weights, and the first and second state arrays. -/
structure OptRow where
  w : List Val
  s1 : List Val
  s2 : List Val
  deriving DecidableEq, Repr

/-- The update of one row. -/
def optRow (algo : Nat) (h : OptHyp) (gs : List Val) (r : OptRow) : OptRow :=
  if algo = 1 then
    let a := adagradAcc (r.s1.headD zero32) gs
    ⟨List.zipWith (adagrad h (optDen a h.eps)) gs r.w, [a], []⟩
  else
    let f := if algo = 0 then adamw h else sgd h
    let xs := List.zipWith (fun g x => f g x) gs
      (List.zipWith (fun w (s : Val × Val) => OptElem.mk w s.1 s.2) r.w (r.s1.zip (if algo = 0 then r.s2 else r.s1)))
    ⟨xs.map (·.w), xs.map (·.s1), if algo = 0 then xs.map (·.s2) else []⟩

/-! Rows in the store (R256). -/

/-- What the computation of a row's update gives: the FA of its weights and its new state, or why it is not updated; `spoiled` names the
status. -/
inductive RowEnd where
  | updated (fa : Nat) (x : OptRow)
  | stamped
  | nonFinite
  | spoiled (st : Nat)
  deriving DecidableEq, Repr

/-- The address and bytes of row `r` of an array of state rows. -/
def OptState.wAt (s : OptState) (r : Nat) : Nat := s.w + r * ((vecBytes s.wfmt s.rowLen).getD 0)
def OptState.sAt (s : OptState) (base r : Nat) : Nat := base + r * ((vecBytes s.sfmt s.rowLen).getD 0)

/-- Read a vector of state; none where it is poisoned. -/
def readState (fmt n at_ : Nat) : M (Option (List Val)) := do
  let (bs, ps) ← rdRawV at_ ((vecBytes fmt n).getD 0)
  return (if ps.any id then none else decVec fmt n bs)

/-- Write a vector of state. -/
def writeState (fmt at_ : Nat) (vs : List Val) : M Unit := wrV at_ ((encVec fmt vs).getD [])

/-- Steps 1 and 2 of R256 for state row `r` with the gradient `g`: the state and the stamp are read, under the row's lock, and the new state
computed. -/
def rowCompute (s : OptState) (algo : Nat) (h : OptHyp) (step r : Nat) (g : List Val) (skipnf : Bool) : M RowEnd := do
  let fa ← xlate (s.wAt r) 1
  waitLock fa
  let stamp ← if s.stamp = 0 then pure ([], []) else rdRawV (s.stamp + 4 * r) 4
  if stamp.2.any id then return .spoiled stPoison
  if s.stamp ≠ 0 && leNat stamp.1 == step then return .stamped
  if skipnf && g.any Val.special then return .nonFinite
  let w ← readState s.wfmt s.rowLen (s.wAt r)
  let s1 ← if algo = 1 then readState 0 1 (s.s1 + 4 * r) else readState s.sfmt s.rowLen (s.sAt s.s1 r)
  let s2 ← if algo = 0 then readState s.sfmt s.rowLen (s.sAt s.s2 r) else pure (some [])
  match w, s1, s2 with
  | some w, some s1, some s2 => return .updated fa (optRow algo h g ⟨w, s1, s2⟩)
  | _, _, _ => return .spoiled stPoison

/-- Steps 4 and 5 of R256: the state and the stamp of row `r` are written. -/
def rowStore (s : OptState) (algo step r : Nat) (x : OptRow) : M Unit := do
  writeState s.wfmt (s.wAt r) x.w
  if algo = 1 then writeState 0 (s.s1 + 4 * r) x.s1 else writeState s.sfmt (s.sAt s.s1 r) x.s1
  if algo = 0 then writeState s.sfmt (s.sAt s.s2 r) x.s2
  if s.stamp ≠ 0 then wrV (s.stamp + 4 * r) (leBytes 4 step)

/-! Emission (R256 step 3). -/

/-- The number under which a descriptor's `k`-th acknowledged write awaits its answer, beyond every line and every atomic. -/
def ackKey (k : Nat) : Nat := 2 ^ 65 + k

/-- Whether every piece of a range lies on this Ndonte. -/
def Dev.ownAll (d : Dev) (ps : List (Nat × Nat)) : Bool := ps.all (fun p => d.isOwn p.1)

/-- Send bytes to another node in acknowledged writes, numbered from `k` on. -/
def sendAcked (poison : Bool) : Nat → List (Nat × List Byte) → M Unit
  | _, [] => pure ()
  | k, (fa, bs) :: rest => do
    let c ← read
    let d ← getDev
    match d.issueStatus (fa / 2 ^ 48) with
    | some st => modDev (fun d => d.modStarted c.did.queue c.did.seq (fun r => { r with remote := r.remote ++ [⟨ackKey k, 0, false, st⟩] }))
    | none =>
      let (data, m) := runLine ⟨fa, bs, poison⟩
      noteAcc fa true false poison
      modDev (fun d => d.writeOut (fa / 2 ^ 48) c.sidx 2 (leBytes 8 (64 * (fa / 64)) ++ leBytes 8 m.toNat ++ lineBytes data) true poison
        (.desc c.did (ackKey k)))
    sendAcked poison (k + 1) rest

/-- The pieces of a byte string by line, over translated pieces of it. -/
def lineParts : List (Nat × Nat) → List Byte → List (Nat × List Byte)
  | [], _ => []
  | (fa, k) :: rs, bs => lineRuns (k / 64 + 2) fa (bs.take k) ++ lineParts rs (bs.drop k)

/-- What has become of `n` acknowledged writes of a run: the lowest status that one of them failed with, 0 where none did; none while some
await their answer. -/
def ackedAll (n : Nat) : M (Option Nat) := do
  let c ← read
  let d ← getDev
  let got := (d.remoteOf c).filter (fun r => decide (ackKey 0 ≤ r.line))
  return if got.length < n then none else some (got.foldl (fun a r => worse a r.status) 0)

/-! The rows of a step (R256 to R258). -/

/-- What has become of the rows so far: the rows taken, those updated, skipped by stamp and under SKIPNF, and the statuses. -/
structure OptTally where
  taken : Nat
  upd : Nat
  stamped : Nat
  nonFin : Nat
  sts : List Nat

/-- Count one row. -/
def OptTally.take (t : OptTally) (e : RowEnd) : OptTally :=
  let t := { t with taken := t.taken + 1 }
  match e with
  | .updated .. => { t with upd := t.upd + 1 }
  | .stamped => { t with stamped := t.stamped + 1 }
  | .nonFinite => { t with nonFin := t.nonFin + 1 }
  | .spoiled st => { t with sts := t.sts ++ [st] }

/-- A row that fails with a status. -/
def OptTally.fails (t : OptTally) (st : Nat) : OptTally := { t with taken := t.taken + 1, sts := t.sts ++ [st] }

/-- The tally of a descriptor's rows, and the new state of the row whose emission awaits its answer, as the descriptor's notes keep them. -/
def OptTally.note (t : OptTally) (lines : Nat) (x : OptRow) : List Nat :=
  [t.taken, t.upd, t.stamped, t.nonFin, lines, x.w.length, x.s1.length] ++ (x.w ++ x.s1 ++ x.s2).map f32 ++ t.sts.map (· + 2 ^ 32)

/-- The tally that notes keep, with the number of lines awaited and the row's state. -/
def tallyOf (note : List Nat) : OptTally × Nat × OptRow :=
  let xs := ((note.drop 7).filter (· < 2 ^ 32)).map v32
  let n := nth note 5 0
  let k := nth note 6 0
  (⟨nth note 0 0, nth note 1 0, nth note 2 0, nth note 3 0, ((note.drop 7).filter (fun x => decide (2 ^ 32 ≤ x))).map (· - 2 ^ 32)⟩,
    nth note 4 0, ⟨xs.take n, (xs.drop n).take k, xs.drop (n + k)⟩)

/-- The steps of a descriptor that keeps its tally in its notes: between rows, and while a row's emission is on its way. -/
def betweenRows : Nat := 1
def emitting : Nat := 2

/-- The step and the notes that a descriptor has reached. -/
def stepOf : M (Nat × List Nat) := do
  let c ← read
  let d ← getDev
  return ((d.startedOf c.did.queue c.did.seq).map (fun r => (r.step, r.note))).getD (0, [])

/-- Set the step and the notes of a run's descriptor. -/
def setStep (step : Nat) (note : List Nat) : M Unit := do
  let c ← read
  modDev (fun d => d.modStarted c.did.queue c.did.seq (fun r => { r with step := step, note := note }))

/-- Carry out the writes made so far. -/
def commitNow : M Unit := do
  let c ← read
  let s ← get
  set { s with d := (Dev.commit c s.d s.log).chargeAcc c s.acc, log := [], acc := [] }

/-- One row of a step: its state row, where its emission goes, the format of that, and its gradient with the elements that are emitted
behind its weights, or the status for which it has none. -/
structure OptJob where
  row : Nat
  emitAt : Option Nat
  emitFmt : Nat
  grad : M (Except Nat (List Val × List Val))

/-- Run the accesses of the stage after the present one: an update's emission (R256, R386). -/
def atNext (m : M α) : M α := do
  let c ← read
  atStage (c.stage + 1) m

/-- Emit a row, and store its state once the emission is done (R256 steps 3 to 5). An emission that leaves this Ndonte is waited for: the
rows before it stand, and its lock is held beside theirs (`locks`). -/
def emitStore (s : OptState) (algo step : Nat) (j : OptJob) (t : OptTally) (locks : List Nat) (fa : Nat) (x : OptRow) (car : List Val) :
    M Unit := do
  match j.emitAt with
  | none => rowStore s algo step j.row x
  | some at_ =>
    match encVec j.emitFmt (x.w ++ car) with
    | none => halt stFormat
    | some bs =>
      let ps ← xlateAll 2 (pagesOf at_ bs.length)
      let d ← getDev
      if d.ownAll ps then
        atNext (wrPieces false ps bs)
        rowStore s algo step j.row x
      else
        let away := (lineParts ps bs).filter (fun p => ! d.isOwn p.1)
        commitNow
        atNext (wrRuns false ((lineParts ps bs).filter (fun p => d.isOwn p.1)))
        commitNow
        atNext (sendAcked false 0 away)
        lockRows (locks ++ [fa])
        setStep emitting (t.note away.length x)
        need

/-- Work the rows of a step in turn. A row that fails with a status ends them (R258). `locks` are those of the rows updated so far. -/
def optRows (s : OptState) (algo : Nat) (h : OptHyp) (step : Nat) (skipnf : Bool) : List OptJob → List Nat → OptTally → M OptTally
  | [], locks, t => do
    lockRows locks
    return t
  | j :: rest, locks, t => do
    let r ← caught (allOrNone (do
      match ← j.grad with
      | .error st => return RowEnd.spoiled st
      | .ok (g, car) => match ← rowCompute s algo h step j.row g skipnf with
        | .updated fa x =>
          emitStore s algo step j t locks fa x car
          return .updated fa x
        | e => return e))
    match r with
    | .error st =>
      lockRows locks
      return t.fails st
    | .ok e =>
      let more := match e with | .updated fa _ => [fa] | _ => []
      optRows s algo h step skipnf rest (locks ++ more) (t.take e)

/-- Forget the answers to the emission of a row, and keep the tally. -/
def endEmission (t : OptTally) : M Unit := do
  let c ← read
  modDev (fun d => d.modStarted c.did.queue c.did.seq (fun r => { r with remote := r.remote.filter (fun y => decide (y.line < ackKey 0)) }))
  setStep betweenRows (t.note 0 ⟨[], [], []⟩)

/-- Where the rows of a descriptor stand, and whether one has ended them: with the answers to an emission, the row's state is stored, or
stays unchanged where one failed. -/
def optResume (s : OptState) (algo step : Nat) (jobs : List OptJob) : M (OptTally × Bool) := do
  let (k, note) ← stepOf
  if k ≠ betweenRows && k ≠ emitting then return (⟨0, 0, 0, 0, []⟩, false)
  let (t, lines, x) := tallyOf note
  if k = betweenRows then return (t, false)
  match ← ackedAll lines, jobs[t.taken]? with
  | none, _ | _, none => need
  | some st, some j =>
    if st ≠ 0 then return (t.fails st, true)
    rowStore s algo step j.row x
    commitNow
    let t := { t with taken := t.taken + 1, upd := t.upd + 1 }
    endEmission t
    return (t, false)

/-- All rows of a step, from where the descriptor stands. `sts` holds the statuses known before the first row. -/
def optAll (s : OptState) (algo : Nat) (h : OptHyp) (step : Nat) (skipnf : Bool) (jobs : List OptJob) (sts : List Nat) : M OptTally := do
  let (t, ended) ← optResume s algo step jobs
  let t ← if ended then pure t else optRows s algo h step skipnf (jobs.drop t.taken) [] t
  return { t with sts := sts ++ t.sts }

/-! OPT_STEP (R252, R256 to R258). -/

/-- A signed index of a format: 0 INT32, 1 INT64. -/
def indexAt (ifmt : Nat) (bs : List Byte) (i : Nat) : Int :=
  if ifmt = 0 then codeInt 32 (fld bs (4 * i) 4) else codeInt 64 (fld bs (8 * i) 8)

/-- Bytes of an index. -/
def indexBytes (ifmt : Nat) : Nat := if ifmt = 0 then 4 else 8

/-- The sum of vectors, element by element in FP32, in the order and grouping given (R167). -/
def sumVecs (n : Nat) (parts : List (List (List Val))) : List Val :=
  let add (a b : List Val) : List Val := List.zipWith fadd a b
  let z := List.replicate n zero32
  let sum (xs : List (List Val)) : List Val := match xs with
    | [] => z
    | x :: xs => xs.foldl add x
  sum (parts.map sum)

/-- The gradient rows that name each state row, in the order of first mention: the row, and the numbers of its gradient
rows. -/
def groupRows : List (Nat × Nat) → List (Nat × List Nat)
  | [] => []
  | (r, i) :: xs =>
    let gs := groupRows xs
    match gs.find? (fun g => g.1 == r) with
    | some g => (r, i :: g.2) :: gs.filter (fun g => g.1 != r)
    | none => (r, [i]) :: gs

/-- The rows of an OPT_STEP: for each state row named, its combined gradient (R257) times GSCALE. -/
def optJobs (s : OptState) (h : OptHyp) (gfmt : Nat) (grad : List Byte) (bad : List Bool) (rows : List (Nat × List Nat)) : List OptJob :=
  let n := (vecBytes gfmt s.rowLen).getD 0
  rows.map (fun x => ⟨x.1, if s.emit = 0 then none else some (s.emit + x.1 * ((vecBytes s.efmt s.rowLen).getD 0)), s.efmt, do
    if x.2.any (fun i => ((bad.drop (i * n)).take n).any id) then return .error stPoison
    let parts ← arrivals (x.2.map (fun i => (decVec gfmt s.rowLen (slice grad (i * n) n)).getD []))
    return .ok ((sumVecs s.rowLen parts).map (fun x => fmul h.gscale x), [])⟩)

/-- OPT_STEP (R252 to R258). -/
def optStepM (l : Line) : M (Nat × Nat × Nat) := do
  let hyp := lf l 16 8
  let stt := lf l 24 8
  let nrows := lf l 40 4
  let algo := lf l 44 1
  let gfmt := lf l 45 1
  let ifmt := lf l 46 1
  let inds := lf l 32 8
  ensure (decide (nrows ≥ 1 ∧ algo ≤ 2 ∧ hyp % 64 = 0 ∧ stt % 64 = 0)) stBounds
  let h := optHyp (← rdV hyp 64)
  let s := optState (← rdV stt 64)
  ensure (hypOk algo h && s.inRange algo && (inds != 0 || decide (nrows ≤ s.rows)) && ! (isMx gfmt && s.rowLen % 32 != 0)) stBounds
  ensure (gradFmts.contains gfmt && decide (ifmt ≤ 1) && s.fmtsOk algo) stFormat
  let d ← getDev
  if d.noBay then halt stFenced
  let n := (vecBytes gfmt s.rowLen).getD 0
  let (grad, bad) ← atStage 0 (rdRawV (lf l 8 8) (nrows * n))
  let w := indexBytes ifmt
  let (ib, ip) ← if inds = 0 then pure ([], []) else atStage 0 (rdRawV inds (nrows * w))
  let all := List.range nrows
  let poisoned (i : Nat) : Bool := ((ip.drop (i * w)).take w).any id
  let good := all.filter (fun i => ! poisoned i)
  let okIdx (i : Nat) : Bool := decide (0 ≤ indexAt ifmt ib i ∧ indexAt ifmt ib i < s.rows)
  let named := if inds = 0 then all.map (fun i => (i, i))
    else (good.filter okIdx).map (fun i => ((indexAt ifmt ib i).toNat, i))
  let sts := (if inds ≠ 0 && good.length < nrows then [stPoison] else [])
    ++ (if inds ≠ 0 && ! good.all okIdx then [stBounds] else [])
  let t ← atStage 2 (optAll s algo h (lf l 48 4) (bit (lf l 47 1) 0) (optJobs s h gfmt grad bad (groupRows named)) sts)
  endRun (← mixedEnds (decide (t.upd > 0)) t.sts) t.upd (t.stamped % 2 ^ 32 + 2 ^ 32 * t.nonFin)

/-- OPT_STEP (R256). -/
def execOptStep (q n : Nat) (s : State) : Host.Outcome State Fault Refusal := s.desc 0x28 q n optStepM

end Sys2Proof.Machine
end

