-- ==== Sys2Proof/Machine/Embed.lean ====
section
/-! DEFINITION. Embedding tables: table records and handles, GATHER_POOL, SCATTER_ADD, TABLE_SWITCH in its two modes, the row
cache, row locks and the moving of rows (R206 to R231). -/

namespace Sys2Proof.Machine

open Sys2Proof

/-! Table records (R206, R207). -/

/-- A table record. -/
structure TableRec where
  baseWord : Nat
  rowsWord : Nat
  firstWord : Nat
  remapWord : Nat
  stride : Nat
  dim : Nat
  fmt : Nat
  sfmt : Nat
  version : Nat
  comp : Nat
  share : Nat
  valid : Bool
  deriving DecidableEq, Repr

/-- The table record that 64 bytes spell. -/
def tableRec (bs : List Byte) : TableRec :=
  ⟨fld bs 0 8, fld bs 8 8, fld bs 16 8, fld bs 24 8, fld bs 32 4, fld bs 36 2, fld bs 38 1, fld bs 39 1, fld bs 40 4,
    fld bs 44 2 % 1024, fld bs 46 1, bit (fld bs 47 1) 0⟩

/-- The packed bytes of a row, the offset of its scale, and the bytes of the row with its scale. -/
def TableRec.packed (t : TableRec) : Nat := (vecBytes t.fmt t.dim).getD 0
def TableRec.scaleSize (t : TableRec) : Nat := if t.sfmt = 0x1F then 0 else elemBits t.sfmt / 8
def TableRec.scaleAt (t : TableRec) : Nat := if t.sfmt = 0x1F then t.packed else ceilDiv t.packed t.scaleSize * t.scaleSize
def TableRec.used (t : TableRec) : Nat := t.scaleAt + t.scaleSize

/-- REMAP: the table's offset and its entries; an offset of 0 is no table, whatever its size. -/
def TableRec.remapAt (t : TableRec) : Nat := bits t.remapWord 47 6 * 64
def TableRec.remapN (t : TableRec) : Nat := if t.remapAt = 0 then 0 else 2 ^ (t.remapWord % 64)

/-- The bytes of a slot of the row cache (R221). -/
def TableRec.slot (t : TableRec) : Nat := 64 * ceilDiv t.stride 64

/-- Whether a record is valid (R206, R207). R206 names no meaning of REMAP's bits [63:48]: a record that sets one is refused (DESIGN CHOICE,
log entry 186). -/
def TableRec.ok (t : TableRec) : Bool :=
  t.valid && decide (t.baseWord < 2 ^ 60 ∧ 1 ≤ t.rowsWord ∧ t.rowsWord < 2 ^ 40 ∧ t.firstWord < 2 ^ 40)
  && decide (t.remapWord < 2 ^ 48) && (t.remapAt == 0 || decide (6 ≤ t.remapWord % 64 ∧ t.remapWord % 64 ≤ 20))
  && decide (t.stride % 8 = 0 ∧ 8 ≤ t.stride ∧ t.stride ≤ 16777208 ∧ 8 ≤ t.dim ∧ t.dim ≤ 4096)
  && [0x00, 0x01, 0x02, 0x03, 0x04, 0x0F, 0x10, 0x08, 0x0C].contains t.fmt && [0x00, 0x01, 0x02, 0x1F].contains t.sfmt
  && ((t.fmt != 0x0F && t.fmt != 0x10) || t.sfmt != 0x1F) && (! isMx t.fmt || t.sfmt == 0x1F)
  && (! isMx t.fmt || t.dim % 32 == 0) && (t.fmt != 0x10 || t.dim % 2 == 0)
  && decide (t.used ≤ t.stride ∧ t.baseWord % 2 ^ 48 + t.rowsWord * t.stride ≤ 2 ^ 48)

/-- Whether a global index lies in the shard. -/
def TableRec.holds (t : TableRec) (g : Nat) : Bool := decide (t.firstWord ≤ g ∧ g < t.firstWord + t.rowsWord)

/-- The place of a global index where no remap entry names it. -/
def TableRec.home (t : TableRec) (g : Nat) : Nat := t.baseWord + (g - t.firstWord) * t.stride

/-! Handles (R208, R231). -/

/-- Read what is Ndonte's own. -/
def rdOwn (off n : Nat) : M (List Byte) := do
  let d ← getDev
  withReader (fun c => { c with checked := false }) (rd (d.ownFa off) n)

/-- Write what is Ndonte's own. -/
def wrOwn (off : Nat) (bs : List Byte) : M Unit := do
  let d ← getDev
  withReader (fun c => { c with checked := false }) (wr (d.ownFa off) bs)

/-- The record of a handle, as it stands. -/
def handleRec (h : Nat) : M TableRec := do
  let d ← getDev
  return tableRec (← rdOwn (d.handleAt h) 64)

/-- The version of a handle: an empty one counts as version 0 (R210). -/
def TableRec.current (t : TableRec) : Nat := if t.valid then t.version else 0

/-! The remap table (R227). -/

/-- Look through a remap table from an index's place on: where the index is named, its entry's number and the FA; and the
first free entry. -/
def remapFind (at_ n g : Nat) : Nat → Nat → Option Nat → M (Option (Nat × Nat) × Option Nat)
  | 0, _, free => return (none, free)
  | fuel + 1, i, free => do
    let bs ← rdOwn (at_ + 16 * (i % n)) 16
    let w := fld bs 0 8
    if bit w 63 && w % 2 ^ 63 == g then return (some (i % n, fld bs 8 8), free)
    remapFind at_ n g fuel (i + 1) (if ! bit w 63 && free.isNone then some (i % n) else free)

/-- Where a row of a table lies now. -/
def rowFa (t : TableRec) (g : Nat) : M Nat := do
  if t.remapN = 0 then return t.home g
  let (hit, _) ← remapFind t.remapAt t.remapN g t.remapN (g % t.remapN) none
  match hit with
  | none => return t.home g
  | some (_, fa) =>
    ensure (decide (fa < 2 ^ 60)) stBounds
    return fa

/-! Rows (R207, R225). -/

/-- The elements of a row; none when it cannot be decoded. -/
def TableRec.decode (t : TableRec) (bs : List Byte) : List Val :=
  let vs := (decVec t.fmt t.dim (slice bs 0 t.packed)).getD []
  if t.sfmt = 0x1F then vs
  else
    let s := decElem t.sfmt (fld bs t.scaleAt t.scaleSize)
    vs.map (fun v => fmul v s)

/-- The integer code of an element under a scale (R225): the exact quotient rounded once and clamped. A quotient by a scale
of zero is open. -/
def rowCode (w : Nat) (x s : Val) : Option Int :=
  match x, s with
  | .nan, _ => none
  | _, .nan => none
  | .inf _, .inf _ => none
  | .inf n, _ => some (if n then -(2 ^ (w - 1) : Int) else 2 ^ (w - 1) - 1)
  | .fin .., .inf _ => some 0
  | .fin nx mx ex, .fin ns ms es =>
    if mx = 0 then some 0
    else if ms = 0 then some (satInt w (Config.zeroScaleCode (f32 x)))
    else
      let (n, k) := scale2 mx (ex - es)
      let r : Int := Int.ofNat (roundDiv n (k * ms))
      some (satInt w (if nx != ns then -r else r))

/-- The codes of a row under a scale; none when a NaN reaches one. -/
def rowCodes (w : Nat) (s : Val) : List Val → Option (List Nat)
  | [] => some []
  | x :: xs => match rowCode w x s, rowCodes w s xs with
    | some c, some cs => some (intCode w c :: cs)
    | _, _ => none

/-- The bytes of a row that holds the given elements (R225); `old` are its bytes before. None when a NaN reaches an integer
row. -/
def TableRec.encode (t : TableRec) (old : List Byte) (vs : List Val) : Option (List Byte) :=
  let scaled (codes : List Byte) (s : List Byte) : List Byte := splice (splice (slice old 0 t.used) 0 codes) t.scaleAt s
  if t.fmt = 0x0F ∨ t.fmt = 0x10 then
    let w := elemBits t.fmt
    if vs.any (· == .nan) then none
    else
      let top := vs.foldl (fun a v => if a.lt v.abs then v.abs else a) zero32
      match encElem t.sfmt (fdiv top (ofInt (2 ^ (w - 1) - 1))) with
      | none => none
      | some sc => (rowCodes w (decElem t.sfmt sc) vs).map (fun cs => scaled (leBytes t.packed (packNat w cs)) (leBytes t.scaleSize sc))
  else if t.sfmt = 0x1F then encVec t.fmt vs
  else
    let s := decElem t.sfmt (fld old t.scaleAt t.scaleSize)
    (encVec t.fmt (vs.map (fun v => fdiv v s))).map (fun bs => scaled bs (slice old t.scaleAt t.scaleSize))

/-! The row cache (R221, R222). -/

/-- Bytes of the row cache less the hold area, and of the hold area (R29, R218). -/
def Dev.cacheMiB (d : Dev) : Nat := if d.training then 32 else 64
def Dev.holdMiB (d : Dev) : Nat := max 4 (min (d.cacheMiB / 2) (d.rf 0xB00C 5 0))

/-- The record of a handle as memory holds it. -/
def Dev.tableAt (d : Dev) (h : Nat) : TableRec := tableRec (d.bytes (d.handleAt h) 64)

/-- RC_SHARE of every handle, with handle `h` at a given share: 0 where a handle is empty. -/
def Dev.shares (d : Dev) (h share : Nat) : List Nat :=
  (List.range d.handles).map (fun i => if i = h then share else let t := d.tableAt i; if t.valid then t.share else 0)

/-- The 1/256 units of the row cache that a handle receives under a list of shares. -/
def shareOf (ss : List Nat) (h : Nat) : Nat :=
  let sum := ss.foldl (· + ·) 0
  let s := nth ss h 0
  if sum > 256 then s * 256 / sum else s

/-- The sets that a handle has. -/
def Dev.rowSets (d : Dev) (h : Nat) (t : TableRec) : Nat :=
  if t.stride > 4096 ∨ t.slot = 0 ∨ t.share = 0 then 0
  else (d.cacheMiB - d.holdMiB) * 1048576 * shareOf (d.shares h t.share) h / 256 / (16 * t.slot)

/-- The resident row of this handle at an offset. -/
def residentRow (rc : List RowLine) (h off : Nat) : Option RowLine := rc.find? (fun r => r.handle == h && r.off == off && ! r.data.isEmpty)

/-- The line with the lowest counter; ties go to the lower slot. -/
def lowestLine (ls : List RowLine) : Option RowLine :=
  ls.foldl (fun b r => match b with
    | none => some r
    | some x => if r.freq < x.freq ∨ (r.freq = x.freq ∧ r.slot < x.slot) then some r else some x) none

/-- The lowest of 16 slots that no line of a list takes. -/
def openSlot (ls : List RowLine) : Option Nat := (List.range 16).find? (fun k => ! ls.any (fun r => r.slot == k))

/-- Count one occurrence of a row that lies at an offset of this Ndonte (R222). -/
def seeRow (rc : List RowLine) (h row off sets : Nat) : List RowLine :=
  let up (data : Bool) : List RowLine := rc.map (fun r =>
    if r.handle = h ∧ r.off = off ∧ r.data.isEmpty = ! data then { r with freq := satAdd r.freq 1 255 } else r)
  if (residentRow rc h off).isSome then up true
  else if sets = 0 then rc
  else if rc.any (fun r => r.handle == h && r.off == off) then up false
  else
    let set := Config.rowSet h row % sets
    let cands := rc.filter (fun r => r.handle == h && r.set == set && r.data.isEmpty)
    let new (k : Nat) : RowLine := ⟨h, row, off, set, k, 1, []⟩
    match openSlot cands, lowestLine cands with
    | some k, _ => rc ++ [new k]
    | none, some v => rc.map (fun r => if r = v then new v.slot else r)
    | none, none => rc

/-- Admit a row at its fetch, with the bytes fetched (R222); those of a resident row take their place. -/
def admitRow (rc : List RowLine) (h off : Nat) (bs : List Byte) : List RowLine :=
  match residentRow rc h off, rc.find? (fun r => r.handle == h && r.off == off && r.data.isEmpty) with
  | some v, _ => rc.map (fun r => if r = v then { v with data := bs } else r)
  | none, none => rc
  | none, some c =>
    let res := rc.filter (fun r => r.handle == h && r.set == c.set && ! r.data.isEmpty)
    match openSlot res, lowestLine res with
    | some k, _ => rc.map (fun r => if r = c then { c with slot := k, data := bs } else r)
    | none, some v =>
      if c.freq > v.freq then rc.map (fun r =>
        if r = c then { v with slot := c.slot, data := [] } else if r = v then { c with slot := v.slot, data := bs } else r)
      else rc
    | none, none => rc

/-! Binding a handle (R210, R215). -/

/-- The record that a descriptor bound as it started (R210), after the checks of R215: BOUNDS for what precedes, then the formats, the version
and the composition. -/
def bindTable (expect : Nat) (fields fmts : Bool) : M TableRec := do
  let c ← read
  let (_, note) ← stepOf
  ensure fields stBounds
  match note with
  | [_, w] =>
    let t := tableRec (leBytes 64 w)
    ensure t.valid stBounds
    ensure fmts stFormat
    ensure (expect == 0 || expect == t.version) stVersion
    ensure (t.comp == c.comp) stDenied
    return t
  | [] => halt stBounds
  | _ => halt stPoison

/-! Indices (R212, R215). -/

/-- One index of a batch: its global row, or none where it is skipped or poisoned. -/
structure Occ where
  row : Option Nat
  poison : Bool

/-- The indices of a batch; one outside the shard gives BOUNDS unless it is skipped. -/
def occurrences (t : TableRec) (ifmt n : Nat) (skip : Bool) (bs : List Byte) (ps : List Bool) : M (List Occ) := do
  let w := indexBytes ifmt
  let one (i : Nat) : Occ :=
    if ((ps.drop (i * w)).take w).any id then ⟨none, true⟩
    else
      let g := indexAt ifmt bs i
      if 0 ≤ g ∧ t.holds g.toNat then ⟨some g.toNat, false⟩ else ⟨none, false⟩
  let os := (List.range n).map one
  ensure (skip || os.all (fun o => o.poison || o.row.isSome)) stBounds
  return os

/-- The distinct rows of a batch in the order of first mention. -/
def distinct : List Nat → List Nat
  | [] => []
  | x :: xs => x :: (distinct xs).filter (· ≠ x)

/-! Rounds (R216 to R218). -/

/-- A row of a round: where it lies, and the section and bay that combine it. -/
structure Placed where
  row : Nat
  fa : Nat
  sec : Nat
  bay : Nat
  deriving DecidableEq, Repr

/-- The combining bay of a row (R216). -/
def Dev.placed (d : Dev) (who : DescId) (g fa : Nat) : Placed :=
  let s := d.rowSection who fa
  let bay := (List.range 16).find? (fun k => ! d.fencedBays.contains (16 * s + (g + k) % 16))
  ⟨g, fa, s, 16 * s + (g + bay.getD 0) % 16⟩

/-- Where each distinct row lies. -/
def placeRows (t : TableRec) : List Nat → M (List Placed)
  | [] => pure []
  | g :: gs => do
    let fa ← rowFa t g
    let c ← read
    let d ← getDev
    let rest ← placeRows t gs
    return d.placed c.did g fa :: rest

/-- The place of a row. -/
def placeOf (ps : List Placed) (g : Nat) : Option Placed := ps.find? (fun x => x.row == g)

/-- What a round takes of a bag: its occurrences, each with the row that it names, and whether the bag ends with them. -/
structure Seg (α : Type) where
  bag : Nat
  items : List (Option Nat × α)
  last : Bool

/-- A round: its distinct rows, and what it takes of each of its bags. -/
structure Round (α : Type) where
  rows : List Placed
  segs : List (Seg α)

/-- What bounds a round: bytes of a slot, sections, bays not fenced, elements of a bag's result, and bytes of a section's hold area. -/
structure RoundCap where
  slot : Nat
  sections : Nat
  bays : Nat
  dim : Nat
  hold : Nat

/-- Whether a round keeps its bounds (R218): the hold bytes of a section, the entries of a bay, the result bytes of a pooling bay. -/
def RoundCap.fits (k : RoundCap) (r : Round α) : Bool :=
  (List.range k.sections).all (fun s => decide ((r.rows.filter (fun x => x.sec == s)).length * k.slot ≤ k.hold))
  && (List.range (16 * k.sections)).all (fun b => decide ((r.rows.filter (fun x => x.bay == b)).length ≤ 49152))
  && decide (ceilDiv r.segs.length (max 1 k.bays) * (4 * k.dim) ≤ 65536)

/-- A list of rows with more rows, each once. -/
def joinRows (rs xs : List Placed) : List Placed :=
  xs.foldl (fun rs x => if rs.any (fun y => y.row == x.row) then rs else rs ++ [x]) rs

/-- The places of the rows of occurrences. -/
def itemRows (ps : List Placed) (xs : List (Option Nat × α)) : List Placed := xs.filterMap (fun x => x.1.bind (placeOf ps))

/-- A round with one more piece of a bag. -/
def Round.add (ps : List Placed) (r : Round α) (s : Seg α) : Round α := ⟨joinRows r.rows (itemRows ps s.items), r.segs ++ [s]⟩

/-- Split a bag that alone breaks a bound over rounds (R218): those closed, and the one that its last occurrences are in. -/
def splitBag (k : RoundCap) (ps : List Placed) (bag : Nat) : List (Option Nat × α) → List (Option Nat × α) → List (Round α) × Round α
  | here, [] => ([], Round.add ps ⟨[], []⟩ ⟨bag, here, true⟩)
  | here, x :: xs =>
    let closed : Round α := Round.add ps ⟨[], []⟩ ⟨bag, here, false⟩
    if here.isEmpty || k.fits (Round.add ps ⟨[], []⟩ ⟨bag, here ++ [x], false⟩) then splitBag k ps bag (here ++ [x]) xs
    else
      let (rs, r) := splitBag k ps bag [x] xs
      (closed :: rs, r)

/-- Take one bag into the rounds: those closed, and the one being filled. -/
def takeBag (k : RoundCap) (ps : List Placed) (y : List (Round α) × Round α) (s : Seg α) : List (Round α) × Round α :=
  if k.fits (y.2.add ps s) then (y.1, y.2.add ps s)
  else
    let closed := if y.2.segs.isEmpty then y.1 else y.1 ++ [y.2]
    if k.fits (Round.add ps ⟨[], []⟩ s) then (closed, Round.add ps ⟨[], []⟩ s)
    else
      let (rs, r) := splitBag k ps s.bag [] s.items
      (closed ++ rs, r)

/-- The rounds of a batch over its bags. -/
def roundsOf (k : RoundCap) (ps : List Placed) (bags : List (List (Option Nat × α))) : List (Round α) :=
  let (rs, r) := ((List.range bags.length).zip bags).foldl (fun y x => takeBag k ps y ⟨x.1, x.2, true⟩) ([], ⟨[], []⟩)
  rs ++ [r]

/-- The bounds of a batch's rounds. -/
def Dev.roundCap (d : Dev) (slot dim : Nat) : RoundCap :=
  ⟨slot, d.stacks, d.bays - d.fencedBays.length, dim, d.holdMiB * 1048576 / d.stacks⟩

/-- The entry of a row in its bay's combining table, in the combining area (R217): it carries the round's number. -/
def Dev.combine (d : Dev) (x : Placed) : Dev :=
  let v := Config.combEntry d.embRound x.row
  let off := bits (d.reg 0xB010) 47 16 * 65536 + 1048576 * x.bay + 16 * (v / 2 ^ 128 % 65536)
  let (data, m) := runLine ⟨off, leBytes 16 (v % 2 ^ 128), false⟩
  let e := if (d.pline off).isSome then (d.writeLine off data m false).touch (off / 65536) true else d
  { d with mem := e.mem, pois := e.pois, tmap := e.tmap }

/-- The combining entries of a round. -/
def Dev.combineRound (d : Dev) (rows : List Placed) : Dev :=
  let d := rows.foldl Dev.combine d
  { d with embRound := d.embRound + 1 }

/-- What a batch has done to the row cache (R222), its rounds in order, and the rows that earlier rounds placed. -/
structure BatchAcct where
  cache : List RowLine
  hits : Nat
  misses : Nat
  rounds : List (List Placed)
  seen : List Nat

/-- Account the occurrences of a round. -/
def BatchAcct.round (a : BatchAcct) (d : Dev) (h sets : Nat) (rows : List Placed) (occs : List Nat) : BatchAcct :=
  let one (a : BatchAcct) (g : Nat) : BatchAcct :=
    match (placeOf rows g).filter (fun x => d.isOwn x.fa) with
    | none => { a with misses := a.misses + 1 }
    | some x =>
      let hit := (residentRow a.cache h (faOff x.fa)).isSome
      { a with cache := seeRow a.cache h g (faOff x.fa) sets, hits := a.hits + b2n hit, misses := a.misses + b2n (! hit) }
  let a := occs.foldl one a
  { a with rounds := a.rounds ++ [rows], seen := a.seen ++ rows.map (·.row) }

/-- Account a batch (R218, R222): the row cache, rounds, occurrences, and the combining entries. Each occurrence is a hit or a miss of the
row cache for the set of the run's function too (R383). -/
def Dev.batchDone (d : Dev) (c : Ctx) (a : BatchAcct) : Dev :=
  let d := ((d.stat 0xB018 63 32 a.hits).stat 0xB018 31 0 a.misses).stat 0xB020 24 9 (a.rounds.length - 1)
  let d := (d.countRun c 0x0E a.hits).countRun c 0x0F a.misses
  a.rounds.foldl Dev.combineRound { d with rowCache := a.cache }

/-- Account a batch that has ended. -/
def batchEnds (a : BatchAcct) : M Unit := do
  let c ← read
  modDev (fun d => d.batchDone c a)

/-- The places of a round's rows: one lookup for each entry of the round (R216). -/
def placeAgain (t : TableRec) (seen : List Nat) : List Placed → M (List Placed)
  | [] => pure []
  | x :: xs => do
    let fa ← if seen.contains x.row then rowFa t x.row else pure x.fa
    let rest ← placeAgain t seen xs
    return { x with fa := fa } :: rest

/-- A row as it was fetched: its bytes, and whether it was poisoned. -/
structure Fetched where
  row : Nat
  fa : Nat
  bytes : List Byte
  poison : Bool

/-- Fetch the rows of a round, each once: from the row cache where it is resident, otherwise from the table; a locked row is waited for. -/
def fetchRows (rc : List RowLine) (h : Nat) (t : TableRec) : List Placed → M (List Fetched)
  | [] => pure []
  | p :: ps => do
    waitRow p.fa
    let d ← getDev
    let x ← match (if d.isOwn p.fa then (residentRow rc h (faOff p.fa)).filter (fun r => decide (t.used ≤ r.data.length)) else none) with
      | some r => do
        let c ← read
        let (st, d) := d.extCheck c (faOff p.fa) false
        modDev (fun _ => d)
        if st ≠ 0 then halt st
        noteCached p.fa
        pure (Fetched.mk p.row p.fa r.data false)
      | none => do
        let (bs, bad) ← rdRaw p.fa t.used
        pure (Fetched.mk p.row p.fa bs (bad.any id))
    let rest ← fetchRows rc h t ps
    return x :: rest

/-- Ask for the lines of rows of other nodes at once. -/
def askRows (t : TableRec) (ps : List Placed) : M Unit := fetchLines (ps.flatMap (fun x => (linesOf x.fa t.used).map (· / 64)))

/-! GATHER_POOL (R212 to R219). -/

/-- The terms of a bag in a round: each distinct row with its combined weight; beyond 256 distinct rows each occurrence alone. -/
def bagTerms (ws : List (Nat × Val)) : M (List (Nat × Val)) := do
  let rows := distinct (ws.map (·.1))
  let rec go : List Nat → M (List (Nat × Val))
    | [] => pure []
    | r :: rs => do
      let mine := (ws.filter (fun x => x.1 == r)).map (·.2)
      let parts ← arrivals (mine.map (fun w => [w]))
      let rest ← go rs
      return (r, (sumVecs 1 parts).headD zero32) :: rest
  let head ← go (rows.take 256)
  return head ++ ws.filter (fun x => (rows.drop 256).contains x.1)

/-- Σ w × r over parts of terms, and Σ w. -/
def poolSum (dim : Nat) (parts : List (List (List Val × Val))) : List Val × Val :=
  let part (ts : List (List Val × Val)) : List Val × Val :=
    ts.foldl (fun a x => (List.zipWith (fun s v => ffma x.2 v s) a.1 x.1, fadd a.2 x.2)) (List.replicate dim zero32, zero32)
  match parts.map part with
  | [] => (List.replicate dim zero32, zero32)
  | p :: ps => ps.foldl (fun a x => (List.zipWith fadd a.1 x.1, fadd a.2 x.2)) p

/-- The element-wise maximum of rows; zeros over none. -/
def poolMax (dim : Nat) (rows : List (List Val)) : List Val :=
  match rows with
  | [] => List.replicate dim zero32
  | r :: rs => rs.foldl (fun a x => List.zipWith fmax a x) r

/-- How a GATHER_POOL pools: its mode and formats, and where its results lie. -/
structure PoolOp where
  mode : Nat
  ofmt : Nat
  part : Bool
  weighted : Bool
  result : Nat
  size : Nat

/-- A bag that is being pooled (R218): the terms that its rounds have given, the indices pooled, and whether one consumed poison. -/
structure Pooling where
  terms : List (List Val × Val)
  n : Nat
  bad : Bool

/-- The bytes of one bag's result. -/
def poolBag (t : TableRec) (p : PoolOp) (b : Pooling) : M (List Byte) := do
  let parts ← arrivals b.terms
  let (v, w) := if p.mode = 2 then (poolMax t.dim ((parts.flatMap id).map (·.1)), toF32 (ofInt b.n)) else poolSum t.dim parts
  if p.part then return leBytes 4 (f32 w) ++ (encVec 0 v).getD []
  else
    let out := if p.mode = 1 ∧ b.n ≠ 0 then v.map (fun x => fdiv x w) else v
    return (encVec p.ofmt out).getD []

/-- What pooling has done so far: indices pooled, bags unwritten, the bag that goes on in the next round, and the status that ended it. -/
structure PoolTally where
  pooled : Nat
  unwritten : Nat
  carry : Pooling
  stop : Option Nat

/-- Pool what a round has of one bag, and write the bag where it ends. An occurrence holds whether its index was poisoned, and its weight. A
bag that consumes poison stays unwritten. -/
def poolSeg (t : TableRec) (p : PoolOp) (rows : List (Nat × List Val)) (bad : List Nat) (s : Seg (Bool × Option Val)) (y : PoolTally) :
    M PoolTally := do
  let ws := s.items.filterMap (fun o => o.1.map (fun g => (g, o.2.2.getD zero32)))
  let psn := s.items.any (fun o => o.2.1 || (o.1.isSome && o.2.2.isNone)) || ws.any (fun x => bad.contains x.1)
  let row (g : Nat) : List Val := ((rows.find? (fun x => x.1 == g)).map (·.2)).getD []
  let terms ← bagTerms ws
  let b : Pooling := ⟨y.carry.terms ++ terms.map (fun x => (row x.1, x.2)), y.carry.n + ws.length, y.carry.bad || psn⟩
  if ! s.last then return { y with carry := b }
  let y := { y with carry := ⟨[], 0, false⟩ }
  if b.bad then return { y with unwritten := y.unwritten + 1 }
  match ← caught (allOrNone (do atStage 3 (wrV (p.result + s.bag * p.size) (← poolBag t p b)))) with
  | .error st => return { y with stop := some st }
  | .ok _ => return { y with pooled := y.pooled + b.n }

/-- Pool the bags of a round in turn. -/
def poolSegs (t : TableRec) (p : PoolOp) (rows : List (Nat × List Val)) (bad : List Nat) : List (Seg (Bool × Option Val)) → PoolTally →
    M PoolTally
  | [], y => pure y
  | s :: ss, y => do
    let y ← poolSeg t p rows bad s y
    if y.stop.isSome then return y
    poolSegs t p rows bad ss y

/-- One round: its rows are looked up and counted, fetched and admitted, and its bags pooled. -/
def poolRound (h sets : Nat) (t : TableRec) (p : PoolOp) (r : Round (Bool × Option Val)) (a : BatchAcct) (y : PoolTally) :
    M (BatchAcct × PoolTally) := do
  match ← caught (placeAgain t a.seen r.rows) with
  | .error st => return (a, { y with stop := some st })
  | .ok rows =>
    let d ← getDev
    let a := a.round d h sets rows (r.segs.flatMap (fun s => s.items.filterMap (·.1)))
    match ← caught (atStage 0 (fetchRows a.cache h t rows)) with
    | .error st => return (a, { y with stop := some st })
    | .ok got =>
      let rc := if sets = 0 then a.cache
        else got.foldl (fun rc x => if d.isOwn x.fa && ! x.poison then admitRow rc h (faOff x.fa) x.bytes else rc) a.cache
      let y ← poolSegs t p (got.map (fun x => (x.row, t.decode x.bytes))) ((got.filter (·.poison)).map (·.row)) r.segs y
      return ({ a with cache := rc }, y)

/-- The rounds in turn, until one fails. -/
def poolRounds (h sets : Nat) (t : TableRec) (p : PoolOp) : List (Round (Bool × Option Val)) → BatchAcct → PoolTally →
    M (BatchAcct × PoolTally)
  | [], a, y => pure (a, y)
  | r :: rs, a, y => do
    let (a, y) ← poolRound h sets t p r a y
    if y.stop.isSome then return (a, y)
    poolRounds h sets t p rs a y

/-- Whether offsets begin at 0, never decrease and end at the number of indices. -/
def offsetsOk (os : List Int) (n : Nat) : Bool :=
  os.head? == some 0 && os.getLast? == some (Int.ofNat n) && ((os.zip (os.drop 1)).all (fun x => decide (x.1 ≤ x.2)))

/-- Cut a list at offsets. -/
def cutAt (os : List Int) (xs : List α) : List (List α) :=
  (os.zip (os.drop 1)).map (fun x => (xs.drop x.1.toNat).take (x.2 - x.1).toNat)

/-- The weights of a batch: 1 without weights, none for a poisoned one. -/
def weightsOf (wfmt n : Nat) (bs : List Byte) (ps : List Bool) : List (Option Val) :=
  if wfmt = 0x1F then List.replicate n (some one32)
  else
    let k := elemBits wfmt / 8
    (List.range n).map (fun i => if ((ps.drop (i * k)).take k).any id then none else some (decElem wfmt (fld bs (i * k) k)))

/-- GATHER_POOL (R212 to R219). -/
def gatherPoolM (l : Line) : M (Nat × Nat × Nat) := do
  let opb := lf l 8 8
  let h := lf l 24 4
  let nidx := lf l 32 4
  let nbags := lf l 36 4
  let mode := lf l 40 1
  let ofmt := lf l 41 1
  let ifmt := lf l 42 1
  let wfmt := lf l 43 1
  let fl := lf l 44 1
  let d ← getDev
  ensure (d.embOn && decide (nidx ≥ 1 ∧ 1 ≤ nbags ∧ nbags ≤ 16777216 ∧ mode ≤ 2 ∧ opb % 32 = 0)) stBounds
  let ob ← rdV opb 32
  let t ← bindTable (lf l 28 4) (! (wfmt != 0x1F && mode == 2) && ! (fld ob 16 8 == 0 && wfmt != 0x1F))
    ((bit fl 0 || [0x00, 0x01, 0x02].contains ofmt) && decide (ifmt ≤ 1) && [0x00, 0x01, 0x02, 0x1F].contains wfmt)
  if d.noBay then halt stFenced
  let obs ← atStage 2 (rdV (fld ob 8 8) (8 * (nbags + 1)))
  let offs := (List.range (nbags + 1)).map (fun i => indexAt 1 obs i)
  ensure (offsetsOk offs nidx) stBounds
  let (ib, ip) ← atStage 0 (rdRawV (fld ob 0 8) (nidx * indexBytes ifmt))
  let os ← occurrences t ifmt nidx (bit fl 1) ib ip
  let (wb, wp) ← if wfmt = 0x1F then pure ([], []) else atStage 2 (rdRawV (fld ob 16 8) (nidx * (elemBits wfmt / 8)))
  let ws := weightsOf wfmt nidx wb wp
  let places ← placeRows t (distinct (os.filterMap (·.row)))
  askRows t places
  let d ← getDev
  let items := List.zipWith (fun (o : Occ) w => (o.row, (o.poison, w))) os ws
  let rounds := roundsOf (d.roundCap (64 * ceilDiv t.used 64) t.dim) places (cutAt offs items)
  let p : PoolOp := ⟨mode, ofmt, bit fl 0, wfmt != 0x1F, lf l 16 8, if bit fl 0 then 4 + 4 * t.dim else t.dim * (elemBits ofmt / 8)⟩
  let (a, y) ← poolRounds h (d.rowSets h t) t p rounds ⟨d.rowCache, 0, 0, [], []⟩ ⟨0, 0, ⟨[], 0, false⟩, none⟩
  batchEnds a
  let skipped := (os.filter (fun o => o.row.isNone && ! o.poison)).length
  let sts := (if y.unwritten > 0 then [stPoison] else []) ++ y.stop.toList
  endRun (← mixedEnds (decide (y.unwritten + y.stop.toList.length < nbags)) sts) y.pooled (skipped % 2 ^ 32 + 2 ^ 32 * y.unwritten)

/-- GATHER_POOL (R213). -/
def execGatherPool (q n : Nat) (s : State) : Host.Outcome State Fault Refusal := s.desc 0x18 q n gatherPoolM

/-! SCATTER_ADD (R224 to R226). -/

/-- Wait while a row is being moved (R228, R229): until it has switched to its new place, the sum stays in its hold slot. -/
def waitMoved (h row : Nat) : M Unit := do
  let c ← read
  let d ← getDev
  match d.rowMoves.find? (fun m => m.handle == h && m.row == row) with
  | none => pure ()
  | some m =>
    modDev (fun d => { d with rowMoves := d.rowMoves.map (fun x =>
      if x = m && ! x.waiters.contains c.did then { x with waiters := x.waiters ++ [c.did] } else x) })
    if m.stage < 3 then need

/-- The updates of a SCATTER_ADD: its handle, table and factor, and the update vectors with their poison. -/
structure AddOp where
  handle : Nat
  table : TableRec
  alpha : Val
  ufmt : Nat
  ups : List Byte
  bad : List Bool

/-- Update one row by the sum of the update vectors that name it, in the order of their arrival (R225); the FA that the row has now. -/
def addRow (o : AddOp) (g : Nat) (is : List Nat) : M Nat := do
  let t := o.table
  let n := (vecBytes o.ufmt t.dim).getD 0
  waitMoved o.handle g
  let fa ← rowFa t g
  waitLock fa
  if is.any (fun i => ((o.bad.drop (i * n)).take n).any id) then halt stPoison
  let parts ← arrivals (is.map (fun i => (decVec o.ufmt t.dim (slice o.ups (i * n) n)).getD []))
  let sum := sumVecs t.dim parts
  let (old, ps) ← rdRaw fa t.used
  if ps.any id then halt stPoison
  match t.encode old (List.zipWith (fun x s => fadd x (fmul o.alpha s)) (t.decode old) sum) with
  | none => halt stFormat
  | some bs =>
    wr fa bs
    return fa

/-- What a SCATTER_ADD has done so far: the rows updated, the updates applied, the rows locked, the statuses. -/
structure AddTally where
  rows : List Nat
  upd : Nat
  locks : List Nat
  sts : List Nat

/-- The updates at the end of a round: each of its rows once. One that fails leaves its row unchanged. -/
def addRows (o : AddOp) : List (Nat × List Nat) → AddTally → M AddTally
  | [], y => pure y
  | (g, is) :: rest, y => do
    let y ← match ← caught (allOrNone (addRow o g is)) with
      | .error st => pure { y with sts := y.sts ++ [st] }
      | .ok fa => pure { y with rows := if y.rows.contains g then y.rows else y.rows ++ [g], upd := y.upd + is.length, locks := y.locks ++ [fa] }
    addRows o rest y

/-- The rounds of a SCATTER_ADD in turn. -/
def addRounds (o : AddOp) (sets : Nat) : List (Round Nat) → BatchAcct → AddTally → M (BatchAcct × AddTally)
  | [], a, y => pure (a, y)
  | r :: rs, a, y => do
    let d ← getDev
    let named := r.segs.flatMap (fun s => s.items.filterMap (fun x => x.1.map (fun g => (g, x.2))))
    let a := a.round d o.handle sets r.rows (named.map (·.1))
    let y ← atStage 2 (addRows o (groupRows named) y)
    addRounds o sets rs a y

/-- SCATTER_ADD (R224 to R226). -/
def scatterAddM (l : Line) : M (Nat × Nat × Nat) := do
  let h := lf l 24 4
  let n := lf l 32 4
  let alpha := v32 (lf l 36 4)
  let ifmt := lf l 40 1
  let ufmt := lf l 41 1
  let skip := bit (lf l 42 1) 1
  let d ← getDev
  let t ← bindTable (lf l 28 4) (d.embOn && decide (n ≥ 1) && ! alpha.special) (decide (ifmt ≤ 1) && [0x00, 0x01, 0x02].contains ufmt)
  if d.noBay then halt stFenced
  let (ib, ip) ← atStage 2 (rdRawV (lf l 8 8) (n * indexBytes ifmt))
  let os ← occurrences t ifmt n skip ib ip
  let (ub, up) ← atStage 0 (rdRawV (lf l 16 8) (n * (vecBytes ufmt t.dim).getD 0))
  let places ← placeRows t (distinct (os.filterMap (·.row)))
  askRows t places
  let d ← getDev
  let items := ((List.range n).zip os).map (fun (x : Nat × Occ) => [(x.2.row, x.1)])
  let rounds := roundsOf (d.roundCap (64 * ceilDiv (4 * t.dim) 64) 0) places items
  let (a, y) ← addRounds ⟨h, t, alpha, ufmt, ub, up⟩ (d.rowSets h t) rounds ⟨d.rowCache, 0, 0, [], []⟩
    ⟨[], 0, [], if os.any (·.poison) then [stPoison] else []⟩
  lockRows y.locks
  batchEnds a
  let skipped := (os.filter (fun o => o.row.isNone && ! o.poison)).length
  endRun (← mixedEnds (! y.rows.isEmpty) y.sts) y.rows.length (y.upd % 2 ^ 32 + 2 ^ 32 * skipped)

/-- SCATTER_ADD (R225). -/
def execScatterAdd (q n : Nat) (s : State) : Host.Outcome State Fault Refusal := s.desc 0x19 q n scatterAddM

/-- ROW_LOCK_RELEASE (R226): the lock of the row at an FA is released. -/
def execRowLockRelease (row : Nat) (s : State) : Host.Outcome State Fault Refusal := s.onDev (fun d => d.unlockRow row)

/-! TABLE_SWITCH (R209 to R211). -/

/-- Whether a switch or move of a handle may go on: no earlier one is still running (R210). -/
def Dev.switchTurn (d : Dev) (h : Nat) (i : DescId) : Bool :=
  match d.switchQ.find? (fun x => x.1 == h && d.runs x.2) with
  | some x => x.2 == i
  | none => true

/-- Whether a running descriptor is bound to another version of a handle than the given one. -/
def Dev.boundOld (d : Dev) (h version : Nat) : Bool :=
  d.queues.any (fun p => p.2.running.any (fun r => r.phase != .finished && (lf r.bytes 0 1 == 0x18 || lf r.bytes 0 1 == 0x19)
    && (match r.note with | [k, w] => k == h && (tableRec (leBytes 64 w)).version != version | _ => false)))

/-- The checks of R209 that both modes share. -/
def switchChecks (l : Line) (old : TableRec) (compOk : Bool) : M Unit := do
  ensure compOk stDenied
  ensure (bit (lf l 25 1) 1 || lf l 20 4 == old.current) stVersion

/-- The version after one (R210). -/
def nextVersion (v : Nat) : Nat := if v ≥ 0xFFFFFFFF then 1 else v + 1

/-- The row cache as handle `h` takes a record (R221): the rows of a handle whose share changes are dropped, and those of `h` where its slots
change their size. -/
def Dev.reshare (d : Dev) (h : Nat) (t : TableRec) : Dev :=
  let old := d.tableAt h
  let before := d.shares h (if old.valid then old.share else 0)
  let after := d.shares h t.share
  { d with rowCache := d.rowCache.filter (fun r =>
      shareOf before r.handle == shareOf after r.handle && (r.handle != h || old.slot == t.slot)) }

/-- TABLE_SWITCH with MODE 0 (R210, R211). -/
def tableSwitchM (l : Line) : M (Nat × Nat × Nat) := do
  let h := lf l 16 4
  let c ← read
  let d ← getDev
  let (step, note) ← stepOf
  ensure (d.embOn && decide (h < d.handles ∧ lf l 24 1 ≤ 1)) stBounds
  if lf l 24 1 ≠ 0 then need
  if step > 0 then
    let v := nth note 0 0
    if d.boundOld h v then need
    return (stOk, v, nth note 1 0)
  if ! d.switchTurn h c.did then need
  let bs ← rdV (lf l 8 8) 64
  let t := tableRec bs
  ensure t.ok stBounds
  let old ← handleRec h
  switchChecks l old (t.comp == c.comp && (! old.valid || old.comp == c.comp))
  let v := nextVersion old.current
  wrOwn (d.handleAt h) (splice bs 40 (leBytes 4 v))
  modDev (fun d => d.reshare h t)
  if bit (lf l 25 1) 0 && d.boundOld h v then
    commitNow
    setStep 1 [v, old.current]
    need
  return (stOk, v, old.current)

/-- TABLE_SWITCH (R210). -/
def execTableSwitch (q n : Nat) (s : State) : Host.Outcome State Fault Refusal := s.desc 0x1A q n tableSwitchM

/-! Moving rows (R227 to R229). -/

/-- The pairs of a move list: global index and new FA. -/
def movePairs : List Nat → List (Nat × Nat)
  | g :: fa :: rest => (g, fa) :: movePairs rest
  | _ => []

/-- Freeze the next rows of a move list, up to 256 rows frozen on this Ndonte; a row that is being moved is waited for. -/
def freezeRows (h : Nat) (t : TableRec) : List (Nat × Nat) → M Nat
  | [] => pure 0
  | (g, dst) :: rest => do
    let c ← read
    let d ← getDev
    if d.rowMoves.length ≥ 256 || d.rowMoves.any (fun m => m.handle == h && m.row == g) then return 0
    let src ← rowFa t g
    modDev (fun d => { d with rowMoves := d.rowMoves ++ [⟨c.did, h, g, src, dst, 1, []⟩] })
    let n ← freezeRows h t rest
    return n + 1

/-- Whether a move list's entry can be carried out (R227). -/
def moveOk (t : TableRec) (x : Nat × Nat) : Bool :=
  t.holds x.1 && decide (x.2 < 2 ^ 60 ∧ x.2 % 2 ^ 48 + t.used ≤ 2 ^ 48)

/-- TABLE_SWITCH with MODE 1 (R227): the checks, and the freezing of rows as earlier ones are done. It ends when every row
of the list has moved. -/
def tableMoveM (l : Line) : M (Nat × Nat × Nat) := do
  let h := lf l 16 4
  let c ← read
  let d ← getDev
  let (step, note) ← stepOf
  ensure (d.embOn && decide (h < d.handles ∧ lf l 24 1 ≤ 1)) stBounds
  if lf l 24 1 ≠ 1 then need
  if ! d.switchTurn h c.did then need
  let t ← handleRec h
  if step = 0 then
    let k := lf l 28 4
    ensure (decide (1 ≤ k ∧ k ≤ 4096) && t.valid) stBounds
    switchChecks l t (t.comp == c.comp)
    let bs ← rdV (lf l 8 8) (16 * k)
    let xs := (List.range k).map (fun i => (fld bs (16 * i) 8, fld bs (16 * i + 8) 8))
    ensure (t.remapN != 0 && xs.all (moveOk t)) stBounds
    let n ← freezeRows h t xs
    setStep (1 + n) (xs.flatMap (fun x => [x.1, x.2]))
    need
  else
    let n ← freezeRows h t ((movePairs note).drop (step - 1))
    setStep (step + n) note
    let d ← getDev
    if step + n - 1 = (movePairs note).length && ! d.rowMoves.any (fun m => m.desc == c.did) then
      return (stOk, (movePairs note).length, 0)
    need

/-- TABLE_MOVE (R228). -/
def execTableMove (q n : Nat) (s : State) : Host.Outcome State Fault Refusal := s.desc 0x1A q n tableMoveM

/-- Set a row that is being moved. -/
def Dev.setMove (d : Dev) (m x : RowMove) : Dev := { d with rowMoves := d.rowMoves.map (fun y => if y = m then x else y) }

/-- A MOVE ends with a status (R227, R229): its rows that have switched are those moved; the others stay in place, and sums that waited for
them go to their old copies. -/
def Dev.moveFails (d : Dev) (i : DescId) (st : Nat) : Dev :=
  match d.startedOf i.queue i.seq with
  | none => d
  | some r =>
    let left := d.rowMoves.countP (fun m => m.desc == i && decide (m.stage < 3))
    if r.phase ≠ .running then d
    else Dev.finish { d with rowMoves := d.rowMoves.filter (fun m => ! (m.desc == i && decide (m.stage < 3))) } i.queue i.seq st
      (r.step - 1 - left) 0

/-- Run a step of a row's move as its descriptor: what it gives, where it goes through; one that fails ends the MOVE. -/
def Dev.moveStep (d : Dev) (m : RowMove) (f : Ctx → RunSt → Dev) (p : M Unit) : Dev :=
  match (smGet? m.desc.queue d.queues).bind (fun x => (x.running.find? (fun r => r.seq == m.desc.seq)).map (fun r => (x, r))) with
  | none => d
  | some (x, r) =>
    let c := descCtx m.desc.queue x r
    match d.runM c p with
    | (.error .need, s) => s.d.setIssued c s.iss
    | (.error (.done st), s) => s.d.moveFails m.desc st
    | (.ok _, s) => f c s

/-- Copy a frozen row with its scale to its new place (R228 step 3). -/
def copyRowM (t : TableRec) (m : RowMove) : M Unit := do
  let (bs, ps) ← rdRaw m.src t.used
  wrMixed m.dst (poisonRuns (bs.zip ps))

/-- Carry out the writes of a row's copy: those to another node are acknowledged, so that their end is known (R228 step 3). -/
def Dev.copyOutRow (d : Dev) (c : Ctx) (m : RowMove) (log : List LogRun) : Dev :=
  log.foldl (fun d r =>
    if d.isOwn r.fa then Dev.commitRun c d r
    else
      let (data, k) := runLine r
      d.writeOut (r.fa / 2 ^ 48) c.sidx 2 (leBytes 8 (64 * (r.fa / 64)) ++ leBytes 8 k.toNat ++ lineBytes data) true r.poison
        (.rowMove m.desc m.handle m.row)) d

/-- Write a row's remap entry (R228 step 4); a move to the row's original place clears the entry. -/
def remapRowM (t : TableRec) (m : RowMove) : M Unit := do
  let (hit, free) ← remapFind t.remapAt t.remapN m.row t.remapN (m.row % t.remapN) none
  if m.dst = t.home m.row then
    match hit with
    | some (i, _) => wrOwn (t.remapAt + 16 * i) (List.replicate 16 0)
    | none => pure ()
  else
    match (match hit with | some (i, _) => some i | none => free) with
    | some i => wrOwn (t.remapAt + 16 * i) (leBytes 8 (2 ^ 63 + m.row) ++ leBytes 8 m.dst)
    | none => halt stTierFull

/-- Whether the copy of a row is visible at FABRIC scope, and every earlier row of its list has switched (R227, R228). -/
def Dev.moveReady (d : Dev) (m : RowMove) : Bool :=
  ! d.fabOut.any (fun o => o.owner == .rowMove m.desc m.handle m.row)
  && ! d.parity.any (fun p => match p.forReq with | some (.desc a b _ _) => a == m.desc.queue && b == m.desc.seq | _ => false)
  && (d.rowMoves.find? (fun y => y.desc == m.desc && decide (y.stage < 3))) == some m

/-- ROW_MOVE_STEP (R228): the row's copy is made and sent; then, as it is visible and its turn in the list has come, its remap entry is
written and the cached copy of the old place dropped, so that sums that waited are applied to the new copy; and when none waits, the freeze
ends. A move that fails ends its descriptor and leaves the rows that have not switched in place (R229). -/
def Dev.rowMoved (d : Dev) (h row : Nat) : Dev :=
  match d.rowMoves.find? (fun m => m.handle == h && m.row == row) with
  | none => d
  | some m =>
    let t := d.tableAt h
    if m.stage = 1 then
      d.moveStep m (fun c s => (((s.d.copyOutRow c m s.log).chargeAcc c s.acc).setMove m { m with stage := 2 }).modStarted m.desc.queue m.desc.seq
        (fun r => { r with remote := [] })) (copyRowM t m)
    else if m.stage = 2 then
      if ! d.moveReady m then d
      else d.moveStep m (fun c s =>
        let d := ((Dev.commit c s.d s.log).chargeAcc c s.acc).setMove m { m with stage := 3 }
        { d with rowCache := d.rowCache.filter (fun y => ! (y.handle == h && d.isOwn m.src && y.off == faOff m.src)) }) (remapRowM t m)
    else if m.waiters.any d.runs then d
    else { d with rowMoves := d.rowMoves.erase m }

/-- ROW_MOVE_STEP (R228). -/
def execRowMoveStep (handle row : Nat) (s : State) : Host.Outcome State Fault Refusal := s.onDev (fun d => d.rowMoved handle row)

/-! Registers (R231). -/

/-- SEC_LOCK.EMB (R381). -/
def lockEmb : Nat := 3

/-- Set a range of this Ndonte's store to zero, without poison. -/
def Dev.zeroRange (d : Dev) (off n : Nat) : Dev := { d with
  mem := smEraseRange off (off + n) d.mem
  pois := d.pois.filter (fun w => ! decide (off / 32 ≤ w ∧ 32 * w < off + n)) }

/-- The effect of a write of EMB_HTAB_BASE: as EN is written to 1, every handle is empty and the combining area is
cleared. -/
def Dev.writeHtab (d : Dev) (v : Nat) : Dev :=
  let d := d.setReg 0xB000 (bits v 47 6 * 64 + v % 2)
  if v % 2 = 0 then d
  else
    let d := { d with rowCache := [] }.zeroRange (d.handleAt 0) (64 * d.handles)
    d.zeroRange (bits (d.reg 0xB010) 47 16 * 65536) (1048576 * d.bays)

/-- EMB_HTAB_ENABLE (R231). -/
def execEmbHtabEnable (path : Path) (value : Nat) (s : State) : Host.Outcome State Fault Refusal :=
  .next (s.onPath path none false false 0xB000 (.embHtabEnable path value) (fun s =>
    if bit s.lock lockEmb then s else { s with dev := s.dev.writeHtab value }))

/-- Halve every counter of the row cache at the start of an accounting window (R222). -/
def Dev.rowDecay (d : Dev) : Dev := { d with rowCache := d.rowCache.map (fun r => { r with freq := r.freq / 2 }) }

end Sys2Proof.Machine
end

