-- ==== Sys2Proof/Machine/StreamCheck.lean ====
section
/-! DEFINITION. The stage array of a STREAM and its checks: fields and order, formats, lengths and scratch (R168 to R173). -/

namespace Sys2Proof.Machine

open Sys2Proof

/-- A stage record (R169), and its place in the list. -/
structure Stage where
  code : Nat
  fin : Nat
  fout : Nat
  op : Nat
  span : Nat
  aux : Nat
  p : Nat
  a : Nat
  b : Nat
  pos : Nat := 0
  deriving DecidableEq, Repr

/-- The stage that 32 bytes spell. -/
def stageOf (bs : List Byte) : Stage :=
  ⟨fld bs 0 1, fld bs 1 1, fld bs 2 1, fld bs 3 1, fld bs 4 2, fld bs 6 1, fld bs 8 8, fld bs 16 8, fld bs 24 8, 0⟩

/-- The families of R171: 0 sources, 1 decode, 2 compute, 3 reduce, 4 sinks. -/
def stageFamily (c : Nat) : Option Nat :=
  if 0x10 ≤ c ∧ c ≤ 0x14 then some 0
  else if 0x20 ≤ c ∧ c ≤ 0x22 then some 1
  else if 0x30 ≤ c ∧ c ≤ 0x34 then some 2
  else if 0x40 ≤ c ∧ c ≤ 0x45 then some 3
  else if 0x50 ≤ c ∧ c ≤ 0x53 then some 4
  else none

/-- The stage codes of R170 that rules name. -/
def scGather : Nat := 0x12
def scBlocks : Nat := 0x13
def scScan : Nat := 0x14
def scConvert : Nat := 0x20
def scKiln : Nat := 0x21
def scDequant : Nat := 0x22
def scDot : Nat := 0x30
def scScale : Nat := 0x31
def scBinary : Nat := 0x32
def scExp : Nat := 0x33
def scOpt : Nat := 0x34
def scTopk : Nat := 0x43
def scMerge : Nat := 0x44
def scCount : Nat := 0x45
def scWrite : Nat := 0x50
def scReturn : Nat := 0x51
def scScatter : Nat := 0x52
def scScatterAdd : Nat := 0x53

/-! Step 1 of R171: BOUNDS. -/

/-- The ranges that R170 gives a stage's own fields. -/
def Stage.inRange (s : Stage) : Bool :=
  let ends := stageFamily s.code == some 0 || stageFamily s.code == some 4
  (! ends || s.span == 0)
  && ((s.code != scGather && s.code != scScatter) || decide (s.op ≤ 1))
  && (s.code != scScatterAdd || s.op == 0)
  && (s.code != scBlocks || decide (1 ≤ s.p % 65536 ∧ s.p % 65536 ≤ 256))
  && (s.code != scScan || decide (8 ≤ s.p ∧ s.p ≤ 512))
  && (s.code != scDot || decide (1 ≤ s.p % 65536 ∧ s.p % 65536 ≤ 4096 ∧ s.op ≤ 1))
  && (s.code != scBinary || decide (s.op ≤ 4))
  && (s.code != scExp || decide (s.span ≤ 16))
  && (s.code != scOpt || decide (s.op ≤ 2))
  && (s.code != scTopk || decide (1 ≤ s.p ∧ s.p ≤ 1024 ∧ s.op ≤ 1 ∧ s.span = 1))

/-- Whether a stage may handle untyped bytes where its formats name them. -/
def Stage.untypedOk (s : Stage) : Bool :=
  (s.fin != 0x1F && s.fout != 0x1F) || stageFamily s.code == some 0 || s.code == scKiln || (s.code == scDot && s.op == 1)
  || s.code == scWrite || s.code == scReturn || s.code == scScatter

/-- Whether families never fall. -/
def rising : List Nat → Bool
  | a :: b :: r => decide (a ≤ b) && rising (b :: r)
  | _ => true

/-- The order of stages (R171). -/
def orderOk (ss : List Stage) : Bool :=
  let fams := ss.map (fun s => stageFamily s.code)
  let mid := (fams.drop 1).dropLast.filterMap id
  let pairs := ss.zip (ss.drop 1)
  fams.all Option.isSome && fams.head? == some (some 0) && fams.getLast? == some (some 4)
  && mid.all (fun f => decide (1 ≤ f ∧ f ≤ 3)) && rising mid && decide (mid.countP (· == 3) ≤ 1)
  && (ss.drop 2).all (fun s => s.code != scKiln)
  && pairs.all (fun x => (x.1.code == scExp) == (x.2.code == scMerge))
  && pairs.all (fun x => x.1.code != scOpt || x.2.code == scWrite)
  && ss.all Stage.untypedOk && ss.all Stage.inRange

/-! Step 2 of R171: FORMAT. -/

/-- The floating-point formats of the vector unit. -/
def vecFmt (f : Nat) : Bool := f == 0x00 || f == 0x01 || f == 0x02

/-- The class of an operand of a DOT (R164): 0 floating-point, 1 integer, 2 BIN1; none for others. -/
def dotClass (f : Nat) : Option Nat :=
  if isFloat f || isMx f || f == 0x12 then some 0 else if isIntFmt f then some 1 else if f == 0x11 then some 2 else none

/-- The formats of a DOT (R172). -/
def Stage.dotOk (s : Stage) : Bool :=
  if s.op = 1 then s.fin == 0x1F && s.aux == 0x1F && s.fout == 0x1F
  else if s.fin = 0x13 then s.aux == 0x01 && s.fout == 0x00
  else match dotClass s.fin, dotClass s.aux with
    | some 0, some 0 => vecFmt s.fout || s.fout == 0x03
    | some 1, some 1 => s.fout == 0x0E || s.fout == 0x0F
    | some 2, some 2 => s.fout == 0x0E
    | _, _ => false

/-- The formats of SCALE_BIAS, BINARY, EXP_ACC and the reduces (R172). -/
def Stage.vecOk (s : Stage) : Bool :=
  let ints := s.fin == 0x0E
  let out := if s.code = scMerge then s.fout == 0x00 || s.fout == 0x02
    else if s.code = scCount then s.fout == 0x0E
    else if ints then s.fout == 0x0E else vecFmt s.fout
  let auxed := (s.code == scScale && (s.a != 0 || s.b != 0)) || ((s.code == 0x40 || s.code == 0x41) && s.a != 0)
  (vecFmt s.fin || (ints && s.code != scExp && s.code != scMerge)) && out
  && (s.code != scBinary || s.aux == s.fin)
  && (! auxed || (if ints then s.aux == 0x0E else vecFmt s.aux))

/-- Whether a stage accepts its formats (R172). -/
def Stage.fmtOk (s : Stage) : Bool :=
  let known (f : Nat) : Bool := isFmt f
  if stageFamily s.code = some 0 ∨ s.code = scKiln then (known s.fin || s.fin == 0x1F) && s.fout == s.fin
  else if stageFamily s.code = some 4 then s.fout == s.fin
  else if s.code = scConvert then known s.fin && known s.fout && ((s.fin != 0x13 && s.fout != 0x13) || s.a != 0)
  else if s.code = scDequant then
    (isIntFmt s.fin || isFloat s.fin || isMx s.fin || s.fin == 0x12) && vecFmt s.fout && (vecFmt s.aux || s.aux == 0x03)
  else if s.code = scDot then s.dotOk
  else if s.code = scOpt then s.fin == 0x00 && emitFmts.contains s.fout
  else s.vecOk

/-- FMT_IN equals the FMT_OUT before it, and every stage accepts its formats. -/
def fmtsOk (ss : List Stage) : Bool :=
  ss.all Stage.fmtOk && (ss.zip (ss.drop 1)).all (fun x => x.2.fin == x.1.fout)

/-! Step 3 of R171: BOUNDS. -/

/-- What a stage emits: elements per vector, bytes per vector, and the elements it consumed. -/
structure Emits where
  len : Nat
  bytes : Nat
  span : Nat
  deriving DecidableEq, Repr

/-- The bytes of a vector; MX and KVL4 need a multiple of 32, packed elements whole bytes, and at most 65,536 elements. -/
def emits (f n span : Nat) : Option Emits :=
  match vecBytes f n with
  | some k => if n ≤ 65536 then some ⟨n, k, span⟩ else none
  | none => none

/-- Whether a PQ8 vector of dimension `n` in `m` codes is one of R161. -/
def pqOk (n m : Nat) : Bool := decide (8 ≤ m ∧ m ≤ 128 ∧ n % m = 0 ∧ 1 ≤ n / m ∧ n / m ≤ 16)

/-- What a stage after the source emits from vectors of `e`; none where a length or the use of scratch is out of bounds. -/
def Stage.next (s : Stage) (e : Emits) : Option Emits :=
  let sp := if s.span = 0 then e.len else s.span
  let car := e.len - sp
  if stageFamily s.code = some 4 then some ⟨e.len, e.bytes, e.len⟩
  else if sp > e.len || (vecBytes s.fin sp).isNone then none
  else if (s.fin == 0x13 || s.fout == 0x13) && s.code != scKiln && car != 0 then none
  else if s.code = scKiln then some ⟨e.len, e.bytes, e.len⟩
  else if s.code = scConvert then
    let n := s.p % 65536
    if s.fin = 0x13 ∧ s.fout = 0x13 then (if pqOk n sp then emits s.fout sp sp else none)
    else if s.fin = 0x13 then (if pqOk n sp then emits s.fout n sp else none)
    else if s.fout = 0x13 then (if pqOk sp n then emits s.fout n sp else none)
    else emits s.fout e.len sp
  else if s.code = scDot then
    let nr := s.p % 65536
    let size := if s.fin = 0x13 then some (512 * sp) else (vecBytes s.aux sp).map (nr * ·)
    match size with
    | none => none
    | some k => if k > 131072 || (s.fin == 0x13 && (nr != 1 || ! decide (8 ≤ sp ∧ sp ≤ 128))) then none else emits s.fout (nr + car) sp
  else if s.code = scExp then (if sp ≤ 16 then emits s.fout e.len sp else none)
  else if s.code = 0x40 ∨ s.code = 0x41 ∨ s.code = 0x42 then emits s.fout sp sp
  else if s.code = scCount then emits s.fout 1 sp
  else if s.code = scTopk then
    match vecBytes s.fout car with
    | some k => if s.p * (4 + k) ≤ 65536 then emits s.fout e.len sp else none
    | none => none
  else if s.code = scMerge then
    if sp = e.span ∧ 64 ≤ car ∧ car ≤ 256 then some ⟨sp * (2 + car), sp * (8 + car * elemBits s.fout / 8), sp⟩ else none
  else emits s.fout e.len sp

/-- What every stage emits; none where a check of step 3 fails. -/
def emitsAll : Emits → List Stage → Option (List Emits)
  | _, [] => some []
  | e, s :: ss => match s.next e with
    | none => none
    | some x => (emitsAll x ss).map (x :: ·)

/-- The checks of R171 on a stage array, in order: a status, or what each stage emits. -/
def streamChecks (elems : Nat) (ss : List Stage) : Except Nat (List Emits) :=
  if ! orderOk ss then .error stBounds
  else if ! fmtsOk ss then .error stFormat
  else match ss with
    | [] => .error stBounds
    | s :: rest => match emits s.fout elems 0 with
      | none => .error stBounds
      | some e => match emitsAll e rest with
        | none => .error stBounds
        | some es => .ok (e :: es)

end Sys2Proof.Machine
end

