-- ==== Sys2Proof/Machine/Stream.lean ====
section
/-! DEFINITION. Running a STREAM: sources, stages, reduces and sinks, with the check failures of its chunks and the bays'
working mode (R154, R155, R168 to R181). -/

namespace Sys2Proof.Machine

open Sys2Proof

/-- A vector on its way through a pipeline: its number at the source, its bytes in the present format with their poison, and
why it is not written (0 where nothing stands against it). -/
structure SVec where
  num : Nat
  bytes : List Byte
  pois : List Bool
  bad : Nat
  deriving DecidableEq, Repr

/-- A vector that is not written. -/
def SVec.spoil (v : SVec) (st : Nat) : SVec := ⟨v.num, [], [], st⟩

/-! Sources (R170). -/

/-- Read pieces of source data; `place` allows a T1 frame to be read in place through the kiln. -/
def srcPieces (place : Bool) : List (Nat × Nat) → M (List Byte × List Bool)
  | [] => pure ([], [])
  | (fa, n) :: rest => do
    let d ← getDev
    let (bs, ps) ← if place && d.isOwn fa && d.inPlace (faOff fa) then do
        atStage 1 (rdInPlace (faOff fa) n)
      else rdRaw fa n
    let (cs, qs) ← srcPieces place rest
    return (bs ++ cs, ps ++ qs)

/-- Cut an FA range at frames. -/
def faPieces (fa n : Nat) : List (Nat × Nat) := pagesOf fa n

/-- Read source data at a DVA. -/
def srcV (place : Bool) (dva n : Nat) : M (List Byte × List Bool) := do
  let ps ← xlateAll 1 (pagesOf dva n)
  srcPieces place ps

/-- The vectors of a list of addresses; none stands for a poisoned index. -/
def vectorsAt (rd1 : Nat → M (List Byte × List Bool)) : Nat → List (Option Nat) → M (List SVec)
  | _, [] => pure []
  | i, none :: rest => do
    let vs ← vectorsAt rd1 (i + 1) rest
    return ⟨i, [], [], stPoison⟩ :: vs
  | i, some a :: rest => do
    let (bs, ps) ← rd1 a
    let vs ← vectorsAt rd1 (i + 1) rest
    return ⟨i, bs, ps, 0⟩ :: vs

/-- The address of vector `i` of a STRIDED source; none where it lies below 0. -/
def stridedAt (a p i : Nat) : Option Nat :=
  let x : Int := Int.ofNat a + codeInt 64 p * Int.ofNat i
  if x < 0 then none else some x.toNat

/-- Read the indices of GATHER and SCATTER: none for a poisoned one; one that is negative, or not below the row count, gives BOUNDS. -/
def streamIndices (b w n rows : Nat) : M (List (Option Nat)) := do
  let k := indexBytes w
  let (bs, ps) ← rdRawV b (n * k)
  let is := (List.range n).map (fun i => if ((ps.drop (i * k)).take k).any id then none else some (indexAt w bs i))
  ensure (is.all (fun x => match x with
    | some i => decide (0 ≤ i ∧ i < Int.ofNat rows)
    | none => true)) stBounds
  return is.map (·.map Int.toNat)

/-- One listed block: its FA, its limit, and whether either was poisoned. -/
structure Block where
  fa : Nat
  limit : Nat
  bad : Bool

/-- The listed blocks of a BLOCKLIST (R170): a limit above the rows per block acts as them. -/
def listedBlocks (s : Stage) (n rows : Nat) (limits : Bool) : M (List Block) := do
  let (ab, ap) ← rdRawV s.a (8 * n)
  let (lb, lp) ← if limits && s.b != 0 then rdRawV s.b (4 * n) else pure ([], [])
  let bl := (List.range n).map (fun i => Block.mk (fld ab (8 * i) 8)
    (if limits && s.b != 0 then min rows (fld lb (4 * i) 4) else rows)
    (((ap.drop (8 * i)).take 8).any id || ((lp.drop (4 * i)).take 4).any id))
  ensure (bl.all (fun b => b.bad || decide (b.fa < 2 ^ 60))) stBounds
  return bl

/-- The rows of listed blocks, in list order, at most `left` before limits. -/
def blockRows (place kv : Bool) (rows rb : Nat) : Nat → Nat → List Block → M (List SVec)
  | _, _, [] => pure []
  | i, left, b :: rest => do
    let n := min (min rows left) b.limit
    let one (r : Nat) : M (List Byte × List Bool) := do
      let (bs, ps) ← srcPieces place (faPieces (b.fa + r * rb) rb)
      if ! kv then return (bs, ps)
      let (cs, qs) ← srcPieces place (faPieces (b.fa + (rows + r) * rb) rb)
      return (bs ++ cs, ps ++ qs)
    let here ← vectorsAt one i ((List.range n).map (fun r => if b.bad then none else some r))
    let more ← blockRows place kv rows rb (i + n) (left - rows) rest
    return here ++ more

/-- The columns of a BLOCKLIST with ACROSS: each block's elements with the poison of each; none where the block is bad. -/
def blockColumns (place : Bool) (f n : Nat) : List Block → M (List (Option (List Val × List Bool)))
  | [] => pure []
  | b :: rest => do
    let unit := if isMx f || f == 0x12 then 32 else 8
    let m := ceilDiv n unit * unit
    let k := (vecBytes f m).getD 0
    let col ← if b.bad then pure none else do
      let (bs, ps) ← srcPieces place (faPieces b.fa k)
      match decVec f m bs with
      | none => halt stFormat
      | some vs =>
        let ub := k / (m / unit)
        pure (some (vs.take n, (List.range n).map (fun t => ((ps.drop (t / unit * ub)).take ub).any id)))
    let more ← blockColumns place f n rest
    return col :: more

/-- The vectors of a BLOCKLIST with ACROSS: vector `t` holds element `t` of each block. -/
def acrossVecs (f n : Nat) (cols : List (Option (List Val × List Bool))) : List SVec :=
  (List.range n).map (fun t =>
    if cols.any (fun c => match c with | none => true | some (_, ps) => nth ps t false) then ⟨t, [], [], stPoison⟩
    else match encVec f (cols.map (fun c => match c with | some (vs, _) => nth vs t .nan | none => .nan)) with
      | some bs => ⟨t, bs, List.replicate bs.length false, 0⟩
      | none => ⟨t, [], [], stFormat⟩)

/-- The vectors of the source. -/
def sourceVecs (s : Stage) (place : Bool) (elems vecs vb : Nat) : M (List SVec) := do
  if s.code = scGather then
    let is ← streamIndices s.b s.op vecs (s.p / 2 ^ 24)
    vectorsAt (fun a => srcV place a vb) 0 (is.map (·.map (fun i => s.a + i * (s.p % 2 ^ 24))))
  else if s.code = scBlocks then
    if bit s.op 1 then
      let bl ← listedBlocks s elems 1 false
      let cols ← blockColumns place s.fout vecs bl
      return acrossVecs s.fout vecs cols
    else
      let rows := s.p % 65536
      let kv := bit s.op 0
      let half := if elems % 2 = 0 then vecBytes s.fout (elems / 2) else none
      ensure (! kv || half.isSome) stBounds
      let bl ← listedBlocks s (ceilDiv vecs rows) rows true
      blockRows place kv rows (if kv then half.getD 0 else vb) 0 vecs bl
  else if s.code = scScan then
    ensure (decide (vb ≤ s.p ∧ s.a < 2 ^ 60)) stBounds
    let per := 4096 / s.p
    vectorsAt (fun a => srcPieces true (faPieces a vb)) 0
      ((List.range vecs).map (fun i => some (s.a + 4096 * (i / per) + s.p * (i % per))))
  else if s.code = 0x11 then
    let at_ := (List.range vecs).map (stridedAt s.a s.p)
    ensure (at_.all Option.isSome) stBounds
    vectorsAt (fun a => srcV place a vb) 0 at_
  else
    ensure (dvaFits s.a (vecs * vb)) stBounds
    let (bs, ps) ← srcV place s.a (vecs * vb)
    return (List.range vecs).map (fun i => ⟨i, slice bs (i * vb) vb, (ps.drop (i * vb)).take vb, 0⟩)

/-! Operands held per bay (R170, R173). -/

/-- A stage's resident operand: up to two arrays of bytes, and whether either is poisoned. -/
structure Operand where
  bytes : List Byte
  more : List Byte
  bad : Bool

/-- Read a stage's resident operand. That of OPT_UPDATE is checked as OPT_STEP's is (R257, R258). -/
def operandOf (s : Stage) (e : Emits) : M Operand := do
  let get2 (a n b k : Nat) : M Operand := do
    let (xs, ps) ← if n = 0 then pure ([], []) else rdRawV a n
    let (ys, qs) ← if k = 0 then pure ([], []) else rdRawV b k
    return ⟨xs, ys, ps.any id || qs.any id⟩
  if s.code = scDot then
    get2 s.a (if s.fin = 0x13 then 512 * e.span else s.p % 65536 * (vecBytes s.aux e.span).getD 0) 0 0
  else if s.code = scScale then
    let n := (vecBytes s.aux e.span).getD 0
    get2 s.a (if s.a = 0 then 0 else n) s.b (if s.b = 0 then 0 else n)
  else if s.code = scConvert ∧ (s.fin = 0x13 ∨ s.fout = 0x13) then
    get2 s.a (512 * (if s.fin = 0x13 then s.p % 65536 else e.span)) 0 0
  else if s.code = scOpt then
    ensure (decide (s.a % 64 = 0 ∧ s.b % 64 = 0)) stBounds
    let hb ← rdV s.a 64
    let sb ← rdV s.b 64
    let st := optState sb
    ensure (hypOk s.op (optHyp hb) && st.inRange s.op && st.rowLen == e.span) stBounds
    ensure (st.fmtsOk s.op) stFormat
    return ⟨hb, sb, false⟩
  else return ⟨[], [], false⟩

/-- Read the operands of the stages after the source. -/
def operands : List (Stage × Emits) → M (List Operand)
  | [] => pure []
  | (s, e) :: rest => do
    let o ← atStage s.pos (operandOf s e)
    let os ← operands rest
    return o :: os

/-! Stages (R170). -/

/-- The integer of a value of an integer format. -/
def intOf (v : Val) : Int := (toInt 32 v).getD 0

/-- A saturating INT32 dot product, in the order of a dot (R164). -/
def dotInt (k v : Nat) (a b : List Val) : Val :=
  ofInt ((dotPairs k v a b).foldl (fun s p => satInt 32 (s + intOf p.1 * intOf p.2)) 0)

/-- The Hamming distance of two sign vectors (R162). -/
def dotBin (a b : List Val) : Val :=
  ofInt (Int.ofNat ((List.zipWith Prod.mk a b).countP (fun p => p.1.lt zero32 != p.2.lt zero32)))

/-- The exclusive or of byte products (R311). -/
def dotGf (a b : List Byte) : Byte :=
  BitVec.ofNat 8 ((List.zipWith (fun x y => gfMul x.toNat y.toNat) a b).foldl (· ^^^ ·) 0)

/-- The results of a DOT; none when a row of the operand is malformed. -/
def dotStage (s : Stage) (sp : Nat) (o : Operand) (raw : List Byte) (x : List Val) : M (Option (List Val)) := do
  let n := (vecBytes s.aux sp).getD 0
  let nr := s.p % 65536
  let row (r : Nat) : List Byte := slice o.bytes (r * n) n
  if s.fin = 0x13 then return some [pqDist o.bytes (raw.take sp)]
  else if s.op = 1 then return some ((List.range nr).map (fun r => ofInt (Int.ofNat (dotGf (raw.take sp) (row r)).toNat)))
  else
    let k := dotCut s.fin s.aux nr sp
    let v ← stepsM k sp
    return (List.range nr).foldr (fun r acc => match acc, decVec s.aux sp (row r) with
      | some ys, some w => some ((match dotClass s.fin with
          | some 1 => dotInt k (Config.stepOrder v r) x w
          | some 2 => dotBin x w
          | _ => dot32 k (Config.stepOrder v r) x w) :: ys)
      | _, _ => none) (some [])

/-- x × a + b. The FP32 scale and bias of P are converted for an INT32 stream (R163); none is FORMAT: a NaN has no integer (R165). -/
def scaleStage (s : Stage) (sp : Nat) (o : Operand) (x : List Val) : Option (List Val) :=
  let ints := s.fin == 0x0E
  let one (w : Nat) : Option Val := if ints then (toInt 32 (v32 w)).map ofInt else some (v32 w)
  let a := if s.a = 0 then (one (s.p % 2 ^ 32)).map (List.replicate sp) else some ((decVec s.aux sp o.bytes).getD [])
  let b := if s.b = 0 then (one (s.p / 2 ^ 32)).map (List.replicate sp) else some ((decVec s.aux sp o.more).getD [])
  match a, b with
  | some a, some b => some (List.zipWith (fun x (c : Val × Val) =>
      if ints then ofInt (satInt 32 (intOf x * intOf c.1 + intOf c.2)) else ffma x c.1 c.2) x (a.zip b))
  | _, _ => none

/-- x op y. -/
def binaryOp (ints : Bool) (op : Nat) (x y : Val) : Val :=
  if ints then
    let a := intOf x
    let b := intOf y
    ofInt (satInt 32 (if op = 0 then a + b else if op = 1 then a - b else if op = 2 then a * b else if op = 3 then max a b else min a b))
  else if op = 0 then fadd x y else if op = 1 then fsub x y else if op = 2 then fmul x y else if op = 3 then fmax x y else fmin x y

/-- The elements of a vector; none when they cannot be decoded. -/
def SVec.decode (s : Stage) (len : Nat) (o : Operand) (v : SVec) : Option (List Val) :=
  if s.code = scConvert ∧ s.fin = 0x13 then some (decPq8 (s.p % 65536) o.bytes v.bytes) else decVec s.fin len v.bytes

/-- The vector that a stage's result spells. -/
def SVec.encode (s : Stage) (o : Operand) (v : SVec) (xs : List Val) : SVec :=
  let out := if s.code = scConvert ∧ s.fout = 0x13 then
      encPq8 (if s.fin = 0x13 then v.bytes.length else s.p % 65536) o.bytes xs
    else encVec s.fout xs
  match out with
  | some bs => ⟨v.num, bs, List.replicate bs.length false, 0⟩
  | none => v.spoil stFormat

/-- Pass a vector through a decode or compute stage other than EXP_ACC and OPT_UPDATE. `e` says what the stage receives, `sp` what it
consumes. -/
def stageVec (s : Stage) (len sp : Nat) (o : Operand) (v : SVec) : M SVec := do
  if v.bad ≠ 0 || s.code == scKiln then return v
  if v.pois.any id || o.bad then return v.spoil stPoison
  match v.decode s len o with
  | none => return v.spoil stFormat
  | some all =>
    let x := all.take sp
    let car := all.drop sp
    if s.code = scConvert then return v.encode s o all
    else if s.code = scDot then match ← dotStage s sp o v.bytes x with
      | none => return v.spoil stFormat
      | some ys => return v.encode s o (ys ++ car)
    else if s.code = scScale then match scaleStage s sp o x with
      | none => return v.spoil stFormat
      | some ys => return v.encode s o (ys ++ car)
    else if s.code = scDequant then
      let k := elemBits s.aux / 8
      let idx (e : Nat) : Nat := if s.p = 0 then v.num else (v.num * sp + e) / s.p
      let lo := idx 0
      let (bs, ps) ← rdRawV (s.a + lo * k) ((idx (sp - 1) + 1 - lo) * k)
      if ps.any id then return v.spoil stPoison
      let ys := (List.range sp).map (fun e => fmul (nth x e .nan) (decElem s.aux (fld bs ((idx e - lo) * k) k)))
      return v.encode s o (ys ++ car)
    else if s.code = scBinary then
      let n := (vecBytes s.aux sp).getD 0
      let (bs, ps) ← rdRawV (s.b + v.num * n) n
      if ps.any id then return v.spoil stPoison
      return v.encode s o (List.zipWith (binaryOp (s.fin == 0x0E) s.op) x ((decVec s.aux sp bs).getD []) ++ car)
    else return v

/-- Pass every vector through a stage. -/
def stageVecs (s : Stage) (len sp : Nat) (o : Operand) : List SVec → M (List SVec)
  | [] => pure []
  | v :: vs => do
    let x ← atStage s.pos (stageVec s len sp o v)
    let xs ← stageVecs s len sp o vs
    return x :: xs

/-! Reduces (R167, R170, R174). -/

/-- The status of a group that holds vectors which are not written. -/
def groupBad (vs : List SVec) : Nat := vs.foldl (fun a v => worse a v.bad) 0

/-- A vector as a reduce takes it: poison of bytes not yet consumed counts. -/
def SVec.consumed (v : SVec) : SVec := if v.bad = 0 && v.pois.any id then v.spoil stPoison else v

/-- The groups of a reduce (R170): by offsets with SEG, otherwise P vectors each. -/
def reduceGroups (s : Stage) (vs : List SVec) : M (List (List SVec)) := do
  let seg := if s.code = scCount then s.b != 0 else bit s.op 0
  if seg then
    ensure (decide (s.p ≥ 1)) stBounds
    let bs ← rdV s.b (8 * (s.p + 1))
    let os := (List.range (s.p + 1)).map (indexAt 1 bs)
    ensure (decide (0 ≤ os.headD 0) && (os.zip (os.drop 1)).all (fun x => decide (x.1 ≤ x.2))) stBounds
    return (os.zip (os.drop 1)).map (fun x => vs.filter (fun v => decide (x.1 ≤ Int.ofNat v.num ∧ Int.ofNat v.num < x.2)))
  else if s.p = 0 then return [vs]
  else return (List.range (ceilDiv vs.length s.p)).map (fun g => vs.filter (fun v => v.num / s.p == g))

/-- The mean of INT32 sums: the quotient rounded once; over a weight sum of zero it is open. -/
def intMean (sum w : Int) : M Val := do
  if w = 0 then
    let v ← freeM
    return ofInt (codeInt 32 v)
  let r := Int.ofNat (roundDiv sum.natAbs w.natAbs)
  return ofInt (satInt 32 (if decide (sum < 0) != decide (w < 0) then -r else r))

/-- Apply a computation to every element in turn. -/
def eachM (f : α → M β) : List α → M (List β)
  | [] => pure []
  | x :: xs => do
    let y ← f x
    let ys ← eachM f xs
    return y :: ys

/-- The result of one group of SUM, MEAN, MAX or COUNT, over its decoded vectors with their weights. -/
def reduceGroup (s : Stage) (sp : Nat) (xs : List (List Val × Val)) : M (List Val) := do
  let ints := s.fin == 0x0E
  if s.code = scCount then
    return [ofInt (Int.ofNat (if s.op % 2 = 0 then xs.length else xs.countP (fun x => ! (x.1.headD zero32).isZero)))]
  else if xs.isEmpty then return List.replicate sp zero32
  else
    let parts ← arrivals xs
    if s.code = 0x42 then
      let rows := (parts.flatMap id).map (·.1)
      return (if ints then (match rows with
          | [] => []
          | r :: rs => rs.foldl (fun a x => List.zipWith (fun p q => ofInt (max (intOf p) (intOf q))) a x) r)
        else poolMax sp rows)
    else if ints then
      let sums := (parts.flatMap id).foldl (fun (a : List Int × Int) x =>
        (List.zipWith (fun p q => satInt 32 (p + intOf x.2 * intOf q)) a.1 x.1, satInt 32 (a.2 + intOf x.2))) (List.replicate sp 0, 0)
      if s.code = 0x41 then eachM (fun p => intMean p sums.2) sums.1 else return sums.1.map ofInt
    else
      let (v, w) := poolSum sp parts
      return (if s.code = 0x41 then v.map (fun x => fdiv x w) else v)

/-- The weight of a vector: 1 without weights, none for a poisoned one. -/
def weightAt (s : Stage) (v : SVec) : M (Option Val) := do
  if s.a = 0 || ! (s.code == 0x40 || s.code == 0x41) then return some (if s.fin = 0x0E then ofInt 1 else one32)
  let k := elemBits s.aux / 8
  let (bs, ps) ← rdRawV (s.a + v.num * k) k
  return (if ps.any id then none else some (decElem s.aux (leNat bs)))

/-- Reduce the groups of SUM, MEAN, MAX or COUNT. -/
def reduceVecs (s : Stage) (len sp : Nat) : Nat → List (List SVec) → M (List SVec)
  | _, [] => pure []
  | g, vs :: rest => do
    let ws ← eachM (weightAt s) vs
    let b := groupBad vs
    let out ← if b ≠ 0 then pure (SVec.mk g [] [] b)
      else if ws.any Option.isNone then pure (SVec.mk g [] [] stPoison)
      else do
        let xs := (vs.zip ws).filterMap (fun x =>
          if x.1.bad ≠ 0 then none else some ((((decVec s.fin len x.1.bytes).getD []).take sp), x.2.getD zero32))
        let r ← reduceGroup s sp xs
        pure (match encVec s.fout r with
          | some bs => SVec.mk g bs (List.replicate bs.length false) 0
          | none => SVec.mk g [] [] stFormat)
    let more ← reduceVecs s len sp (g + 1) rest
    return out :: more

/-- Insert a candidate behind those that come before it or equal it. -/
def insertKey (before : Val → Val → Bool) (x : Val × SVec) : List (Val × SVec) → List (Val × SVec)
  | [] => [x]
  | y :: ys => if before x.1 y.1 then x :: y :: ys else y :: insertKey before x ys

/-- The key of a candidate: a NaN key stands where a free value puts it. -/
def topKey (s : Stage) (v : SVec) : M Val := do
  let k := ((decVec s.fin 1 (slice v.bytes 0 (elemBits s.fin / 8))).getD []).headD zero32
  if k = .nan then
    let x ← freeM
    let y := v32 x
    return (if y = .nan then zero32 else y)
  return k

/-- TOPK (R170): the k best vectors, ordered by key, earlier arrivals first among equals. -/
def topkVecs (s : Stage) (len : Nat) (vs : List SVec) : M (List SVec × List Nat) := do
  let b := groupBad vs
  if b ≠ 0 then return ([], [b])
  let good := vs.filter (fun v => v.bad == 0)
  let ks ← eachM (topKey s) good
  let order ← arrivals (ks.zip good)
  let before (a b : Val) : Bool := if s.op = 0 then a.lt b else b.lt a
  let best := ((order.flatMap id).foldl (fun a x => insertKey before x a) []).take s.p
  let out := best.map (fun x => match (decVec s.fin len x.2.bytes).bind (encVec s.fout) with
    | some bs => SVec.mk x.2.num bs (List.replicate bs.length false) 0
    | none => x.2.spoil stFormat)
  return (out, if best.length < s.p then [stShort] else [])

/-- One vector into a head's running m, l and o (R170): the weight is emitted in the format of EXP_ACC and rounded to BF16
for the product. -/
def expRow (c : Val) (fout : Nat) (p : AttnPart) (x : Val × List Val) : AttnPart :=
  let s := fmul c x.1
  let up := p.m.lt s
  let a := if up then fexp (fsub p.m s) else one32
  let m := if up then s else p.m
  let w := fexp (fsub s m)
  let e := toBf16 (decElem fout ((encElem fout w).getD 0))
  ⟨m, ffma p.l a w, List.zipWith (fun o v => ffma e v (fmul o a)) p.o x.2⟩

/-- EXP_ACC and SOFTMAX_MERGE together: one vector of m, l and o for each head. -/
def mergeVecs (e m : Stage) (len g : Nat) (vs : List SVec) : M (List SVec) := do
  let b := groupBad vs
  if b ≠ 0 then return [⟨0, [], [], b⟩]
  let dim := len - g
  let rows := vs.filterMap (fun v => decVec e.fin len v.bytes)
  if rows.length < vs.length then return [⟨0, [], [], stFormat⟩]
  let conv (xs : List Val) : List Val := xs.map (fun x => decElem e.fout ((encElem e.fout x).getD 0))
  let parts ← arrivals (rows.map (fun r => (r.take g, conv (r.drop g))))
  let c := v32 (e.p % 2 ^ 32)
  let head (i : Nat) : AttnPart := attnMerge dim (parts.map (fun rs =>
    rs.foldl (fun p r => expRow c e.fout p (nth r.1 i .nan, r.2)) (AttnPart.none dim)))
  let bs := (List.range g).flatMap (fun i => attnRecord m.fout (head i))
  return [⟨0, bs, List.replicate bs.length false, 0⟩]

/-! The pipeline. -/

/-- Pass the vectors through the stages between source and sink, and note the statuses of reduces. -/
def runStages : Emits → List (Stage × Emits × Operand) → List SVec → M (List SVec × List Nat)
  | _, [], vs => pure (vs, [])
  | e, (s, x, o) :: rest, vs => do
    if s.code = scExp then
      match rest with
      | (m, y, _) :: rest => do
        let out ← mergeVecs s m e.len x.span (vs.map SVec.consumed)
        runStages y rest out
      | [] => return (vs, [])
    else if s.code = scTopk then
      let (out, sts) ← topkVecs s e.len (vs.map SVec.consumed)
      let (r, more) ← runStages x rest out
      return (r, sts ++ more)
    else if stageFamily s.code = some 3 then
      let gs ← atStage s.pos (reduceGroups s (vs.map SVec.consumed))
      let out ← atStage s.pos (reduceVecs s e.len x.span 0 gs)
      runStages x rest out
    else
      let out ← stageVecs s e.len x.span o vs
      runStages x rest out

/-! Sinks (R170). -/

/-- Write vectors one after another from an address on; `fa` says that it is an FA. -/
def sinkWrite (fa : Bool) (a size : Nat) : Nat → List SVec → M (List Nat)
  | _, [] => pure []
  | j, v :: vs => do
    let at_ := a + j * size
    if v.bad = 0 then
      if fa then wrMixed at_ (poisonRuns (v.bytes.zip v.pois))
      else
        let dests ← xlateAll 2 (pagesOf at_ v.bytes.length)
        wrPiecesMixed dests (v.bytes.zip v.pois)
    let sts ← sinkWrite fa a size (j + 1) vs
    let own := if v.bad ≠ 0 then [v.bad] else if v.pois.any id then [stPoison] else []
    return own ++ sts

/-- Set bits of the bitmap at A by atomic ORs. -/
def sinkBits (a : Nat) : List (Option Nat) → M (List Nat)
  | [] => pure []
  | none :: is => do
    let sts ← sinkBits a is
    return stPoison :: sts
  | some i :: is => do
    let at_ := a + i / 8
    let fa ← xlate (at_ / 8 * 8) 7
    let _ ← atom fa 1 (2 ^ (8 * (at_ % 8) + i % 8)) 0
    sinkBits a is

/-- The vectors that name each row, in the order of first mention. -/
def namedRows (vs : List (SVec × Option Nat)) : List (Nat × List Nat) :=
  groupRows (((List.range vs.length).zip vs).filterMap (fun x => match x.2.2 with
    | some r => if x.2.1.bad = 0 then some (r, x.1) else none
    | none => none))

/-- Write rows, one of the vectors that name each. -/
def sinkRows (s : Stage) (vs : List SVec) : List (Nat × List Nat) → M Unit
  | [] => pure ()
  | (r, is) :: rest => do
    let k ← if is.length ≤ 1 then pure 0 else freeM
    match vs[nth is (k % is.length) 0]? with
    | some v =>
      let dests ← xlateAll 2 (pagesOf (s.a + r * (s.p % 2 ^ 24)) v.bytes.length)
      wrPiecesMixed dests (v.bytes.zip v.pois)
    | none => pure ()
    sinkRows s vs rest

/-- A row with the vectors that name it added, combined in the order given (R225): in FP32, or in saturating INT32 (R164). -/
def addVecs (f len : Nat) (row : List Val) (parts : List (List (List Val))) : List Val :=
  if f = 0x0E then
    let add (a b : List Val) : List Val := List.zipWith (fun x y => ofInt (satInt 32 (intOf x + intOf y))) a b
    add row ((parts.flatMap id).foldl add (List.replicate len (ofInt 0)))
  else List.zipWith fadd row (sumVecs len parts)

/-- Add the vectors that name each row into it, combined (R225); a sink takes no row lock (R226). -/
def sinkAdd (s : Stage) (len : Nat) (vs : List SVec) : List (Nat × List Nat) → M (List Nat)
  | [] => pure []
  | (r, is) :: rest => do
    let n := (vecBytes s.fin len).getD 0
    let at_ := s.a + r * (s.p % 2 ^ 24)
    let parts ← arrivals (is.map (fun i => match vs[i]? with
      | some v => (decVec s.fin len v.bytes).getD []
      | none => []))
    let (old, ps) ← rdRawV at_ n
    let st ← if ps.any id || is.any (fun i => match vs[i]? with | some v => v.pois.any id | none => false) then pure [stPoison]
      else match (decVec s.fin len old).bind (fun x => encVec s.fin (addVecs s.fin len x parts)) with
        | none => pure [stFormat]
        | some bs => do
          wrV at_ bs
          pure []
    let sts ← sinkAdd s len vs rest
    return st ++ sts

/-- Hand the vectors to the sink: the statuses of those that are not written. -/
def sinkVecs (s : Stage) (e : Emits) (vs : List SVec) : M (List Nat) := do
  let spoiled := (vs.filter (fun v => v.bad != 0)).map (·.bad)
  if s.code = scWrite then sinkWrite false s.a e.bytes 0 vs
  else if s.code = scReturn then
    ensure (decide (s.a < 2 ^ 60)) stBounds
    sinkWrite true s.a e.bytes 0 vs
  else
    let is ← streamIndices s.b s.op vs.length (s.p / 2 ^ 24)
    if s.code == scScatter && s.op == 1 then
      let sts ← sinkBits s.a is
      return sts ++ spoiled
    let pois := if is.any Option.isNone then [stPoison] else []
    let rows := namedRows (vs.zip is)
    if s.code = scScatter then
      sinkRows s vs rows
      return pois ++ spoiled ++ (if vs.any (fun v => v.bad == 0 && v.pois.any id) then [stPoison] else [])
    else
      let sts ← sinkAdd s e.len vs rows
      return pois ++ spoiled ++ sts

/-- The rows of the OPT_UPDATE `s` that takes the vectors `vs`, emitted by the WRITE `sink` (R257): a vector of `len` elements, of which it
consumes `sp`. -/
def updateJobs (s sink : Stage) (len sp size rows : Nat) (vs : List SVec) : List OptJob :=
  ((List.range vs.length).zip vs).map (fun (x : Nat × SVec) => ⟨x.2.num, some (sink.a + x.1 * size), s.fout, do
    let v := x.2.consumed
    if v.bad ≠ 0 then return .error v.bad
    match decVec s.fin len v.bytes with
    | none => return .error stFormat
    | some xs =>
      ensure (decide (v.num < rows)) stBounds
      return .ok (xs.take sp, xs.drop sp)⟩)

/-- A stream that ends in OPT_UPDATE and WRITE (R257): each row is emitted before its state is written (R256). -/
def updateStream (s sink : Stage) (len sp size : Nat) (o : Operand) (vs : List SVec) (sts : List Nat) (source : Nat) :
    M (Nat × Nat × Nat) := do
  let st := optState o.more
  let t ← atStage s.pos (optAll st s.op (optHyp o.bytes) (s.p % 2 ^ 32) false (updateJobs s sink len sp size st.rows vs) sts)
  endRun (← mixedEnds (decide (t.upd > 0)) t.sts) (t.taken - t.stamped) source

/-- STREAM (R168 to R174). -/
def streamM (l : Line) : M (Nat × Nat × Nat) := do
  let stages := lf l 8 8
  let ns := lf l 16 1
  let elems := lf l 20 4
  let vecs := lf l 24 8
  ensure (decide (stages % 32 = 0 ∧ 2 ≤ ns ∧ ns ≤ 6 ∧ 1 ≤ elems ∧ elems ≤ 65536 ∧ 1 ≤ vecs ∧ vecs ≤ 2 ^ 40)) stBounds
  let bs ← rdV stages (32 * ns)
  let ss := (List.range ns).map (fun i => { stageOf (slice bs (32 * i) 32) with pos := i })
  match streamChecks elems ss with
  | .error st => halt st
  | .ok es =>
    let d ← getDev
    if d.noBay then halt stFenced
    match ss, es, ss.getLast?, es.getLast? with
    | src :: rest, e0 :: more, some sink, some e1 =>
      let mid := (rest.zip more).dropLast
      let os ← operands mid
      let place := (rest.head?.map (·.code)) == some scKiln
      let vs ← atStage 0 (sourceVecs src place elems vecs e0.bytes)
      let work := (mid.zip os).map (fun x => (x.1.1, x.1.2, x.2))
      match work.getLast?.filter (fun x => x.1.code == scOpt) with
      | some (s, x, o) =>
        let (out, sts) ← runStages e0 work.dropLast vs
        updateStream s sink x.len x.span e1.bytes o out sts vs.length
      | none =>
        let (out, sts) ← runStages e0 work vs
        let ends ← atStage sink.pos (sinkVecs sink e1 out)
        endRun (← mixedEnds (out.any (fun v => v.bad == 0)) (sts ++ ends)) out.length vs.length
    | _, _, _, _ => halt stBounds

/-! The bays' working mode (R154, R155). -/

/-- The mode that AUTO, OVR and SEL of ENG_MODE decide: true in thread mode. -/
def Dev.modeWanted (d : Dev) : Bool := if d.rf 0x9000 1 1 = 1 then d.rf 0x9000 2 2 == 1 else d.rf 0x9000 3 3 == 1

/-- The effect of a write of ENG_MODE: a change takes effect bay by bay, with BUSY until every bay has switched. -/
def Dev.writeMode (d : Dev) (v : Nat) : Dev :=
  let d := d.setRf 0x9000 2 1 (bits v 2 1)
  { d with modeBusy := d.modeBusy || d.modeWanted != d.threadMode }

/-- MODE_SWITCH (R155). -/
def execModeSwitch (path : Path) (value : Nat) (s : State) : Host.Outcome State Fault Refusal :=
  .next (s.onPathDev path none false false 0x9000 (.modeSwitch path value) (fun d => d.writeMode value))

/-- MODE_SWITCH_DONE (R155). -/
def execModeSwitchDone (s : State) : Host.Outcome State Fault Refusal :=
  s.onDev (fun d => if d.modeBusy then { d with threadMode := d.modeWanted, modeBusy := false } else d)

/-- STREAM (R174). -/
def execStreamRun (q n : Nat) (s : State) : Host.Outcome State Fault Refusal := s.desc 0x30 q n streamM

end Sys2Proof.Machine
end

