-- ==== Sys2Proof/Machine/AttnCmd.lean ====
section
/-! DEFINITION. The attention descriptors: ATTN_PARTIAL with its sub-descriptors to peers, KV_APPEND in its two modes with the
block registry, and the registry's registers (R184 to R205, R279). -/

namespace Sys2Proof.Machine

open Sys2Proof

/-! Sub-descriptors at the requester (R200, R279). -/

/-- The part of the list that goes to one peer: the node with its GRANT bit, and the blocks with their limits. -/
structure PeerPart where
  key : Nat
  blocks : List (Nat × Nat)

/-- Put a block into the part of its peer, in list order. -/
def addPeer (key : Nat) (b : Nat × Nat) : List PeerPart → List PeerPart
  | [] => [⟨key, [b]⟩]
  | p :: ps => if p.key = key then { p with blocks := p.blocks ++ [b] } :: ps else p :: addPeer key b ps

/-- The payload of a sub-descriptor. -/
def subPayload (queries : List Byte) (blocks : List (Nat × Nat)) (limits : Bool) : List Byte :=
  queries ++ blocks.flatMap (fun b => leBytes 8 b.1) ++ (if limits then blocks.flatMap (fun b => leBytes 4 b.2) else [])

/-- The fragments of a sub-descriptor: the head in the first, the number in each, LAST in the last. -/
def subFragments (head payload : List Byte) : List (List Byte) :=
  let cs := match chunks 16384 payload with
    | [] => [[]]
    | cs => cs
  (List.range cs.length).map (fun i =>
    leBytes 2 (i + (if i + 1 = cs.length then 2 ^ 15 else 0)) ++ (if i = 0 then slice head 2 30 else List.replicate 30 0) ++ nth cs i [])

/-- The head of a sub-descriptor. -/
def subHead (sh : AttnShape) (comp nblk : Nat) (limits inplace grant : Bool) : List Byte :=
  leBytes 2 0 ++ [1] ++ leBytes 1 sh.g ++ leBytes 2 sh.dim ++ leBytes 1 sh.kvfmt ++ leBytes 1 sh.qfmt ++ leBytes 2 (comp % 1024)
  ++ leBytes 2 (b2n limits + 2 * b2n inplace + 4 * b2n grant) ++ leBytes 4 sh.scale ++ leBytes 4 nblk ++ List.replicate 12 0

/-- Send a sub-descriptor: its fragments follow each other in one flow under one TAG, and one request stands for them. -/
def Dev.sendSub (d : Dev) (dst sidx : Nat) (frags : List (List Byte)) (owner : ReqFor) : Dev :=
  let f := (d.flowOut dst sidx).getD ⟨sidx, dst, 0, true, []⟩
  let ms := (List.range frags.length).map (fun i =>
    { d.ownMsg dst sidx 6 (nth frags i []) with first := f.fresh && i == 0, pin := true, ord := (f.next + i) % 1024 })
  let un := f.unacked ++ ms
  let before := flowWindow f.unacked
  let after := flowWindow un
  let d := { d with
    tagCtr := (d.tagCtr + 1) % 65536
    fabOut := d.fabOut ++ (ms.take 1).map (fun m => FabOut.mk m owner []) }
  let d := d.setFlowOut { f with next := (f.next + ms.length) % 1024, fresh := false, unacked := un }
  if before < f.unacked.length then d else d.sendAll ((un.take after).drop before)

/-- The parts that peers have returned to a run's descriptor, and the peers asked. -/
def partsOf : M (List PartIn × List Nat) := do
  let c ← read
  let d ← getDev
  return ((d.startedOf c.did.queue c.did.seq).map (fun r => (r.parts, r.sent))).getD ([], [])

/-- Note a part of a descriptor (R202). -/
def Dev.notePart (d : Dev) (i : DescId) (p : PartIn) : Dev :=
  d.modStarted i.queue i.seq (fun r => if r.parts.any (fun x => x.key == p.key) then r else { r with parts := r.parts ++ [p] })

/-- A part that has failed with a status. -/
def failedPart (key st : Nat) : PartIn := ⟨key, st, 2 ^ st, 0, 0, []⟩

/-- Send the sub-descriptors that have not gone yet; a peer that cannot be asked fails its part. -/
def sendParts (sh : AttnShape) (queries : List Byte) (limits inplace : Bool) : List PeerPart → M Unit
  | [] => pure ()
  | p :: ps => do
    let c ← read
    let d ← getDev
    let (_, sent) ← partsOf
    if ! sent.contains p.key then
      modDev (fun d => d.modStarted c.did.queue c.did.seq (fun r => { r with sent := r.sent ++ [p.key] }))
      match d.issueStatus (p.key / 2) with
      | some st => modDev (fun d => d.notePart c.did (failedPart p.key st))
      | none =>
        let head := subHead sh c.comp p.blocks.length limits inplace (p.key % 2 == 1)
        modDev (fun d => d.sendSub (p.key / 2) c.sidx (subFragments head (subPayload queries p.blocks limits)) (.subdesc c.did))
    sendParts sh queries limits inplace ps

/-! Classification (R199). -/

/-- Where a listed block goes: to this Ndonte's own bays, to a peer under an FA, or nowhere, being a failed part (R195). -/
inductive BlockAt where
  | here
  | peer (key fa : Nat)
  | fails (st : Nat)
  deriving DecidableEq, Repr

/-- The destination of a block (R199, R200): a frame of this Ndonte in T2 goes to the holder of its copy, named by the
copy's FA. A frame that is being promoted stays here (R201). -/
def Dev.classify (d : Dev) (fa : Nat) : BlockAt :=
  if ! d.isOwn fa then .peer (2 * (fa / 2 ^ 48)) fa
  else
    let f := faOff fa / 65536
    match d.entry f with
    | some e =>
      if e.tier = 2 ∧ ! e.psn ∧ (smGet? f d.moves).isNone then
        match smGet? e.loc d.remotes with
        | some r => .peer (2 * (r.addr / 2 ^ 48) + 1) (r.addr + fa % 65536)
        | none => .here
      else .here
    | none => .here

/-- Classify a block whose frame a copy holds: it is checked here as its reading here would be (R300). -/
def forwardCheck (fa : Nat) : BlockAt → M BlockAt
  | .peer key at_ => do
    let c ← read
    let d ← getDev
    if key % 2 = 0 then return .peer key at_
    let (st, d) := d.extCheck c (faOff fa) false
    modDev (fun _ => d)
    return if st = 0 then .peer key at_ else .fails st
  | x => pure x

/-- A list by destination: this Ndonte's own blocks, each peer's, and the statuses of the blocks that fail. -/
structure Sorted where
  own : List (Nat × Nat)
  peers : List PeerPart
  fails : List Nat

/-- Sort the blocks of a list by destination. Each is checked as it is classified (R195), one that fails is a failed part, and the rest go
on (DESIGN CHOICE, log entry 183). A limit of 0 skips the block (R186). -/
def sortBlocks (size : Nat) : List (Nat × Nat) → Sorted → M Sorted
  | [], a => pure a
  | (fa, limit) :: rest, a => do
    if ! (decide (fa < 2 ^ 60 ∧ limit ≤ 64) && blockOk fa size) then sortBlocks size rest { a with fails := a.fails ++ [stBounds] }
    else if limit = 0 then sortBlocks size rest a
    else
      let d ← getDev
      match ← forwardCheck fa (d.classify fa) with
      | .here => sortBlocks size rest { a with own := a.own ++ [(fa, limit)] }
      | .peer key at_ => sortBlocks size rest { a with peers := addPeer key (at_, limit) a.peers }
      | .fails st => sortBlocks size rest { a with fails := a.fails ++ [st] }

/-- The statuses that a peer's part reports (R137): its own, and those that its DETAIL shows. -/
def partStatuses (p : PartIn) : List Nat := p.status :: (List.range 16).filter (fun i => bit p.detail i)

/-- The pairs of a list. -/
def pairUp : List Nat → List (Nat × Nat)
  | a :: b :: rest => (a, b) :: pairUp rest
  | _ => []

/-- Split the list once: the blocks that stay here, the statuses of those that fail, and how many were forwarded. What has been handed over
stays there, wherever its frames go later. -/
def splitOnce (sh : AttnShape) (queries : List Byte) (limits inplace : Bool) (blocks : List (Nat × Nat)) :
    M (List (Nat × Nat) × List Nat × Nat) := do
  let (step, note) ← stepOf
  if step = 0 then
    let x ← sortBlocks (kvBlockBytes sh.kvfmt sh.dim) blocks ⟨[], [], []⟩
    sendParts sh queries limits inplace x.peers
    let forwarded := (x.peers.map (fun p => p.blocks.length)).foldl (· + ·) 0
    setStep 1 (forwarded :: x.fails.length :: x.fails ++ x.own.flatMap (fun b => [b.1, b.2]))
    return (x.own, x.fails, forwarded)
  else
    let n := nth note 1 0
    return (pairUp (note.drop (2 + n)), (note.drop 2).take n, note.headD 0)

/-- The record of each head in turn. -/
def writeRecords (result ofmt size : Nat) : Nat → List AttnPart → M Unit
  | _, [] => pure ()
  | g, p :: ps => do
    wrV (result + g * size) (attnRecord ofmt p)
    writeRecords result ofmt size (g + 1) ps

/-- ATTN_PARTIAL (R193 to R202). -/
def attnPartialM (l : Line) : M (Nat × Nat × Nat) := do
  let opb := lf l 8 8
  let result := lf l 16 8
  let n := lf l 24 4
  let inplace := bit (lf l 28 1) 0
  ensure (decide (1 ≤ n ∧ n ≤ 1048576 ∧ opb % 64 = 0)) stBounds
  let ob ← rdV opb 64
  let sh : AttnShape := ⟨fld ob 30 1, fld ob 28 2, fld ob 31 1, fld ob 32 1, fld ob 24 4⟩
  let ofmt := fld ob 33 1
  let st := attnShapeStatus sh ofmt
  ensure (st == stOk) st
  let d ← getDev
  if d.noBay then halt stFenced
  let qb ← atStage (1 + b2n inplace) (rdV (fld ob 0 8) (sh.g * (vecBytes sh.qfmt sh.dim).getD 0))
  let bb ← atStage 0 (rdV (fld ob 8 8) (8 * n))
  let limits := fld ob 16 8 != 0
  let lb ← if limits then atStage 0 (rdV (fld ob 16 8) (4 * n)) else pure []
  let blocks := (List.range n).map (fun i => (fld bb (8 * i) 8, if limits then fld lb (4 * i) 4 else 64))
  match queries sh qb with
  | none => halt stFormat
  | some qs =>
    let (own, fails, forwarded) ← splitOnce sh qb limits inplace blocks
    let cs ← attnChunks sh inplace own
    let (peers, sent) ← partsOf
    if sent.any (fun k => ! peers.any (fun p => p.key == k)) then need
    let parts := chunkParts cs
    let sts := fails ++ parts.flatMap partEnds ++ peers.flatMap partStatuses
    if sts.any (· != 0) then
      let c ← read
      modDev (fun d => sts.foldl (fun d st => d.noteStatus c.did.queue c.did.seq st) d)
      halt (sts.foldl worse 0)
    let size := 8 + sh.dim * 4
    let heads ← attnHeads sh parts (fun g => peers.map (fun p => recordPart sh.dim (slice p.recs (g * size) size))) 0 qs
    atStage (4 + b2n inplace) (allOrNone (writeRecords result ofmt (8 + sh.dim * (elemBits ofmt / 8)) 0 heads))
    let (rows, k) := chunkCounts cs
    let inPlace := k + (peers.map (fun p => p.res1 % 2 ^ 32)).foldl (· + ·) 0
    endRun [] (rows + (peers.map (·.res0)).foldl (· + ·) 0) (inPlace % 2 ^ 32 + 2 ^ 32 * forwarded)

/-- ATTN_PARTIAL (R196). -/
def execAttnPartial (q n : Nat) (s : State) : Host.Outcome State Fault Refusal := s.desc 0x10 q n attnPartialM

/-! The block registry (R190 to R192, R205). -/

/-- Whether the registry is in use, its buckets, and where it lies. -/
def Dev.regOn (d : Dev) : Bool := d.rf 0xA000 0 0 == 1
def Dev.regLog (d : Dev) : Nat := max 10 (min 24 (d.rf 0xA008 4 0))
def Dev.regBase (d : Dev) : Nat := bits (d.reg 0xA000) 47 8 * 256

/-- A registry entry. -/
structure RegEntry where
  fp : List Byte
  block : Nat
  refs : Nat
  comp : Nat
  valid : Bool
  deriving DecidableEq, Repr

/-- The entry that 32 bytes spell, and the bytes of one. -/
def regEntry (bs : List Byte) : RegEntry := ⟨slice bs 0 16, fld bs 16 8, fld bs 24 4, fld bs 28 2 % 1024, bit (fld bs 30 2) 0⟩
def regEntryBytes (e : RegEntry) : List Byte :=
  slice e.fp 0 16 ++ leBytes 8 e.block ++ leBytes 4 e.refs ++ leBytes 2 e.comp ++ leBytes 2 (b2n e.valid)

/-- The offset of a fingerprint's bucket. -/
def Dev.bucketAt (d : Dev) (fp : List Byte) : Nat := d.regBase + 256 * (fld fp 0 8 % 2 ^ d.regLog)

/-- The eight entries of a bucket. -/
def bucketOf (fp : List Byte) : M (List RegEntry) := do
  let d ← getDev
  let bs ← rdOwn (d.bucketAt fp) 256
  return (List.range 8).map (fun i => regEntry (slice bs (32 * i) 32))

/-- Write an entry of a bucket. -/
def wrEntry (fp : List Byte) (i : Nat) (bs : List Byte) : M Unit := do
  let d ← getDev
  wrOwn (d.bucketAt fp + 32 * i) bs

/-- The position of the entry that matches a fingerprint in a composition. -/
def matching (es : List RegEntry) (fp : List Byte) (comp : Nat) : Option Nat :=
  es.findIdx? (fun e => e.valid && e.fp == fp && e.comp == comp)

/-- RESULT1 of a seal or RELEASE (R191). -/
def sealResult (bits_ refs : Nat) : Nat := bits_ + 2 ^ 32 * refs

/-- Whether an entry's canonical block holds the same bytes, in a frame without LOSSY (R191). -/
def sameBlock (e : RegEntry) (bs : List Byte) : M Bool := do
  let d ← getDev
  let lossy := match d.entry (faOff e.block / 65536) with
    | some x => x.lossy
    | none => false
  if lossy then return false
  let cs ← rd e.block bs.length
  return cs == bs

/-- REFS after one more reference; beyond its largest value the rules state none. -/
def moreRefs (refs : Nat) : M Nat := do
  if refs + 1 < 2 ^ 32 then return refs + 1
  let v ← freeM
  return v % 2 ^ 32

/-- A seal with SHARE (R191): the results. -/
def shareBlock (fa : Nat) (fp bs : List Byte) : M (Nat × Nat) := do
  let c ← read
  let es ← bucketOf fp
  match matching es fp c.comp with
  | some i =>
    let e := nth es i ⟨[], 0, 0, 0, false⟩
    if ← sameBlock e bs then
      let refs ← moreRefs e.refs
      wrEntry fp i (regEntryBytes { e with refs := refs })
      modDev (fun d => d.stat 0xA010 31 16 1)
      return (e.block, sealResult 3 refs)
    else
      modDev (fun d => d.stat 0xA010 7 0 1)
      return (fa, sealResult 5 0)
  | none => match es.findIdx? (fun e => ! e.valid) with
    | some i =>
      wrEntry fp i (regEntryBytes ⟨fp, fa, 1, c.comp, true⟩)
      return (fa, sealResult 1 1)
    | none =>
      modDev (fun d => d.stat 0xA010 15 8 1)
      return (fa, sealResult 5 0)

/-! KV_APPEND (R187 to R191). -/

/-- A block's fingerprint (R189). -/
def fingerprint (prev : List Byte) (fmt dim : Nat) (block : List Byte) : List Byte :=
  (sha3 (slice prev 0 16 ++ leBytes 1 fmt ++ [0] ++ leBytes 2 dim ++ block)).take 16

/-- Convert rows of K or V from the source format to the block's (R188); rows of the same format are copied. None where a
row cannot be encoded. -/
def convertRows (sfmt kvfmt dim : Nat) (rows : List (List Byte)) : Option (List (List Byte)) :=
  rows.foldr (fun r acc => match acc with
    | none => none
    | some rs =>
      if sfmt = kvfmt then some (r :: rs)
      else match (decVec sfmt dim r).bind (encVec kvfmt) with
        | some x => some (x :: rs)
        | none => none) (some [])

/-- The seal of a block (R189, R191): the results. Without SHARE no rule states RESULT0. -/
def sealResults (l : Line) (fa size : Nat) : M (Nat × Nat) := do
  let prevAt := lf l 24 8
  let out := lf l 32 8
  let share := bit (lf l 47 1) 0
  if ! share && out == 0 then
    let v ← freeM
    return (v % 2 ^ 64, sealResult 1 0)
  else
    let prev ← if prevAt = 0 then pure (List.replicate 16 0) else rdV prevAt 16
    let bs ← rd fa size
    let fp := fingerprint prev (lf l 45 1) (lf l 40 2) bs
    if out ≠ 0 then wrV out fp
    if share then shareBlock fa fp bs
    else
      let v ← freeM
      return (v % 2 ^ 64, sealResult 1 0)

/-- The seal of a block, counted once it is done. -/
def sealBlock (l : Line) (fa size : Nat) : M (Nat × Nat) := do
  let x ← sealResults l fa size
  modDev (fun d => d.stat 0xA010 63 32 1)
  return x

/-- KV_APPEND with MODE 0 (R187 to R189). -/
def kvAppendM (l : Line) : M (Nat × Nat × Nat) := do
  let dim := lf l 40 2
  let pos := lf l 42 1
  let t := lf l 43 1
  let sfmt := lf l 44 1
  let kvfmt := lf l 45 1
  let mode := lf l 46 1
  let fl := lf l 47 1
  ensure (decide (mode ≤ 1)) stBounds
  if mode ≠ 0 then need
  ensure (okDim dim && decide (pos ≤ 63 ∧ 1 ≤ t ∧ pos + t ≤ 64 ∧ fl ≤ 1) && lf l 48 16 == 0) stBounds
  ensure (okKvFmt kvfmt && ([0x00, 0x01, 0x02].contains sfmt || sfmt == kvfmt)) stFormat
  ensure (dimFits dim kvfmt) stBounds
  let fa ← xlate (lf l 16 8) 2
  let rb := kvRowBytes kvfmt dim
  let size := kvBlockBytes kvfmt dim
  let d ← getDev
  ensure (blockOk fa size && d.isOwn fa) stBounds
  match d.entry (faOff fa / 65536) with
  | none => halt stBounds
  | some e =>
    ensure (! pLossy (d.precOf e)) stBounds
    let seals := decide (pos + t = 64)
    ensure (! (seals && bit fl 0 && ! d.regOn)) stBounds
    if d.noBay then halt stFenced
    let sb := (vecBytes sfmt dim).getD 0
    let src ← atStage 0 (rdV (lf l 8 8) (2 * t * sb))
    match convertRows sfmt kvfmt dim ((List.range (2 * t)).map (fun i => slice src (i * sb) sb)) with
    | none => halt stFormat
    | some rows =>
      atStage 2 (do
        wr (fa + pos * rb) (rows.take t).flatten
        wr (fa + (64 + pos) * rb) (rows.drop t).flatten)
      if ! seals then okRun
      else
        let (a, b) ← sealBlock l fa size
        return (stOk, a, b)

/-- KV_APPEND (R188). -/
def execKvAppend (q n : Nat) (s : State) : Host.Outcome State Fault Refusal := s.desc 0x11 q n kvAppendM

/-- KV_APPEND with MODE 1 (R191). -/
def kvReleaseM (l : Line) : M (Nat × Nat × Nat) := do
  ensure (decide (lf l 46 1 ≤ 1)) stBounds
  if lf l 46 1 ≠ 1 then need
  let c ← read
  let d ← getDev
  ensure d.regOn stBounds
  let fp ← rdV (lf l 8 8) 16
  let fa ← xlate (lf l 16 8) 1
  let es ← bucketOf fp
  match matching es fp c.comp with
  | none => halt stBounds
  | some i =>
    let e := nth es i ⟨[], 0, 0, 0, false⟩
    ensure (e.block == fa) stBounds
    let (v, d) := (← getDev).takeFree
    modDev (fun _ => d)
    if e.refs ≤ 1 then
      wrEntry fp i (List.replicate 32 0)
      return (stOk, v % 2 ^ 64, sealResult 8 0)
    else
      wrEntry fp i (regEntryBytes { e with refs := e.refs - 1 })
      return (stOk, v % 2 ^ 64, sealResult 0 (e.refs - 1))

/-- KV_RELEASE (R191). -/
def execKvRelease (q n : Nat) (s : State) : Host.Outcome State Fault Refusal := s.desc 0x11 q n kvReleaseM

/-! Registers (R205). -/

/-- SEC_LOCK.ATN (R381). -/
def lockAtn : Nat := 2

/-- The effect of a write of ATN_REG_BASE: as EN is written to 1, every entry is cleared. -/
def Dev.writeAtn (d : Dev) (v : Nat) : Dev :=
  let d := d.setReg 0xA000 (bits v 47 8 * 256 + v % 2)
  if v % 2 = 0 then d else d.zeroRange d.regBase (256 * 2 ^ d.regLog)

/-- ATN_REG_ENABLE (R205). -/
def execAtnRegEnable (path : Path) (value : Nat) (s : State) : Host.Outcome State Fault Refusal :=
  .next (s.onPath path none false false 0xA000 (.atnRegEnable path value) (fun s =>
    if bit s.lock lockAtn then s else { s with dev := s.dev.writeAtn value }))

end Sys2Proof.Machine
end

