-- ==== Sys2Proof/Machine/Vector.lean ====
section
/-! DEFINITION. Vector search on casks: index records, the choice of lists, scans and merges of VSEARCH, and VINSERT and
VDELETE (R232 to R250). -/

namespace Sys2Proof.Machine

open Sys2Proof

/-! Index records (R232, R250). -/

/-- An index record. -/
structure IndexRec where
  cent : Nat
  cnorm : Nat
  graph : Nat
  cgen : Nat
  ctomb : Nat
  lists : Nat
  region : Nat
  book : Nat
  tomb : Nat
  gen : Nat
  rerank : Nat
  ids : Nat
  nc : Nat
  rrstride : Nat
  dim : Nat
  e : Nat
  m : Nat
  cfmt : Nat
  rrfmt : Nat
  metric : Nat
  nentry : Nat
  flags : Nat
  comp : Nat

/-- The record that 128 bytes spell. -/
def indexRec (bs : List Byte) : IndexRec :=
  ⟨fld bs 0 8, fld bs 8 8, fld bs 16 8, fld bs 24 8, fld bs 32 8, fld bs 40 8, fld bs 48 8, fld bs 56 8, fld bs 64 8, fld bs 72 8,
    fld bs 80 8, fld bs 88 8, fld bs 96 4, fld bs 100 4, fld bs 104 2, fld bs 106 2, fld bs 108 1, fld bs 109 1, fld bs 110 1,
    fld bs 111 1, fld bs 112 1, fld bs 113 1, fld bs 114 2 % 1024⟩

/-- VALID, RESIDUAL and BIN1. -/
def IndexRec.valid (x : IndexRec) : Bool := bit x.flags 0
def IndexRec.residual (x : IndexRec) : Bool := bit x.flags 1
def IndexRec.bin1 (x : IndexRec) : Bool := bit x.flags 2

/-- The least size of an entry (R235). -/
def IndexRec.entryMin (x : IndexRec) : Nat := 8 * ceilDiv (8 + x.m + (if x.bin1 then x.dim / 8 else 0)) 8

/-- Whether a record keeps the ranges of R232 and names this Ndonte alone. -/
def IndexRec.ok (d : Dev) (x : IndexRec) : Bool :=
  let own (fa : Nat) : Bool := decide (fa < 2 ^ 60) && d.isOwn fa
  x.valid && [x.cent, x.cgen, x.ctomb, x.lists, x.region, x.book, x.tomb, x.gen].all own
  && ((x.metric != 0 && x.cnorm == 0) || own x.cnorm) && ((decide (x.nc ≤ 65536) && x.graph == 0) || own x.graph) && (x.rerank == 0 || own x.rerank)
  && decide (x.region % 65536 = 0 ∧ 1 ≤ x.ids ∧ x.ids ≤ 2 ^ 34 ∧ 1 ≤ x.nc ∧ x.nc ≤ 16777216 ∧ x.rrstride % 64 = 0)
  && decide (32 ≤ x.dim ∧ x.dim ≤ 4096 ∧ x.dim % 32 = 0 ∧ x.entryMin ≤ x.e ∧ x.e ≤ 512) && pqOk x.dim x.m
  && [0x01, 0x02, 0x03].contains x.cfmt && [0x00, 0x01, 0x02, 0x03].contains x.rrfmt
  && decide (x.metric ≤ 1 ∧ 1 ≤ x.nentry ∧ x.nentry ≤ 16)

/-- The bytes of the record that a descriptor copied as it started (R232): BOUNDS where it has none that is valid. -/
def boundIndex : M (List Byte) := do
  let d ← getDev
  let (_, note) ← stepOf
  match note with
  | [_, w] =>
    ensure ((indexRec (leBytes 128 w)).ok d) stBounds
    return leBytes 128 w
  | [] => halt stBounds
  | _ => halt stPoison

/-! Centroids (R233, R237). -/

/-- Row `c` of the centroids. -/
def centroid (x : IndexRec) (c : Nat) : M (List Val) := do
  let n := (vecBytes x.cfmt x.dim).getD 0
  let bs ← rd (x.cent + c * n) n
  return (decVec x.cfmt x.dim bs).getD []

/-- A query vector with the format it has. -/
structure Query where
  fmt : Nat
  vals : List Val

/-- The dot of a query and a centroid (R164). -/
def centDot (x : IndexRec) (q : Query) (row : List Val) : M Val := dotM q.fmt x.cfmt q.vals row

/-- The centroid distance of a query (R237). -/
def centDist (x : IndexRec) (q : Query) (c : Nat) : M Val := do
  let row ← centroid x c
  let dot ← centDot x q row
  if x.metric = 0 then
    let n := v32 (leNat (← rd (x.cnorm + 4 * c) 4))
    return fsub n (fmul (ofInt 2) dot)
  else return dot.neg

/-- The word by which a distance is ordered: a NaN stands where a free value puts it. -/
def orderKey (v : Val) : M Nat := do
  if v = .nan then
    let x ← freeM
    return f32 (if v32 x = .nan then zero32 else v32 x)
  else return f32 v

/-- Whether centroid `c` is tombstoned. -/
def centTomb (x : IndexRec) (c : Nat) : M Bool := do
  let bs ← rd (x.ctomb + c / 8) 1
  return bit (leNat bs) (c % 8)

/-- A centroid with the key of its distance, and whether it has been expanded. -/
structure Beam where
  c : Nat
  key : Nat
  done : Bool

/-- Put a centroid into a list ordered by distance, behind its equals, and keep the nearest `n`. -/
def beamInsert (n : Nat) (b : Beam) (bs : List Beam) : List Beam :=
  let rec go : List Beam → List Beam
    | [] => [b]
    | y :: ys => if (v32 b.key).lt (v32 y.key) then b :: y :: ys else y :: go ys
  (go bs).take n

/-- Keep the live centroids of a list. -/
def liveCents (x : IndexRec) : List Nat → M (List Nat)
  | [] => pure []
  | c :: cs => do
    let t ← centTomb x c
    let rest ← liveCents x cs
    return if t then rest else c :: rest

/-- Score the centroids of a list in turn into a beam. -/
def scoreInto (x : IndexRec) (q : Query) (n : Nat) : List Nat → List Beam → M (List Beam)
  | [], b => pure b
  | c :: cs, b => do
    let k ← orderKey (← centDist x q c)
    scoreInto x q n cs (beamInsert n ⟨c, k, false⟩ b)

/-- The flat ranking (R237): every live centroid, in an order of arrival that is open. -/
def flatProbe (x : IndexRec) (q : Query) (most : Nat) : M (List Nat) := do
  let live ← liveCents x (List.range x.nc)
  let order ← arrivals live
  let b ← scoreInto x q most (order.flatMap id) []
  return b.map (·.c)

/-- What the walk has: the beam, the centroids scored, the stale edges skipped. -/
structure Walk where
  beam : List Beam
  seen : List Nat
  stale : Nat

/-- The edges of a node in turn (R238). -/
def walkEdges (x : IndexRec) (q : Query) (n : Nat) : List Nat → Walk → M Walk
  | [], w => pure w
  | e :: es, w => do
    let t := e % 2 ^ 24
    if t = 0xFFFFFF then walkEdges x q n es w
    else if t ≥ x.nc then walkEdges x q n es { w with stale := w.stale + 1 }
    else
      let g := leNat (← rd (x.cgen + t) 1)
      if g ≠ e / 2 ^ 24 then walkEdges x q n es { w with stale := w.stale + 1 }
      else if w.seen.contains t then walkEdges x q n es w
      else
        let b ← scoreInto x q n [t] w.beam
        walkEdges x q n es { w with beam := b, seen := w.seen ++ [t] }

/-- The nodes of a hop, in the order in which their bays answer. -/
def walkNodes (x : IndexRec) (q : Query) (n : Nat) : List Nat → Walk → M Walk
  | [], w => pure w
  | c :: cs, w => do
    let bs ← rd (x.graph + 128 * c) 128
    let w ← walkEdges x q n ((List.range 32).map (fun i => fld bs (4 * i) 4)) w
    walkNodes x q n cs w

/-- The hops of the walk. -/
def walkHops (x : IndexRec) (q : Query) (n : Nat) : Nat → Walk → M Walk
  | 0, w => pure w
  | hops + 1, w => do
    let next := ((w.beam.filter (fun b => ! b.done)).map (·.c)).take 8
    if next.isEmpty then return w
    let order ← arrivals next
    let w := { w with beam := w.beam.map (fun b => if next.contains b.c then { b with done := true } else b) }
    let w ← walkNodes x q n (order.flatMap id) w
    walkHops x q n hops w

/-- The beam walk (R238, R239): the probe list, and the stale edges. -/
def beamProbe (x : IndexRec) (q : Query) (beam hops most : Nat) : M (List Nat × Nat) := do
  let entry := List.range x.nentry
  let b ← scoreInto x q beam entry []
  let w ← walkHops x q beam hops ⟨b, entry, 0⟩
  let live ← liveCents x (w.beam.map (·.c))
  return (live.take most, w.stale)

/-! The operand block of VSEARCH (R243). -/

/-- The operands of a search. -/
structure SearchOps where
  queryAt : Nat
  filter : Nat
  k : Nat
  nprobe : Nat
  most : Nat
  beam : Nat
  hops : Nat
  hammax : Nat
  rerank : Nat
  qfmt : Nat
  widen : Bool
  skipPsn : Bool

/-- The operands that 64 bytes spell. -/
def searchOps (bs : List Byte) : SearchOps :=
  let np := fld bs 18 2
  let mx := fld bs 20 2
  ⟨fld bs 0 8, fld bs 8 8, fld bs 16 2, np, if mx = 0 then np else mx, fld bs 22 2, fld bs 24 2, fld bs 26 2, fld bs 28 2, fld bs 30 1,
    bit (fld bs 31 1) 0, bit (fld bs 31 1) 1⟩

/-- Whether the operands keep their ranges for an index. -/
def SearchOps.ok (o : SearchOps) (x : IndexRec) : Bool :=
  decide (1 ≤ o.k ∧ o.k ≤ 1024 ∧ 1 ≤ o.nprobe ∧ o.nprobe ≤ 4096 ∧ o.nprobe ≤ o.most ∧ o.most ≤ 4096 ∧ 1 ≤ o.hops ∧ o.hops ≤ 4096)
  && (decide (x.nc ≤ 65536) || decide (o.most ≤ o.beam ∧ o.beam ≤ 4096))
  && (o.rerank == 0 || (decide (o.k ≤ o.rerank ∧ o.rerank ≤ 1024) && x.rerank != 0))

/-- The entries that a heap holds (R242). -/
def SearchOps.keep (o : SearchOps) : Nat := max o.k o.rerank

/-! Rounds (R234, R241). -/

/-- Slots of one sub-block, and of one frame. -/
def IndexRec.perSub (x : IndexRec) : Nat := if x.e = 0 then 1 else 4096 / x.e
def IndexRec.perFrame (x : IndexRec) : Nat := 16 * x.perSub

/-- The FA of a slot. -/
def IndexRec.slotFa (x : IndexRec) (s : Nat) : Nat := x.region + 4096 * (s / x.perSub) + x.e * (s % x.perSub)

/-- The parts of a run of slots, one per frame. -/
def listParts (x : IndexRec) (c : Nat) : Nat → Nat → Nat → List SearchPart
  | 0, _, _ => []
  | fuel + 1, s, n =>
    if n = 0 then [] else
      let k := min n (x.perFrame - s % x.perFrame)
      ⟨c, s, k, false⟩ :: listParts x c fuel (s + k) (n - k)

/-- Classify the lists of a round: each list's COUNT is read once. -/
def roundParts (x : IndexRec) : List Nat → M (List SearchPart)
  | [] => pure []
  | c :: cs => do
    let bs ← rd (x.lists + 16 * c) 16
    let n := fld bs 8 4
    let rest ← roundParts x cs
    return listParts x c (n / x.perFrame + 2) (fld bs 0 8 % 2 ^ 40) n ++ rest

/-! Distance tables (R240). -/

/-- The distance of two vectors, squared L2 or −(r · s), in FP32: `k` terms to a step, the steps in the order that `v` names (R164). -/
def tableEntry (metric k v : Nat) (r s : List Val) : Val :=
  if metric = 0 then (dotPairs k v r s).foldl (fun a p => let y := fsub p.1 p.2; ffma y y a) zero32
  else (dot32 k v r s).neg

/-- A distance table; `v` names the order in which the steps of its entries arrive. -/
def distTable (x : IndexRec) (book : List Byte) (v : Nat) (r : List Val) : List Byte :=
  let w := x.dim / x.m
  let k := dotCut 0x00 0x01 256 w
  (List.range x.m).flatMap (fun j => (List.range 256).flatMap (fun c =>
    let s := (List.range w).map (fun i => decF fp16 (fld book (((256 * j + c) * w + i) * 2) 2))
    leBytes 2 ((encF fp16 (tableEntry x.metric k (Config.stepOrder v (256 * j + c)) ((r.drop (j * w)).take w) s)).getD 0x7E00)))

/-- The codebook of an index. -/
def codebook (x : IndexRec) : M (List Byte) := rd x.book (512 * x.dim)

/-- The vector that a list's codes encode for a query (R232, R240), and the bias of the list. -/
def listQuery (x : IndexRec) (q : Query) (c : Nat) : M (List Val × Val) := do
  if ! x.residual then return (q.vals, zero32)
  let row ← centroid x c
  let r := List.zipWith fsub q.vals row
  if x.metric = 0 then return (r, zero32)
  return (r, (← centDot x q row).neg)

/-! Scanning (R242). -/

/-- The sign bits of a vector (R162); none when an element is NaN. -/
def signBits (vs : List Val) : Option (List Byte) := encVec 0x11 vs

/-- What a scan works under. -/
structure Scan where
  x : IndexRec
  o : SearchOps
  table : List Byte
  bias : Val
  signs : List Byte
  list : Nat

/-- Whether an entry is live (R235): TOMB, then GEN. -/
def entryLive (x : IndexRec) (idw : Nat) : M Bool := do
  let id := idw % 2 ^ 34
  if id ≥ x.ids then return false
  let t ← rd (x.tomb + id / 8) 1
  if bit (leNat t) (id % 8) then return false
  let g ← rd (x.gen + id) 1
  return leNat g == bits idw 63 56

/-- Whether the filter lets an ID pass. -/
def filterPass (filter id : Nat) : M Bool := do
  if filter = 0 then return true
  let fa ← xlate (filter + id / 8) 1
  let d ← getDev
  ensure (d.isOwn fa) stBounds
  let b ← rd fa 1
  return bit (leNat b) (id % 8)

/-- Put a candidate into a heap of `n` that keeps the smallest distances, the earlier among equals. -/
def heapInsert (n : Nat) (a : Cand) (h : List Cand) : List Cand :=
  let rec go : List Cand → List Cand
    | [] => [a]
    | y :: ys => if (v32 a.key).lt (v32 y.key) then a :: y :: ys else y :: go ys
  (go h).take n

/-- One entry (R242, R246): the heap after it, and whether it was skipped as poisoned. -/
def scanEntry (s : Scan) (h : List Cand) (bs : List Byte) (bad : Bool) : M (List Cand × Bool) := do
  if bad then
    ensure s.o.skipPsn stPoison
    return (h, true)
  let x := s.x
  if x.bin1 && s.o.hammax != 0xFFFF && decide (hamming x.dim (slice bs (8 + x.m) (x.dim / 8)) s.signs > s.o.hammax) then return (h, false)
  let dist := fadd s.bias (pqDist s.table (slice bs 8 x.m))
  let key ← orderKey dist
  let far := match h.getLast? with
    | some y => decide (h.length ≥ s.o.keep) && ! (v32 key).lt (v32 y.key)
    | none => false
  if far then return (h, false)
  let idw := fld bs 0 8
  if ! (← entryLive x idw) then return (h, false)
  if ! (← filterPass s.o.filter (idw % 2 ^ 34)) then return (h, false)
  return (heapInsert s.o.keep ⟨key, f32 dist, idw, s.list⟩ h, false)

/-- The entries of a part in turn. -/
def scanEntries (s : Scan) : List (List Byte × Bool) → List Cand → Nat → M (List Cand × Nat)
  | [], h, psn => pure (h, psn)
  | (bs, bad) :: es, h, psn => do
    let (h, p) ← scanEntry s h bs bad
    scanEntries s es h (psn + b2n p)

/-- The scanner of the channel that holds a T1 frame (R236, R241); none where it is fenced. -/
def Dev.scannerOf (d : Dev) (f : Nat) (e : TEntry) : Option Nat :=
  let k := 8 * e.cslot + f % 8
  if d.fencedScan.contains k then none else some k

/-- The bytes of a part's slots, from the first on, with their poison: a frame in T1 is read from its cask copy, and one
whose cask cannot be read gives poison throughout. The last answer says whether a scanner reads them (R241). -/
def partBytes (fa n : Nat) : M (List Byte × List Bool × Bool) := do
  let d ← getDev
  ensure (d.isOwn fa) stBounds
  let off := faOff fa
  match d.entry (off / 65536) with
  | none => halt stBounds
  | some e =>
    if e.tier = 1 ∧ ! e.psn then
      let found ← openInPlace off
      let d ← getDev
      let scan := (d.scannerOf (off / 65536) e).isSome
      let base := off % 65536
      let (bs, ps) := match (if found then d.t1Content (off / 65536) e else none) with
        | none => ([], List.replicate n true)
        | some (data, pois) => (cellBytes data base n, (List.range n).map (fun i => pois.contains ((base + i) / 32)))
      modDev (fun d => if found then d.kilnEvent (off / 65536) e else d)
      noteStored fa n (if scan then .scanner else .turntable) (ps.any id)
      return (bs, ps, scan)
    else
      let (bs, ps) ← rdRaw fa n
      return (bs, ps, false)

/-- A search's update. -/
def Dev.modSearch (d : Dev) (i : DescId) (f : Search → Search) : Dev :=
  { d with searches := d.searches.map (fun s => if s.desc = i then f s else s) }

/-- Charge the accesses made so far, as a part that has ended. -/
def chargeNow : M Unit := do
  let c ← read
  let s ← get
  set { s with d := s.d.chargeAcc c s.acc, acc := [] }

/-- Scan a part: its heap and the entries skipped as poisoned. -/
def scanPart (s : Search) (p : SearchPart) : M (List Cand × Nat) := do
  let c ← read
  let x := indexRec (leBytes 128 s.index)
  let o := searchOps (leBytes 64 s.ops)
  let q : Query := ⟨o.qfmt, (decVec o.qfmt x.dim s.query).getD []⟩
  let (r, bias) ← listQuery x q p.list
  let book ← codebook x
  let signs ← if x.bin1 && o.hammax != 0xFFFF then (match signBits r with
      | some bs => pure bs
      | none => halt stFormat) else pure []
  let first := x.slotFa p.slot
  let len := x.slotFa (p.slot + p.n - 1) + x.e - first
  let (bs, ps, scanner) ← partBytes first len
  modDev (fun d => d.countRun c 0x10 (if scanner then p.n else 0))
  let entries := (List.range p.n).map (fun i =>
    let at_ := x.slotFa (p.slot + i) - first
    (slice bs at_ x.e, ((ps.drop at_).take x.e).any id))
  let order ← if scanner then pure [entries] else arrivals entries
  let v ← freeM
  scanEntries ⟨x, o, distTable x book v r, bias, signs, p.list⟩ (order.flatMap id) [] 0

/-- Scan part `i` of a search and post its heap (R242). -/
def endPart (i : Nat) : M Unit := do
  let c ← read
  let d ← getDev
  match d.searches.find? (fun s => s.desc == c.did) with
  | none => pure ()
  | some s => match s.parts[i]? with
    | none => pure ()
    | some p =>
      if p.ended then pure ()
      else
        let (st, h, psn) := match ← caught (scanPart s p) with
          | .error st => (st, [], 0)
          | .ok (h, psn) => (0, h, psn)
        chargeNow
        modDev (fun d => (d.stat 0xC010 7 0 psn).modSearch c.did (fun s => { s with
          parts := s.parts.set i { p with ended := true }, heap := s.heap ++ h, read := s.read + p.n
          sts := s.sts ++ [st] }))

/-- Scan every part of a round that has not ended, in the order given. -/
def endParts : List Nat → M Unit
  | [] => pure ()
  | i :: is => do
    endPart i
    endParts is

/-! VSEARCH (R243 to R246). -/

/-- Begin a search: the checks, the choice of lists and the first round. -/
def startSearch (l : Line) : M Unit := do
  let c ← read
  let opb := lf l 8 8
  ensure (decide (opb % 64 = 0)) stBounds
  let rec_ ← boundIndex
  let x := indexRec rec_
  let ob ← rdV opb 64
  let o := searchOps ob
  ensure (o.ok x) stBounds
  if o.filter ≠ 0 then
    let fa ← xlate o.filter 1
    let d ← getDev
    ensure (d.isOwn fa) stBounds
  ensure ([0x00, 0x01, 0x02].contains o.qfmt) stFormat
  ensure (x.comp == c.comp) stDenied
  let d ← getDev
  if d.noBay then halt stFenced
  let qb ← atStage 1 (rdV o.queryAt ((vecBytes o.qfmt x.dim).getD 0))
  let q : Query := ⟨o.qfmt, (decVec o.qfmt x.dim qb).getD []⟩
  let (probe, stale) ← atStage 0 (if x.nc ≤ 65536 then (do let p ← flatProbe x q o.most; return (p, 0))
    else beamProbe x q o.beam o.hops o.most)
  let parts ← atStage 0 (roundParts x (probe.take o.nprobe))
  modDev (fun d => { d with searches := d.searches ++ [Search.mk c.did (leNat rec_) (leNat ob) qb probe (probe.take o.nprobe).length stale
    parts [] 0 []] }.stat 0xC010 31 16 stale)

/-- VSEARCH (R243): the first run of the descriptor begins the search, and its rounds go on from there. -/
def vsearchM (l : Line) : M (Nat × Nat × Nat) := do
  let c ← read
  let d ← getDev
  if ! d.searches.any (fun s => s.desc == c.did) then startSearch l
  need

/-- VSEARCH (R244). -/
def execVsearch (q n : Nat) (s : State) : Host.Outcome State Fault Refusal := s.desc 0x20 q n vsearchM

/-- SCANNER_PART_END (R242): a part of the present round ends and its heap goes to the merging bay. -/
def execScannerPartEnd (q n part : Nat) (s : State) : Host.Outcome State Fault Refusal :=
  s.desc 0x20 q n (fun _ => do atStage 0 (endPart part); need)

/-- Merge candidates in order of arrival (R244): of two with one ID the nearer is kept, and the nearest `n` in all. -/
def mergeCands (n : Nat) (cs : List Cand) : List Cand :=
  let one (h : List Cand) (a : Cand) : List Cand :=
    match h.find? (fun y => y.idw % 2 ^ 34 == a.idw % 2 ^ 34) with
    | none => heapInsert (h.length + 1) a h
    | some y => if (v32 a.key).lt (v32 y.key) then heapInsert h.length a (h.filter (fun z => z != y)) else h
  (cs.foldl one []).take n

/-- The exact distances of re-ranked candidates (R244). -/
def rerankCands (x : IndexRec) (q : Query) : List Cand → M (List Cand)
  | [] => pure []
  | a :: rest => do
    let n := (vecBytes x.rrfmt x.dim).getD 0
    let bs ← rd (x.rerank + a.idw % 2 ^ 34 * x.rrstride) n
    let v := (decVec x.rrfmt x.dim bs).getD []
    let k := dotCut q.fmt x.rrfmt 1 x.dim
    let dist := tableEntry x.metric k (← stepsM k x.dim) q.vals v
    let key ← orderKey dist
    let more ← rerankCands x q rest
    return { a with key := key, dist := f32 dist } :: more

/-- The result bytes of a candidate. -/
def candBytes (a : Cand) : List Byte := leBytes 8 a.idw ++ leBytes 4 a.dist ++ leBytes 4 a.list

/-- The end of a search (R244, R245). -/
def finishSearch (l : Line) (s : Search) : M (Nat × Nat × Nat) := do
  let x := indexRec (leBytes 128 s.index)
  let o := searchOps (leBytes 64 s.ops)
  let near := mergeCands o.keep s.heap
  let best ← if o.rerank = 0 then pure near
    else do
      let ys ← atStage 0 (rerankCands x ⟨o.qfmt, (decVec o.qfmt x.dim s.query).getD []⟩ near)
      pure (ys.foldl (fun h a => heapInsert (h.length + 1) a h) [])
  let out := best.take o.k
  atStage 3 (wrV (lf l 16 8) (out.flatMap candBytes))
  endRun (if out.length < o.k then [stShort] else []) out.length
    (s.read % 2 ^ 32 + 2 ^ 32 * (s.probed % 2 ^ 16) + 2 ^ 48 * min s.stale 65535)

/-- VSEARCH_ROUND_END (R245): what has not ended ends, and the dispatcher widens the search or ends it. -/
def roundEndM (l : Line) : M (Nat × Nat × Nat) := do
  let c ← read
  let d ← getDev
  match d.searches.find? (fun s => s.desc == c.did) with
  | none => need
  | some s =>
    let order ← arrivals (List.range s.parts.length)
    atStage 0 (endParts (order.flatMap id))
    let d ← getDev
    match d.searches.find? (fun s => s.desc == c.did) with
    | none => need
    | some s =>
      if s.sts.any (· != 0) then
        modDev (fun d => s.sts.foldl (fun d st => d.noteStatus c.did.queue c.did.seq st) d)
        halt (s.sts.foldl worse 0)
      let o := searchOps (leBytes 64 s.ops)
      let x := indexRec (leBytes 128 s.index)
      let next := ((s.probe.take o.most).drop s.probed).take o.nprobe
      if o.widen && decide (s.heap.length < o.k) && ! next.isEmpty then
        let parts ← roundParts x next
        modDev (fun d => d.modSearch c.did (fun s => { s with parts := parts, probed := s.probed + next.length }))
        need
      else finishSearch l s

/-- VSEARCH_ROUND_END (R245). -/
def execVsearchRoundEnd (q n : Nat) (s : State) : Host.Outcome State Fault Refusal := s.desc 0x20 q n roundEndM

/-! VINSERT (R247). -/

/-- What a VINSERT has done: inserts made and skipped, whether any was out of range, for a full list, or not encodable, and the status that
ended it. -/
structure InsTally where
  made : Nat
  skipped : Nat
  range : Bool
  full : Bool
  format : Bool
  stop : Option Nat

/-- One insert (R247): step by step, each reading what the steps before it wrote. -/
def insertOne (x : IndexRec) (book : List Byte) (idw list : Nat) (v : List Val) (y : InsTally) : M InsTally := do
  let id := idw % 2 ^ 34
  if id ≥ x.ids ∨ list ≥ x.nc then return { y with skipped := y.skipped + 1, range := true }
  let r ← if x.residual then (do let row ← centroid x list; return List.zipWith fsub v row) else pure v
  match encPq8 x.m book r, (if x.bin1 then signBits r else some []) with
  | none, _ | _, none => return { y with skipped := y.skipped + 1, format := true }
  | some codes, some signs =>
    let g := leNat (← rd (x.gen + id) 1)
    let rec_ ← rd (x.lists + 16 * list) 16
    let count := fld rec_ 8 4
    if count ≥ fld rec_ 12 4 then return { y with skipped := y.skipped + 1, full := true }
    let fa := x.slotFa (fld rec_ 0 8 % 2 ^ 40 + count)
    let d ← getDev
    ensure (d.isOwn fa) stBounds
    wr (x.lists + 16 * list + 8) (leBytes 4 (count + 1))
    let g1 := (g + 1) % 256
    wr fa (slice (leBytes 8 (idw % 2 ^ 56 + 2 ^ 56 * g1) ++ codes ++ signs) 0 x.e)
    wr (x.gen + id) (leBytes 1 g1)
    let t := leNat (← rd (x.tomb + id / 8) 1)
    wr (x.tomb + id / 8) (leBytes 1 (setBits t (id % 8) (id % 8) 0))
    return { y with made := y.made + 1 }

/-- The inserts of a descriptor in list order. One that fails with a status ends them, with the steps that it has made. -/
def insertAll (x : IndexRec) (book : List Byte) : List (Nat × Nat × List Val) → InsTally → M InsTally
  | [], y => pure y
  | (idw, list, v) :: rest, y => do
    match ← caught (insertOne x book idw list v y) with
    | .error st => return { y with stop := some st }
    | .ok y => insertAll x book rest y

/-- VINSERT (R247). -/
def vinsertM (l : Line) : M (Nat × Nat × Nat) := do
  let c ← read
  let n := lf l 32 4
  let vfmt := lf l 40 1
  ensure (decide (1 ≤ n ∧ n ≤ 16777216)) stBounds
  let x := indexRec (← boundIndex)
  ensure ([0x00, 0x01, 0x02].contains vfmt) stFormat
  ensure (x.comp == c.comp) stDenied
  let d ← getDev
  if d.noBay then halt stFenced
  let ib ← atStage 0 (rdV (lf l 8 8) (8 * n))
  let lb ← atStage 0 (rdV (lf l 16 8) (4 * n))
  let vb := (vecBytes vfmt x.dim).getD 0
  let bs ← atStage 0 (rdV (lf l 24 8) (n * vb))
  let book ← atStage 1 (codebook x)
  let items := (List.range n).map (fun i =>
    (fld ib (8 * i) 8, fld lb (4 * i) 4, (decVec vfmt x.dim (slice bs (i * vb) vb)).getD []))
  let y ← atStage 2 (insertAll x book items ⟨0, 0, false, false, false, none⟩)
  let sts := (if y.range then [stBounds] else if y.full then [stShort] else []) ++ (if y.format then [stFormat] else []) ++ y.stop.toList
  endRun (← mixedEnds (decide (y.made > 0)) sts) y.made y.skipped

/-- VINSERT (R247). -/
def execVinsert (q n : Nat) (s : State) : Host.Outcome State Fault Refusal := s.desc 0x21 q n vinsertM

/-! VDELETE (R248). -/

/-- Set the TOMB bit of one ID. -/
def deleteOne (x : IndexRec) (id : Nat) : M Unit := do
  let t := leNat (← rd (x.tomb + id / 8) 1)
  wr (x.tomb + id / 8) (leBytes 1 (t ||| 2 ^ (id % 8)))

/-- Set the TOMB bits of a list of IDs: the IDs applied, those skipped, and the statuses met. -/
def deleteAllIds (x : IndexRec) : List Nat → Nat × Nat × List Nat → M (Nat × Nat × List Nat)
  | [], y => pure y
  | id :: rest, (done, skipped, sts) => do
    if id ≥ x.ids then deleteAllIds x rest (done, skipped + 1, sts ++ [stBounds])
    else
      match ← caught (deleteOne x id) with
      | .ok _ => deleteAllIds x rest (done + 1, skipped, sts)
      | .error st => deleteAllIds x rest (done, skipped, sts ++ [st])

/-- VDELETE (R248). -/
def vdeleteM (l : Line) : M (Nat × Nat × Nat) := do
  let c ← read
  let n := lf l 16 4
  ensure (decide (n ≥ 1)) stBounds
  let x := indexRec (← boundIndex)
  ensure (x.comp == c.comp) stDenied
  let d ← getDev
  if d.noBay then halt stFenced
  let ib ← atStage 0 (rdV (lf l 8 8) (8 * n))
  let (done, skipped, sts) ← atStage 1 (deleteAllIds x ((List.range n).map (fun i => fld ib (8 * i) 8 % 2 ^ 34)) (0, 0, []))
  endRun (← mixedEnds (decide (done > 0)) sts) done skipped

/-- VDELETE (R248). -/
def execVdelete (q n : Nat) (s : State) : Host.Outcome State Fault Refusal := s.desc 0x22 q n vdeleteM

end Sys2Proof.Machine
end

