-- ==== Sys2Proof/Machine/Timetable.lean ====
section
/-! DEFINITION. Timetables: their checks, waits, entries and ends (R260 to R266), and the delivery of watch events (R95). -/

namespace Sys2Proof.Machine

open Sys2Proof

/-! Entries (R261). -/

/-- A timetable entry. -/
structure TtEntry where
  src : Nat
  dst : Nat
  len : Nat
  dep0 : Nat
  dep1 : Nat
  wsem : Nat
  wval : Nat
  isem : Nat
  iinc : Nat
  kind : Nat
  rsv : Nat

/-- The entry that 64 bytes, as a number, spell. -/
def ttEntry (w : Nat) : TtEntry :=
  let f (off n : Nat) : Nat := w / 2 ^ (8 * off) % 2 ^ (8 * n)
  ⟨f 0 8, f 8 8, f 16 8, f 24 4, f 28 4, f 32 8, f 40 8, f 48 8, f 56 4, f 60 1, f 61 3⟩

/-- No dependency. -/
def noDep : Nat := 0xFFFFFFFF

/-- Whether entry `i` passes the checks of R262. -/
def TtEntry.ok (i : Nat) (e : TtEntry) : Bool :=
  (e.dep0 == noDep || decide (e.dep0 < i)) && (e.dep1 == noDep || decide (e.dep1 < i)) && decide (e.kind ≤ 1) && e.rsv == 0
  && decide (e.len < 2 ^ 40) && (e.kind != 1 || (decide (e.len ≠ 0 ∧ e.len % 65536 = 0) && e.dst == 0))
  && decide (e.wsem % 8 = 0 ∧ e.isem % 8 = 0) && (e.isem == 0 || e.iinc != 0)

/-- TMO and INFLIGHT of a descriptor as they act (R260). -/
def ttTmo (l : Line) : Nat := if lf l 20 4 = 0 then 1000000 else lf l 20 4
def ttInflight (l : Line) : Nat := if lf l 24 2 = 0 then 256 else lf l 24 2

/-! The state of a timetable (R263). -/

/-- Entry `i`, and its state. -/
def Timetable.entry (t : Timetable) (i : Nat) : TtEntry := ttEntry (nth t.entries i 0)
def Timetable.st (t : Timetable) (i : Nat) : Nat := nth t.states i 3

/-- Whether entry `i` lies in the window: within 1,023 of the lowest-numbered entry not yet completed. -/
def Timetable.inWindow (t : Timetable) (i : Nat) : Bool :=
  decide (i < t.states.length ∧ i ≤ (t.states.findIdx? (· != 2)).getD t.states.length + 1023)

/-- Whether a dependency has completed. -/
def Timetable.depDone (t : Timetable) (k : Nat) : Bool := k == noDep || t.st k == 2

/-- Whether entry `i` waits on a semaphore that has not met its value. -/
def Timetable.waits (t : Timetable) (i : Nat) : Bool :=
  t.st i == 0 && t.inWindow i && (t.entry i).wsem != 0 && ! t.met.contains i

/-- Whether entry `i` may start, INFLIGHT and the order of indices apart. -/
def Timetable.ready (t : Timetable) (i : Nat) : Bool :=
  t.st i == 0 && t.inWindow i && t.depDone (t.entry i).dep0 && t.depDone (t.entry i).dep1
  && ((t.entry i).wsem == 0 || t.met.contains i)

/-- The entries that run. -/
def Timetable.running (t : Timetable) : Nat := t.states.countP (fun s => s == 1 || s == 4)

/-- Whether a fault stalls entry `i` (R54, R265). -/
def Timetable.halted (t : Timetable) (i : Nat) : Bool := t.stalled.any (fun x => x.1 == i)

/-- Whether entry `i` starts now: an entry with a lower index that may start goes first, unless a fault stalls it, and after
a failure none starts (R263, R265). -/
def Timetable.starts (t : Timetable) (inflight i : Nat) : Bool :=
  t.ready i && ! t.halted i && decide (t.running < inflight) && ! t.states.contains 3
  && ! (List.range i).any (fun j => t.ready j && ! t.halted j)

/-- The engine of an entry (R21): a frame mover for a transfer of one frame or more and for a PROMOTE, otherwise the bay of its descriptor. -/
def TtEntry.eng (e : TtEntry) (bay : Nat) : Engine := if e.kind = 1 ∨ e.len ≥ 65536 then .turntable else .bay bay

/-- The context of entry `k` of a timetable; its semaphores are read and added to by the dispatcher. -/
def entryCtx (q : Nat) (x : Queue) (r : Started) (k : Nat) (eng : Engine) : Ctx :=
  { descCtx q x r with sidx := engSidx r.seq eng, eng := eng, ent := k + 1 }

/-- What an entry has read of other nodes is forgotten as its run ends: the next entry reads it again (R110, R114, R122). -/
def Dev.forgetRead (d : Dev) (id : DescId) (acc : List Acc) : Dev :=
  d.modStarted id.queue id.seq (fun r => { r with
    remote := r.remote.filter (fun x => decide (x.line < 2 ^ 64) && ! acc.any (fun a => a.fa / 64 == x.line)) })

/-- Run a computation for entry `k` of a timetable on an engine: what it ended with, none where it must wait. An entry that meets a
translation fault stalls until the fault is answered (R54). -/
def Dev.tableRun (d : Dev) (id : DescId) (k : Nat) (eng : Nat → Engine) (m : M α) : Option (Except Nat α) × Dev :=
  match smGet? id.queue d.queues, d.table id with
  | some x, some t => match x.running.find? (fun r => r.seq == id.seq) with
    | none => (none, d)
    | some r =>
      if t.halted k then (none, d)
      else
        let c := entryCtx id.queue x r k (eng r.bay)
        match d.runM c m with
        | (.ok a, s) =>
          let e := Dev.commit c s.d s.log
          let tags := (e.fabOut.drop s.d.fabOut.length).map (fun o => o.msg.tag)
          let e := ((e.chargeRun c s.acc).setIssued c []).forgetRead id s.acc
          (some (.ok a), e.modTable id (fun t => { t with acks := t.acks ++ [(k, tags)] }))
        | (.error (.done st), s) =>
          (some (.error st), (((Dev.commit c s.d s.log).chargeRun c s.acc).setIssued c []).forgetRead id s.acc)
        | (.error .need, s) => (none, (s.d.setIssued c s.iss).flushFaults c.pasid)
  | _, _ => (none, d)

/-- Fail an entry of a timetable (R265). -/
def Dev.entryFails (d : Dev) (id : DescId) (k st : Nat) : Dev := (d.modTable id (fun t => t.fail k st)).tableEnds id

/-! Waits (R263, R265). -/

/-- The semaphore of a wait: its FA and value. It must lie on this Ndonte (R262). -/
def semaphoreM (dva : Nat) : M (Nat × Nat) := do
  let fa ← xlate dva 1
  let d ← getDev
  ensure (d.isOwn fa) stBounds
  let bs ← rd fa 8
  return (fa, leNat bs)

/-- Evaluate the wait of entry `k`: it is met, or its line is armed or polled; the answer is the line that it waits on. -/
def Dev.evalWait (d : Dev) (id : DescId) (k : Nat) : Option Nat × Dev :=
  match d.table id with
  | none => (none, d)
  | some t =>
    if ! t.waits k then (none, d)
    else match d.tableRun id k (fun _ => .dispatcher) (semaphoreM (t.entry k).wsem) with
      | (none, d) => (none, d)
      | (some (.error st), d) => (none, d.entryFails id k st)
      | (some (.ok (fa, v)), d) =>
        if v ≥ (t.entry k).wval then (none, d.modTable id (fun t => { t with met := nsAdd k t.met }))
        else
          let off := faOff fa
          let who : Armer := .semaphore id.queue id.seq
          let armed := match d.pline off with
            | some pl => (d.watchers pl).contains who
            | none => false
          (some (off / 64), if armed || d.polledLines.contains who then d else d.submit (.arm who (64 * (off / 64))))

/-- Disarm the lines of a timetable that no entry waits on any longer. -/
def Dev.disarmRest (d : Dev) (id : DescId) (lines : List Nat) : Dev :=
  let who : Armer := .semaphore id.queue id.seq
  ((smKeys d.dir).filter (fun pl => (d.watchers pl).contains who && ! lines.contains (d.lineOff pl / 64))).foldl
    (fun d pl => d.disarmLine who pl) d

/-- Evaluate every wait of a timetable's window. -/
def Dev.tableWaits (d : Dev) (id : DescId) : Dev :=
  match d.table id with
  | none => d
  | some t =>
    let (lines, d) := ((List.range t.states.length).filter t.waits).foldl (fun (a : List Nat × Dev) k =>
      let (l, d) := a.2.evalWait id k
      (a.1 ++ l.toList, d)) ([], d)
    -- an entry whose evaluation must be made again keeps its line
    match d.table id with
    | none => d
    | some t => if (t.states.length > 0) && ((List.range t.states.length).filter t.waits).length > lines.length then d else d.disarmRest id lines

/-! TIMETABLE_RUN (R260, R262). -/

/-- TIMETABLE_RUN: the first run reads and checks the whole table. -/
def timetableRunM (l : Line) : M (Nat × Nat × Nat) := do
  let c ← read
  let d ← getDev
  if (d.table c.did).isSome then need
  let at_ := lf l 8 8
  let n := lf l 16 4
  ensure (decide (at_ % 64 = 0 ∧ 1 ≤ n ∧ n ≤ 65536 ∧ ttTmo l ≤ 10000000 ∧ ttInflight l ≤ 256)) stBounds
  let (bs, ps) ← rdRawV at_ (64 * n)
  if ps.any id then halt stPoison
  let es := (List.range n).map (fun i => fld bs (64 * i) 64)
  ensure ((List.range n).all (fun i => (ttEntry (nth es i 0)).ok i)) stBounds
  modDev (fun d => { d with timetables := d.timetables ++ [⟨c.did, es, List.replicate n 0, [], [], [], []⟩] })
  need

/-- TIMETABLE_RUN (R262): the check of the table, and the waits of its first window. -/
def execTimetableRun (q n : Nat) (s : State) : Host.Outcome State Fault Refusal :=
  s.onDev (fun d =>
    let before := (d.table ⟨q, n⟩).isSome
    let d := d.runDesc 0x03 q n timetableRunM
    if before then d else d.tableWaits ⟨q, n⟩)

/-! Entries (R262 to R264). -/

/-- The frames of a PROMOTE entry. -/
def promoteFrames (e : TtEntry) : M (List Nat) := do
  let c ← read
  ensure (decide (e.src % 65536 = 0) && dvaFits e.src e.len) stBounds
  let fas ← xlateAll 0 (pagesOf e.src e.len)
  let d ← getDev
  ensure (fas.all (fun x => d.isOwn x.1)) stBounds
  let fs := fas.map (fun x => faOff x.1 / 65536)
  ensure (fs.all (fun f => match d.entry f with | some e => pComp (d.precOf e) == c.comp | none => true)) stDenied
  return fs

/-- The start of an entry: its addresses are translated, and a PROMOTE asks for its frames (R262). -/
def startEntryM (e : TtEntry) : M Unit := do
  if e.isem ≠ 0 then
    let fa ← xlate e.isem 7
    let d ← getDev
    ensure (d.isOwn fa) stBounds
  if e.kind = 0 then
    if e.len ≠ 0 then
      ensure (decide (e.src + e.len ≤ e.dst ∨ e.dst + e.len ≤ e.src) && dvaFits e.src e.len && dvaFits e.dst e.len) stBounds
      let _ ← xlateAll 1 (pagesOf e.src e.len)
      let _ ← xlateAll 2 (pagesOf e.dst e.len)
  else
    let fs ← promoteFrames e
    modDev (fun d =>
      let d := fs.foldl (fun d f => match d.entry f with
        | some e => if e.tier = 0 then d else { d with wantPromo := nsAdd f d.wantPromo }
        | none => d) d
      d.tryWanted)

/-- TIMETABLE_ENTRY_START (R263). -/
def execTimetableEntryStart (q n i : Nat) (s : State) : Host.Outcome State Fault Refusal :=
  s.onDev (fun d => match d.table ⟨q, n⟩, d.startedOf q n with
    | some t, some r =>
      if ! t.starts (ttInflight r.bytes) i then d
      else match d.tableRun ⟨q, n⟩ i (t.entry i).eng (startEntryM (t.entry i)) with
        | (none, d) => d
        | (some (.error st), d) => d.entryFails ⟨q, n⟩ i st
        | (some (.ok _), d) => d.modTable ⟨q, n⟩ (fun t => { t with states := t.states.set i 1 })
    | _, _ => d)

/-- The checks of R266 on the frames of a PROMOTE entry: a revoked extent gives REVOKED, as an access would. -/
def framesOpen : List Nat → M Unit
  | [] => pure ()
  | f :: fs => do
    let c ← read
    let (st, d) := (← getDev).extCheck c (65536 * f) false
    modDev (fun _ => d)
    if st ≠ 0 then halt st
    framesOpen fs

/-- Wait until every frame of a PROMOTE entry is in T0. -/
def allInT0 : List Nat → M Unit
  | [] => pure ()
  | f :: fs => do
    let d ← getDev
    match d.entry f with
    | none => allInT0 fs
    | some e =>
      if e.tier = 0 ∧ ! e.psn then allInT0 fs
      else
        readyLine (65536 * f) false
        if e.psn then halt stPoison
        need

/-- The work of an entry (R261): the status it ends with, 0 where it does not fail. -/
def workEntryM (e : TtEntry) : M Nat := do
  if e.kind = 1 then
    let fs ← promoteFrames e
    framesOpen fs
    allInT0 fs
    return stOk
  else if e.len = 0 then return stOk
  else
    movedByBays e.len
    let (bs, ps) ← rdRawV e.src e.len
    let dests ← xlateAll 2 (pagesOf e.dst e.len)
    wrPiecesMixed dests (bs.zip ps)
    return (if ps.any id then stPoison else stOk)

/-- The increment of an entry (R264): one atomic add modulo 2^64 at the semaphore's home. -/
def incrementM (e : TtEntry) : M Unit := do
  if e.isem ≠ 0 then
    let fa ← xlate e.isem 7
    let d ← getDev
    ensure (d.isOwn fa) stBounds
    let _ ← atom fa 0 e.iinc 0

/-- Whether a write of an entry is not yet acknowledged at the other node or for its parity. -/
def Dev.entryOut (d : Dev) (t : Timetable) (i : Nat) : Bool :=
  let tags := (t.acks.filter (fun a => a.1 == i)).flatMap (·.2)
  d.fabOut.any (fun o => ownerDesc o.owner == some t.desc && tags.contains o.msg.tag)
  || d.parity.any (fun p => match p.forReq with | some (.desc a b _ _) => a == t.desc.queue && b == t.desc.seq | _ => false)

/-- The second step of an entry's end (R264): once its writes are visible, its increment, and what that and the entry's
completion let go on. -/
def Dev.entryEnds (d : Dev) (id : DescId) (i : Nat) : Dev :=
  match d.table id with
  | none => d
  | some t =>
    if t.st i ≠ 4 ∨ d.entryOut t i then d
    else match d.tableRun id i (fun _ => .dispatcher) (incrementM (t.entry i)) with
      | (none, d) => d
      | (some (.error st), d) => d.entryFails id i st
      | (some (.ok _), d) =>
        ((d.modTable id (fun t => { t with states := t.states.set i 2 })).tableWaits id).tableEnds id

/-- TIMETABLE_ENTRY_COMPLETE (R264). -/
def execTimetableEntryComplete (q n i : Nat) (s : State) : Host.Outcome State Fault Refusal :=
  s.onDev (fun d => match d.table ⟨q, n⟩ with
    | none => d
    | some t =>
      if t.st i = 1 then
        match d.tableRun ⟨q, n⟩ i (t.entry i).eng (workEntryM (t.entry i)) with
        | (none, d) => d
        | (some (.error st), d) => d.entryFails ⟨q, n⟩ i st
        | (some (.ok st), d) =>
          if st ≠ 0 then d.entryFails ⟨q, n⟩ i st
          else (d.modTable ⟨q, n⟩ (fun t => { t with states := t.states.set i 4 })).entryEnds ⟨q, n⟩ i
      else d.entryEnds ⟨q, n⟩ i)

/-- SEMAPHORE_POLL (R263): a wait whose line could not be armed is evaluated again. -/
def execSemaphorePoll (q n i : Nat) (s : State) : Host.Outcome State Fault Refusal :=
  s.onDev (fun d => if d.polledLines.contains (.semaphore q n) then (d.evalWait ⟨q, n⟩ i).2 else d)

/-- TIMETABLE_WAIT_TMO (R265): a wait that exceeds TMO fails its entry with TIMEOUT. -/
def execTimetableWaitTmo (q n i : Nat) (s : State) : Host.Outcome State Fault Refusal :=
  s.onDev (fun d => match d.table ⟨q, n⟩ with
    | none => d
    | some t => if t.waits i then d.entryFails ⟨q, n⟩ i stTimeout else d)

/-! Watch events (R95, R140, R57). -/

/-- Deliver a watch event to the block that armed the line. An event whose reading must wait stays raised. -/
def Dev.watchEvent (d : Dev) (a : Armer) : Dev :=
  let gone (d : Dev) : Dev := { d with raised := d.raised.filter (· ≠ a) }
  if ! d.raised.contains a then d
  else match a with
  | .queue q =>
    let (exceeds, d) := d.readDoorbell q
    if exceeds then gone d else d
  | .faultArea p =>
    let (ends, d) := d.flushTry p
    if ends then gone d else d
  | .semaphore q n => (gone d).tableWaits ⟨q, n⟩

/-- WATCH_EVENT (R95). -/
def execWatchEvent (armer : Armer) (s : State) : Host.Outcome State Fault Refusal := s.onDev (fun d => d.watchEvent armer)

end Sys2Proof.Machine
end

