-- ==== Sys2Proof/Machine/Link.lean ====
section
/-! DEFINITION. The Meunol ports and their link: modules, training, light, fences, NEIGH, and the flits received (R270 to
R274, R284, R289, R291, R296). -/

namespace Sys2Proof.Machine

open Sys2Proof

/-! States of a port (R270). -/

/-- FAB_PORT_CFG_n, and its fields EN, FENCE and WAKE_EN. -/
def portCfg (p : Nat) : Nat := 0x10100 + 4 * p
def Dev.portEn (d : Dev) (p : Nat) : Bool := d.rf (portCfg p) 0 0 == 1
def Dev.portFence (d : Dev) (p : Nat) : Bool := d.rf (portCfg p) 1 1 == 1
def Dev.portWakeEn (d : Dev) (p : Nat) : Bool := d.rf (portCfg p) 2 2 == 1

/-- Route the messages queued on a port again (R289, R296). A MGMT packet has its own route and stays; NEIGH goes with the link. -/
def Dev.requeue (d : Dev) (p : Nat) : Dev :=
  let x := d.port p
  let stay (q : Queued) : Bool := q.msg.type == 0x0A
  let d := d.setPort p { x with txq := x.txq.filter stay }
  (x.txq.filter (fun (q : Queued) => ! stay q && q.msg.type != 0x0B)).foldl (fun d q => d.sendOn q) d

/-- Take a port out of its state into another: its retry buffer is discarded, and its queue is routed again. -/
def Dev.leavePort (d : Dev) (p : Nat) (st : PortState) : Dev :=
  let x := d.port p
  let d := d.setPort p { x with
    retry := [], credits := [], owed := [], rx := [], nbr := none, lambda := 0, nakSent := false, nakDue := false, waking := false
    retries := 0, fails := 0 }
  let d := if st = .training then d.train p else d.setPortSt p st
  d.requeue p

/-- The state that a port with a module takes when neither an attempt nor DOZE holds it: FENCED, DISABLED or TRAINING. A port
fenced for errors is held DISABLED (R345, R346). -/
def Dev.restPort (d : Dev) (p : Nat) : Dev :=
  if d.portFence p then d.leavePort p .fenced
  else if ! d.portEn p || d.fencedPorts.contains p then d.leavePort p .disabled
  else d.leavePort p .training

/-- The effect of a write of FAB_PORT_CFG_n (R270). -/
def Dev.writePortCfg (d : Dev) (p v : Nat) : Dev :=
  let was := d.portFence p
  let d := d.setRf (portCfg p) 2 0 (bits v 2 0)
  match (d.port p).st with
  | .absent => d
  | st =>
    if d.portFence p && ! was then d.leavePort p .fenced
    else if ! d.portEn p then (if st = .disabled then d else d.leavePort p .disabled)
    else if d.portFence p then (if st = .fenced then d else d.leavePort p .fenced)
    else if st = .disabled || st = .fenced then d.restPort p
    else d

/-- PORT_EN_WRITE (R270). -/
def execPortEnWrite (path : Path) (port : Nat) (en : Bool) (s : State) : Host.Outcome State Fault Refusal :=
  .next (s.onPathDev path none false false (portCfg port) (.portEnWrite path port en) (fun d =>
    if port ≥ 16 then d else d.writePortCfg port (setBits (d.reg (portCfg port)) 0 0 (b2n en))))

/-- PORT_FENCE_WRITE (R270). -/
def execPortFenceWrite (path : Path) (port : Nat) (fence : Bool) (s : State) : Host.Outcome State Fault Refusal :=
  .next (s.onPathDev path none false false (portCfg port) (.portFenceWrite path port fence) (fun d =>
    if port ≥ 16 then d else d.writePortCfg port (setBits (d.reg (portCfg port)) 1 1 (b2n fence))))

/-- MODULE_INSERT (R270). Outside RUN the core has no power to train, and the attempt waits for the wake. -/
def execModuleInsert (port : Nat) (s : State) : Host.Outcome State Fault Refusal :=
  s.onDev (fun d => let x := d.port port
    if port ≥ 16 || x.module then d
    else (d.setPort port { x with module := true }).restPort port)

/-- MODULE_REMOVE (R270, R409). -/
def execModuleRemove (port : Nat) (s : State) : Host.Outcome State Fault Refusal :=
  s.onDev (fun d => let x := d.port port
    if port ≥ 16 || ! x.module then d
    else (d.setPort port { x with module := false }).leavePort port .absent)

/-! NEIGH (R284). -/

/-- The body of the NEIGH that a port sends. -/
def Dev.neighBody (d : Dev) (p : Nat) (stopping : Bool) : List Byte :=
  leBytes 16 Config.nodeUid ++ leBytes 2 (if d.hasNode then d.node else 2 ^ 15) ++ leBytes 1 p ++ leBytes 1 0
  ++ leBytes 1 (match d.partition with | some q => q | none => 2 ^ 7)
  ++ leBytes 1 (if (d.port p).lambda = 255 then 8 else 4) ++ leBytes 1 (b2n stopping) ++ List.replicate 9 0

/-- Send NEIGH on an UP port; it stands first in the queue where the retry buffer has no room. -/
def Dev.sendNeigh (d : Dev) (p : Nat) (stopping : Bool) : Dev :=
  let x := d.port p
  if x.st != .up then d
  else
    let m := { d.ownMsg 0 0 0x0B (d.neighBody p stopping) with vc := 0 }
    if x.retry.length + (msgSpace m).length > 1024 then d.setPort p { x with txq := ⟨16, 0, d.ticks, m⟩ :: x.txq }
    else
      let (y, outs) := emitMsg p x m
      { d.setPort p y with out := outs ++ d.out }

/-- The neighbour that a NEIGH body names. -/
def neighOf (b : List Byte) : Neighbour :=
  let n := fld b 16 2
  let q := fld b 20 1
  ⟨fld b 0 16, n % 4096, bit n 15, fld b 18 1, fld b 19 1 == 1, q % 64, bit q 7, fld b 21 1, fld b 22 1 == 1⟩

/-- The NEIGH body of a neighbour, as READ_NBR returns it (R285). -/
def nbrBody (n : Neighbour) : List Byte :=
  leBytes 16 n.uid ++ leBytes 2 (if n.noId then 2 ^ 15 else n.node % 4096) ++ leBytes 1 n.port ++ leBytes 1 (b2n n.endpoint)
  ++ leBytes 1 (if n.noPart then 2 ^ 7 else n.part % 64) ++ leBytes 1 n.width ++ leBytes 1 (b2n n.stopping)
  ++ List.replicate 9 0

/-- NEIGH_SEND (R284). -/
def execNeighSend (port : Nat) (s : State) : Host.Outcome State Fault Refusal := s.onDev (fun d => d.sendNeigh port false)

/-- Record a neighbour; with STATE 1 the port goes to DOZE (R272, R284). -/
def Dev.noteNeigh (d : Dev) (p : Nat) (n : Neighbour) : Dev :=
  let d := d.setPort p { d.port p with nbr := some n }
  if n.stopping then d.leavePort p .doze else d

/-! Training (R271). -/

/-- How many wavelengths a mask names. -/
def lambdas (m : Nat) : Nat := (List.range 8).countP (fun i => bit m i)

/-- The initial credits of a port's receive buffer (R274): 128 of each VC and 3,072 shared ones, less what messages still hold that came
before the link was trained. -/
def Dev.initCredits (d : Dev) (p : Nat) : List Nat :=
  let used := (List.range 6).map (fun v => d.vcUse p v)
  used.map (fun n => 128 - n) ++ [3072 - used.foldl (fun a n => a + (n - 128)) 0]

/-- PORT_TRAIN_SUCCESS (R271): the port comes UP on the wavelengths in use, 8 or 4 of them, with the credits and the NEIGH
exchanged: it sends its initial credits and NEIGH. -/
def execPortTrainSuccess (port lambda : Nat) (nbr : Neighbour) (credits : List Nat) (s : State) :
    Host.Outcome State Fault Refusal :=
  s.onDev (fun d =>
    let x := d.port port
    if port ≥ 16 || x.st != .training || d.power.st != .run || ! (lambdas lambda == 8 || lambdas lambda == 4) then d
    else
      let d := d.setPort port { x with
        fails := 0, retries := 0, lambda := lambda % 256, nbr := none, txSeq := 0, rxGood := 4095, nakSent := false
        nakDue := false, waking := false, retry := [], credits := (List.range 7).map (fun v => nth credits v 0), owed := List.replicate 7 0, rx := [] }
      let d := (d.setPortSt port .up).send (.initCredits port (d.initCredits port))
      (((d.sendNeigh port false).noteNeigh port nbr)).pump port)

/-- PORT_TRAIN_FAIL (R270): a new attempt, or after the third failure in a row DISABLED with an event. -/
def execPortTrainFail (port : Nat) (s : State) : Host.Outcome State Fault Refusal :=
  s.onDev (fun d =>
    let x := d.port port
    if port ≥ 16 || x.st != .training || d.power.st != .run then d
    else if x.fails + 1 < 3 then (d.setPort port { x with fails := x.fails + 1 }).train port
    else (d.leavePort port .disabled).event .portState [.port port, .state 3 1])

/-- PORT_LINK_LOSS (R270). -/
def execPortLinkLoss (port : Nat) (s : State) : Host.Outcome State Fault Refusal :=
  s.onDev (fun d => if (d.port port).st = .up then d.leavePort port .training else d)

/-! DOZE (R272). -/

/-- Send an UP port to DOZE because this node enters STOP: NEIGH announces it (R358 step 5). -/
def Dev.dozePort (d : Dev) (p : Nat) : Dev :=
  if (d.port p).st ≠ .up then d
  else
    let d := (d.sendNeigh p true).leavePort p .doze
    { d with power := { d.power with dozed := nsAdd p d.power.dozed } }

/-- PORT_DOZE (R272): this node enters STOP and has reached that step, or the neighbour has announced STOP. -/
def execPortDoze (port : Nat) (s : State) : Host.Outcome State Fault Refusal :=
  s.onDev (fun d =>
    let x := d.port port
    if x.st ≠ .up then d
    else if d.power.st = .entering then d.dozePort port
    else match x.nbr with
      | some n => if n.stopping then d.leavePort port .doze else d
      | none => d)

/-- PORT_WAKE (R272, R361, R362). A wake pattern or light is a wake source where WAKE_EN is set: it aborts an entry of STOP or
starts the wake. With the core powered the port trains. A message that waits sends the wake pattern, and the port stays in DOZE until its
neighbour answers with light. -/
def execPortWake (port : Nat) (cause : WakeCause) (s : State) : Host.Outcome State Fault Refusal :=
  s.onDev (fun d =>
    let x := d.port port
    if port ≥ 16 || x.st != .doze then d
    else match cause with
    | .localMessage =>
      if x.txq.isEmpty || d.power.st != .run then d else d.send (.wakePattern port)
    | c =>
      let code := if c = .light then 2 else 3
      let d := if ! d.portWakeEn port then d else (d.abortEntry 5).startWake code port
      if d.power.st = .run ∧ (d.port port).st = .doze then (d.setPort port { d.port port with waking := true }).train port else d)

/-! What a port lets in (R291, R297). -/

/-- FAB_FM_UID. -/
def Dev.fmUid (d : Dev) : Nat := d.reg 0x10018 + 2 ^ 64 * d.reg 0x10020

/-- Whether a message may pass the check at a port's ingress (R291); one of another partition is counted. -/
def Dev.admits (d : Dev) (m : FabMsg) : Bool × Dev :=
  if m.type = 0x0B then (true, d)
  else match d.partition with
    | none => (m.type == 0x0A, d)
    | some part =>
      if m.type = 0x0A ∧ fld m.body 0 16 = d.fmUid then (true, d)
      else if m.part ≠ part then (false, d.stat 0x10030 63 48 1)
      else (m.type == 0x0A || d.rf 0x10004 0 0 == 1, d)

/-- A message received on a port and not taken in: its buffer is free again at once. -/
def Dev.freeBuf (d : Dev) (p : Nat) (m : FabMsg) : Dev := d.oweCredits p m.vc (msgCredits m) (d.vcUse p m.vc + msgCredits m)

/-- Take one message out of the flits of a port: it is discarded, forwarded, or put where its command finds it. A message for
this node aborts an entry of STOP (R361). -/
def Dev.receive (d : Dev) (p : Nat) (m : FabMsg) : Dev :=
  match d.admits m with
  | (false, d) => d.freeBuf p m
  | (true, d) =>
    let keep (d : Dev) : Dev := { (d.abortEntry 5) with inbox := d.inbox ++ [(p, m)] }
    if m.type = 0x0B ∨ m.type = 0x0A then { d with inbox := d.inbox ++ [(p, m)] }
    else match d.route p m with
      | .here => keep d
      | _ => d.forward p m

/-! Flits (R273). -/

/-- Cut the whole messages off the front of a byte stream in which each byte has the poison of its code word; a message with
poisoned bytes takes POISON, and PAD is dropped. -/
def cutStream : Nat → List (Byte × Bool) → List FabMsg × List (Byte × Bool)
  | 0, bs => ([], bs)
  | fuel + 1, bs =>
    if bs.length < 16 then ([], bs)
    else
      let n := headLen ((bs.take 16).map (·.1))
      if n < 16 then ([], [])
      else if bs.length < n then ([], bs)
      else
        let (ms, r) := cutStream fuel (bs.drop n)
        let m := msgOf ((bs.take n).map (·.1))
        if m.type = 0 then (ms, r) else ({ m with poison := m.poison || (bs.take n).any (·.2) } :: ms, r)

/-- The flit that 256 bytes spell. -/
def flitOf (bs : List Byte) : Flit :=
  let h := fld bs 0 8
  ⟨bits h 11 0, bits h 23 12, bit h 24, bits h 27 25, bits h 39 28, slice bs 8 248⟩

/-- Send a flit that carries only an acknowledgement, with NAK where it is set. -/
def Dev.sendAck (d : Dev) (p : Nat) (nak : Bool) : Dev :=
  let (y, o) := emitFlit p (d.port p) (padBytes 248)
  match o with
  | .flit q f => { d.setPort p y with out := .flit q { f with nak := nak } :: d.out }
  | _ => d

/-- Ask for the awaited flit again (R273): the NAK waits where the retry buffer holds its 1,024 flits. -/
def Dev.askAgain (d : Dev) (p : Nat) : Dev :=
  let full := decide ((d.port p).retry.length ≥ 1024)
  let d := d.setPort p { d.port p with nakSent := true, nakDue := full }
  if full then d else d.sendAck p true

/-- Take the acknowledgement of a flit: the flits up to it leave the retry buffer. -/
def ackRetry (x : PortSt) (ack : Nat) : PortSt :=
  match x.retry.findIdx? (fun f => f.seq == ack) with
  | some i => { x with retry := x.retry.drop (i + 1), retries := 0 }
  | none => x

/-- Answer a NAK: every flit of the retry buffer is sent again, with the present acknowledgement. The sixteenth retry of one
flit in a row takes the port out of UP (R270). -/
def Dev.resendFlits (d : Dev) (p : Nat) : Dev :=
  let x := d.port p
  if x.retry.isEmpty then d
  else if x.retries + 1 ≥ 16 then d.leavePort p .training
  else
    let d := (d.setPort p { x with retries := x.retries + 1 }).stat (0x10200 + 8 * p) 63 48 x.retry.length
    x.retry.foldl (fun d f => d.send (.flit p { f with ack := x.rxGood })) d

/-- Add returned credits. -/
def addCredits (x : PortSt) (vc n : Nat) : PortSt := { x with credits := x.credits.set vc (nth x.credits vc 0 + n) }

/-- A flit whose code words could all be read. Its ACK and NAK are taken from every such flit; its credits and messages only in
order. -/
def Dev.takeFlit (d : Dev) (p : Nat) (f : Flit) (space : List (Byte × Bool)) : Dev :=
  let d := d.setPort p (ackRetry (d.port p) f.ack)
  let d := if f.nak then d.resendFlits p else d
  let d := if (d.port p).nakDue then d.askAgain p else d
  let x := d.port p
  if x.st ≠ .up ∨ f.seq ≠ (x.rxGood + 1) % 4096 then d.pump p
  else
    let (ms, rest) := cutStream (x.rx.length + 248) (x.rx ++ space)
    let d := d.setPort p { (addCredits x f.crvc f.crcnt) with rxGood := f.seq, nakSent := false, nakDue := false, rx := rest }
    (ms.foldl (fun d m => d.receive p m) d).pump p

/-- Whether a flit with an uncorrectable word may be the one that the port waits for: its header names that SEQ, or cannot be read
(DESIGN CHOICE, log entry 189). -/
def awaitedFlit (x : PortSt) (head : V36Ans) : Bool := head.bad || fld head.data 0 2 % 4096 == (x.rxGood + 1) % 4096

/-- FLIT_RECEIVE (R273, R341): the eight code words of a flit. Corrected symbols and uncorrectable words are charged to the
port; the first flit with an uncorrectable word is asked for again, and later ones are discarded until it comes. Where that one comes with an
uncorrectable word again, it is the first such flit once more. -/
def execFlitReceive (port : Nat) (words : List (List Byte)) (s : State) : Host.Outcome State Fault Refusal :=
  s.onDev (fun d =>
    if port ≥ 16 || ! d.portUp port then d
    else
      let ws := (List.range 8).map (fun i => v36Decode (nth words i []))
      let d := d.charge (locId 3 port) (ws.foldl (fun a w => a + w.fixed) 0) (ws.countP (·.bad))
      let bytes := ws.flatMap (·.data)
      if ws.any (·.bad) then
        if (d.port port).nakSent && ! awaitedFlit (d.port port) (v36Decode (nth words 0 [])) then d else d.askAgain port
      else d.takeFlit port (flitOf bytes) ((ws.flatMap (fun w => w.data.map (fun b => (b, w.poison)))).drop 8))

end Sys2Proof.Machine
end

