-- ==== Sys2Proof/Machine/Message.lean ====
section
/-! DEFINITION. The messages of Meunol: requests and flows at their destination, responses at their source, and the timers of
both (R277 to R283, R285, R290, R296). -/

namespace Sys2Proof.Machine

open Sys2Proof

/-! Taking a message up. -/

/-- Carry out a message that has come on a port. One that waits in the receive buffer is taken up there; any other has come
whole and passes the checks of the ingress first (R289, R291). -/
def Dev.arrive (d : Dev) (p : Nat) (m : FabMsg) (f : Dev → Dev) : Dev :=
  if d.inbox.contains (p, m) then f (d.takeUp p m)
  else if p ≥ 16 || ! d.portUp p then d
  else match d.admits m with
    | (false, d) => d.freeBuf p m
    | (true, d) =>
      if m.type = 0x0B ∨ m.type = 0x0A then f (d.freeBuf p m)
      else match d.route p m with
        | .here => f ((d.freeBuf p m).abortEntry 5)
        | _ => d.forward p m

/-- The meaning of a message command: its message has the type of the row. -/
def State.message (s : State) (type p : Nat) (m : FabMsg) (f : Dev → Dev) : Host.Outcome State Fault Refusal :=
  s.onDev (fun d => if m.type = type then d.arrive p m f else d)

/-! Requests served at home (R277, R282). -/

/-- Hold a message that has been taken in until it is answered. -/
def Dev.hold (d : Dev) (m : FabMsg) : Dev :=
  let id := d.fabIn.foldl (fun a x => max a (x.id + 1)) 0
  Dev.serveFabs { d with fabIn := d.fabIn ++ [FabIn.mk id m false []] }

/-- Take a request into a tracker; a copy of one that is held is discarded (R282). -/
def Dev.accept (d : Dev) (m : FabMsg) : Dev :=
  if d.fabIn.any (fun x => x.msg.src == m.src && x.msg.sidx == m.sidx && x.msg.tag == m.tag) then d else d.hold m

/-- RD (R277). -/
def execRd (port : Nat) (m : FabMsg) (s : State) : Host.Outcome State Fault Refusal := s.message 0x01 port m (fun d => d.accept m)

/-- BULK_RD (R277). -/
def execBulkRd (port : Nat) (m : FabMsg) (s : State) : Host.Outcome State Fault Refusal :=
  s.message 0x05 port m (fun d => d.accept m)

/-- ECHO (R277): its 8 bytes come back unchanged. -/
def execEcho (port : Nat) (m : FabMsg) (s : State) : Host.Outcome State Fault Refusal :=
  s.message 0x09 port m (fun d => d.respond m 0x88 0 0 false (slice m.body 0 8))

/-! Flows at their destination (R280, R281). -/

/-- Send a FLOWNAK (R277), counted in FAB_STATS.NAK. -/
def Dev.flowNak (d : Dev) (m : FabMsg) (reason expect : Nat) : Dev :=
  (d.stat 0x10030 15 0 1).respond m 0x8F 0 expect false (leBytes 1 reason ++ List.replicate 7 0)

/-- The first message of a flow that has been taken in and is not yet visible. -/
def Dev.flowPending (d : Dev) (src sidx : Nat) : Option FabMsg :=
  (d.fabIn.find? (fun x => writeClass x.msg.type && x.msg.src == src && x.msg.sidx == sidx)).map (·.msg)

/-- The last message of a flow that is visible with every earlier one. -/
def Dev.lastVisible (d : Dev) (f : FlowIn) : Nat :=
  match d.flowPending f.src f.sidx with
  | some m => (m.ord + 1023) % 1024
  | none => (f.expect + 1023) % 1024

/-- Acknowledge a duplicate again (R280). -/
def Dev.ackAgain (d : Dev) (f : FlowIn) (m : FabMsg) : Dev :=
  if d.fabIn.any (fun x => writeClass x.msg.type && x.msg.src == m.src && x.msg.sidx == m.sidx && x.msg.ord == m.ord) then d
  else if m.type = 4 then
    match f.lastAtom with
    | some (o, old, bad) => if o = m.ord then d.respond m 0x84 0 m.ord bad (leBytes 8 old) else d
    | none => d
  else if m.ackReq || m.type = 7 then d.respond m 0x83 0 m.ord false []
  else d.respond m 0x82 0 (d.lastVisible f) false []

/-- Take one fragment of a sub-descriptor (R279), charged to the composition it carries (R200, R395); none where no context
is free for its first one. -/
def Dev.takeFragment (d : Dev) (m : FabMsg) : Option Dev :=
  let frag := fld m.body 0 2
  let taken (d : Dev) : Dev := d.meter (subComp m.body) 3 (msgLen m)
  let last := bit frag 15
  let mine (x : SubCtx) : Bool := x.src == m.src && x.sidx == m.sidx && x.tag == m.tag
  let add (x : SubCtx) : SubCtx := { x with payload := x.payload ++ m.body.drop 32, frags := x.frags + 1, complete := last }
  if d.subs.any mine then some <| taken { d with subs := d.subs.map (fun x => if mine x && ! x.complete then add x else x) }
  else if frag % 2 ^ 15 ≠ 0 then some (taken d)
  else if d.subs.length ≥ 256 then none
  else some <| taken { d with subs := d.subs ++ [add ⟨m.src, m.sidx, m.tag, slice m.body 0 32, [], 0, false⟩] }

/-- Hand a message that is the one its flow expects to home; the flow then expects the next. A SUBDESC that finds no context
is answered BUSY; the acknowledgement of one that does waits for the earlier messages of its flow. -/
def Dev.inOrder (d : Dev) (f : FlowIn) (m : FabMsg) : Dev :=
  let g := { f with expect := (m.ord + 1) % 1024, aheadSent := false }
  if m.type = 6 then
    match d.takeFragment m with
    | none => (d.setFlowIn { f with expect := m.ord }).flowNak m 2 m.ord
    | some d => ((d.setFlowIn g).hold m).serveSubs
  else (d.setFlowIn g).accept m

/-- A write-class message (R280). -/
def Dev.writeClassIn (d : Dev) (m : FabMsg) : Dev :=
  match d.flowIn m.src m.sidx with
  | none =>
    if ! m.first then d.flowNak m 1 0
    else if d.flowsIn.length ≥ 16384 then d.flowNak m 2 m.ord
    else d.inOrder ⟨m.src, m.sidx, m.ord, 0, none, false, false⟩ m
  | some f =>
    let behind := ringSub 1024 f.expect m.ord
    let ahead := ringSub 1024 m.ord f.expect
    if m.first || behind = 0 then d.inOrder f m
    else if behind ≤ 256 then d.ackAgain f m
    else if ahead ≤ 256 then
      if f.aheadSent then d else (d.setFlowIn { f with aheadSent := true }).flowNak m 0 f.expect
    else d

/-- WR (R280). -/
def execWr (port : Nat) (m : FabMsg) (s : State) : Host.Outcome State Fault Refusal :=
  s.message 0x02 port m (fun d => d.writeClassIn m)

/-- WRN (R280). -/
def execWrn (port : Nat) (m : FabMsg) (s : State) : Host.Outcome State Fault Refusal :=
  s.message 0x03 port m (fun d => d.writeClassIn m)

/-- ATOM (R277, R280). -/
def execAtom (port : Nat) (m : FabMsg) (s : State) : Host.Outcome State Fault Refusal :=
  s.message 0x04 port m (fun d => d.writeClassIn m)

/-- SUBDESC (R279, R280). -/
def execSubdesc (port : Nat) (m : FabMsg) (s : State) : Host.Outcome State Fault Refusal :=
  s.message 0x06 port m (fun d => d.writeClassIn m)

/-- PARITY (R280, R312). -/
def execParityMsg (port : Nat) (m : FabMsg) (s : State) : Host.Outcome State Fault Refusal :=
  s.message 0x07 port m (fun d => d.writeClassIn m)

/-- WRDONE_TIMER (R281): the messages that are visible are acknowledged. It also ends the microsecond in which one FLOWNAK
AHEAD was sent. -/
def execWrdoneTimer (src sidx : Nat) (s : State) : Host.Outcome State Fault Refusal :=
  s.onDev (fun d => match d.flowIn src sidx with
    | none => d
    | some f =>
      let g := { f with aheadSent := false }
      if ! f.timer then d.setFlowIn g
      else
        let m := { d.ownMsg 0 sidx 2 [] with src := src, tag := 0 }
        (d.setFlowIn { g with sinceDone := 0, timer := false }).respond m 0x82 0 (d.lastVisible f) false [])

/-- FLOW_EXPIRY (R280). -/
def execFlowExpiry (here : Bool) (node sidx : Nat) (s : State) : Host.Outcome State Fault Refusal :=
  s.onDev (fun d =>
    if here then
      if (d.flowPending node sidx).isSome then d
      else { d with flowsIn := d.flowsIn.filter (fun f => ! (f.src == node && f.sidx == sidx)) }
    else { d with flowsOut := d.flowsOut.filter (fun f => ! (f.dst == node && f.sidx == sidx && f.unacked.isEmpty)) })

/-! Responses at their source (R277, R281 to R283). -/

/-- Forget one request. -/
def Dev.dropOut (d : Dev) (o : FabOut) : Dev := d.dropReq o.msg.dst o.msg.sidx o.msg.tag

/-- Give a descriptor what it has read from a peer. -/
def Dev.giveLines (d : Dev) (i : DescId) (ls : List RemoteLine) : Dev :=
  d.modStarted i.queue i.seq (fun r => { r with remote := r.remote ++ ls })

/-- Report a write of a descriptor that has failed: its status joins the descriptor's, or fails the entry of a timetable that
issued it (R265). -/
def Dev.descStatus (d : Dev) (i : DescId) (tag st : Nat) : Dev :=
  match d.table i with
  | none => d.noteStatus i.queue i.seq st
  | some t => match t.acks.find? (fun a => a.2.contains tag) with
    | some (k, _) => d.entryFails i k st
    | none => d.noteStatus i.queue i.seq st

/-- Rebuild the source of a promotion from its erasure group once its peer cannot be reached (R314), or fail the promotion. -/
def Dev.sourceLost (d : Dev) (f : Nat) : Dev :=
  match smGet? f d.moves with
  | none => d
  | some m =>
    let d := { d with moves := smSet f { m with data := [], pois := [] } d.moves }
    if m.destRemote.kind = 1 then (match d.rebuildReads f with | some d => d | none => d.promoFailed f) else d.promoFailed f

/-- The lines that a read asks for: the first one and their number. -/
def readSpan (o : FabOut) (line : Nat) : List Nat :=
  (List.range (if o.msg.type = 5 then fld o.msg.body 8 4 / 64 else 1)).map (fun i => line + i)

/-- A request has failed with a status: whoever it was made for learns of it. -/
def Dev.outFails (d : Dev) (o : FabOut) (st : Nat) : Dev :=
  let d := d.dropOut o
  let write := writeClass o.msg.type
  match o.owner with
  | .desc i line =>
    if write && o.msg.type != 4 && decide (line < ackKey 0) then d.descStatus i o.msg.tag st
    else if write && o.msg.type != 4 then d.giveLines i [⟨line, 0, false, st⟩]
    else d.giveLines i ((readSpan o line).map (fun l => ⟨l, 0, false, st⟩))
  | .subdesc i => d.notePart i (failedPart (2 * o.msg.dst + bits (fld o.msg.body 10 2) 2 2) st)
  | .promote f => if st = stTimeout ∨ st = stFenced then d.sourceLost f else d.promoFailed f
  | .rebuild f => match smGet? f d.tmap with
    | some e => if e.psn then d.dropRebuild f else d.promoFailed f
    | none => d
  | .demote f => d.abandonDemotion f
  | .parity id => if st = stTimeout ∨ st = stFenced then d.parityUnanswered id (fld o.msg.body 3 1) else d.parityAck id (fld o.msg.body 3 1)
  | .notify q => d.queueErr q
  | .echo _ => d
  | .lease _ => d
  | .xfer e => { d with xfers := d.xfers.map (fun x => if x.extent = e then { x with failed := st } else x) }
  | .rowMove i .. => d.moveFails i st

/-- Take messages of a flow as acknowledged (R281). A sub-descriptor still waits for its PARTIAL, and an atomic for its OLD. -/
def Dev.acked (d : Dev) (ms : List FabMsg) : Dev :=
  ms.foldl (fun d m =>
    if m.type = 6 ∨ m.type = 4 then d
    else match d.fabReq m.dst m.sidx m.tag with
      | none => d
      | some o =>
        let d := d.dropOut o
        match o.owner with
        | .parity id => d.parityAck id (fld o.msg.body 3 1)
        | .desc i line => if ackKey 0 ≤ line then d.giveLines i [⟨line, 0, false, 0⟩] else d
        | _ => d) d

/-- Charge a received message to the descriptor that it answers (R383, R395). -/
def Dev.chargeIn (d : Dev) (m : FabMsg) : Dev :=
  match (d.fabReq m.src m.sidx m.tag).bind (fun o => ownerDesc o.owner) with
  | some i => d.chargeFab i 0x09 (msgLen m)
  | none => d

/-- A response to a request of a type. -/
def Dev.answer (d : Dev) (m : FabMsg) (type : Nat) (f : FabOut → Dev → Dev) : Dev :=
  match d.fabReq m.src m.sidx m.tag with
  | none => d
  | some o => if o.msg.type = type then f o (d.chargeIn m) else d

/-- RD_DATA (R277, R283). -/
def execRdData (port : Nat) (m : FabMsg) (s : State) : Host.Outcome State Fault Refusal :=
  s.message 0x81 port m (fun d => d.answer m 0x01 (fun o d =>
    if m.status ≠ 0 then d.outFails o m.status
    else match o.owner with
      | .desc i l => (d.dropOut o).giveLines i [⟨l, bytesLine (slice m.body 0 64), m.poison, 0⟩]
      | _ => d.dropOut o))

/-- Line `l` of what a bulk read has brought so far. -/
def gotLine (got : List (Nat × List Byte × Bool)) (l : Nat) : Option (List Byte × Bool) :=
  got.findSome? (fun p => if p.1 ≤ 64 * l ∧ 64 * l + 64 ≤ p.1 + p.2.1.length then
    some (slice p.2.1 (64 * l - p.1) 64, p.2.2) else none)

/-- The bytes of a survivor of an erasure group scaled for the rebuilt unit (R316), by its first FA. -/
def Dev.scaled (d : Dev) (f dst fa : Nat) (bs : List Byte) : List Byte :=
  match d.egOf f with
  | none => bs
  | some w =>
    let i := ((List.range 16).find? (fun i =>
      egNode w i == dst && fa == dst * 2 ^ 48 + 65536 * (egBase w i + (f - egBase w (egSelf w))))).getD 0
    let k := egCoeff w i
    bs.map (fun b => BitVec.ofNat 8 (gfMul k b.toNat))

/-- The lines of a frame that a bulk read has brought: its bytes and its poisoned code words. -/
def bulkFrame (ls : List (List Byte × Bool)) : List Byte × NSet :=
  (ls.flatMap (·.1), (List.range ls.length).flatMap (fun i => if (nth ls i ([], false)).2 then [2 * i, 2 * i + 1] else []))

/-- Give a whole bulk read to whoever asked for it. -/
def Dev.bulkDone (d : Dev) (o : FabOut) (ls : List (List Byte × Bool)) : Dev :=
  let d := d.dropOut o
  let (bs, ps) := bulkFrame ls
  match o.owner with
  | .desc i l => d.giveLines i ((List.range ls.length).map (fun j =>
      let x := nth ls j ([], false)
      ⟨l + j, bytesLine x.1, x.2, 0⟩))
  | .promote f => { d with moves := smMod f (fun m => { m with data := bytesCells bs, pois := ps }) d.moves }
  | .rebuild f =>
    let part := d.scaled f o.msg.dst (fld o.msg.body 0 8) bs
    { d with moves := smMod f (fun m => { m with
        data := bytesCells (xorBytes (cellBytes m.data 0 65536) part)
        pois := ps.foldl (fun p w => nsAdd w p) m.pois }) d.moves }.endRebuild f
  | _ => d

/-- BULK_DATA (R277): the parts may come in any order. -/
def execBulkData (port : Nat) (m : FabMsg) (s : State) : Host.Outcome State Fault Refusal :=
  s.message 0x85 port m (fun d => d.answer m 0x05 (fun o d =>
    if m.status ≠ 0 then d.outFails o m.status
    else
      let got := o.got ++ [(fld m.body 0 4, m.body.drop 8, m.poison)]
      let n := fld o.msg.body 8 4 / 64
      let ls := (List.range n).map (gotLine got)
      if ls.all (·.isSome) then d.bulkDone o (ls.filterMap id)
      else { d with fabOut := d.fabOut.map (fun x => if x = o then { x with got := got } else x) }))

/-- ATOM_DATA (R277): it acknowledges the atomic and every earlier message of its flow. -/
def execAtomData (port : Nat) (m : FabMsg) (s : State) : Host.Outcome State Fault Refusal :=
  s.message 0x84 port m (fun d => d.answer m 0x04 (fun o d =>
    let (ms, d) := d.ackFlow m.src m.sidx m.ord
    let d := (d.acked ms).dropOut o
    match o.owner with
    | .desc i key => d.giveLines i [⟨key, bytesLine (slice m.body 0 8), m.poison, m.status⟩]
    | _ => d))

/-- WRDONE (R281). -/
def execWrdone (port : Nat) (m : FabMsg) (s : State) : Host.Outcome State Fault Refusal :=
  s.message 0x82 port m (fun d =>
    let (ms, d) := d.ackFlow m.src m.sidx m.ord
    d.acked ms)

/-- WRACK (R281, R283): with a status, the message that it names has failed; it acknowledges every earlier one. -/
def execWrack (port : Nat) (m : FabMsg) (s : State) : Host.Outcome State Fault Refusal :=
  s.message 0x83 port m (fun d =>
    let (ms, d) := (d.chargeIn m).ackFlow m.src m.sidx m.ord
    if m.status = 0 then d.acked ms
    else
      let d := d.acked ms.dropLast
      match (ms.getLast?).bind (fun x => d.fabReq x.dst x.sidx x.tag) with
      | some o => d.outFails o m.status
      | none => d)

/-- PARTIAL (R279). -/
def execPartialMsg (port : Nat) (m : FabMsg) (s : State) : Host.Outcome State Fault Refusal :=
  s.message 0x86 port m (fun d => d.answer m 0x06 (fun o d =>
    let d := d.dropOut o
    match o.owner with
    | .subdesc i => d.notePart i ⟨2 * m.src + bits (fld o.msg.body 10 2) 2 2, m.status, fld m.body 0 2, fld m.body 8 8,
        fld m.body 16 8, m.body.drop 24⟩
    | _ => d))

/-- ECHO_RSP (R277, R293): a round trip of the bring-up, in reference ticks. -/
def execEchoRsp (port : Nat) (m : FabMsg) (s : State) : Host.Outcome State Fault Refusal :=
  s.message 0x88 port m (fun d => d.answer m 0x09 (fun o d =>
    let d := d.dropOut o
    match o.owner, d.bringup with
    | .echo n, some b => match b.sentAt.find? (fun x => x.1 == n && x.2.1 == m.tag) with
      | some (_, _, at_) => { d with bringup := some { b with rtts := b.rtts ++ [(n, d.ticks - at_)] } }
      | none => d
    | _, _ => d))

/-- FLOWNAK (R280): the flow is sent again from the message expected, or from its lowest unacknowledged one with FIRST; after
BUSY it waits for FAB_E2E. -/
def execFlownak (port : Nat) (m : FabMsg) (s : State) : Host.Outcome State Fault Refusal :=
  s.message 0x8F port m (fun d =>
    let reason := fld m.body 0 1
    if reason = 0 then
      match (d.flowOut m.src m.sidx).bind (fun f => ordAt f m.ord) with
      | some i => d.resendFrom m.src m.sidx i false
      | none => d
    else if reason = 1 then d.resendFrom m.src m.sidx 0 true
    else d)

/-! Timers (R282). -/

/-- E2E_RESEND (R282): a read is sent again whole, a flow from its lowest unacknowledged message. -/
def execE2eResend (dst sidx tag : Nat) (s : State) : Host.Outcome State Fault Refusal :=
  s.onDev (fun d => match d.fabReq dst sidx tag with
    | none => d
    | some o =>
      let flowing := match d.flowOut dst sidx with
        | some f => f.unacked.any (fun m => m.tag == tag)
        | none => false
      if writeClass o.msg.type && flowing then d.resendFrom dst sidx 0 false else d.sendOwn o.msg)

/-- FAB_REQ_TMO_EXPIRY (R282): the request fails with TIMEOUT; a write-class one ends its flow, and every unacknowledged
message of the flow fails with it. -/
def execFabReqTmoExpiry (dst sidx tag : Nat) (s : State) : Host.Outcome State Fault Refusal :=
  s.onDev (fun d => match d.fabReq dst sidx tag with
    | none => d
    | some o =>
      if ! writeClass o.msg.type then d.outFails o stTimeout
      else
        let (ms, d) := d.endFlow dst sidx
        let d := ms.foldl (fun d m => match d.fabReq m.dst m.sidx m.tag with
          | some o => d.outFails o stTimeout
          | none => d) d
        match d.fabReq dst sidx tag with
        | some o => d.outFails o stTimeout
        | none => d)

/-- Take a message out of a port's queue. -/
def Dev.unqueue (d : Dev) (p : Nat) (q : Queued) : Dev :=
  (d.setPort p { d.port p with txq := (d.port p).txq.erase q }).releaseAll [q]

/-- AGE_DISCARD (R282): a message that this router has queued is discarded once its AGE has reached 250. -/
def execAgeDiscard (port : Nat) (m : FabMsg) (s : State) : Host.Outcome State Fault Refusal :=
  s.onDev (fun d =>
    if port ≥ 16 then d
    else match (d.port port).txq.find? (fun q => q.msg == m && decide ((d.aged q).age ≥ 250)) with
    | some q => (d.unqueue port q).stat 0x10030 31 16 1
    | none => d)

/-- NEIGH (R284, R272). -/
def execNeigh (port : Nat) (m : FabMsg) (s : State) : Host.Outcome State Fault Refusal :=
  s.message 0x0B port m (fun d => if d.portUp port then d.noteNeigh port (neighOf m.body) else d)

/-! Bring-up (R293). -/

/-- The nodes that a bring-up takes: those with V set and FENCED clear, apart from this one. -/
def Dev.peers (d : Dev) : List Nat :=
  ((smRange 0x14000 0x18000 d.regs).filter (fun p => bit p.2 31 && ! bit p.2 30)).filterMap (fun p =>
    let n := (p.1 - 0x14000) / 4
    if p.1 % 4 = 0 ∧ n ≠ d.node then some n else none)

/-- The SIDX of the management core (R278). -/
def sidxMgmt : Nat := 3 * 2 ^ 18 + 5

/-- Start a bring-up: four ECHO messages to each node. -/
def Dev.startBringup (d : Dev) : Dev :=
  if d.bringup.isSome then d
  else
    let ns := d.peers
    let d := { d with bringup := some ⟨ns, [], []⟩ }
    ns.foldl (fun d n =>
      if (d.issueStatus n).isSome then d
      else (List.range 4).foldl (fun d _ =>
        let tag := d.tagCtr
        let d := { d with bringup := d.bringup.map (fun (b : Bringup) => { b with sentAt := b.sentAt ++ [(n, tag, d.ticks)] }) }
        d.request n sidxMgmt 9 (leBytes 8 d.ticks) (.echo n)) d) d

/-- The effect of a write of FAB_CTRL (R297). -/
def Dev.writeFabCtrl (d : Dev) (v : Nat) : Dev :=
  let d := d.setRf 0x10004 0 0 (bits v 0 0)
  if bit v 1 then d.startBringup else d

/-- BRINGUP (R293). -/
def execBringup (path : Path) (s : State) : Host.Outcome State Fault Refusal :=
  .next (s.onPathDev path none false false 0x10004 (.bringup path) (fun d => d.writeFabCtrl (2 + d.rf 0x10004 0 0)))

/-- Put a number into a rising list. -/
def insertUp (x : Nat) : List Nat → List Nat
  | [] => [x]
  | y :: ys => if x ≤ y then x :: y :: ys else y :: insertUp x ys

/-- The median of a list of round trips: of an even number, the mean of the two in the middle. -/
def median (xs : List Nat) : Nat :=
  let ys := xs.foldr insertUp []
  let n := ys.length
  if n % 2 = 1 then nth ys (n / 2) 0 else (nth ys (n / 2 - 1) 0 + nth ys (n / 2) 0) / 2

/-- The mode choice of R155 and the personality of R251; a change of the personality drops the row cache's content (R29). -/
def Dev.applyBringup (d : Dev) (span worst : Nat) : Dev :=
  let d := (d.setRf 0x9000 19 8 (min 0xFFF (worst / 10))).setRf 0x9000 3 3 (b2n (decide (span > 64) || decide (worst > 2000)))
  let training := d.rf 0x9004 0 0 == 1
  let d := if training = d.training then d else { d with rowCache := [] }
  let d := { d with span := span, training := training, modeBusy := d.modeBusy || d.modeWanted != d.threadMode }
  d.setReg 0x7008 (if training then 0x00800040 else 0x00280014)

/-- BRINGUP_COMPLETE (R293): once every node has answered or its requests have timed out. The first one enters NORMAL (R364). -/
def execBringupComplete (s : State) : Host.Outcome State Fault Refusal :=
  s.onDev (fun d => match d.bringup with
    | none => d
    | some b =>
      if d.fabOut.any (fun o => match o.owner with | .echo _ => true | _ => false) then d
      else
        let of_ (n : Nat) : List Nat := (b.rtts.filter (fun x => x.1 == n)).map (·.2)
        let here := b.nodes.filter (fun n => ! (of_ n).isEmpty)
        let gone := b.nodes.filter (fun n => (of_ n).isEmpty)
        let d := gone.foldl (fun d n => d.event .bringupMissing [.node n]) d
        let d := Dev.applyBringup { d with bringup := none } (here.length + 1) (here.foldl (fun a n => max a (median (of_ n))) 0)
        if d.svc = 1 then d.setRf 0x200C 1 0 0 else d)

end Sys2Proof.Machine
end

