-- ==== Sys2Proof/Machine/Place.lean ====
section
/-! DEFINITION. PLACE: writing placement records, binding frames, and asking for their demotion and promotion (R67 to R70). -/

namespace Sys2Proof.Machine

open Sys2Proof

/-- The operand block of a PLACE (R69). -/
structure PlaceOp where
  action : Nat
  prec : Nat
  start : Nat
  frames : Nat
  record : Line

/-- Read a PLACE's operand block, which bytes 8 to 15 of the descriptor name. -/
def placeOp (l : Line) : M PlaceOp := do
  let bs ← rdV (lf l 8 8) 96
  return ⟨fld bs 0 1, fld bs 4 4 % 2 ^ 20, fld bs 8 8, fld bs 16 4, bytesLine (slice bs 32 64)⟩

/-- The record at an index as it was written; zero where it never was. -/
def Dev.precRaw (d : Dev) (i : Nat) : Line := smGet i 0 d.precs

/-- Check 1 of R69 for BIND, DEMOTE and PROMOTE. -/
def placeRange (p : PlaceOp) : M Unit := do
  let d ← getDev
  ensure (p.prec != 0 && decide (p.start % 65536 = 0) && decide (1 ≤ p.frames ∧ p.frames ≤ 1048576) && pValid (d.precRaw p.prec)) stBounds

/-- The frames of a range (checks 2 and 3 of R69): the record's composition and the present records' must be the
submitter's, and every page must translate to this Ndonte. -/
def placeFrames (p : PlaceOp) : M (List Nat) := do
  placeRange p
  let c ← read
  let d ← getDev
  ensure (pComp (d.precRaw p.prec) == c.comp) stDenied
  ensure (dvaFits p.start (65536 * p.frames)) stBounds
  let fas ← xlateAll 0 (pagesOf p.start (65536 * p.frames))
  let d ← getDev
  let own := (fas.filter (fun x => d.isOwn x.1)).map (fun x => faOff x.1 / 65536)
  ensure (own.all (fun f => match d.entry f with | some e => pComp (d.precOf e) == c.comp | none => true)) stDenied
  ensure (fas.all (fun x => d.isOwn x.1)) stBounds
  return own

/-- Mark a frame as pinned: a demotion not yet committed is abandoned (R75), and a frame outside T0 is promoted. -/
def Dev.pinFrame (d : Dev) (f : Nat) (e : TEntry) : Dev :=
  let d := (d.abandonDemotion f).modEntry f (fun e => { e with pin := true })
  if e.tier = 0 then d else { d with wantPromo := nsAdd f d.wantPromo }

/-- Whether the pins of a composition would exceed its quota with more frames (R70). -/
def Dev.overQuota (d : Dev) (comp more : Nat) : Bool := decide (d.pinned comp + more > smGet comp 0 d.quota)

/-- PLACE WRITE_RECORD (R68, R69). -/
def writeRecordM (p : PlaceOp) : M (Nat × Nat × Nat) := do
  let c ← read
  let d ← getDev
  ensure (p.prec != 0 && d.precOk p.record) stBounds
  let old := d.precRaw p.prec
  ensure (! pValid old || pComp old == c.comp) stDenied
  ensure (pComp p.record == c.comp) stDenied
  let bound := d.tmap.filter (fun x => x.2.prec == p.prec)
  let more := (bound.filter (fun x => ! x.2.pin)).length
  if pPin p.record && decide (more > 0) && d.overQuota c.comp more then return (stTierFull, 0, 0)
  let d := { d with precs := smSet p.prec p.record d.precs }
  let d := bound.foldl (fun d x =>
    let d := if pPin p.record then (if x.2.pin then d else d.pinFrame x.1 x.2) else d.modEntry x.1 (fun e => { e with pin := false })
    if pTier p.record x.2.tier then d else { d with wantPromo := nsAdd x.1 d.wantPromo }) d
  modDev (fun _ => if d.mapOn then d.tryWanted else d)
  return (stOk, 0, 0)

/-- Bind one frame that has an entry. -/
def Dev.bindOld (d : Dev) (f prec : Nat) (e : TEntry) : Dev :=
  let r := d.prec prec
  let d := d.modEntry f (fun e => { e with prec := prec, pin := pPin r })
  if pPin r then d.pinFrame f e
  else if pTier r e.tier then d else { d with wantPromo := nsAdd f d.wantPromo }

/-- Bind the frames of a range in order, creating those that have no entry zero-filled. The answer is the number bound,
and what ended the binding early: none, a status, or the wait for a pool frame. -/
def Dev.bindAll (prec : Nat) : Nat → List Nat → Dev → Nat × Option Halt × Dev
  | k, [], d => (k, none, d)
  | k, f :: fs, d =>
    match d.entry f with
    | some e => Dev.bindAll prec (k + 1) fs (d.bindOld f prec e)
    | none => match d.alloc with
      | some loc => Dev.bindAll prec (k + 1) fs (d.setEntry f (newEntry prec loc d.ageWindow (pPin (d.prec prec))))
      | none => (k, some (if d.isFull then .done stTierFull else .need), d)

/-- PLACE BIND (R69): checks 4 and 5, then the frames. -/
def bindM (p : PlaceOp) : M (Nat × Nat × Nat) := do
  let c ← read
  let fs ← placeFrames p
  let d ← getDev
  ensure (d.mapOn && fs.all d.rooted) stBounds
  if fs.any (fun f => d.rootBusy.contains (f / 65536) || d.lostLeaves.contains (smGet (f / 65536) 65536 d.roots)) then need
  let more := (fs.filter (fun f => match d.entry f with | some e => ! e.pin | none => true)).length
  if pPin (d.prec p.prec) && decide (more > 0) && d.overQuota c.comp more then return (stTierFull, 0, 0)
  let (k, r, d) := Dev.bindAll p.prec 0 fs d
  modDev (fun _ => d.tryWanted)
  match r with
  | none => return (stOk, k, 0)
  | some (.done st) => return (st, k, 0)
  | some .need => need

/-- PLACE DEMOTE (R69, R82): the range's unpinned frames that can be demoted begin to be; one lost in a rebuild stores its poison. -/
def demoteM (p : PlaceOp) : M (Nat × Nat × Nat) := do
  let fs ← placeFrames p
  modDev (fun d =>
    let d := fs.foldl (fun d f => match d.entry f with
      | some e => if d.canDemote f e then { d with wantDemote := nsAdd f d.wantDemote } else d
      | none => d) d
    d.tryDemotes)
  return (stOk, p.frames, 0)

/-- PLACE PROMOTE (R69): the range's frames outside T0 begin to be promoted. -/
def promoteM (p : PlaceOp) : M (Nat × Nat × Nat) := do
  let fs ← placeFrames p
  modDev (fun d =>
    let d := fs.foldl (fun d f => match d.entry f with
      | some e => if e.tier = 0 then d else { d with wantPromo := nsAdd f d.wantPromo }
      | none => d) d
    d.tryWanted)
  return (stOk, p.frames, 0)

/-- A PLACE whose ACTION is that of its row; an ACTION that R69 does not list gives BOUNDS. -/
def placeM (action : Nat) (m : PlaceOp → M (Nat × Nat × Nat)) (l : Line) : M (Nat × Nat × Nat) := do
  let p ← placeOp l
  ensure (decide (p.action ≤ 3)) stBounds
  if p.action ≠ action then need
  m p

/-- PLACE_WRITE_RECORD (R69). -/
def execPlaceWriteRecord (q n : Nat) (s : State) : Host.Outcome State Fault Refusal := s.desc 0x08 q n (placeM 0 writeRecordM)

/-- PLACE_BIND (R69). -/
def execPlaceBind (q n : Nat) (s : State) : Host.Outcome State Fault Refusal := s.desc 0x08 q n (placeM 1 bindM)

/-- PLACE_DEMOTE (R69). -/
def execPlaceDemote (q n : Nat) (s : State) : Host.Outcome State Fault Refusal := s.desc 0x08 q n (placeM 2 demoteM)

/-- PLACE_PROMOTE (R69). -/
def execPlacePromote (q n : Nat) (s : State) : Host.Outcome State Fault Refusal := s.desc 0x08 q n (placeM 3 promoteM)

end Sys2Proof.Machine
end

