-- ==== Sys2Proof/Machine/Extent.lean ====
section
/-! DEFINITION. Extents, the lease client, transfers of extents, revocation and erasure groups (R298 to R320). -/

namespace Sys2Proof.Machine

open Sys2Proof

/-! The extent table (R299, R301, R320). -/

/-- SEC_LOCK.EXT. -/
def lockExt : Nat := 6

/-- The effect of a write of EXT_TAB_BASE: as EN is written to 1, every entry is FREE. -/
def Dev.writeExtBase (d : Dev) (v : Nat) : Dev :=
  let base := bits v 47 16 * 65536
  let d := d.setReg 0xD000 (base + v % 2)
  if v % 2 = 0 then d
  else { d with extents := [], leases := [], xfers := [], mem := smEraseRange base (base + 2097152) d.mem }

/-- EXT_TAB_ENABLE (R320). -/
def execExtTabEnable (path : Path) (value : Nat) (s : State) : Host.Outcome State Fault Refusal :=
  .next (s.onPath path none false false 0xD000 (.extTabEnable path value) (fun s =>
    if bit s.lock lockExt then s else { s with dev := s.dev.writeExtBase value }))

/-- The lowest free entry of the table. -/
def Dev.freeExtSlot (d : Dev) : Nat :=
  ((List.range (d.extents.length + 1)).find? (fun i => ! d.extents.any (fun e => e.slot == i))).getD 0

/-- Whether a frame range overlaps an extent. -/
def Dev.overlapsExt (d : Dev) (first n : Nat) : Bool :=
  d.extents.any (fun e => decide (first < e.first + e.frames ∧ e.first < first + n))

/-! The lease client (R302 to R304, R308). -/

/-- The body of a LEASE or LEASE_RSP message (R302). -/
structure LeaseBody where
  op : Nat
  result : Nat
  phase : Nat
  extent : Nat
  epoch : Nat
  owner : Nat
  peer : Option Nat
  ms : Nat
  comp : Nat
  dprec : Nat
  dfirst : Nat
  frames : Nat

/-- The bytes of a LEASE body. -/
def leaseBytes (b : LeaseBody) : List Byte :=
  leBytes 1 b.op ++ leBytes 1 b.result ++ leBytes 1 b.phase ++ leBytes 1 0 ++ leBytes 4 b.extent ++ leBytes 4 b.epoch
  ++ leBytes 2 (b.owner % 4096) ++ leBytes 2 (match b.peer with | some p => p % 4096 | none => 2 ^ 15)
  ++ leBytes 4 b.ms ++ leBytes 2 (b.comp % 1024) ++ leBytes 2 b.dprec ++ leBytes 4 b.dfirst ++ leBytes 4 b.frames

/-- The LEASE body that bytes spell. -/
def leaseOf (bs : List Byte) : LeaseBody :=
  let p := fld bs 14 2
  ⟨fld bs 0 1, fld bs 1 1, fld bs 2 1, fld bs 4 4, fld bs 8 4, fld bs 12 2 % 4096, if bit p 15 then none else some (p % 4096),
    fld bs 16 4, fld bs 20 2 % 1024, fld bs 22 2, fld bs 24 4, fld bs 28 4⟩

/-- The results of a LEASE_RSP. -/
def lrOk : Nat := 0
def lrStale : Nat := 1
def lrDenied : Nat := 2
def lrBusy : Nat := 3

/-- The phases of a transfer. -/
def phIdle : Nat := 0
def phPrepare : Nat := 1
def phCopy : Nat := 2
def phCommit : Nat := 3
def phRelease : Nat := 4

/-- The SIDX of the lease client (R278). -/
def sidxLease : Nat := 3 * 2 ^ 18 + 4

/-- The ledger's node, where EXT_LEDGER.V names one. -/
def Dev.ledger (d : Dev) : Option Nat := if d.rf 0xD01C 31 31 = 1 then some (d.rf 0xD01C 11 0) else none

/-- The lease length asked for (R303, R320). -/
def Dev.leaseMs (d : Dev) : Nat := max 100 (min 60000 (d.rf 0xD020 15 0))

/-- The lease client's state of an extent. -/
def Dev.lease (d : Dev) (id : Nat) : Lease := (d.leases.find? (fun l => l.extent == id)).getD ⟨id, false, false, false⟩

/-- Set it. -/
def Dev.setLease (d : Dev) (l : Lease) : Dev := { d with leases := d.leases.filter (fun x => x.extent != l.extent) ++ [l] }

/-- Send a ledger operation of the lease client about an extent. With no ledger set, or none to be reached, nothing is sent. -/
def Dev.askLedger (d : Dev) (e : Extent) (op : Nat) : Dev :=
  match d.ledger with
  | none => d
  | some n =>
    let d := d.setLease { d.lease e.id with waiting := true }
    if (d.issueStatus n).isSome then d
    else d.request n sidxLease 8 (leaseBytes ⟨op, 0, 0, e.id, e.epoch, d.node, none, if op = 0 then d.leaseMs else 0, e.comp, 0, 0, 0⟩)
      (.lease e.id)

/-- Ask for, or renew, the lease of an extent. -/
def Dev.acquire (d : Dev) (e : Extent) : Dev := d.askLedger e 0

/-- A LEASED extent comes into service: LAPSED until its lease is granted (R304); an extent without LEASED is ACTIVE. -/
def Dev.startExt (d : Dev) (e : Extent) : Dev :=
  let e := { e with st := if e.leased then .lapsed else .active, peer := none }
  let d := d.setExt e
  if e.leased then (d.setLease ⟨e.id, false, false, false⟩).acquire e else d

/-- LEASE_RENEW (R303). -/
def execLeaseRenew (extent : Nat) (s : State) : Host.Outcome State Fault Refusal :=
  s.onDev (fun d => match d.extBy extent with
    | some e => if e.leased && (d.lease extent).held then d.acquire e else d
    | none => d)

/-- Mark the fabric requests that an extent's revoke point, or the lapse of its lease, finds accepted. -/
def Dev.markEarly (d : Dev) (e : Extent) : Dev := { d with
  fabIn := d.fabIn.map (fun x =>
    let f := fld x.msg.body 0 8 % 2 ^ 48 / 65536
    if e.first ≤ f ∧ f < e.first + e.frames ∧ ¬ x.early.contains e.id then { x with early := x.early ++ [e.id] } else x) }

/-- The requests to an extent that home holds. -/
def Dev.heldOf (d : Dev) (e : Extent) : List MemReq :=
  ((d.waiting.map (·.req)) ++ (d.refused.map (·.req)) ++ d.dir.filterMap (fun p => p.2.bi.bind (·.req))).filter (fun r =>
    decide (e.first ≤ reqLine r / 1024 ∧ reqLine r / 1024 < e.first + e.frames))

/-- An extent that is served becomes LAPSED: the requests accepted before complete (R304). -/
def Dev.lapse (d : Dev) (e : Extent) : Dev :=
  let d := (d.setExt { e with st := .lapsed }).markEarly e
  { d with lapseOk := d.lapseOk.filter (fun x => x.1 != e.id) ++ (d.heldOf e).map (fun r => (e.id, r)) }

/-- LEASE_EXPIRE (R303, R304): an extent that is served becomes LAPSED. -/
def execLeaseExpire (extent : Nat) (s : State) : Host.Outcome State Fault Refusal :=
  s.onDev (fun d => match d.extBy extent with
    | some e =>
      if ! e.leased || ! (d.lease extent).held then d
      else
        let d := d.setLease { d.lease extent with held := false }
        if e.st = .active ∨ e.st = .source then d.lapse e else d
    | none => d)

/-- LAPSED_ACQUIRE (R304). -/
def execLapsedAcquire (extent : Nat) (s : State) : Host.Outcome State Fault Refusal :=
  s.onDev (fun d => match d.extBy extent with
    | some e => if e.leased && e.st == .lapsed then d.acquire e else d
    | none => d)

/-- LEDGER_LOST (R304): no answer has come for EXT_LEASE.MS. -/
def execLedgerLost (s : State) : Host.Outcome State Fault Refusal :=
  s.onDev (fun d => if d.leases.any (·.waiting) then d.setRf 0xD018 2 2 1 else d)

/-- DOUBT_STALL_EXPIRY (R308): the ledger is read. -/
def execDoubtStallExpiry (extent : Nat) (s : State) : Host.Outcome State Fault Refusal :=
  s.onDev (fun d => match d.extBy extent with
    | some e =>
      if e.st = .doubt ∨ e.st = .dest then (d.setLease { d.lease extent with stalled := e.st == .dest }).askLedger e 1 else d
    | none => d)

/-- The revocation that a transfer's revoke point installed is removed (R307), and the transfer is forgotten. -/
def Dev.endXfer (d : Dev) (id : Nat) : Dev := { d with
  revs := d.revs.filter (fun r => ! (r.extent == id && r.desc.isNone))
  xfers := d.xfers.filter (fun x => x.extent != id) }

/-- What the ledger's answer to an ACQUIRE does (R303, R304): a grant puts the extent into service, as SOURCE where the record
stands in COPY. -/
def Dev.granted (d : Dev) (e : Extent) (b : LeaseBody) : Dev :=
  if b.result ≠ lrOk ∨ b.epoch ≠ e.epoch ∨ b.owner ≠ d.node then d
  else if e.st = .lapsed ∨ e.st = .active ∨ e.st = .source then
    let d := d.setLease { d.lease e.id with held := true }
    if e.st ≠ .lapsed then d
    else d.setExt { e with st := if b.phase = phCopy ∧ b.peer.isSome then .source else .active, peer := if b.phase = phCopy then b.peer else none }
  else d

/-- What the ledger's record does to an extent in DEST or DOUBT (R308). -/
def Dev.resolved (d : Dev) (e : Extent) (b : LeaseBody) : Dev :=
  if b.result ≠ lrOk then d
  else if e.st = .dest then
    if b.epoch = e.epoch ∧ b.owner = d.node then d.startExt e else d
  else if e.st = .doubt then
    if b.epoch = e.epoch + 1 then d.setExt { e with st := .moved }
    else if b.epoch = e.epoch ∧ b.owner = d.node then
      let d := d.endXfer e.id
      if (d.lease e.id).held then (d.setExt { e with st := .active, peer := none }).acquire e else d.startExt e
    else d
  else d

/-- An answer of the ledger to the lease client. -/
def Dev.ledgerAnswer (d : Dev) (id : Nat) (b : LeaseBody) : Dev :=
  let d := (d.setRf 0xD018 2 2 0).setLease { d.lease id with waiting := false }
  match d.extBy id with
  | none => d
  | some e => if b.op = 0 then d.granted e b else if b.op = 1 then d.resolved e b else d

/-- LEASE_RSP (R302): an answer to the lease client, or to the driver of a transfer. -/
def execLeaseRsp (port : Nat) (m : FabMsg) (s : State) : Host.Outcome State Fault Refusal :=
  s.message 0x87 port m (fun d => d.answer m 0x08 (fun o d =>
    let d := d.dropOut o
    match o.owner with
    | .lease id => if m.status = 0 then d.ledgerAnswer id (leaseOf m.body) else d
    | .desc i key => d.giveLines i [⟨key, bytesLine (slice m.body 0 32), false, m.status⟩]
    | _ => d))

/-! The fabric manager's changes (R301). -/

/-- Take a frame out of the tier map (R301): moves of it end, what its lines hold in the directory goes, and its space at a
peer, a host or a cask is free again. Requests that waited on its lines are presented again and find no frame. -/
def Dev.removeFrame (d : Dev) (f : Nat) : Dev :=
  let d := (d.abandonDemotion f)
  let d := match smGet? f d.moves with
    | some m => if m.kind = .promote then d.promoFailed f else { d with moves := smErase f d.moves }
    | none => d
  match smGet? f d.tmap with
  | none => d
  | some e =>
    let inT0 := e.tier == 0 && ! e.psn
    let reqs := if inT0 then (smRange (1024 * e.loc) (1024 * e.loc + 1024) d.dir).filterMap (fun p => p.2.bi.bind (·.req)) else []
    let d := if inT0 then d.dropLoc e.loc else d
    let src : Move := ⟨.promote, 0, 0, 0, false, e.tier, 0, smGet e.loc ⟨0, 0⟩ d.remotes, false, e.prec, d.precOf e, 0, [], []⟩
    let d := if e.tier ≥ 2 then d.freeSource e src else d
    let d := { d with
      rowCache := d.rowCache.filter (fun r => r.off / 65536 != f)
      wantPromo := nsDel f d.wantPromo, wantDemote := nsDel f d.wantDemote, demand := smErase f d.demand }
    (reqs.foldl (fun d r => d.submit r) (d.dropFrame f))

/-- Take the frames of a range out of the tier map. -/
def Dev.removeFrames (d : Dev) (first n : Nat) : Dev :=
  ((Dev.giveRoom 64 ((d.framesIn first n).foldl (fun d f => d.removeFrame f) d)).wake (fun w => match w with
    | .frameRoom => true
    | .move f => decide (first ≤ f ∧ f < first + n)
    | .subBlock f _ => decide (first ≤ f ∧ f < first + n)
    | .openRecord f => decide (first ≤ f ∧ f < first + n)
    | _ => false)).tryWanted

/-- An operation of EXT_DEF_CTRL was refused. -/
def Dev.defErr (d : Dev) : Dev := d.setRf 0xD018 3 3 1

/-- DEFINE (R301). -/
def Dev.defineExt (d : Dev) (leased : Bool) (comp : Nat) : Dev :=
  let id := d.reg 0xD008
  let first := d.rf 0xD010 31 0
  let n := d.rf 0xD010 63 32
  if ! d.extOn || (d.extBy id).isSome || d.overlapsExt first n || ! decide (1 ≤ n ∧ n ≤ 16777216 ∧ first + n ≤ 2 ^ 32)
      || ! decide (1 ≤ comp ∧ comp ≤ 1023) || decide (d.extents.length ≥ 65536) then d.defErr
  else d.startExt ⟨d.freeExtSlot, id, max 1 (d.reg 0xD058), first, n, comp, .active, leased, none⟩

/-- UNDEFINE (R301). -/
def Dev.undefineExt (d : Dev) : Dev :=
  match (if d.extOn then d.extBy (d.reg 0xD008) else none) with
  | none => d.defErr
  | some e =>
    if e.st ≠ .revoked ∧ e.st ≠ .lapsed then d.defErr
    else
      let d := (d.removeFrames e.first e.frames).dropExt e
      { (d.endXfer e.id) with leases := d.leases.filter (fun l => l.extent != e.id) }

/-- REASSIGN (R301). -/
def Dev.reassignExt (d : Dev) (leased : Bool) (comp : Nat) : Dev :=
  match (if d.extOn then d.extBy (d.reg 0xD008) else none) with
  | none => d.defErr
  | some e =>
    if e.st ≠ .revoked ∨ ¬ (1 ≤ comp ∧ comp ≤ 1023) then d.defErr
    else d.startExt { e with comp := comp, epoch := (e.epoch + 1) % 2 ^ 32, leased := leased }

/-- The effect of a write of EXT_DEF_CTRL (R301, R320). -/
def Dev.writeDefCtrl (d : Dev) (v : Nat) : Dev :=
  let d := (d.setRf 0xD00C 18 15 (bits v 18 15)).setRf 0xD00C 9 0 (bits v 9 0)
  if ! bit v 31 then d
  else
    let op := bits v 18 16
    if op = 1 then d.defineExt (bit v 15) (bits v 9 0)
    else if op = 2 then d.undefineExt
    else if op = 3 then d.reassignExt (bit v 15) (bits v 9 0)
    else d.defErr

/-- The value of EXT_DEF_CTRL that carries out an operation. -/
def defValue (op : Nat) (leased : Bool) (comp : Nat) : Nat := 2 ^ 31 + op * 2 ^ 16 + b2n leased * 2 ^ 15 + comp % 1024

/-- DEFINE (R301). -/
def execDefine (path : Path) (leased : Bool) (comp : Nat) (s : State) : Host.Outcome State Fault Refusal :=
  .next (s.onPathDev path none true false 0xD00C (.define path leased comp) (fun d => d.writeDefCtrl (defValue 1 leased comp)))

/-- UNDEFINE (R301). -/
def execUndefine (path : Path) (s : State) : Host.Outcome State Fault Refusal :=
  .next (s.onPathDev path none true false 0xD00C (.undefine path) (fun d => d.writeDefCtrl (defValue 2 false (d.rf 0xD00C 9 0))))

/-- REASSIGN (R301). -/
def execReassign (path : Path) (leased : Bool) (comp : Nat) (s : State) : Host.Outcome State Fault Refusal :=
  .next (s.onPathDev path none true false 0xD00C (.reassign path leased comp) (fun d => d.writeDefCtrl (defValue 3 leased comp)))

/-! Erasure-group records and grants (R310, R314, R320). -/

/-- What a parity holder that is marked LOST was still to acknowledge is waited for no longer (R313). -/
def Dev.dropLostParity (d : Dev) (w : List Nat) : Dev :=
  let lost (r : Nat) : Bool := egLost w (egK w + r)
  let d := d.fabOut.foldl (fun d o => match o.owner with
    | .parity _ => if fld o.msg.body 0 2 = egId w ∧ lost (fld o.msg.body 3 1) then d.dropOut o else d
    | _ => d) d
  d.parity.foldl (fun d p => if p.group ≠ egId w then d else (p.await.filter lost).foldl (fun d r => d.parityAck p.id r) d) d

/-- The effect of a write of EXT_EG_DATA: one word, and with word 0 the record takes effect. -/
def Dev.writeEgData (d : Dev) (p : Path) (v : Nat) : Dev :=
  let sel := d.sel p 0xD038
  let slot := bits sel 12 5
  let word := bits sel 4 0
  if word ≥ 20 then d
  else
    let d := { d with egWords := smPut 0 (20 * slot + word) v d.egWords }
    if word ≠ 0 then d
    else
      let w := (List.range 20).map (fun i => smGet (20 * slot + i) 0 d.egWords)
      { d with egs := if egValid w then smSet slot w d.egs else smErase slot d.egs }.dropLostParity w

/-- EG_RECORD_WRITE (R310). -/
def execEgRecordWrite (path : Path) (value : Nat) (s : State) : Host.Outcome State Fault Refusal :=
  .next (s.onPathDev path none false false 0xD040 (.egRecordWrite path value) (fun d => d.writeEgData path value))

/-! Transfers: the destination's and the source's side (R306 to R308). -/

/-- Step 2 of R306 at the destination: the entry in DEST and the bound frames. The status is 0 where it stands. -/
def Dev.prepareDest (d : Dev) (b : LeaseBody) (src : Nat) : Nat × Dev :=
  let prec := 16 * b.dprec
  match (if d.extOn then d.extBy b.extent else none) with
  | some e => if e.epoch = b.epoch + 1 ∧ e.st = .dest ∧ e.first = b.dfirst ∧ e.frames = b.frames then (0, d) else (stBounds, d)
  | none =>
    let fs := (List.range b.frames).map (fun i => b.dfirst + i)
    let r := d.precRaw prec
    if ! d.extOn || ! decide (1 ≤ b.frames ∧ b.frames ≤ 16777216 ∧ b.dfirst + b.frames ≤ 2 ^ 32) || d.overlapsExt b.dfirst b.frames
        || fs.any (fun f => (smGet? f d.tmap).isSome) || prec = 0 || ! pValid r || ! d.mapOn || ! fs.all d.rooted
        || decide (d.extents.length ≥ 65536) then (stBounds, d)
    else if pComp r ≠ b.comp then (stDenied, d)
    else if pPin r && d.overQuota b.comp b.frames then (stTierFull, d)
    else match Dev.bindAll prec 0 fs d with
      | (_, none, d) =>
        (0, d.setExt ⟨d.freeExtSlot, b.extent, b.epoch + 1, b.dfirst, b.frames, b.comp, .dest, true, some src⟩)
      | (_, some _, d) => (stTierFull, d.removeFrames b.dfirst b.frames)

/-- The pool frames of a copy bitmap of `n` bits. -/
def Dev.takeLocs : Nat → Dev → List Nat → Option (List Nat)
  | 0, _, got => some got
  | k + 1, d, got =>
    match Dev.alloc { d with xfers := d.xfers ++ [⟨2 ^ 32, 0, 0, 0, [], 0, 0, got, false, 0⟩] } with
    | none => none
    | some l => Dev.takeLocs k d (l :: got)

/-- Take up a transfer at its source: the copy bitmap comes from the pool, with every frame set (R306 step 2, R307). -/
def Dev.openXfer (d : Dev) (e : Extent) (dst dfirst : Nat) : Nat × Dev :=
  if d.xfers.any (fun x => x.extent == e.id) then (0, d)
  else match Dev.takeLocs (ceilDiv e.frames 524288) d [] with
    | none => (stTierFull, d)
    | some locs =>
      (0, { d with xfers := d.xfers ++ [⟨e.id, e.epoch, dst, dfirst, (d.framesIn e.first e.frames).map (· - e.first), 0, 0, locs,
        false, 0⟩] })

/-- Every frame of a transfer's extent is set in its copy bitmap again, as a transfer that is taken up again finds it (R307). -/
def Dev.refillXfer (d : Dev) (e : Extent) : Dev := { d with
  xfers := d.xfers.map (fun (y : Xfer) => if y.extent = e.id then
    { y with todo := (d.framesIn e.first e.frames).map (· - e.first), passes := 0, failed := 0 } else y) }

/-- The content of a frame for a copy, from whatever tier holds it; none while a move of it runs or its content has first to be
promoted. A frame that cannot be read is copied as poison. -/
def Dev.copyContent (d : Dev) (f : Nat) : Option (List Host.Cell × NSet) × Dev :=
  match d.entry f with
  | none => (some ([], []), d)
  | some e =>
    let bad : List Host.Cell × NSet := ([], List.range 2048)
    if e.psn then (some bad, d)
    else match smGet? f d.moves with
      | some m => (if m.kind = .promote then none else some (d.frameData f, d.framePois f), d)
      | none =>
        if e.tier = 0 then (some (d.frameData f, d.framePois f), d)
        else if e.tier = 1 then (some ((d.t1Content f e).getD bad), d.kilnEvent f e)
        else match d.beginPromo f e false with
          | (.unreadable, d) => (some bad, d)
          | (_, d) => (none, d)

/-- One pass of a transfer's copy over the frames set (R306 step 4). -/
def Dev.copyPass (d : Dev) (e : Extent) (x : Xfer) : Dev :=
  let d := { d with xfers := d.xfers.map (fun (y : Xfer) => if y.extent = x.extent then { y with passes := y.passes + 1 } else y) }
  x.todo.foldl (fun d i =>
    let f := e.first + i
    match d.copyContent f with
    | (none, d) => d
    | (some (data, pois), d) =>
      let d := { d with xfers := d.xfers.map (fun (y : Xfer) =>
        if y.extent = x.extent then { y with todo := nsDel i y.todo, copied := y.copied + 1 } else y) }
      d.copyOut f (x.dst * 2 ^ 48 + 65536 * (x.dfirst + i)) data pois (.xfer x.extent)) d

/-- Install a revocation entry and start its drain (R103 steps 2 to 5): the lines are called back at once where no request accepted before
is outstanding. -/
def Dev.installRev (d : Dev) (e : Extent) (lds : Nat) (desc : Option DescId) : Dev :=
  let acc := d.heldIn lds e.first e.frames
  let r : Revocation := ⟨e.id, e.epoch, lds, e.first, e.frames, desc, true, 0, acc, []⟩
  let d := { d with revs := d.revs ++ [r] }
  if acc.isEmpty then d.revokeLines r else d

/-- What driving a transfer's copy at the source finds: it goes on, it has ended, or it ends with a status. -/
inductive CopyAns where
  | busy
  | done
  | ends (st : Nat)
  deriving DecidableEq, Repr

/-- Drive steps 4 and 5 of R306 at the source as far as they go now. -/
def Dev.driveCopy (d : Dev) (e : Extent) : CopyAns × Dev :=
  match d.xfers.find? (fun x => x.extent == e.id) with
  | none => (.ends stRetry, d)
  | some x =>
    if x.failed ≠ 0 then (.ends (if x.failed = stTimeout then stRetry else x.failed), d)
    else if (d.issueStatus x.dst).isSome then (.ends stRetry, d)
    else if e.st = .source then
      let d := d.copyPass e x
      match d.xfers.find? (fun y => y.extent == e.id) with
      | none => (.ends stRetry, d)
      | some y =>
        if y.todo.length > 64 ∧ y.passes < 8 then (.busy, d)
        else if d.revs.length ≥ 256 then (.ends stRetry, d)
        else (.busy, ((d.setExt { e with st := .doubt }).markEarly e).installRev e 0xFFFF none)
    else if e.st = .doubt then
      if ! x.drained then (.busy, d)
      else if ! x.todo.isEmpty then (.busy, d.copyPass e x)
      else if d.fabOut.any (fun o => o.owner == .xfer e.id) then (.busy, d)
      else (.done, d)
    else (.ends stRetry, d)

/-- Step 8 of R306 at the source: the old frames go, and the entry is FREE. -/
def Dev.releaseSource (d : Dev) (e : Extent) : Dev :=
  let d := ((d.removeFrames e.first e.frames).dropExt e).endXfer e.id
  { d with leases := d.leases.filter (fun l => l.extent != e.id) }

/-- The source goes back to service, as an abort leaves it (R307). -/
def Dev.abortSource (d : Dev) (e : Extent) : Dev :=
  let d := d.endXfer e.id
  if e.st = .source ∨ e.st = .doubt then
    if (d.lease e.id).held then d.setExt { e with st := .active, peer := none } else d.startExt e
  else d

/-- The destination forgets a transfer: its frames and its entry are free again (R307). -/
def Dev.abortDest (d : Dev) (e : Extent) : Dev :=
  if e.st = .dest then ((d.removeFrames e.first e.frames).dropExt e) else d

/-! Peer operations (R302, R306). -/

/-- Whether this node is the source, with the entry of a transfer at epoch `e`, whoever its other party is. -/
def Dev.sourceOf (d : Dev) (b : LeaseBody) : Option Extent :=
  (d.extBy b.extent).bind (fun e => if b.owner = d.node ∧ e.epoch = b.epoch then some e else none)

/-- Whether this node is the destination, with the entry it made at the next epoch, whoever its other party is. -/
def Dev.destOf (d : Dev) (b : LeaseBody) : Option Extent :=
  (d.extBy b.extent).bind (fun e => if b.peer = some d.node ∧ e.epoch = b.epoch + 1 then some e else none)

/-- The other party of a transfer as an entry, or the transfer taken up for it, holds it. -/
def Dev.otherParty (d : Dev) (e : Extent) : Option Nat :=
  match e.peer with
  | some p => some p
  | none => (d.xfers.find? (fun x => x.extent == e.id)).map (·.dst)

/-- Whether a party fits an entry: it is the other party, or no transfer is in progress (R302). -/
def Dev.partyFits (d : Dev) (e : Extent) (p : Option Nat) : Bool := (d.otherParty e).isNone || d.otherParty e == p

/-- The source's entry where the operation names its other party. -/
def Dev.asSource (d : Dev) (b : LeaseBody) : Option Extent :=
  (d.sourceOf b).bind (fun e => if d.partyFits e b.peer then some e else none)

/-- The destination's entry where the operation names its other party. -/
def Dev.asDest (d : Dev) (b : LeaseBody) : Option Extent :=
  (d.destOf b).bind (fun e => if d.partyFits e (some b.owner) then some e else none)

/-- An XSTEP of a phase: the RESULT and the STATUS of the answer. -/
def Dev.xstep (d : Dev) (b : LeaseBody) : Nat × Nat × Dev :=
  if b.phase = phPrepare then
    if b.peer = some d.node then
      if (d.destOf b).isSome && (d.asDest b).isNone then (lrStale, 0, d)
      else
        let (st, d) := d.prepareDest b b.owner
        (lrOk, st, d)
    else match d.asSource b with
      | some e =>
        let (st, d) := d.openXfer e (b.peer.getD 0) b.dfirst
        (lrOk, st, d)
      | none => (lrStale, 0, d)
  else if b.phase = phCopy then
    match d.asSource b with
    | none => (lrStale, 0, d)
    | some e =>
      if e.st = .active ∨ e.st = .source ∨ e.st = .doubt then
        let (st, d) := d.openXfer e (b.peer.getD 0) b.dfirst
        if st ≠ 0 then (lrOk, st, d)
        else if e.st = .active then (lrBusy, 0, d.setExt { e with st := .source, peer := b.peer })
        else match d.driveCopy e with
          | (.busy, d) => (lrBusy, 0, d)
          | (.done, d) => (lrOk, 0, d)
          | (.ends st, d) => (lrOk, st, d.refillXfer e)
      else (lrStale, 0, d)
  else if b.phase = phCommit then
    match d.asSource b, d.asDest b with
    | some e, _ => if e.st = .doubt ∨ e.st = .moved then (lrOk, 0, d.setExt { e with st := .moved }) else (lrStale, 0, d)
    | none, some e =>
      if e.st = .dest then (lrOk, 0, d.startExt e)
      else if e.st = .lapsed ∨ e.st = .active then (lrOk, 0, d)
      else (lrStale, 0, d)
    | none, none => (lrStale, 0, d)
  else if b.phase = phRelease then
    match d.asSource b with
    | some e => if e.st = .moved then (lrOk, 0, d.releaseSource e) else (lrStale, 0, d)
    | none => if (d.extBy b.extent).isNone ∧ b.owner = d.node then (lrOk, 0, d) else (lrStale, 0, d)
  else (lrStale, 0, d)

/-- An XABORT: the RESULT of the answer. -/
def Dev.xabort (d : Dev) (b : LeaseBody) : Nat × Dev :=
  match d.asSource b, d.asDest b with
  | some e, _ => (lrOk, d.abortSource e)
  | none, some e => if e.st = .dest then (lrOk, d.abortDest e) else (lrStale, d)
  | none, none => (if (d.sourceOf b).isSome || (d.destOf b).isSome then lrStale else lrOk, d)

/-- The phase of a transfer that an entry's state tells (DESIGN CHOICE, log entry 190). -/
def Dev.entryPhase (d : Dev) (e : Extent) : Nat :=
  match e.st with
  | .source | .doubt => phCopy
  | .moved => phCommit
  | .dest => phPrepare
  | .active | .lapsed | .revoked => if (d.otherParty e).isSome then phPrepare else phIdle

/-- The owner that an entry tells: this node, or of an extent in DEST or MOVED the other party. -/
def Dev.entryOwner (d : Dev) (e : Extent) : Nat :=
  match e.st with
  | .dest | .moved => (d.otherParty e).getD d.node
  | .active | .lapsed | .source | .doubt | .revoked => d.node

/-- The record that this node holds of an extent, as it answers an operation. -/
def Dev.peerRecord (d : Dev) (b : LeaseBody) (result : Nat) : LeaseBody :=
  match d.extBy b.extent with
  | some e => { b with
      result := result, phase := d.entryPhase e, epoch := e.epoch, owner := d.entryOwner e, comp := e.comp, peer := d.otherParty e
      ms := 0, frames := e.frames }
  | none => { b with result := result, ms := 0 }

/-- LEASE (R302): a peer operation of a transfer; this node is no ledger, and refuses ledger operations. -/
def execLeaseMsg (port : Nat) (m : FabMsg) (s : State) : Host.Outcome State Fault Refusal :=
  s.message 0x08 port m (fun d =>
    let b := leaseOf m.body
    let rsp (d : Dev) (result st : Nat) : Dev := d.respond m 0x87 st 0 false (leaseBytes (d.peerRecord b result))
    if ! d.extOn || (m.src ≠ b.owner ∧ some m.src ≠ b.peer) then rsp d lrDenied 0
    else if b.op = 8 then
      let (r, st, d) := d.xstep b
      rsp d r st
    else if b.op = 9 then
      let (r, d) := d.xabort b
      rsp d r 0
    else rsp d lrDenied 0)

/-! EXTENT_XFER (R305 to R307). -/

/-- The fields of an EXTENT_XFER. -/
structure XferOp where
  extent : Nat
  epoch : Nat
  src : Nat
  dst : Nat
  dfirst : Nat
  dprec : Nat

/-- Read them. -/
def xferOp (l : Line) : XferOp := ⟨lf l 8 4, lf l 12 4, lf l 16 2 % 4096, lf l 18 2 % 4096, lf l 20 4, lf l 24 4 % 2 ^ 20⟩

/-- Send a LEASE operation of the driver, once, and take its answer: the status and the record. -/
def askLease (k node : Nat) (b : LeaseBody) : M (Nat × LeaseBody) := do
  let c ← read
  let d ← getDev
  let key := 2 ^ 65 + k
  match (d.remoteOf c).find? (fun r => r.line == key) with
  | some r => return (r.status, leaseOf (lineBytes r.data))
  | none =>
    if d.fabOut.any (fun o => o.owner == .desc c.did key) then need
    else match d.issueStatus node with
      | some _ => return (stTimeout, b)
      | none =>
        modDev (fun d => d.request node c.sidx 8 (leaseBytes b) (.desc c.did key))
        need

/-- Forget an answer, so that the operation is sent again. -/
def forgetLease (k : Nat) : M Unit := do
  let c ← read
  modDev (fun d => d.modStarted c.did.queue c.did.seq (fun r => { r with remote := r.remote.filter (fun x => x.line != 2 ^ 65 + k) }))

/-- A ledger operation that must answer OK; otherwise the transfer ends early. -/
def ledgerStep (k op phase epoch owner : Nat) (peer : Option Nat) (x : XferOp) (comp : Nat) : M Unit := do
  let d ← getDev
  match d.ledger with
  | none => halt stRetry
  | some n =>
    let (st, r) ← askLease k n ⟨op, 0, phase, x.extent, epoch, owner, peer, 0, comp, 0, 0, 0⟩
    ensure (st == 0 && r.result == lrOk) stRetry

/-- A peer operation: it must answer OK, or in COPY also BUSY while the source copies. Its BOUNDS or TIER_FULL is the transfer's
(R306 step 2). -/
def peerStep (k node op phase : Nat) (x : XferOp) (frames comp : Nat) : M LeaseBody := do
  let (st, r) ← askLease k node ⟨op, 0, phase, x.extent, x.epoch, x.src, some x.dst, 0, comp, x.dprec / 16, x.dfirst, frames⟩
  if st ≠ 0 then halt (if st = stTimeout ∨ st = stFenced then stRetry else st)
  ensure (r.result == lrOk || (r.result == lrBusy && phase == phCopy)) stRetry
  return r

/-- Checks 1, 2 and 4 of R305 as far as this node's own entry decides them, and what is checked of the fields. -/
def xferChecks (x : XferOp) : M Unit := do
  let c ← read
  let d ← getDev
  ensure ((d.node == x.src || d.node == x.dst) && x.src != x.dst && d.extOn && decide (x.epoch ≠ 0 ∧ x.dprec % 16 = 0)) stBounds
  match d.extBy x.extent with
  | none => pure ()
  | some e =>
    ensure e.leased stBounds
    let fi ← runFn
    ensure (e.comp == c.comp || d.qPriv fi) stDenied

/-- Check 4 of R305. -/
def revokeFree (x : XferOp) : M Unit := do
  let d ← getDev
  ensure (! d.revs.any (fun r => r.extent == x.extent && r.draining && r.desc.isSome)) stRetry
  match d.extBy x.extent with
  | some e => ensure (e.st != .revoked) stRevoked
  | none => pure ()

/-- Read the ledger's record of the extent, once for each descriptor. -/
def readLedger (x : XferOp) : M LeaseBody := do
  let d ← getDev
  match d.ledger with
  | none => halt stRetry
  | some n =>
    let (st, r) ← askLease 0 n ⟨1, 0, 0, x.extent, x.epoch, x.src, none, 0, 0, 0, 0, 0⟩
    ensure (st == 0) stRetry
    ensure (r.result == lrOk) (if r.result = lrBusy then stRetry else stVersion)
    let c ← read
    let d ← getDev
    let fi ← runFn
    -- a destination without an entry learns the composition from the record
    ensure ((d.extBy x.extent).isSome || r.comp == c.comp || d.qPriv fi) stDenied
    return r

/-- The step at which a MOVE resumes (R307); 9 stands for a transfer that has ended. -/
def resumeAt (x : XferOp) (r : LeaseBody) (held : Bool) : Option Nat :=
  if r.epoch = x.epoch ∧ r.phase = phIdle ∧ r.owner = x.src then some 1
  else if r.epoch = x.epoch ∧ r.phase = phPrepare ∧ r.peer = some x.dst then some 2
  else if r.epoch = x.epoch ∧ r.phase = phCopy ∧ r.peer = some x.dst then some 4
  else if r.epoch = x.epoch + 1 ∧ r.phase = phCommit ∧ r.owner = x.dst then some 7
  else if r.epoch = x.epoch + 1 ∧ (r.phase = phRelease ∨ r.phase = phIdle) ∧ r.owner = x.dst then some (if held then 8 else 9)
  else none

/-- The local source's entry at the transfer's epoch. -/
def sourceEntry (x : XferOp) : M Extent := do
  let d ← getDev
  match d.extBy x.extent with
  | some e => if e.epoch = x.epoch then return e else halt stRetry
  | none => halt stRetry

/-- Step 2 of R306. -/
def stepPrepare (x : XferOp) (r : LeaseBody) : M Unit := do
  let d ← getDev
  if d.node = x.src then
    let e ← sourceEntry x
    let (st, d) := d.openXfer e x.dst x.dfirst
    modDev (fun _ => d)
    if st ≠ 0 then halt st
    let _ ← peerStep 2 x.dst 8 phPrepare x e.frames e.comp
  else
    -- the source takes its copy bitmap, and its record tells the extent's size
    let a ← peerStep 2 x.src 8 phPrepare x 0 r.comp
    let d ← getDev
    let b : LeaseBody := ⟨8, 0, phPrepare, x.extent, x.epoch, x.src, some x.dst, 0, a.comp, x.dprec / 16, x.dfirst, a.frames⟩
    let (st, d) := d.prepareDest b x.src
    modDev (fun _ => d)
    if st ≠ 0 then halt st

/-- Steps 4 and 5 of R306. -/
def stepCopy (x : XferOp) (r : LeaseBody) : M Unit := do
  let d ← getDev
  if d.node = x.src then
    let e ← sourceEntry x
    if e.st = .active ∨ e.st = .lapsed then
      let (st, d) := d.openXfer e x.dst x.dfirst
      modDev (fun _ => d.setExt { e with st := if e.st = .active then .source else e.st, peer := some x.dst })
      if st ≠ 0 then halt st
      need
    let (st, d) := d.openXfer e x.dst x.dfirst
    modDev (fun _ => d)
    if st ≠ 0 then halt st
    let (a, d) := d.driveCopy e
    modDev (fun _ => d)
    match a with
    | .busy => need
    | .done => pure ()
    | .ends st =>
      modDev (fun d => d.refillXfer e)
      halt st
  else
    let a ← peerStep 4 x.src 8 phCopy x 0 r.comp
    if a.result = lrBusy then
      forgetLease 4
      need

/-- Step 7 of R306, at both parties. -/
def stepCommit (x : XferOp) (comp : Nat) : M Unit := do
  let d ← getDev
  let other := if d.node = x.src then x.dst else x.src
  let _ ← peerStep 7 other 8 phCommit x 0 comp
  modDev (fun d => match d.extBy x.extent with
    | none => d
    | some e =>
      if d.node = x.src then (if e.epoch = x.epoch ∧ (e.st = .doubt ∨ e.st = .source) then d.setExt { e with st := .moved } else d)
      else if e.epoch = x.epoch + 1 ∧ e.st = .dest then d.startExt e else d)

/-- Step 8 of R306. -/
def stepRelease (x : XferOp) (comp : Nat) : M Unit := do
  let d ← getDev
  if d.node = x.src then
    modDev (fun d => match d.extBy x.extent with
      | some e => if e.epoch = x.epoch ∧ e.st = .moved then d.releaseSource e else d
      | none => d)
  else
    let _ ← peerStep 8 x.src 8 phRelease x 0 comp
  ledgerStep 9 2 phRelease (x.epoch + 1) x.dst (some x.src) x comp
  ledgerStep 10 2 phIdle (x.epoch + 1) x.dst none x comp

/-- The frames that a transfer has copied, as far as this node knows; RESULT1 is otherwise open. -/
def copiedFrames (x : XferOp) : M Nat := do
  let c ← read
  let d ← getDev
  match (d.startedOf c.did.queue c.did.seq).bind (fun r => r.note.head?) with
  | some n => return n
  | none =>
    match d.xfers.find? (fun y => y.extent == x.extent) with
    | some y =>
      modDev (fun d => d.modStarted c.did.queue c.did.seq (fun r => { r with note := [y.copied] }))
      return y.copied
    | none =>
      if d.node = x.src then return 0
      let (v, d) := d.takeFree
      modDev (fun _ => d)
      return v % 2 ^ 64

/-- Do a step of a transfer once, whatever its descriptor waits for afterwards. -/
def once (k : Nat) (m : M Unit) : M Unit := do
  let (done, _) ← stepOf
  if done < k then
    m
    let (_, note) ← stepOf
    setStep k note

/-- A transfer taken up again in COPY at its source has every frame to copy (R307). -/
def stepRefill (x : XferOp) : M Unit := do
  let d ← getDev
  match d.extBy x.extent with
  | some e => if d.node = x.src then modDev (fun d => d.refillXfer e) else pure ()
  | none => pure ()

/-- MOVE (R306, R307). A step done is not done again while the descriptor waits for the answers to later ones. -/
def moveM (x : XferOp) : M (Nat × Nat × Nat) := do
  xferChecks x
  let r ← readLedger x
  let d ← getDev
  let (done, _) ← stepOf
  let held := (d.extBy x.extent).any (fun e => e.st == .moved) || d.node == x.dst || decide (7 ≤ done)
  match resumeAt x r held with
  | none => halt stVersion
  | some at_ =>
    revokeFree x
    let comp := r.comp
    if at_ ≤ 1 then ledgerStep 1 2 phPrepare x.epoch x.src (some x.dst) x comp
    if at_ ≤ 2 then once 2 (stepPrepare x r)
    if at_ ≤ 2 then ledgerStep 3 2 phCopy x.epoch x.src (some x.dst) x comp
    if at_ = 4 then once 3 (stepRefill x)
    if at_ ≤ 4 then once 4 (stepCopy x r)
    let n ← copiedFrames x
    if at_ ≤ 6 then ledgerStep 6 2 phCommit x.epoch x.src (some x.dst) x comp
    if at_ ≤ 8 then
      once 7 (if at_ ≤ 7 then stepCommit x comp else pure ())
      stepRelease x comp
    return (stOk, x.epoch + 1, n)

/-- ABORT (R307). -/
def abortM (x : XferOp) : M (Nat × Nat × Nat) := do
  xferChecks x
  let r ← readLedger x
  ensure (decide (r.epoch = x.epoch ∧ (r.phase = phPrepare ∨ r.phase = phCopy) ∧ r.peer = some x.dst)) stVersion
  revokeFree x
  ledgerStep 1 2 phIdle x.epoch x.src none x r.comp
  let n ← copiedFrames x
  modDev (fun d => match d.extBy x.extent with
    | none => d
    | some e => if d.node = x.src then (if e.epoch = x.epoch then d.abortSource e else d)
      else if e.epoch = x.epoch + 1 then d.abortDest e else d)
  let d ← getDev
  let _ ← peerStep 2 (if d.node = x.src then x.dst else x.src) 9 phIdle x 0 r.comp
  return (stOk, x.epoch, n)

/-- An EXTENT_XFER whose MODE is that of its row; another value of MODE gives BOUNDS. -/
def xferM (mode : Nat) (m : XferOp → M (Nat × Nat × Nat)) (l : Line) : M (Nat × Nat × Nat) := do
  ensure (decide (lf l 28 1 ≤ 1)) stBounds
  if lf l 28 1 ≠ mode then need
  m (xferOp l)

/-- EXTENT_XFER_MOVE (R306). -/
def execExtentXferMove (q n : Nat) (s : State) : Host.Outcome State Fault Refusal := s.desc 0x40 q n (xferM 0 moveM)

/-- EXTENT_XFER_ABORT (R307). -/
def execExtentXferAbort (q n : Nat) (s : State) : Host.Outcome State Fault Refusal := s.desc 0x40 q n (xferM 1 abortM)

/-! EXTENT_REVOKE (R103, R106, R309). -/

/-- The pins of an extent's frames are released (R106). -/
def Dev.unpinRange (d : Dev) (first n : Nat) : Dev :=
  (d.framesIn first n).foldl (fun d f => d.modEntry f (fun e => { e with pin := false })) d

/-- EXTENT_REVOKE: the checks in order, the revocation entry and its drain, and for COMP the end of the extent's service. -/
def revokeM (comp : Bool) (l : Line) : M (Nat × Nat × Nat) := do
  let c ← read
  let d ← getDev
  if d.revs.any (fun r => r.desc == some c.did) then need
  let mode := lf l 18 1 % 4
  let mask := lf l 16 2
  match (if d.extOn then d.extBy (lf l 8 4) else none) with
  | none => halt stBounds
  | some e =>
    ensure (decide (mode ≠ 0 ∧ ¬ (bit mode 0 ∧ mask = 0))) stBounds
    if bit mode 1 ≠ comp then need
    let fi ← runFn
    ensure (e.comp == c.comp || d.qPriv fi) stDenied
    ensure (lf l 12 4 == e.epoch) stVersion
    ensure (e.st != .source && e.st != .dest && e.st != .doubt && decide (d.revs.length < 256)) stRetry
    modDev (fun d =>
      if ! comp then d.installRev e mask (some c.did)
      else
        let d := (d.setExt { e with st := .revoked, peer := none }).markEarly e
        let d := (d.unpinRange e.first e.frames).installRev e 0xFFFF (some c.did)
        if e.leased then (d.setLease { d.lease e.id with held := false }).askLedger e 3 else d)
    need

/-- EXTENT_REVOKE_HOSTS (R103, R309). -/
def execExtentRevokeHosts (q n : Nat) (s : State) : Host.Outcome State Fault Refusal := s.desc 0x41 q n (revokeM false)

/-- EXTENT_REVOKE_COMP (R309). -/
def execExtentRevokeComp (q n : Nat) (s : State) : Host.Outcome State Fault Refusal := s.desc 0x41 q n (revokeM true)

/-! EC_REBUILD (R315 to R317). -/

/-- Bytes scaled by a constant of GF(2^8). -/
def gfScale (k : Nat) (bs : List Byte) : List Byte := bs.map (fun b => BitVec.ofNat 8 (gfMul k b.toNat))

/-- One unit as a rebuild reads it: its bytes, and the poison of each. -/
abbrev EcUnit := List Byte × List Bool

/-- The sum of two units. -/
def ecAdd (a b : EcUnit) : EcUnit := (xorBytes a.1 b.1, List.zipWith or a.2 b.2)

/-- The sum of units, each with its factor. -/
def ecSum (us : List (Nat × EcUnit)) : EcUnit :=
  us.foldl (fun a u => ecAdd a (gfScale u.1 u.2.1, u.2.2)) (List.replicate 65536 0, List.replicate 65536 false)

/-- Read the unit of a member in a stripe. -/
def readUnit (w : List Nat) (i s : Nat) : M EcUnit := rdRaw (egNode w i * 2 ^ 48 + 65536 * (egBase w i + s)) 65536

/-- Read the units of members in a stripe. -/
def readUnits (w : List Nat) (s : Nat) : List Nat → M (List (Nat × EcUnit))
  | [] => pure []
  | i :: is => do
    let u ← readUnit w i s
    let us ← readUnits w s is
    return (i, u) :: us

/-- The members that a rebuild of `lost` reads: the data members left, and as many of P and Q as data members are lost. -/
def ecSources (k : Nat) (lost : List Nat) : List Nat :=
  let data := (List.range k).filter (fun i => ! lost.contains i)
  let par := [k, k + 1].filter (fun i => ! lost.contains i)
  data ++ par.take (lost.filter (· < k)).length

/-- The unit of member `m` of a stripe by its definition over all data units (R311). -/
def ecDefine (k m : Nat) (data : List (Nat × EcUnit)) : EcUnit :=
  ecSum (data.map (fun u => (if m = k then 1 else gfExp u.1, u.2)))

/-- The lost data units of a stripe, from the survivors (R316). -/
def ecData (k : Nat) (lost : List Nat) (us : List (Nat × EcUnit)) : List (Nat × EcUnit) :=
  let data := us.filter (fun u => u.1 < k)
  let p := (us.filter (fun u => u.1 == k)).map (fun u => (1, u.2))
  let q := (us.filter (fun u => u.1 == k + 1)).map (fun u => (1, u.2))
  let a := ecSum (p ++ data.map (fun u => (1, u.2)))
  let b := ecSum (q ++ data.map (fun u => (gfExp u.1, u.2)))
  match lost.filter (· < k) with
  | [x] => if p.isEmpty then [(x, ecSum [(gfInv (gfExp x), b)])] else [(x, a)]
  | [x, y] =>
    let (x, y) := (min x y, max x y)
    let dy := ecSum [(gfInv (gfExp x ^^^ gfExp y), ecAdd b (gfScale (gfExp x) a.1, a.2))]
    [(y, dy), (x, ecAdd a dy)]
  | _ => []

/-- A rebuilt unit: its data, zero where a code word is poison. -/
def ecOut (u : EcUnit) : EcUnit :=
  let bad := (chunks 32 u.2).flatMap (fun c => List.replicate c.length (c.any id))
  (List.zipWith (fun b p => if p then 0 else b) u.1 bad, bad)

/-- Write one rebuilt unit: the lines written as poison. -/
def writeUnit (dva : Nat) (u : EcUnit) : M Nat := do
  let dests ← xlateAll 2 (pagesOf dva 65536)
  let (bs, ps) := ecOut u
  wrPiecesMixed dests (bs.zip ps)
  return (chunks 64 ps).countP (fun c => c.any id)

/-- Rebuild stripes from `s` on: the units written and the lines written as poison. `outs` names each member to be written and
the DVA of its first unit. -/
def rebuildStripes (w : List Nat) (lost : List Nat) (outs : List (Nat × Nat)) (first : Nat) : Nat → M (Nat × Nat)
  | 0 => return (0, 0)
  | n + 1 => do
    let (units, bad) ← rebuildStripes w lost outs first n
    let k := egK w
    let us ← atStage 0 (readUnits w (first + n) (ecSources k lost))
    let ds := ecData k lost us
    let all := ds ++ us.filter (fun u => u.1 < k)
    let rec write : List (Nat × Nat) → M Nat
      | [] => return 0
      | (m, dva) :: rest => do
        let u := if m < k then ((all.find? (fun u => u.1 == m)).map (·.2)).getD ([], []) else ecDefine k m all
        let b ← atStage 2 (writeUnit (dva + 65536 * n) u)
        let r ← write rest
        return b + r
    let b ← write outs
    return (units + outs.length, bad + b)

/-- EC_REBUILD (R315, R316). -/
def rebuildM (parity : Bool) (l : Line) : M (Nat × Nat × Nat) := do
  let mode := lf l 10 1
  ensure (decide (mode ≤ 1)) stBounds
  if mode ≠ (if parity then 1 else 0) then need
  let d ← getDev
  match d.eg (lf l 8 2) with
  | none => halt stBounds
  | some w =>
    let k := egK w
    let nlost := lf l 11 1
    let l0 := lf l 12 1
    let l1 := lf l 13 1
    let first := lf l 16 4
    let count := lf l 20 4
    ensure (parity || decide (1 ≤ nlost ∧ nlost ≤ 2 ∧ l0 < k + 2 ∧ (nlost = 2 → l1 < k + 2 ∧ l1 ≠ l0))) stBounds
    ensure (decide (1 ≤ count ∧ first + count ≤ egStripes w)) stBounds
    let lost := if parity then [k, k + 1] else if nlost = 2 then [l0, l1] else [l0]
    let outs := (lost.zip [lf l 24 8, lf l 32 8]).filter (fun o => ! parity || o.2 != 0)
    ensure (! (ecSources k lost).any (egLost w)) stBounds
    ensure (outs.all (fun o => dvaFits o.2 (65536 * count))) stBounds
    let lines := (List.range count).flatMap (fun s => (ecSources k lost).flatMap (fun i =>
      (linesOf (egNode w i * 2 ^ 48 + 65536 * (egBase w i + first + s)) 65536).map (· / 64)))
    fetchLines lines
    let (units, bad) ← rebuildStripes w lost outs first count
    return (if bad = 0 then stOk else stPoison, units, bad)

/-- EC_REBUILD_DATA (R316). -/
def execEcRebuildData (q n : Nat) (s : State) : Host.Outcome State Fault Refusal := s.desc 0x38 q n (rebuildM false)

/-- EC_REBUILD_PARITY (R316). -/
def execEcRebuildParity (q n : Nat) (s : State) : Host.Outcome State Fault Refusal := s.desc 0x38 q n (rebuildM true)

end Sys2Proof.Machine
end

