-- ==== Sys2Proof/Machine/CaskCmd.lean ====
section
/-! DEFINITION. The cask manager: the identity check, insertion and removal, the commands of CSK_CMD_n, and the wear and
failures of casks (R321 to R338, R343, R403, R405). -/

namespace Sys2Proof.Machine

open Sys2Proof

/-! What the registers show (R334, R338). -/

/-- The frames whose T1 entry names a slot (CSK_USE_n.FRAMES). -/
def Dev.caskFrames (d : Dev) (n : Nat) : List Nat := smKeys (d.tmap.filter (fun p => p.2.tier == 1 && p.2.cslot == n))

/-- Full-cask writes in units of 1/100 (R334). -/
def fcwOf (c : Cask) : Nat := c.bytesWritten / 540000000000

/-- The rated life of R334 in those units. -/
def ratedLife : Nat := 250000

/-- CSK_CMD_n and CSK_STS_n. -/
def cskCmdReg (n : Nat) : Nat := 0xE100 + 0x40 * n

/-- The fields that name a slot and its cask's serial in an event. -/
def Dev.slotField (d : Dev) (n : Nat) : EvField := .slot n (((d.slot n).cask.map (·.serial)).getD 0)

/-- Change a slot. -/
def Dev.modSlot (d : Dev) (n : Nat) (g : SlotSt → SlotSt) : Dev := d.setSlot n (g (d.slot n))

/-- Change the cask in a slot. -/
def Dev.modCask (d : Dev) (n : Nat) (g : Cask → Cask) : Dev := d.modSlot n (fun s => { s with cask := s.cask.map g })

/-- A command that is not allowed changes nothing and sets CMDERR (R330). -/
def Dev.cskErr (d : Dev) (n : Nat) : Dev := d.modSlot n (fun s => { s with cmdErr := true })

/-- FCW, PEMAX and SPARE are written to the element, which takes no lower FCW (R326, R335). -/
def writeCounters (c : Cask) : Cask := { c with fcw := max c.fcw (min (fcwOf c) (2 ^ 32 - 1)) }

/-- The frames that are being demoted to a slot's cask, or promoted from it. -/
def Dev.movesOf (d : Dev) (n : Nat) (kind : MoveKind) : List Nat :=
  smKeys (d.moves.filter (fun p => p.2.kind == kind && p.2.destTier == 1 && p.2.destSlot == n))

/-- Abandon the demotions to a slot's cask (R75). -/
def Dev.stopDemotions (d : Dev) (n : Nat) : Dev := (d.movesOf n .demote).foldl (fun d f => d.abandonDemotion f) d

/-! The identity check (R327). -/

/-- The first check that a cask fails, as REASON codes it; 0 when it passes. -/
def Dev.caskReason (d : Dev) (c : Cask) : Nat :=
  if ! c.chainOk then 1
  else if ! c.sigOk then 2
  else if d.deny.contains c.serial then 3
  else if c.bind ≠ 0 ∧ c.bind ≠ ownerId then 4
  else 0

/-! Insertion (R331). -/

/-- Step 6: the event with SERIAL, the state and REASON. -/
def Dev.caskEvent (d : Dev) (n : Nat) : Dev :=
  d.event .caskState [d.slotField n, .state 0 (d.slot n).code, .count (d.slot n).reason]

/-- ADOPT (R330): the cask is bound, its FTL is formatted, and it is IN_SERVICE. -/
def Dev.adopt (d : Dev) (n : Nat) : Dev :=
  let s := d.slot n
  match s.cask with
  | some c =>
    if s.rail && s.code == 1 && s.busy == 0 then
      (d.setSlot n { s with serving := true, cask := some { c with bind := ownerId, state := 2, homeSlot := n, recs := [] } }).wake
        (fun w => w == .frameRoom)
    else d.cskErr n
  | none => d.cskErr n

/-- Steps 2 to 4 of R331: power, identity and training. A bound cask in its own slot goes on to load its metadata; one in
another slot is held with CMDERR; every other cask stops here, and AUTO_ADOPT adopts a FRESH one. -/
def Dev.raiseCask (d : Dev) (n : Nat) : Dev :=
  let s := d.slot n
  match s.cask with
  | none => d
  | some c =>
    let why := d.caskReason c
    let bound := why == 0 && (c.state == 2 || c.state == 3)
    let wrong := bound && c.homeSlot != n
    let d := d.setSlot n { s with
      rail := true, checked := true, foreign := why != 0, reason := why, wrongSlot := wrong, cmdErr := s.cmdErr || wrong
      loading := bound && ! wrong, serving := false, retrain := false, safe := false, busy := 0, life := decide (fcwOf c ≥ ratedLife) }
    if bound && ! wrong then d
    else
      let d := if wrong then d else d.caskEvent n
      let d := if (d.slot n).code = 1 ∧ d.rf 0xE000 1 1 = 1 then d.adopt n else d
      d.wake (fun w => w == .cask n)

/-- Bring up every cask whose rail is off and which waits for power: at step 9 of the boot, after STOP, and when VCASK_IN is
back in its range (R363, R366, R405). -/
def Dev.raiseRails (d : Dev) : Dev :=
  if d.power.st ≠ .run || ! d.power.pwrgd then d
  else [0, 1, 2, 3].foldl (fun d n =>
    let s := d.slot n
    if s.detect && s.cask.isSome && ! s.rail && ! s.safe then d.raiseCask n else d) d

/-! Removal (R332, R333). -/

/-- Put a frame whose promotion has failed after its entry was written back to T1, once no host holds a line of it. Blocks
that armed lines in it read them again. -/
def Dev.unpromote (d : Dev) (f : Nat) : Dev :=
  match smGet? f d.tmap with
  | none => { d with openPend := smErase f d.openPend }
  | some e =>
    let d := (d.clearLines f e.loc).endEmptyBi e.loc
    let held := (d.linesOfLoc e.loc).any (fun pl => match smGet? pl d.dir with
      | some x => x.st != .none || x.bi.isSome
      | none => false)
    if held then d
    else
      let armed := (d.linesOfLoc e.loc).flatMap d.watchers
      let d := { (d.dropLoc e.loc) with openPend := smErase f d.openPend }
      let d := (d.clearFrame f).setEntry f { e with tier := 1, loc := 0, t1c := false, dirty := false, mov := false }
      (armed.foldl (fun d a => d.raise a) d).wake (fun w => w == .frameRoom)

/-- The frames whose failed promotion is still to be undone. -/
def Dev.unpromoteAll (d : Dev) : Dev :=
  (d.openPend.filter (fun p => p.2 == openLost)).foldl (fun d p => d.unpromote p.1) d

/-- Whether a frame's latest record on a cask is one of content that a promotion reads. -/
def recRead (c : Cask) (f : Nat) : Bool :=
  match latestRec c.recs f ownerId with
  | some r => r.kind == 1 || r.kind == 5
  | none => false

/-- The cask of a slot can no longer be read (R333): demotions to it are abandoned, promotions from it that have not ended, or
whose OPEN record is not durable, fail, and what waits on it meets the unreadable frames. `gone` is the slot afterwards. -/
def Dev.losesCask (d : Dev) (n : Nat) (gone : SlotSt) : Dev :=
  let recs : Nat → Bool := match (d.slot n).cask with | some c => recRead c | none => fun _ => false
  let reading := (d.movesOf n .promote).filter
    (fun f => match smGet? f d.tmap with | some e => ! e.zero | none => false)
  let open_ := (smKeys d.openPend).filter (fun f => match smGet? f d.tmap with
    | some e => e.tier == 0 && ! e.psn && e.cslot == n && recs f
    | none => false)
  let d := if reading.isEmpty && open_.isEmpty then d else d.lostCask n
  let d := (d.setSlot n gone).stopDemotions n
  let d := reading.foldl (fun d f => d.promoFailed f) d
  let stuck := (d.waiting.filter (fun w => open_.any (fun f => w.on == WaitOn.openRecord f))).map (·.req)
  let d := { d with
    openPend := open_.foldl (fun m f => smSet f openLost m) d.openPend
    waiting := d.waiting.filter (fun w => ! open_.any (fun f => w.on == WaitOn.openRecord f)) }
  let d := stuck.foldl (fun (d : Dev) r => d.answerFailed r) d
  d.unpromoteAll.wake (fun w => w == .cask n)

/-- CASK_INSERT (R331): the island raises the wake source, which also aborts an entry of STOP (R361, R362). Without power the
cask waits for its steps. -/
def Dev.insertCask (d : Dev) (n : Nat) (c : Cask) : Dev :=
  if n ≥ 4 || (d.slot n).detect then d
  else
    let err := (d.slot n).cmdErr
    let d := if d.power.removed.contains n then
        { d.losesCask n { SlotSt.empty with cmdErr := err } with power := { d.power with removed := nsDel n d.power.removed } } else d
    let d := d.setSlot n { SlotSt.empty with
      cask := some { c with inserts := (c.inserts + 1) % 2 ^ 32 }, detect := true, cmdErr := err }
    let d := if d.rf 0x2000 1 1 = 1 then (d.abortEntry 7).startWake 4 n else d
    if d.power.st = .run ∧ d.power.pwrgd then d.raiseCask n else d

/-- CASK_INSERT (R331). -/
def execCaskInsert (slot : Nat) (cask : Cask) (s : State) : Host.Outcome State Fault Refusal := s.onDev (fun d => d.insertCask slot cask)

/-- CASK_FTL_LOADED (R331 steps 5 and 6): the cask serves, and what waited for it goes on. -/
def execCaskFtlLoaded (slot : Nat) (s : State) : Host.Outcome State Fault Refusal :=
  s.onDev (fun d =>
    if ! (d.slot slot).loading || ! (d.slot slot).rail then d
    else ((d.modSlot slot (fun s => { s with loading := false, serving := true })).caskEvent slot).wake
      (fun w => w == .cask slot || w == .frameRoom))

/-- CASK_PULL (R333). In STOP the island records the removal, and the slot is handled at the wake (R362). -/
def Dev.pullCask (d : Dev) (n : Nat) : Dev :=
  let s := d.slot n
  if ! s.detect then d
  else if d.power.st = .stop ∨ d.power.st = .waking then
    { d.setSlot n { s with detect := false } with power := { d.power with removed := nsAdd n d.power.removed } }
  else d.losesCask n { SlotSt.empty with cmdErr := s.cmdErr }

/-- CASK_PULL (R333). -/
def execCaskPull (slot : Nat) (s : State) : Host.Outcome State Fault Refusal := s.onDev (fun d => d.pullCask slot)

/-- CASK_BRANCH_OVERCURRENT (R403): the branch is switched off and the cask treated as pulled. -/
def execCaskBranchOvercurrent (slot : Nat) (s : State) : Host.Outcome State Fault Refusal :=
  s.onDev (fun d =>
    let x := d.slot slot
    if ! x.rail then d
    else (d.event .caskCurrent [d.slotField slot]).losesCask slot { SlotSt.empty with cmdErr := x.cmdErr, detect := true })

/-- VCASK_OUT_OF_RANGE (R405): every branch is switched off and each cask treated as pulled; they come back from step 2 of R331. -/
def execVcaskOutOfRange (s : State) : Host.Outcome State Fault Refusal :=
  s.onDev (fun d => [0, 1, 2, 3].foldl (fun d n =>
    let x := d.slot n
    if x.rail then d.losesCask n { SlotSt.empty with cmdErr := x.cmdErr, detect := true, cask := x.cask } else d) d)

/-- CASK_RETRAIN_DONE (R322, R363): T1 accesses that waited for the training go on. -/
def execCaskRetrainDone (s : State) : Host.Outcome State Fault Refusal :=
  s.onDev (fun d => [0, 1, 2, 3].foldl (fun d n =>
    if (d.slot n).retrain then (d.modSlot n (fun s => { s with retrain := false })).wake (fun w => w == .cask n) else d) d)

/-! EVACUATE (R336). -/

/-- The promotions in progress from casks under EVACUATE. -/
def Dev.evacMoves (d : Dev) : Nat :=
  (d.moves.filter (fun p => p.2.kind == .promote && p.2.destTier == 1 && (d.slot p.2.destSlot).busy == 2)).length

/-- The evacuations go on: a frame is promoted while a mover of CSK_EVAC.MOVERS is free, and one that has emptied its cask
ends. -/
def Dev.evacStep (d : Dev) : Dev :=
  [0, 1, 2, 3].foldl (fun d n =>
    if (d.slot n).busy ≠ 2 then d
    else
      let fs := d.caskFrames n
      if fs.isEmpty then d.modSlot n (fun s => { s with busy := 0 })
      else fs.foldl (fun d f => match d.entry f with
        | some e =>
          if d.evacMoves ≥ max 1 (d.rf 0xE004 5 0) || (smGet? f d.moves).isSome then d else (d.beginPromo f e false).2
        | none => d) d) d

/-- EVACUATE (R336): T0 frames lose their copy on the cask, and its frames begin to be promoted. -/
def Dev.evacuate (d : Dev) (n : Nat) : Dev :=
  let s := d.slot n
  if s.readable && s.busy == 0 then
    let d : Dev := { d.setSlot n { s with busy := 2 } with
      tmap := d.tmap.map (fun (p : Nat × TEntry) => if p.2.tier = 0 ∧ p.2.cslot = n then (p.1, { p.2 with t1c := false }) else p) }
    (d.stopDemotions n).evacStep
  else d.cskErr n

/-! RELEASE (R332). -/

/-- The end of RELEASE, once no read of the cask is in progress: the journal and the counters are written, the rail is off,
and SAFE is set. -/
def Dev.releaseStep (d : Dev) (n : Nat) : Dev :=
  let s := d.slot n
  if s.busy ≠ 3 || ! (d.movesOf n .promote).isEmpty then d
  else
    let d := d.setSlot n { s with
      busy := 0, rail := false, serving := false, loading := false, safe := true
      cask := s.cask.map (fun c => if s.code = 2 ∨ s.code = 3 then writeCounters c else c) }
    d.wake (fun w => w == .cask n)

/-- RELEASE (R332, R337): it ends an EVACUATE, and abandons the demotions to the cask. -/
def Dev.release (d : Dev) (n : Nat) : Dev :=
  let s := d.slot n
  if s.cask.isSome && s.rail && s.busy != 3 then
    ((d.setSlot n { s with busy := 3 }).stopDemotions n).releaseStep n
  else d.cskErr n

/-! RETIRE, ERASE and FORGET (R330). -/

/-- RETIRE: an empty cask in service or worn becomes RETIRED. -/
def Dev.retire (d : Dev) (n : Nat) : Dev :=
  let s := d.slot n
  if s.rail && (s.code == 2 || s.code == 3) && s.busy == 0 && (d.caskFrames n).isEmpty then
    d.setSlot n { s with serving := false, loading := false, cask := s.cask.map (fun c => { c with state := 4 }) }
  else d.cskErr n

/-- ERASE: every block is erased and BIND is cleared; a FOREIGN cask becomes FRESH and leaves the deny list. -/
def Dev.erase (d : Dev) (n : Nat) : Dev :=
  let s := d.slot n
  match s.cask with
  | none => d.cskErr n
  | some c =>
    if ! s.rail || s.busy != 0 then d.cskErr n
    else if s.code = 5 ∧ (s.reason = 3 ∨ s.reason = 4) then
      { d.setSlot n { s with foreign := false, reason := 0, cask := some { c with state := 1, bind := 0, recs := [] } } with
        deny := nsDel c.serial d.deny }
    else if s.code = 4 then d.setSlot n { s with cask := some { c with bind := 0, recs := [] } }
    else d.cskErr n

/-- FORGET: an empty cask's serial enters the deny list of 256 serials. -/
def Dev.forget (d : Dev) (n : Nat) : Dev :=
  let s := d.slot n
  match s.cask with
  | none => d.cskErr n
  | some c =>
    if s.rail && (s.code == 1 || s.code == 2 || s.code == 3) && s.busy == 0 && (d.caskFrames n).isEmpty
        && (d.deny.length < 256 || d.deny.contains c.serial) then { d with deny := nsAdd c.serial d.deny }
    else d.cskErr n

/-! IMPORT (R328). -/

/-- What IMPORT reads of one frame of a FOREIGN cask: the content of the record with the cask's OWNER and the highest SEQ, and
whether it is LOSSY; none where nothing is created. -/
def importContent (c : Cask) (f : Nat) : Option (Decoded × Bool) :=
  match latestRec c.recs f c.bind with
  | none => none
  | some r =>
    if r.kind = 1 then some (kilnDecode r, r.lossy)
    else if r.kind = 2 then some (⟨[], [], false⟩, r.lossy)
    else if r.kind = 5 then
      match c.recs.find? (fun x => x.frame == f && x.owner == c.bind && x.seq == r.reuse && (x.kind == 1 || x.kind == 2)) with
      | some x => some (kilnDecode x, r.lossy)
      | none => some (⟨[], List.range 2048, false⟩, r.lossy)
    else none

/-- Import `count` frames from frame `src` of the cask to local frame `dst` on, as far as they can be taken. -/
def Dev.importFrom (c : Cask) (slot prec : Nat) : Nat → Nat → Nat → Dev → Dev
  | 0, _, _, d => d
  | count + 1, src, dst, d =>
    match importContent c src with
    | none => Dev.importFrom c slot prec count (src + 1) (dst + 1) { d with impSkip := d.impSkip + 1 }
    | some (content, lossy) =>
      let r := d.prec prec
      let stop := ! d.mapOn || ! d.rooted dst || (smGet? dst d.tmap).isSome || d.rootBusy.contains (dst / 65536)
        || d.lostLeaves.contains (smGet (dst / 65536) 65536 d.roots)
        || (pPin r && decide (d.pinned (pComp r) + 1 > smGet (pComp r) 0 d.quota))
      match (if stop then none else d.alloc) with
      | none => d.cskErr slot
      | some loc =>
        let d := d.setEntry dst { newEntry prec loc d.ageWindow (pPin r) with lossy := lossy }
        let d := if content.bad then d.event .kilnBad [.frames dst dst] else d
        Dev.importFrom c slot prec count (src + 1) (dst + 1) { d.fillFrame dst content.data content.pois with impDone := d.impDone + 1 }

/-- IMPORT (R327, R328). -/
def Dev.importCask (d : Dev) (n : Nat) : Dev :=
  let s := d.slot n
  match s.cask with
  | none => d.cskErr n
  | some c =>
    if s.rail && s.code == 5 && (s.reason == 3 || s.reason == 4) && d.rf 0xE000 0 0 == 1 && s.busy == 0 then
      Dev.importFrom c n (d.rf 0xE010 51 32) (d.rf 0xE008 63 32) (d.rf 0xE008 31 0) (d.rf 0xE010 31 0)
        { d with impDone := 0, impSkip := 0 }
    else d.cskErr n

/-! CSK_CMD_n (R338). -/

/-- A write of CSK_CMD_n with GO: it stores OP and carries it out. Without a command in OP it is one not allowed. -/
def Dev.cskGo (d : Dev) (n op : Nat) : Dev :=
  let d := d.setRf (cskCmdReg n) 2 0 op
  match op with
  | 1 => d.adopt n
  | 2 => d.evacuate n
  | 3 => d.release n
  | 4 => d.retire n
  | 5 => d.erase n
  | 6 => d.importCask n
  | 7 => d.forget n
  | _ => d.cskErr n

/-- The command of a slot, by its path. -/
def State.cskCommand (s : State) (path : Path) (slot op : Nat) (c : Instr) : Host.Outcome State Fault Refusal :=
  .next (s.onPathDev path none true false (cskCmdReg slot) c (fun d => if slot < 4 then d.cskGo slot op else d))

/-- ADOPT (R330). -/
def execAdoptCask (path : Path) (slot : Nat) (s : State) : Host.Outcome State Fault Refusal :=
  s.cskCommand path slot 1 (.adoptCask path slot)

/-- EVACUATE (R336). -/
def execEvacuateCask (path : Path) (slot : Nat) (s : State) : Host.Outcome State Fault Refusal :=
  s.cskCommand path slot 2 (.evacuateCask path slot)

/-- RELEASE (R332). -/
def execReleaseCask (path : Path) (slot : Nat) (s : State) : Host.Outcome State Fault Refusal :=
  s.cskCommand path slot 3 (.releaseCask path slot)

/-- RETIRE (R330). -/
def execRetireCask (path : Path) (slot : Nat) (s : State) : Host.Outcome State Fault Refusal :=
  s.cskCommand path slot 4 (.retireCask path slot)

/-- ERASE (R330). -/
def execEraseCask (path : Path) (slot : Nat) (s : State) : Host.Outcome State Fault Refusal :=
  s.cskCommand path slot 5 (.eraseCask path slot)

/-- IMPORT (R328). -/
def execImportCask (path : Path) (slot : Nat) (s : State) : Host.Outcome State Fault Refusal :=
  s.cskCommand path slot 6 (.importCask path slot)

/-- FORGET (R330). -/
def execForgetCask (path : Path) (slot : Nat) (s : State) : Host.Outcome State Fault Refusal :=
  s.cskCommand path slot 7 (.forgetCask path slot)

/-! Wear and failures (R324, R334, R335, R343). -/

/-- The parity group of a die (R324): two dies of each channel. Die `k` of channel `c` of a cask is die 16c + k. -/
def dieGroup (die : Nat) : Nat := die % 16 / 2

/-- A free choice of code words within a frame. -/
def freeWords (v : Nat) : NSet := (List.range 2048).filter (fun w => v.testBit w)

/-- Poison what two dies of a group shared before either was rebuilt: which records and which of their words is open. One
event for each record (R324). -/
def Dev.dieShared (d : Dev) (n a b : Nat) : Dev :=
  match (d.slot n).cask with
  | none => d
  | some c =>
    let hit (r : CaskRec) : Bool := r.kind == 1 && (r.frame % 8 == a / 16 || r.frame % 8 == b / 16)
    let (recs, d) := c.recs.foldl (fun (x : List CaskRec × Dev) r =>
      if ! hit r then (x.1 ++ [r], x.2)
      else
        let (v, d) := x.2.takeFree
        let ws := freeWords v
        if ws.isEmpty then (x.1 ++ [r], d)
        else (x.1 ++ [{ r with pois := ws.foldl (fun p w => nsAdd w p) r.pois }],
          d.event .dieFail [d.slotField n, .frames r.frame r.frame])) ([], d)
    d.modCask n (fun c => { c with recs := recs })

/-- A die's live pages are rebuilt into spare blocks: how many blocks that takes is open. -/
def Dev.rebuildDie (d : Dev) (n : Nat) : Dev :=
  let (v, d) := d.takeFree
  let (w, d) := d.takeFree
  d.modCask n (fun c => { c with spare := min c.spare (v % 2 ^ 32), groupSpare := min c.groupSpare (w % 2 ^ 32) })

/-- CASK_DIE_FAIL (R324): counted against the die. Whether the rebuild of a die of the group that failed before has ended is
open. -/
def Dev.dieFails (d : Dev) (n die : Nat) : Dev :=
  match (d.slot n).cask with
  | none => d
  | some c =>
    if die ≥ 128 || ! (d.slot n).rail || c.failedDies.contains die then d
    else
      let mates := c.failedDies.filter (fun x => dieGroup x == dieGroup die)
      let d := (d.charge (locId 4 (128 * n + die)) 0 1).modCask n (fun c => { c with failedDies := nsAdd die c.failedDies })
      let d := mates.foldl (fun d m =>
        let (v, d) := d.takeFree
        if v % 2 = 1 then d.dieShared n m die else d) d
      d.rebuildDie n

/-- CASK_DIE_FAIL (R324). -/
def execCaskDieFail (slot die : Nat) (s : State) : Host.Outcome State Fault Refusal := s.onDev (fun d => d.dieFails slot die)

/-- The spare blocks of a cask whose pool has fallen below its threshold (R335): fewer than 1,024 in the whole pool, or fewer than 64 in a
parity group; which of the two, and how many, is open. -/
def wornSpare (v w : Nat) (c : Cask) : Cask :=
  if v % 2 = 0 then { c with spare := min c.spare (w % 1024) } else { c with groupSpare := min c.groupSpare (w % 64) }

/-- CASK_WORN (R335): the cask becomes WORN_READONLY, demotions to it are abandoned, and AUTO_EVAC starts EVACUATE. -/
def Dev.caskWears (d : Dev) (n : Nat) : Dev :=
  let s := d.slot n
  if ! s.rail || s.code != 2 then d
  else
    let (v, d) := d.takeFree
    let (w, d) := d.takeFree
    let d := (d.modCask n (fun c => { wornSpare v w c with state := 3 })).stopDemotions n
    if d.rf 0xE000 2 2 = 1 ∧ (d.slot n).busy = 0 ∧ (d.slot n).readable then d.evacuate n else d

/-- CASK_WORN (R335). -/
def execCaskWorn (slot : Nat) (s : State) : Host.Outcome State Fault Refusal := s.onDev (fun d => d.caskWears slot)

/-- CASK_LIFE_REACHED (R334). -/
def execCaskLifeReached (slot : Nat) (s : State) : Host.Outcome State Fault Refusal :=
  s.onDev (fun d => match (d.slot slot).cask with
    | some c =>
      if (d.slot slot).life || ! (d.slot slot).checked || fcwOf c < ratedLife then d
      else (d.modSlot slot (fun s => { s with life := true })).event .life [d.slotField slot]
    | none => d)

/-- CASK_COUNTER_WRITE (R335). -/
def execCaskCounterWrite (slot : Nat) (s : State) : Host.Outcome State Fault Refusal :=
  s.onDev (fun d =>
    let x := d.slot slot
    if x.rail && (x.code == 2 || x.code == 3) then d.modCask slot writeCounters else d)

/-- CASK_PAGE_SCRUB (R343, R344): a page whose flash-code corrections exceed the refresh level is rewritten with the content it
has. What the flash code corrects is not counted against the die, so nothing the machine can show changes. -/
def execCaskPageScrub (_slot _frame _corrections _refresh : Nat) (s : State) : Host.Outcome State Fault Refusal := s.onDev id

end Sys2Proof.Machine
end

