-- ==== Sys2Proof/Machine/Relia.lean ====
section
/-! DEFINITION. Errors, fences, retirement and the voltage loop: check failures, scrubs, the thresholds of the location
scores, the margin monitors and the power cap, and stack channels that retire or are lost (R26, R27, R177 to R181, R343 to
R351). -/

namespace Sys2Proof.Machine

open Sys2Proof

/-! The voltage loop (R26, R27, R347 to R349). -/

/-- Change the voltage loop. -/
def Dev.modLoop (d : Dev) (g : VLoop → VLoop) : Dev := { d with vloop := g d.vloop }

/-- Raise the set-point, to the floor at least and up to 880 mV. -/
def VLoop.raise (v : VLoop) (mv floor : Nat) : VLoop := { v with set := min 880 (max floor (v.set + mv)), greenRun := 0 }

/-- Lower the set-point by one step, down to the floor. -/
def VLoop.lower (v : VLoop) (floor : Nat) : VLoop := { v with set := max (min v.set floor) (v.set - 5), greenRun := 0 }

/-- The lowest set-point that the loop may choose: PWR_VCORE.FLOOR, within 620 to 880 mV. -/
def Dev.floor (d : Dev) : Nat := max 620 (min 880 (d.rf 0x2020 25 16))

/-- The calibration unit of a margin monitor (R348): a bay, a scanner, or a die-network node; the hub node is node 15. -/
def monitorUnit (m : Nat) : Nat :=
  if m < 128 then m else if m < 160 then 0x100 + (m - 128) else if m < 224 then 0x700 + (m - 160) / 4 else 0x70F

/-- Whether a margin monitor exists: those of the bays that the part has not do not (R2). -/
def Dev.hasMonitor (d : Dev) (m : Nat) : Bool := decide (m < 256 ∧ (m < 128 → m < d.bays))

/-- Fence the unit of a monitor, where it is a bay or a scanner. -/
def Dev.fenceUnit (d : Dev) (unit : Nat) : Dev :=
  if unit < 0x100 then (if unit < d.bays then { d with fencedBays := nsAdd unit d.fencedBays } else d)
  else if unit < 0x200 then { d with fencedScan := nsAdd (unit - 0x100) d.fencedScan }
  else d

/-- Steps 3 and 4 of R349 for one monitor that is red at 0.88 V. -/
def Dev.redAtTop (d : Dev) (m : Nat) : Dev :=
  let u := monitorUnit m
  let t := smGet u 0 d.vloop.trim
  if t ≥ 7 then d.fenceUnit u
  else
    let run := smGet m 0 d.vloop.redRun + 1
    if run < 16 then d.modLoop (fun v => { v with redRun := smSet m run v.redRun })
    else (d.modLoop (fun v => { v with redRun := smErase m v.redRun, trim := smSet u (t + 1) v.trim })).event .red [.unit (u % 256)]

/-- Whether package power is above the cap (R27, R31). -/
def Dev.overCap (d : Dev) : Bool := d.rf 0x2008 15 0 != 0 && decide (d.reg 0x2028 > 1000 * d.rf 0x2008 15 0)

/-- One sample of all monitors (R26): `bands` names those that are not green, and `headroom` says that every monitor is green with
headroom. Above the cap the loop lowers at every green sample until the first amber one (R27). While the management core restarts, the power
sequencer only answers red samples (R378). A set-point below a floor written since rises to it, and a sample with both a red and an amber
monitor raises by the 20 mV of a red one alone (DESIGN CHOICE, log entry 192). -/
def Dev.sampleMargins (d : Dev) (bands : List (Nat × Band)) (headroom : Bool) : Dev :=
  if ! d.vloop.running || d.power.st ≠ .run then d
  else
    let bands := bands.filter (fun b => d.hasMonitor b.1)
    let red := (bands.filter (fun b => b.2 == .red)).map (·.1)
    let amber := bands.any (fun b => b.2 == .amber)
    let exceeds := d.overCap
    if d.fw.restarting then
      if red.isEmpty then d else d.modLoop (fun v => { v.raise 20 d.floor with hold := true })
    else
    let d := d.modLoop (fun v => { v with
      set := max v.set d.floor
      redRun := v.redRun.filter (fun p => red.contains p.1), capStop := exceeds && (v.capStop || amber || ! red.isEmpty) })
    if ! red.isEmpty then
      let d := if d.vloop.set ≥ 880 then red.foldl (fun d m => d.redAtTop m) d else d
      d.modLoop (fun v => { v.raise 20 d.floor with hold := true, capMissed := v.capMissed || exceeds })
    else if amber then d.modLoop (fun v => { v.raise 10 d.floor with capMissed := v.capMissed || exceeds })
    else
      let d := d.modLoop (fun v => { v with greenRun := if headroom && bands.isEmpty then v.greenRun + 1 else 0 })
      let v := d.vloop
      if exceeds && ! v.capStop && ! v.hold && decide (v.set > d.floor) then d.modLoop (fun v => v.lower d.floor)
      else
        let d := if exceeds then d.modLoop (fun v => { v with capMissed := true }) else d
        if v.greenRun ≥ 16 ∧ ! v.hold ∧ v.set > d.floor then d.modLoop (fun v => v.lower d.floor)
        else d.modLoop (fun v => { v with greenRun := min 16 v.greenRun })

/-- MARGIN_SAMPLE (R26, R27, R349). -/
def execMarginSample (bands : List (Nat × Band)) (headroom : Bool) (s : State) : Host.Outcome State Fault Refusal :=
  s.onDev (fun d => d.sampleMargins bands headroom)

/-- LOWERING_HOLD_END (R347, R349). -/
def execLoweringHoldEnd (s : State) : Host.Outcome State Fault Refusal :=
  s.onDev (fun d => d.modLoop (fun v => { v with hold := false }))

/-- CAP_MISS_WINDOW (R27). -/
def execCapMissWindow (s : State) : Host.Outcome State Fault Refusal :=
  s.onDev (fun d =>
    if ! d.vloop.capMissed then d
    else ((d.modLoop (fun v => { v with capMissed := false })).setRf 0x2004 3 3 1).event .capMiss [.count (d.reg 0x2028)])

/-! Check failures (R177 to R180, R347). -/

/-- The work of the descriptors that write a result area as a whole, by opcode; the others write rows, entries or records each whole. -/
def resultWork (op : Nat) : Option (Line → M (Nat × Nat × Nat)) :=
  if op = 0x01 then some copyM
  else if op = 0x02 then some fillM
  else if op = 0x10 then some attnPartialM
  else if op = 0x11 then some kvAppendM
  else if op = 0x18 then some gatherPoolM
  else if op = 0x20 then some roundEndM
  else if op = 0x30 then some streamM
  else none

/-- Writes whose bytes are open. -/
def openRuns : List LogRun → Dev → List LogRun × Dev
  | [], d => ([], d)
  | r :: rs, d =>
    let (v, d) := d.takeFree
    let (more, d) := openRuns rs d
    ({ r with bytes := leBytes r.bytes.length v } :: more, d)

/-- The result area of a descriptor that RESIDUE ends (R180): what the descriptor would have written is undefined. -/
def Dev.spoilResults (d : Dev) (q : Nat) (r : Started) : Dev :=
  match resultWork (lf r.bytes 0 1), smGet? q d.queues with
  | some m, some x =>
    let c := descCtx q x r
    match d.runM c (m r.bytes) with
    | (.ok _, s) =>
      let (log, d) := openRuns s.log s.d
      Dev.commit c d log
    | _ => d
  | _, _ => d

/-- The entries of a timetable whose chunk a second failed check discards (R180, R265): those that bays run; or, where none runs, the lowest
one not completed. -/
def Timetable.discarded (t : Timetable) (n : Nat) : List Nat :=
  let here := (List.range n).filter (fun k => t.st k == 1 && (match (t.entry k).eng 0 with | .bay _ => true | _ => false))
  if here.isEmpty then ((List.range n).find? (fun k => t.st k != 2 && t.st k != 3)).toList else here

/-- End a descriptor with RESIDUE (R180): no further chunk of it starts. A timetable fails the entries whose chunks are discarded. -/
def Dev.endsResidue (d : Dev) (q n : Nat) (r : Started) : Dev :=
  let d := d.stat 0x9018 15 0 1
  match d.table ⟨q, n⟩ with
  | some t => (t.discarded t.states.length).foldl (fun d k => d.entryFails ⟨q, n⟩ k stResidue) d
  | none => (d.spoilResults q r).finishOpen (lf r.bytes 0 1) q n stResidue

/-- CHECK_FAILURE: the location is charged, VDD_CORE is raised and the lowering held; the descriptor's work is redone, and a
second failure in it ends it with RESIDUE. `csum` tells a failure of the checksum lane of a bay from one of a residue (R177, R178). -/
def Dev.checkFails (d : Dev) (csum : Bool) (loc q n : Nat) : Dev :=
  if ! d.locExists loc || ! (locKind loc == 1 || locKind loc == 2) then d
  else
    let d := if csum && locKind loc == 1 then d.stat 0x9018 63 32 1 else d.stat 0x9018 31 16 1
    let d := (d.charge loc 0 1).modLoop (fun v => { v.raise 10 d.floor with hold := true })
    match d.startedOf q n with
    | none => d
    | some r =>
      let d := match smGet? q d.queues with | some x => d.count x.fn 0x11 1 | none => d
      if r.phase = .finished then d
      else
        let d := d.modStarted q n (fun r => { r with failures := r.failures + 1 })
        if r.failures + 1 < 2 then d else d.endsResidue q n r

/-- CHECK_FAILURE (R179, R180, R347). -/
def execCheckFailure (loc : CheckAt) (q n : Nat) (s : State) : Host.Outcome State Fault Refusal :=
  s.onDev (fun d => d.checkFails loc.csum loc.loc q n)

/-! Scrubbing (R341, R343). -/

/-- One stack word as a scrub reads it: 36 symbols. A corrected word is written back corrected, an uncorrectable one poisoned. -/
def Dev.scrub (d : Dev) (word : Nat) (sym : List Byte) : Dev :=
  match d.entry (word / 2048) with
  | none => d
  | some e =>
    if e.tier ≠ 0 || e.psn || sym.length ≠ 36 then d
    else
      let a := v36Decode sym
      let d := d.charge (locId 0 (locChannel e.loc)) a.fixed (b2n a.bad)
      if a.bad then d.poisonWord word
      else if a.poison || a.fixed = 0 then d
      else { Dev.setBytes a.data (32 * word) d with pois := nsDel word d.pois }

/-- One word of a shared SRAM region (R28, R343, R344) as a scrub reads it; region 0 is the directory cache, 5 the fabric buffers. Where a word
of a region lies in what the region holds is Ndonte's own, so that what the region holds stays (DESIGN CHOICE, log entry 193). -/
def Dev.scrubSram (d : Dev) (region : Nat) (sym : List Byte) : Dev :=
  if region ≥ 6 || sym.length ≠ 36 then d
  else
    let a := v36Decode sym
    d.charge (locId 5 (16 + region)) a.fixed (b2n a.bad)

/-- STACK_SCRUB (R343): a stack word, or a word of a shared SRAM region. -/
def execStackScrub (word : ScrubAt) (symbols : List Byte) (s : State) : Host.Outcome State Fault Refusal :=
  s.onDev (fun d => match word with
    | .stack w => d.scrub w symbols
    | .sram k => d.scrubSram k symbols)

/-! Retiring a stack channel (R350, R351). -/

/-- The T0 frames whose stack frame lies in a channel. -/
def Dev.framesOfCh (d : Dev) (ch : Nat) : List Nat :=
  smKeys (d.tmap.filter (fun p => p.2.tier == 0 && ! p.2.psn && locChannel p.2.loc == ch))

/-- Step 1 of R350. -/
def Dev.beginRetire (d : Dev) (ch : Nat) : Dev :=
  if d.retiredCh.contains ch || d.retiring.contains ch then d
  else { d with retiring := nsAdd ch d.retiring }.event .channelRetired [.loc (locId 0 ch)]

/-- Steps 2 and 3 of R350 for every retiring channel: frames are relocated, or demoted where no pool frame is free; a frame
that finds no room sets FULL. -/
def Dev.retireStep (d : Dev) : Dev :=
  if d.retiring.isEmpty then (if d.tierFull then { d with tierFull := false } else d)
  else
    let fs := d.retiring.flatMap (fun ch => d.framesOfCh ch)
    let d := fs.foldl (fun d f => match smGet? f d.tmap with
      | none => d
      | some e =>
        if (smGet? f d.moves).isSome || ! d.moverFree then d
        else match d.beginRelocation f e with
          | some d => d
          | none => if d.canLeave f e then d.beginDemotion f e else d) d
    let stuck := d.poolFree = 0 && fs.any (fun f => (smGet? f d.moves).isNone)
    if stuck then { d with tierFull := true }.eventSecond .channelHeld 0 [.count fs.length] else { d with tierFull := false }

/-- CHANNEL_RETIRE_DONE (R350 step 4). -/
def execChannelRetireDone (ch : Nat) (s : State) : Host.Outcome State Fault Refusal :=
  s.onDev (fun d =>
    if ! d.retiring.contains ch || d.usedLocs.any (fun l => locChannel l == ch) then d
    else { d with retiring := nsDel ch d.retiring, retiredCh := nsAdd ch d.retiredCh }.retireStep)

/-- A lost frame leaves its channel once no host holds a line of it (R351): with its copy on a cask whole it is a T1 frame again; written
since, it takes a pool frame; otherwise it is PSN, and its rebuild from an erasure group starts. -/
def Dev.settleLost (d : Dev) (f : Nat) (e : TEntry) : Dev :=
  let d := (d.clearLines f e.loc).endEmptyBi e.loc
  let held := (d.linesOfLoc e.loc).any (fun pl => match smGet? pl d.dir with
    | some x => x.st != .none || x.bi.isSome
    | none => false)
  if held then d
  else
    let armed := (d.linesOfLoc e.loc).flatMap d.watchers
    let free (d : Dev) : Dev := armed.foldl (fun d a => d.raise a) (d.dropLoc e.loc)
    let e := (smGet? f d.tmap).getD e
    if e.t1c && ! e.dirty then (free d).clearFrame f |>.setEntry f { e with tier := 1, loc := 0, t1c := false }
    else if ! e.t1c && (d.framePois f).length = 2048 then
      ((free d).setEntry f { e with psn := true, loc := 0, dirty := false }).beginRebuild f
    else match d.alloc with
      | some loc => (free d).setEntry f { e with loc := loc, t1c := false }
      | none => d

/-- The lost frames that still stand in a retired channel. -/
def Dev.settleAll (d : Dev) : Dev :=
  (d.tmap.filter (fun p => p.2.tier == 0 && ! p.2.psn && d.retiredCh.contains (locChannel p.2.loc))).foldl
    (fun d p => match smGet? p.1 d.tmap with
      | some e => d.settleLost p.1 e
      | none => d) d

/-- The runs of consecutive numbers in a rising list: first and last of each. -/
def rangesOf : List Nat → List (Nat × Nat)
  | [] => []
  | x :: xs => match rangesOf xs with
    | (a, b) :: rs => if x + 1 = a then (x, b) :: rs else (x, x) :: (a, b) :: rs
    | [] => [(x, x)]

/-- The leaf copies and directory sets of a stack that lay in a lost channel: which of them did is open, since the order of the
reserved structures is Ndonte's own (R66). A lost leaf copy is handled by R82; every line of a lost set that may be held is called
back from every LD that covers it, and its set is recreated empty. -/
def Dev.loseReserved (d : Dev) (ch : Nat) : Dev :=
  let st := ch / 32
  let hit := d.leafSlots.filter (fun l => d.leafStack l 0 == some st || d.leafStack l 1 == some st)
  let (gone, d) := hit.foldl (fun (x : List Nat × Dev) l =>
    let (v, d) := x.2.takeFree
    (if v % 2 = 1 then x.1 ++ [l] else x.1, d)) ([], d)
  let d := gone.foldl (fun (d : Dev) l =>
    let c := if d.leafStack l 0 = some st then 0 else 1
    let d := { d with leafAt := smSet (2 * l + c) 0 d.leafAt }
    if (d.leafStack l (1 - c)).isNone then { d with lostLeaves := nsAdd l d.lostLeaves } else d) d
  let d := if gone.isEmpty then d else d.event .mapDegraded [.count gone.length]
  let sets := ((smKeys d.dir).filter (fun pl => plineStack pl == st)).foldl (fun a pl => nsAdd (dirSet pl) a) []
  sets.foldl (fun (d : Dev) s =>
    let (v, d) := d.takeFree
    if v % 2 = 0 then d
    else (d.setEntries s).foldl (fun (d : Dev) p =>
      let off := d.lineOff p.1
      let d := d.raiseLine p.1
      if p.2.bi.isSome || p.2.st = .none then d
      else d.callBack p.1 off p.2 (d.covering off)) d) d

/-- CHANNEL_LOSS (R351): the channel is retired at once. -/
def Dev.loseChannel (d : Dev) (ch : Nat) : Dev :=
  if ch ≥ 32 * d.stacks || d.retiredCh.contains ch then d
  else
    let fs := d.framesOfCh ch
    let d := fs.foldl (fun (d : Dev) f =>
      let d := d.abandonDemotion f
      match smGet? f d.moves with
      | some m => if m.kind = .relocate then { d.modEntry f (fun e => { e with mov := false }) with moves := smErase f d.moves } else d
      | none => d) d
    let into := smKeys (d.moves.filter (fun p => p.2.kind != .demote && p.2.queued == 0 && locChannel p.2.dest == ch))
    let d := { d with retiring := nsDel ch d.retiring, retiredCh := nsAdd ch d.retiredCh }
    let d := into.foldl (fun (d : Dev) f => match d.alloc with
      | some loc => { d with moves := smMod f (fun m => { m with dest := loc }) d.moves }
      | none => d.promoFailed f) d
    let bad := fs.filter (fun f => match smGet? f d.tmap with | some e => ! (e.t1c && ! e.dirty) | none => false)
    let d := bad.foldl (fun (d : Dev) f => (d.modEntry f (fun e => { e with t1c := false, dirty := false })).poisonFrame f) d
    let d := (rangesOf bad).foldl (fun (d : Dev) r => d.event .channelLost [.frames r.1 r.2, .count (r.2 + 1 - r.1)]) d
    (d.loseReserved ch).settleAll.wake (fun w => match w with | .move f => fs.contains f | _ => false)

/-- CHANNEL_LOSS (R351). -/
def execChannelLoss (ch : Nat) (s : State) : Host.Outcome State Fault Refusal := s.onDev (fun d => d.loseChannel ch)

/-! Thresholds (R345, R346). -/

/-- The accounts with every score halved, rounding down (R345); WARN may act again below half of it (R346). -/
def Dev.halvedScores (d : Dev) : SMap LocScore :=
  let halve (p : Nat × LocScore) : Nat × LocScore :=
    let v := p.2.score / 2
    (p.1, { p.2 with score := v, warned := p.2.warned && decide (2 * v ≥ 65536 * d.thrWarn (locKind p.1)) })
  (d.scores.map halve).filter (fun p => p.2 != ⟨0, 0, 0, false⟩)

/-- SCORE_HALVING (R345). -/
def execScoreHalving (s : State) : Host.Outcome State Fault Refusal :=
  s.onDev (fun d => { d with scores := d.halvedScores })

/-- The calibration unit whose recalibration WARN schedules (R345, R353); a shared SRAM region has none. -/
def warnUnit (loc : Nat) : Option Nat :=
  let i := locIndex loc
  match locKind loc with
  | 0 => some (0x200 + i / 32)
  | 1 => some i
  | 2 => some (0x100 + i)
  | 5 => if i < 16 then some (0x700 + i) else none
  | _ => none

/-- WARN at a location (R345, R346). -/
def Dev.warnAt (d : Dev) (loc : Nat) : Dev :=
  let x := d.score loc
  if ! d.locExists loc || x.warned || x.score < 65536 * d.thrWarn (locKind loc) then d
  else
    let d := (d.event .scoreWarn (d.locFields loc)).setScore loc { x with warned := true }
    match warnUnit loc with
    | some u => if d.calSched.contains u then d else { d with calSched := d.calSched ++ [u] }
    | none =>
      let p := locIndex loc
      if locKind loc = 3 ∧ ((d.port p).st = .up ∨ (d.port p).st = .doze) then d.leavePort p .training else d

/-- SCORE_WARN (R346). The refresh of a cask die's pages leaves their content. -/
def execScoreWarn (loc : Nat) (s : State) : Host.Outcome State Fault Refusal := s.onDev (fun d => d.warnAt loc)

/-- Whether LIMIT has already acted at a location. -/
def Dev.limited (d : Dev) (loc : Nat) : Bool :=
  let i := locIndex loc
  match locKind loc with
  | 0 => d.retiredCh.contains i || d.retiring.contains i
  | 1 => d.fencedBays.contains i
  | 2 => d.fencedScan.contains i
  | 3 => d.fencedPorts.contains i
  | 4 => d.retiredDies.contains i
  | _ => true

/-- LIMIT at a location (R345, R346). -/
def Dev.limitAt (d : Dev) (loc : Nat) : Dev :=
  let i := locIndex loc
  let lim := d.thrLimit (locKind loc)
  if ! d.locExists loc || lim = 0 || (d.score loc).score < 65536 * lim || d.limited loc then d
  else
    let d := d.event .scoreLimit (d.locFields loc)
    match locKind loc with
    | 0 => (d.beginRetire i).retireStep
    | 1 => { d with fencedBays := nsAdd i d.fencedBays }
    | 2 => { d with fencedScan := nsAdd i d.fencedScan }
    | 3 =>
      let d := { d with fencedPorts := nsAdd i d.fencedPorts }
      if (d.port i).module then d.restPort i else d
    | _ => { d with retiredDies := nsAdd i d.retiredDies }.rebuildDie (i / 128)

/-- SCORE_LIMIT (R346). -/
def execScoreLimit (loc : Nat) (s : State) : Host.Outcome State Fault Refusal := s.onDev (fun d => d.limitAt loc)

/-- The effect of MGT_UNFENCE.GO (R346, R355): a stack channel or cask die is left as it is. -/
def Dev.unfence (d : Dev) (loc : Nat) : Dev :=
  let i := locIndex loc
  let zero (d : Dev) : Dev := d.setScore loc { d.score loc with score := 0, warned := false }
  if ! d.locExists loc then d
  else match locKind loc with
    | 1 => zero { d with fencedBays := nsDel i d.fencedBays }
    | 2 => zero { d with fencedScan := nsDel i d.fencedScan }
    | 3 =>
      let was := d.fencedPorts.contains i
      let d := zero { d with fencedPorts := nsDel i d.fencedPorts }
      if was && (d.port i).st == .disabled then d.restPort i else d
    | 5 => zero d
    | _ => d

/-- MGT_UNFENCE (R346). -/
def execMgtUnfence (path : Path) (loc : Nat) (s : State) : Host.Outcome State Fault Refusal :=
  .next (s.onPathDev path none true false 0x3030 (.mgtUnfence path loc) (fun d => d.unfence (loc % 4096)))

end Sys2Proof.Machine
end

