-- ==== Sys2Proof/Machine/Calib.lean ====
section
/-! DEFINITION. The calibration set: recalibration of a unit, EXPORT and WRITE, and the writes to the NOR (R352 to R355). -/

namespace Sys2Proof.Machine

open Sys2Proof

/-! Units (R353). -/

/-- Whether a calibration unit exists. -/
def Dev.unitExists (d : Dev) (u : Nat) : Bool :=
  let i := u % 256
  match u / 256 with
  | 0 => decide (i < d.bays)
  | 1 => decide (i < 32)
  | 2 => decide (i < d.stacks)
  | 3 => decide (i < 32)
  | 4 => decide (i < 16)
  | 5 => i == 0
  | 6 => i == 0
  | 7 => decide (i < 16)
  | _ => false

/-- The TYPE of the record that a run of a unit writes (R352): DELAY for the self-timed units, PHY, OPTIC or SENSOR. -/
def runType (u : Nat) : Nat :=
  match u / 256 with
  | 0 | 1 | 7 => 1
  | 4 => 4
  | 6 => 5
  | _ => 3

/-- The margin monitors of a unit (R348). -/
def unitMonitors (u : Nat) : Nat := if u = 0x70F then 36 else if u / 256 = 7 then 4 else if u / 256 ≤ 1 then 1 else 0

/-! The set (R352, R354). -/

/-- The set as it is in force: what waits for the hour stands before what the NOR holds. -/
def Dev.calForce (d : Dev) : List CalRec :=
  d.calPending ++ d.calNor.filter (fun r => ! d.calPending.any (fun p => p.unit == r.unit && p.type == r.type))

/-- The bytes of a record. -/
def calBytes (r : CalRec) : List Byte :=
  let head (crc : Nat) : List Byte :=
    leBytes 1 r.type ++ [0] ++ leBytes 2 r.unit ++ leBytes 4 r.body.length ++ leBytes 4 r.stamp ++ leBytes 4 crc
  head (crc32c (head 0 ++ r.body)) ++ r.body

/-- The records that a byte string spells end to end; none where one is cut short, or a CRC or a type does not hold. -/
def calParse : Nat → List Byte → Option (List CalRec)
  | 0, bs => if bs.isEmpty then some [] else none
  | fuel + 1, bs =>
    if bs.isEmpty then some []
    else
      let n := fld bs 4 4
      if bs.length < 16 + n then none
      else
        let r : CalRec := ⟨fld bs 0 1, fld bs 2 2, fld bs 8 4, (bs.drop 16).take n, false⟩
        let crc := crc32c (splice (bs.take 12 ++ [0, 0, 0, 0]) 16 r.body)
        if fld bs 12 4 ≠ crc ∨ r.type = 0 ∨ r.type > 5 then none
        else (calParse fuel (bs.drop (16 + n))).map (r :: ·)

/-- Put records in place of those of the same unit and type. -/
def calReplace (set recs : List CalRec) : List CalRec :=
  set.filter (fun r => ! recs.any (fun x => x.unit == r.unit && x.type == r.type)) ++ recs

/-- Write a unit's pending records to the NOR, stamped now. -/
def Dev.calCommit (d : Dev) (u : Nat) : Dev :=
  let recs := (d.calPending.filter (fun r => r.unit == u)).map (fun r => { r with stamp := d.sec })
  { d with calNor := calReplace d.calNor recs, calPending := d.calPending.filter (fun r => r.unit != u) }

/-- Whether the hour since the last write of a unit's records to the NOR has passed. -/
def Dev.calDue (d : Dev) (u : Nat) : Bool := d.calNor.all (fun r => r.unit != u || decide (r.stamp + 3600 ≤ d.sec))

/-- New records of a unit: in force at once, in the NOR at once where the hour allows it (R354). -/
def Dev.calTake (d : Dev) (u : Nat) (recs : List CalRec) : Dev :=
  let d := { d with calPending := calReplace d.calPending recs }
  if d.calDue u then d.calCommit u else d

/-- A run of a unit (R353). `result` holds the shortest codes that pass, one byte each, to which the guard steps are added, or the
measured body of a PHY, OPTIC or SENSOR record; with none the run has found no passing code. -/
def Dev.calibrate (d : Dev) (u : Nat) (result : Option (List Byte)) : Dev :=
  let d := if u / 256 = 4 ∧ (d.port (u % 256)).module ∧ ((d.port (u % 256)).st = .up ∨ (d.port (u % 256)).st = .doze) then
      d.leavePort (u % 256) .training else d
  match result with
  | none => (d.fenceUnit u).event .calRefused [.unit (u % 256)]
  | some body =>
    let guard := d.rf 0x4010 3 0
    let t := runType u
    let code : CalRec := ⟨t, u, d.sec, if t = 1 then body.map (fun b => BitVec.ofNat 8 (min 255 (b.toNat + guard))) else body, false⟩
    let (bands, d) := d.takeFree
    let n := unitMonitors u
    let recs := if n = 0 then [code] else [code, ⟨2, u, d.sec, leBytes (3 * n) bands, false⟩]
    (d.calTake u recs).modLoop (fun v => { v with trim := smErase u v.trim })

/-- CAL_STS.ERR. -/
def Dev.calErr (d : Dev) : Dev := d.setRf 0x4004 30 30 1

/-- The effect of CAL_CMD with OP RUN. -/
def Dev.calRun (d : Dev) (u : Nat) (result : Option (List Byte)) : Dev :=
  if d.unitExists u then { d with calSched := d.calSched.filter (· != u) }.calibrate u result else d.calErr

/-- CAL_RUN (R353). -/
def execCalRun (path : Path) (unit : Nat) (result : Option (List Byte)) (s : State) : Host.Outcome State Fault Refusal :=
  .next (s.onPathDev path none true false 0x4000 (.calRun path unit result) (fun d =>
    ((d.setRf 0x4000 30 28 1).setRf 0x4000 11 0 unit).calRun (unit % 4096) result))

/-- CAL_SCHEDULED_RUN (R353): a recalibration that WARN scheduled. -/
def execCalScheduledRun (unit : Nat) (result : Option (List Byte)) (s : State) : Host.Outcome State Fault Refusal :=
  s.onDev (fun d => if d.power.st = .run ∧ ¬ d.fw.restarting ∧ d.calSched.contains unit then d.calRun unit result else d)

/-! Buffers of management commands. -/

/-- The outcome of a management command's use of a buffer in the stacks. -/
inductive BufAns (α : Type) where
  | done (a : α)
  | failed
  | wait

/-- Use a buffer of `n` bytes at a local offset, in frames pinned in T0. A command whose lines must be called back first waits with
its BUSY bit and is carried out again as time passes. -/
def Dev.useBuf (d : Dev) (base n : Nat) (m : M α) : BufAns α × Dev :=
  if n > 0 ∧ ! d.pinnedRange base n then (.failed, d)
  else match d.unitTry m with
    | (.ok a, d) => (.done a, d)
    | (.error .need, d) => (.wait, d)
    | (.error (.done _), d) => (.failed, d)

/-- Keep a command until it can be carried out. -/
def Dev.keep (d : Dev) (c : Instr) : Dev := { d with held := d.held ++ [c] }

/-- CAL_BUF.BASE as an offset. -/
def Dev.calBuf (d : Dev) : Nat := bits (d.reg 0x4008) 47 16 * 65536

/-- The effect of CAL_CMD with OP EXPORT (R354). -/
def Dev.calExportTo (d : Dev) (c : Instr) : Dev :=
  let bs := d.calNor.flatMap calBytes
  if bs.length > 8388608 then d.calErr
  else match d.useBuf d.calBuf bs.length (wr (d.ownFa d.calBuf) bs) with
    | (.done _, d) => d.setRf 0x4004 23 0 bs.length
    | (.failed, d) => d.calErr
    | (.wait, d) => d.keep c

/-- CAL_EXPORT (R354). -/
def execCalExport (path : Path) (s : State) : Host.Outcome State Fault Refusal :=
  .next (s.onPathDev path none true false 0x4000 (.calExport path) (fun d => (d.setRf 0x4000 30 28 2).calExportTo (.calExport path)))

/-- Take a record set (R354): every CRC and unit is checked first. -/
def Dev.calTakeSet (d : Dev) (bs : List Byte) : Dev :=
  match calParse bs.length bs with
  | none => d.calErr
  | some recs =>
    if recs.all (fun r => d.unitExists r.unit) then
      (recs.map (·.unit)).eraseDups.foldl (fun (d : Dev) u => d.calTake u (recs.filter (fun r => r.unit == u))) d
    else d.calErr

/-- The effect of CAL_CMD with OP WRITE (R354). -/
def Dev.calWriteFrom (d : Dev) (c : Instr) : Dev :=
  let n := d.rf 0x4004 23 0
  if n > 8388608 then d.calErr
  else match d.useBuf d.calBuf n (rd (d.ownFa d.calBuf) n) with
    | (.done bs, d) => d.calTakeSet bs
    | (.failed, d) => d.calErr
    | (.wait, d) => d.keep c

/-- CAL_WRITE (R354). -/
def execCalWrite (path : Path) (s : State) : Host.Outcome State Fault Refusal :=
  .next (s.onPathDev path none true false 0x4000 (.calWrite path) (fun d => (d.setRf 0x4000 30 28 3).calWriteFrom (.calWrite path)))

/-- CAL_NOR_WRITE (R354): at the hour, pending records go to the NOR. -/
def execCalNorWrite (s : State) : Host.Outcome State Fault Refusal :=
  s.onDev (fun d => (d.calPending.map (·.unit)).eraseDups.foldl (fun (d : Dev) u => d.calCommit u) d)

end Sys2Proof.Machine
end

