-- ==== Sys2Proof/Machine/Firmware.lean ====
section
/-! DEFINITION. Identity, attestation and live update: SEC_LOCK, the firmware slots and commands, the restart of the management
core, the roll-out of microcode, and the SPDM responder (R369 to R381). -/

namespace Sys2Proof.Machine

open Sys2Proof

/-! SEC_LOCK (R377, R381). -/

/-- Bits written as 1 become set, and none is ever cleared by a write. -/
def lockSet (lock value : Nat) : Nat := lock ||| bits value 10 0

/-- The effect of a write of SEC_LOCK. -/
def State.writeLock (s : State) (value : Nat) : State := { s with lock := lockSet s.lock value }

/-- SEC_LOCK_WRITE (R377). -/
def execSecLockWrite (path : Path) (value : Nat) (s : State) : Host.Outcome State Fault Refusal :=
  .next (s.onPath path none false false 0x1000 (.secLockWrite path value) (fun s => s.writeLock value))

/-! Firmware images (R372, R373). -/

/-- The slot of a name: false is A, true is B. -/
def FwState.slot (w : FwState) (b : Bool) : FwSlot := if b then w.slotB else w.slotA

/-- Put a slot's content in place. -/
def FwState.setSlot (w : FwState) (b : Bool) (x : FwSlot) : FwState := if b then { w with slotB := x } else { w with slotA := x }

/-- The image in the running slot. -/
def FwState.running (w : FwState) : FwSlot := w.slot w.runningB

/-- Whether a slot can be run: its image passed checks 1 to 4 of R373, and its SVN is at least the fuse count. -/
def FwSlot.runs (x : FwSlot) (fuses : Nat) : Bool := x.valid && decide (fuses ≤ x.svn)

/-- What the header and the body of an image give, when they pass R373 in order. -/
def imageOf (fuses : Nat) (head body : List Byte) : Option FwSlot :=
  let len := fld head 16 4
  let svn := fld head 12 4
  if fld head 0 4 ≠ 0x46584D44 ∨ fld head 4 2 ≠ 1 ∨ fld head 6 2 ≥ 2 ∨ svn > 64 ∨ len = 0 ∨ len > 16769024
      ∨ ¬ (slice head 24 8).all (· == 0) ∨ ¬ (slice head 6216 1976).all (· == 0) then none
  else if ! Config.mldsaVerify Config.rootKey (slice head 64 1312) (slice head 1376 2420) then none
  else if ! Config.mldsaVerify (slice head 64 1312) (slice head 0 64) (slice head 3796 2420) then none
  else if sha3 body ≠ slice head 32 32 then none
  else if svn < fuses then none
  else some ⟨true, fld head 8 4, svn, len, fld head 20 4, bit (fld head 6 2) 0, leNat (sha3 body), Config.microcodeDigest body⟩

/-- The base of the staging buffer (SEC_FW_BUF). -/
def Dev.fwBuf (d : Dev) : Nat := bits (d.reg 0x1010) 47 16 * 65536

/-- Read the header, and the body where the header gives it a length. -/
def readImage (base : Nat) : M (List Byte × List Byte) := do
  let d ← getDev
  let head ← rd (d.ownFa base) 8192
  let len := fld head 16 4
  let body ← if len > 16769024 then pure [] else rd (d.ownFa (base + 8192)) len
  return (head, body)

/-! SEC_FW_CMD (R374, R375). -/

/-- A firmware command fails with a reason. -/
def Dev.fwFail (d : Dev) (reason : Nat) : Dev := { d.setRf 0x101C 8 8 1 with fw := { d.fw with reason := reason } }

/-- Change the firmware state. -/
def Dev.modFw (d : Dev) (g : FwState → FwState) : Dev := { d with fw := g d.fw }

/-- STAGE: the image in the buffer is checked, programmed and checked again. A failed one leaves the target slot invalid. -/
def State.stage (s : State) (slot : Bool) (c : Instr) : State :=
  let d := s.dev
  if d.fw.restarting then { s with dev := d.fwFail 4 }
  else if slot = d.fw.runningB ∨ slot = d.fw.activeB then { s with dev := d.fwFail 2 }
  else
    match d.useBuf d.fwBuf 16777216 (readImage d.fwBuf) with
    | (.wait, d) => { s with dev := d.keep c }
    | (.failed, d) => { s with dev := (d.modFw (fun w => w.setSlot slot .blank)).fwFail 1 }
    | (.done (head, body), d) =>
      match imageOf s.fuses head body with
      | none => { s with dev := (d.modFw (fun w => w.setSlot slot .blank)).fwFail 1 }
      | some x => { s with dev := d.modFw (fun w => w.setSlot slot x) }

/-- Steps 1 to 3 of R378: VDD_CORE rises by 20 mV and the management core restarts toward a slot. The rest follows as time
passes. -/
def Dev.beginRestart (d : Dev) (slot : Bool) : Dev :=
  (d.modFw (fun w => { w with restarting := true, target := slot })).modLoop (fun v => v.raise 20 d.floor)

/-- Whether a calibration command is in progress (CAL_STS.BUSY). -/
def Dev.calBusy (d : Dev) : Bool := d.held.any (fun c => match c with | .calExport _ => true | .calWrite _ => true | _ => false)

/-- Whether a firmware command is in progress (SEC_FW_STS.BUSY). -/
def Dev.fwBusy (d : Dev) : Bool := d.fw.restarting || d.held.any (fun c => match c with | .stageImage _ _ => true | _ => false)

/-- ACTIVATE. -/
def State.activateSlot (s : State) (slot : Bool) : State :=
  let d := s.dev
  if d.fwBusy || d.calBusy || d.power.st != .run then { s with dev := d.fwFail 4 }
  else if ! (d.fw.slot slot).runs s.fuses then { s with dev := d.fwFail 2 }
  else { s with dev := d.beginRestart slot }

/-- Whether a commit of SVN fuses is pending for the running image. -/
def State.svnPending (s : State) : Bool := s.dev.fw.running.svnCommit && decide (s.fuses < min 64 s.dev.fw.running.svn)

/-- CONFIRM: the running slot becomes ACTIVE, and SVN_COMMIT burns fuses up to the image's SVN. -/
def State.confirmSlot (s : State) : State :=
  let d := s.dev
  if d.fw.restarting then { s with dev := d.fwFail 4 }
  else if d.fw.runningB = d.fw.activeB ∧ ¬ s.svnPending then { s with dev := d.fwFail 5 }
  else
    let x := d.fw.running
    { s with
      dev := d.modFw (fun w => { w with activeB := w.runningB })
      fuses := if x.svnCommit then max s.fuses (min 64 x.svn) else s.fuses }

/-- REVERT. -/
def State.revertSlot (s : State) : State :=
  let d := s.dev
  if d.fwBusy then { s with dev := d.fwFail 4 }
  else if d.fw.runningB = d.fw.activeB then { s with dev := d.fwFail 2 }
  else { s with dev := d.beginRestart d.fw.activeB }

/-- A write of SEC_FW_CMD with GO. -/
def State.fwGo (s : State) (op : Nat) (slot : Bool) (c : Instr) : State :=
  let s := { s with dev := (s.dev.setRf 0x1018 2 0 op).setRf 0x1018 3 3 (b2n slot) }
  match op with
  | 1 => s.stage slot c
  | 2 => s.activateSlot slot
  | 3 => s.confirmSlot
  | 4 => s.revertSlot
  | _ => s

/-- STAGE (R375). -/
def execStageImage (path : Path) (slot : Bool) (s : State) : Host.Outcome State Fault Refusal :=
  .next (s.onPath path none false false 0x1018 (.stageImage path slot) (fun s => s.fwGo 1 slot (.stageImage path slot)))

/-- ACTIVATE (R378). -/
def execActivate (path : Path) (slot : Bool) (s : State) : Host.Outcome State Fault Refusal :=
  .next (s.onPath path none false false 0x1018 (.activate path slot) (fun s => s.fwGo 2 slot (.activate path slot)))

/-- CONFIRM (R374). -/
def execConfirm (path : Path) (s : State) : Host.Outcome State Fault Refusal :=
  .next (s.onPath path none false false 0x1018 (.confirm path) (fun s => s.fwGo 3 (bit (s.dev.reg 0x1018) 3) (.confirm path)))

/-- REVERT (R375). -/
def execRevert (path : Path) (s : State) : Host.Outcome State Fault Refusal :=
  .next (s.onPath path none false false 0x1018 (.revert path) (fun s => s.fwGo 4 (bit (s.dev.reg 0x1018) 3) (.revert path)))

/-- Steps 4 and 5 of R378: an image that fails the check leaves the running slot in place with reason 1. Microcode of the same UCOMPAT
and another digest is rolled out; of another UCOMPAT it is held back for the next device reset. -/
def State.endRestart (s : State) : State :=
  let d := s.dev
  let w := d.fw
  if ! w.restarting then s
  else
    let x := w.slot w.target
    if ! x.runs s.fuses then { s with dev := (d.modFw (fun w => { w with restarting := false })).fwFail 1 }
    else
      let same := x.ucompat == w.running.ucompat
      let bays := (List.range d.bays).filter (fun b => smGet b 0 w.microcode != x.microcode)
      { s with dev := d.modFw (fun w => { w with
          restarting := false, runningB := w.target, heldMicrocode := ! same, rollout := if same then bays else [] }) }

/-- MICROCODE_ROLLOUT (R379): one drained bay takes the running image's microcode. -/
def execMicrocodeRollout (bay : Nat) (s : State) : Host.Outcome State Fault Refusal :=
  s.onDev (fun d =>
    if ! d.fw.rollout.contains bay || d.fw.restarting then d
    else d.modFw (fun w => { w with rollout := w.rollout.filter (· != bay), microcode := smPut 0 bay w.running.microcode w.microcode }))

/-! Keys (R369). -/

/-- 32 bytes of a digest held as a number. -/
def digestBytes (n : Nat) : List Byte := leBytes 32 n

/-- ASCII bytes of a string. -/
def asciiBytes (s : String) : List Byte := s.toList.map (fun c => BitVec.ofNat 8 c.toNat)

/-- CDI0 and CDI1, and the seeds of DeviceID and Alias. -/
def cdi0 : List Byte := sha3 (digestBytes Config.uds ++ digestBytes Config.bootRomDigest)
def cdi1 (x : FwSlot) : List Byte := sha3 (cdi0 ++ digestBytes x.bodyHash ++ leBytes 4 x.svn)
def deviceSeed : Nat := leNat (sha3 (cdi0 ++ asciiBytes "ID"))
def aliasSeed (x : FwSlot) : Nat := leNat (sha3 (cdi1 x ++ asciiBytes "ALIAS"))

/-! The SPDM responder (R370, R371). -/

/-- ERROR with a code of SPDM and its data. -/
def Dev.spdmError (d : Dev) (transport code : Nat) (data : List Byte) : Dev :=
  d.send (.spdm transport 0x7F (leBytes 1 code ++ data))

/-- An SPDM request on a transport: on a DOE mailbox it is CXL.io traffic, which wakes the part from STOP and waits for it; while the
management core restarts it is answered with ResponseNotReady and a retry time of 200 ms. -/
def State.spdm (s : State) (transport : Nat) (c : Instr) (f : State → Dev) : Host.Outcome State Fault Refusal :=
  let d := s.dev
  .next (if transport > 16 || ! d.power.pwrgd || (transport < 16 && ! d.power.linkUp) then s
    else if transport < 16 && d.power.st != .run then { s with dev := d.hostArrives.keep c }
    else if d.fw.restarting then { s with dev := d.spdmError transport 0x42 (leBytes 4 200) }
    else { s with dev := f s })

/-- The Alias signature over what a response carries with the requester's nonce. -/
def Dev.aliasSign (d : Dev) (msg : List Byte) : List Byte := Config.mldsaSign (aliasSeed d.fw.running) msg

/-- The certificate chain of slot 0 or 1. -/
def Dev.chain (d : Dev) (slot : Nat) : List Byte := Config.certChain slot (if slot = 0 then deviceSeed else aliasSeed d.fw.running)

/-- CHALLENGE (R370). -/
def execChallenge (transport slot : Nat) (nonce : List Byte) (s : State) : Host.Outcome State Fault Refusal :=
  s.spdm transport (.challenge transport slot nonce) (fun s =>
    let d := s.dev
    if slot > 1 then d.spdmError transport 0x01 []
    else
      let body := sha3 (d.chain slot) ++ nonce
      d.send (.spdm transport 0x03 (body ++ d.aliasSign body)))

/-- The content of a measurement block (R371). -/
def State.measurement (s : State) (index : Nat) : List Byte :=
  let d := s.dev
  let x := d.fw.running
  match index with
  | 1 => leBytes 4 d.idPart ++ leBytes 4 (d.reg 4)
  | 2 => digestBytes Config.bootRomDigest
  | 3 => digestBytes x.bodyHash
  | 4 => leBytes 1 (b2n d.fw.runningB) ++ leBytes 4 x.version ++ leBytes 4 x.svn ++ leBytes 1 s.fuses
  | 5 => (List.range d.bays).flatMap (fun b => digestBytes (smGet b 0 d.fw.microcode))
  | 6 => sha3 (d.calForce.flatMap calBytes)
  | 7 => leBytes 4 s.lock ++ leBytes 4 (d.reg 0x1004) ++ leBytes 8 (d.reg 0x10018) ++ leBytes 8 (d.reg 0x10020) ++ leBytes 4 (d.reg 0x10000)
  | _ => []

/-- A measurement block in the DMTF format: index, specification 1, size, the kind of value, its length and the value. -/
def State.measBlock (s : State) (index : Nat) : List Byte :=
  let v := s.measurement index
  let kind := match index with | 2 => 0 | 3 | 5 => 1 | 1 => 0x82 | 6 => 3 | _ => 0x83
  leBytes 1 index ++ leBytes 1 1 ++ leBytes 2 (v.length + 3) ++ leBytes 1 kind ++ leBytes 2 v.length ++ v

/-- GET_MEASUREMENTS (R371): index 0 asks for the number of blocks, 255 for all of them. -/
def execGetMeasurements (transport index : Nat) (nonce : List Byte) (s : State) : Host.Outcome State Fault Refusal :=
  s.spdm transport (.getMeasurements transport index nonce) (fun s =>
    let d := s.dev
    if index > 7 ∧ index ≠ 255 then d.spdmError transport 0x01 []
    else
      let body := if index = 0 then leBytes 1 7
        else if index = 255 then (List.range 7).flatMap (fun i => s.measBlock (i + 1)) else s.measBlock index
      d.send (.spdm transport 0x60 (body ++ nonce ++ d.aliasSign (body ++ nonce))))

/-- GET_CERTIFICATE (R370). -/
def execGetCertificate (transport slot off len : Nat) (s : State) : Host.Outcome State Fault Refusal :=
  s.spdm transport (.getCertificate transport slot off len) (fun s =>
    let d := s.dev
    if slot > 1 ∨ off > (d.chain slot).length then d.spdmError transport 0x01 []
    else d.send (.spdm transport 0x02 (((d.chain slot).drop off).take len)))

/-- KEY_EXCHANGE (R370): a session with ML-KEM-768, of at most four on each transport. -/
def execKeyExchange (transport id : Nat) (exchange : List Byte) (leaf : Option Nat) (s : State) : Host.Outcome State Fault Refusal :=
  s.spdm transport (.keyExchange transport id exchange leaf) (fun s =>
    let d := s.dev
    let mine := d.fw.sessions.filter (fun x => x.transport == transport)
    if mine.any (fun x => x.id == id) then d.spdmError transport 0x01 []
    else if mine.length ≥ 4 then d.spdmError transport 0x0A []
    else
      let (ct, secret) := Config.mlkemEncaps exchange
      let d := d.modFw (fun w => { w with sessions := w.sessions ++ [⟨transport, id, leaf.isSome, leaf.getD 0, secret⟩] })
      d.send (.spdm transport 0x64 (ct ++ d.aliasSign (exchange ++ ct))))

end Sys2Proof.Machine
end

