-- ==== Sys2Proof/Machine/Counters.lean ====
section
/-! DEFINITION. Counters, the event recorder's commands, accounting windows and usage meters, and the measured power and
temperatures (R31, R384, R390 to R397, R412, R413, R425). -/

namespace Sys2Proof.Machine

open Sys2Proof

/-! Counter sets (R384). -/

/-- The counter set that a path reaches: a host function its own, a management path the one PMC_SEL names (R382). -/
def Dev.pmcSet (d : Dev) (p : Path) : Nat :=
  match p with
  | .fn f => f
  | p => bits (d.sel p 0x20000) 10 0

/-- The host function in whose own space a register of its set lies. -/
def ownFn (p : Path) : Option Nat :=
  match p with
  | .fn f => if isHostFn f then some f else none
  | _ => none

/-- The effect of a write of PMC_EVT_n: the event is selected and its counter cleared. -/
def Dev.writeEvt (d : Dev) (set i v : Nat) : Dev :=
  (d.setRf (pmcKey set (0x10 + 4 * i)) 7 0 v).setReg (pmcKey set (0x40 + 8 * i)) 0

/-- PMC_EVT_WRITE (R384). -/
def execPmcEvtWrite (path : Path) (i event : Nat) (s : State) : Host.Outcome State Fault Refusal :=
  .next (s.onPathDev path (ownFn path) false false (0x20010 + 4 * i) (.pmcEvtWrite path i event) (fun d =>
    if i < 8 then d.writeEvt (d.pmcSet path) i event else d))

/-! The event recorder (R388 to R392). -/

/-- The bytes of a record. -/
def Event.bytes (e : Event) : List Byte :=
  let n := e.len
  let b := bodyBytes e.body
  let x := leBytes 2 n ++ leBytes 2 e.kind.code ++ leBytes 4 e.sec ++ leBytes 4 e.pcc ++ b ++ List.replicate (n - 16 - b.length) 0
  x ++ leBytes 4 (crc32c x)

/-- `n` bytes of the log area from an offset: the records end to end, then erased NOR. -/
def Dev.logBytes (d : Dev) (off n : Nat) : List Byte :=
  let bs := ((d.recorder.log.flatMap Event.bytes).drop off).take n
  bs ++ List.replicate (n - bs.length) 0xFF

/-- RECORDER_FLUSH (R390): the records in the buffer are programmed. While the management core restarts they stay in its retention
buffer (R378). -/
def execRecorderFlush (s : State) : Host.Outcome State Fault Refusal :=
  s.onDev (fun d => if d.fw.restarting then d else d.flushEvents)

/-- REC_STS.ERR. -/
def Dev.recErr (d : Dev) : Dev := d.setRf 0x5018 2 2 1

/-- REC_BUF.BASE as an offset. -/
def Dev.recBuf (d : Dev) : Nat := bits (d.reg 0x5010) 47 16 * 65536

/-- The effect of REC_CMD with OP EXPORT (R391). -/
def Dev.recExportTo (d : Dev) (c : Instr) : Dev :=
  let off := d.rf 0x5008 31 0
  let n := d.rf 0x5008 63 32
  if n > 8388608 ∨ off % 4 ≠ 0 ∨ off + n > 67108864 then d.recErr
  else match d.useBuf d.recBuf n (wr (d.ownFa d.recBuf) (d.logBytes off n)) with
    | (.done _, d) => d
    | (.failed, d) => d.recErr
    | (.wait, d) => d.keep c

/-- REC_EXPORT (R391). -/
def execRecExport (path : Path) (s : State) : Host.Outcome State Fault Refusal :=
  .next (s.onPathDev path none false false 0x5004 (.recExport path) (fun d => (d.setRf 0x5004 1 0 1).recExportTo (.recExport path)))

/-- The ASCII digits of a digest in hex, byte 0 first. -/
def hexBytes (bs : List Byte) : List Byte :=
  let digit (n : Nat) : Byte := BitVec.ofNat 8 (if n < 10 then 48 + n else 87 + n)
  bs.flatMap (fun b => [digit (b.toNat / 16), digit (b.toNat % 16)])

/-- The digest of the requester's leaf certificate, where a path comes in a session that authenticated it. -/
def Dev.requester (d : Dev) (p : Path) : Option Nat :=
  match p with
  | .mctp (some i) => (d.fw.sessions.find? (fun x => x.transport == 16 && x.id == i && x.mutualAuth)).map (·.leaf)
  | _ => none

/-- The effect of REC_CMD with OP CLEAR (R392). -/
def Dev.recClearBy (d : Dev) (p : Path) : Dev :=
  match d.requester p with
  | none => d.recErr.event .clearDenied []
  | some leaf =>
    let e : Event := ⟨.cleared, d.sec, d.pcc, [.text (hexBytes (digestBytes leaf)), .count d.recorder.log.length]⟩
    { d with recorder := { d.recorder with log := [e], full := false, lost := 0 } }

/-- REC_CLEAR (R392). -/
def execRecClear (path : Path) (s : State) : Host.Outcome State Fault Refusal :=
  .next (s.onPathDev path none false false 0x5004 (.recClear path) (fun d => (d.setRf 0x5004 1 0 2).recClearBy path))

/-! Usage meters and accounting windows (R393 to R396). -/

/-- The composition's meters that a frame raises at a tick (R395): T0_FT in T0, T1_FT in T1 for a frame that is not ZERO. -/
def Dev.meterFrame (d : Dev) (e : TEntry) : Dev :=
  if e.tier = 0 ∧ ¬ e.psn then d.meter (pComp (d.precOf e)) 0 1
  else if e.tier = 1 ∧ ¬ e.zero then d.meter (pComp (d.precOf e)) 1 1
  else d

/-- OPERATING_TICK (R365, R395): the operating-seconds counter counts, and at a whole second the one-second windows begin anew. -/
def execOperatingTick (s : State) : Host.Outcome State Fault Refusal :=
  s.onDev (fun d =>
    let d := if d.mapOn then d.tmap.foldl (fun (d : Dev) p => if d.rooted p.1 then d.meterFrame p.2 else d) d else d
    let d := { d with opTicks := (d.opTicks + 1) % 2 ^ 48 }
    if d.opTicks % 32768 = 0 then { d with recorder := { d.recorder with secondly := [] } } else d)

/-- The records of the meter ring. -/
def Dev.ringLog (d : Dev) : Nat := max 1 (min 12 (d.rf 0x5020 3 0))

/-- The bytes of a window record (R396). -/
def Dev.windowRecord (d : Dev) : List Byte :=
  let m := d.meters
  let diff (k : Nat) : Nat := (smGet k 0 m.total + 2 ^ 64 - smGet k 0 m.atWindow) % 2 ^ 64
  leBytes 8 m.window ++ leBytes 4 m.startSec ++ leBytes 4 m.startPcc ++ leBytes 4 (m.slot % 2 ^ d.ringLog) ++ List.replicate 44 0
  ++ (List.range 4096).flatMap (fun k => leBytes 8 (diff k))

/-- Write the oldest window record that is due: it is visible whole before LAST advances. One whose place is not in frames pinned in
T0 is not written. -/
def Dev.writeWindow (d : Dev) : Dev :=
  match d.meters.due with
  | [] => d
  | (w, bs) :: rest =>
    let base := bits (d.reg 0x5020) 47 16 * 65536
    let gone (d : Dev) : Dev := { d with meters := { d.meters with due := rest } }
    if d.power.st ≠ .run then d
    else if base = 0 then gone d
    else match d.useBuf (base + 32832 * fld bs 16 4) 32832 (wr (d.ownFa (base + 32832 * fld bs 16 4)) bs) with
      | (.done _, d) => (gone d).setReg 0x5028 w
      | (.failed, d) => gone d
      | (.wait, d) => d

/-- The end of an accounting window (R393, R396): its record is written, the per-window limits begin anew, and the row-cache counters
are halved. A new REC_WIN takes effect now. -/
def Dev.endWindow (d : Dev) : Dev :=
  let m := d.meters
  let d := if bits (d.reg 0x5020) 47 16 = 0 then d
    else { d with meters := { m with
      due := m.due ++ [(m.window, d.windowRecord)], slot := (m.slot + 1) % 2 ^ d.ringLog } }
  let len := max 1 (min 3600 (d.rf 0x5000 11 0))
  let next := if len = m.length then m.window + 1 else d.opTicks / (32768 * len)
  let d := { d with meters := { d.meters with
    atWindow := d.meters.total, window := next, length := len, startSec := d.sec, startPcc := d.pcc } }
  d.endWindowEvents.rowDecay.writeWindow

/-- ACCOUNTING_WINDOW_END (R396). -/
def execAccountingWindowEnd (s : State) : Host.Outcome State Fault Refusal := s.onDev (fun d => d.endWindow)

/-! Measured power and temperature (R31, R411 to R413). -/

/-- The alert level of a class of sensor: die, stacks, optics. -/
def alertLevel (cls : Nat) : Nat := match cls with | 0 => 110 | 1 => 95 | _ => 85

/-- TALERT_N follows the alert bits, and an alert records one event per 1-second window. -/
def Dev.showAlert (d : Dev) : Dev :=
  let on := d.rf 0x2024 2 0 != 0
  let d := { d with pins := { d.pins with talert := on } }
  if on then d.eventSecond .thermalAlert 0 [.unit (d.rf 0x2024 2 0)] else d

/-- PKG_POWER_UPDATE (R31, R413, R425). -/
def execPkgPowerUpdate (mw die hbm opt : Nat) (s : State) : Host.Outcome State Fault Refusal :=
  s.onDev (fun d =>
    let alerts := b2n (decide (die ≥ 110)) + 2 * b2n (decide (hbm ≥ 95)) + 4 * b2n (decide (opt ≥ 85))
    let d := d.setReg 0x2028 (min mw (2 ^ 32 - 1))
    (d.setReg 0x2024 (min opt 255 * 2 ^ 24 + min hbm 255 * 2 ^ 16 + min die 255 * 2 ^ 8 + alerts)).showAlert)

/-- THERMAL_ALERT (R412): a sensor of a class is at or above its alert level. -/
def execThermalAlert (cls temp : Nat) (s : State) : Host.Outcome State Fault Refusal :=
  s.onDev (fun d =>
    if cls > 2 ∨ temp < alertLevel cls then d
    else (d.setRf 0x2024 cls cls 1).showAlert)

end Sys2Proof.Machine
end

