-- ==== Sys2Proof/Machine/RegRead.lean ====
section
/-! DEFINITION. The value of every register as it is read (R415 to R428): the stored fields of Machine/Regs.lean with the
fields that rules compute from other state, the values captured for STOP, and reads of either half. -/

namespace Sys2Proof.Machine

open Sys2Proof

/-! Selectors (R417). -/

/-- The selector registers, every register whose name ends in _SEL. -/
def selRegs : List Nat := [0x3010, 0x3020, 0x5030, 0x700C, 0x7024, 0xD02C, 0xD038, 0xD048, 0x20000]

/-! ID_, SEC_ and PWR_ (R423, R381, R368, R355, R413). -/

/-- ID_CAP. -/
def Dev.idCap (d : Dev) : Nat := d.bays * 2 ^ 8 + d.stacks * 2 ^ 4

/-- SEC_BOOT: PENDING says that a CONFIRM would change ACTIVE or burn fuses. -/
def State.secBoot (s : State) : Nat :=
  let w := s.dev.fw
  b2n w.activeB + 2 * b2n w.runningB + 4 * b2n (w.runningB != w.activeB || s.svnPending) + 2 ^ 8 * s.fuses

/-- SEC_STS. -/
def Dev.secSts (d : Dev) : Nat := d.fw.naUth + 2 ^ 16 * b2n d.fw.restarting

/-- SEC_FW_STS. -/
def Dev.fwSts (d : Dev) : Nat := d.reg 0x101C + 2 ^ 4 * (d.fw.reason % 16) + b2n d.fwBusy

/-- The code of PWR_STATUS.STATE. -/
def pwrCode : PwrState → Nat
  | .run => 0
  | .entering => 1
  | .stop => 2
  | .waking => 3

/-- PWR_CTRL: STOP reads 1 while ENTERING or in STOP. -/
def Dev.pwrCtrl (d : Dev) : Nat := d.reg 0x2000 + b2n (d.power.st == .entering || d.power.st == .stop)

/-- PWR_VCORE. -/
def Dev.pwrVcore (d : Dev) : Nat := d.reg 0x2020 + d.vloop.set % 1024 + 2 ^ 31 * b2n d.vloop.hold

/-- PWR_TEMP. -/
def Dev.pwrTemp (d : Dev) : Nat := d.reg 0x2024 + 8 * b2n d.pins.tripRecord.isSome

/-! MGT_, CAL_ and REC_ (R355, R368, R397). -/

/-- A set of numbers from `lo` on as 64 bits. -/
def setWord (lo : Nat) (xs : NSet) : Nat := packBits ((List.range 64).map (fun i => xs.contains (lo + i)))

/-- MGT_AON. -/
def Dev.mgtAon (d : Dev) : Nat := d.sec + 2 ^ 32 * (d.pcc % 2 ^ 32)

/-- MGT_ERR_DATA of a location: the score in whole units. -/
def Dev.errData (d : Dev) (loc : Nat) : Nat :=
  let x := d.score loc
  min (x.score / 65536) (2 ^ 32 - 1) + 2 ^ 32 * min x.ue 0xFF + 2 ^ 40 * min x.ce 0xFFFFFF

/-- MGT_FENCED. -/
def Dev.mgtFenced (d : Dev) : Nat := setWord 0 d.fencedPorts % 2 ^ 16 + 2 ^ 16 * (setWord 0 d.fencedScan % 2 ^ 32)

/-- CAL_STS: BAD where a unit runs on a default record. -/
def Dev.calSts (d : Dev) : Nat := d.reg 0x4004 + 2 ^ 29 * b2n (d.calForce.any (·.bad)) + 2 ^ 31 * b2n d.calBusy

/-- REC_STS. -/
def Dev.recSts (d : Dev) : Nat :=
  let r := d.recorder
  d.reg 0x5018 + b2n (d.held.any (fun c => match c with | .recExport _ => true | _ => false)) + 2 * b2n r.full + 2 ^ 8 * r.lost
  + 2 ^ 32 * eventsLen r.log

/-- REC_MTR_DATA: a meter of a composition; in STOP the value that STOP captured. -/
def Dev.meterData (d : Dev) (sel : Nat) : Nat :=
  smGet sel 0 (if d.power.st = .stop ∨ d.power.st = .waking then d.meters.atStop else d.meters.total)

/-! TIER_, DIR_, ENG_ and EMB_ (R86, R108, R183, R231, R267, R424). -/

/-- TIER_STATUS. -/
def Dev.tierStatus (d : Dev) : Nat :=
  d.reg 0x7020 + 4 * b2n d.isFull + 2 * b2n (! d.lostLeaves.isEmpty) + b2n d.mapDegraded

/-- TIER_ROOT_DATA of a root. -/
def Dev.rootData (d : Dev) (root : Nat) : Nat :=
  d.reg 0x7028 + 2 ^ 63 * b2n (d.rootBusy.contains root)
  + (match smGet? root d.roots with
    | some leaf => 1 + 2 * leaf
    | none => 0)

/-- DIR_UNRESP. -/
def Dev.dirUnresp (d : Dev) : Nat := setWord 0 d.unresp % 2 ^ 16 + 2 ^ 16 * b2n d.sweep.isSome

/-- ENG_MODE. -/
def Dev.engMode (d : Dev) : Nat := d.reg 0x9000 + 2 ^ 4 * b2n d.threadMode + 2 ^ 31 * b2n d.modeBusy

/-- EMB_MOVE. -/
def Dev.embMove (d : Dev) : Nat := d.reg 0xB020 + min d.rowMoves.length 256

/-! EXT_ and CSK_ (R108, R320, R338). -/

/-- EXT_STATUS. -/
def Dev.extStatus (d : Dev) : Nat :=
  d.reg 0xD018 + b2n (d.extents.any (fun e => e.leased && e.st == .lapsed))
  + 2 * b2n (d.extents.any (fun e => e.st == .doubt || (e.st == .dest && (d.lease e.id).stalled)))

/-- EXT_GRANT_DATA: a word of a grant slot. -/
def Dev.grantData (d : Dev) (sel : Nat) : Nat :=
  match smGet? (sel % 256) d.grants with
  | some g => if bit sel 8 then g.word1 else g.word0
  | none => 0

/-- The cask of a slot whose identity element has been read. -/
def Dev.knownCask (d : Dev) (n : Nat) : Option Cask := if (d.slot n).checked then (d.slot n).cask else none

/-- CSK_STS_n. -/
def Dev.cskSts (d : Dev) (n : Nat) : Nat :=
  let s := d.slot n
  s.code + 2 ^ 3 * b2n s.detect + 2 ^ 4 * b2n s.safe + 2 ^ 5 * b2n (s.busy != 0) + 2 ^ 6 * b2n s.cmdErr + 2 ^ 7 * b2n s.life
  + 2 ^ 8 * s.reason

/-- CSK_USE_n: FREE is in units of 10^6 bytes. -/
def Dev.cskUse (d : Dev) (n : Nat) : Nat :=
  (match d.knownCask n with
  | some c => min (caskRoom c / 1000000) (2 ^ 32 - 1)
  | none => 0) + 2 ^ 32 * (d.caskFrames n).length

/-- CSK_LIFE_n. -/
def Dev.cskLife (d : Dev) (n : Nat) : Nat :=
  match d.knownCask n with
  | some c => min (fcwOf c) (2 ^ 32 - 1) + 2 ^ 32 * (c.spare % 2 ^ 32)
  | none => 0

/-- CSK_SERIAL_n. -/
def Dev.cskSerial (d : Dev) (n : Nat) : Nat := ((d.knownCask n).map (·.serial % 2 ^ 64)).getD 0

/-! FAB_ (R270, R297). -/

/-- The code of a port's state. -/
def portCode : PortState → Nat
  | .absent => 0
  | .disabled => 1
  | .fenced => 2
  | .training => 3
  | .up => 4
  | .doze => 5

/-- FAB_PORT_STS_n. -/
def Dev.portSts (d : Dev) (n : Nat) : Nat :=
  let x := d.port n
  d.reg (0x10200 + 8 * n) + portCode x.st + 2 ^ 7 * b2n x.module + 2 ^ 8 * (x.lambda % 256)

/-- FAB_NBR_n. -/
def Dev.portNbr (d : Dev) (n : Nat) : Nat :=
  match (d.port n).nbr with
  | none => 0
  | some x =>
    x.uid % 2 ^ 38 + 2 ^ 38 * b2n x.noPart + 2 ^ 39 * b2n x.noId + 2 ^ 40 * (if x.noId then 0 else x.node % 4096)
    + 2 ^ 52 * (x.port % 16) + 2 ^ 56 * (if x.noPart then 0 else x.part % 64) + 2 ^ 62 * b2n x.endpoint + 2 ^ 63

/-! PMC_ and QCT_ (R397, R151). -/

/-- A PMC_ register of a set. -/
def Dev.pmcVal (d : Dev) (set o : Nat) : Nat := if o = 8 then d.ticks else d.reg (pmcKey set o)

/-- Whether queue 0 of a function is ACTIVE. -/
def Dev.queueRdy (d : Dev) (fi : Nat) : Bool :=
  match smGet? (d.qBase fi) d.queues with
  | some x => x.fn == fi && x.lq == 0 && x.st == .active
  | none => false

/-- Whether queues of a function are still being deleted after EN was cleared (R151). -/
def Dev.closing (d : Dev) (fi : Nat) : Bool := d.rf (qctKey fi 16) 0 0 == 0 && d.queues.any (fun p => p.2.fn == fi)

/-- A register of a QCT record: RDY and BUSY of QCT_STATUS as they stand. -/
def Dev.qctVal (d : Dev) (fi o : Nat) : Nat :=
  d.reg (qctKey fi o) + (if o = 4 then b2n (d.queueRdy fi) + 2 * b2n (d.closing fi && d.rf (qctKey fi 4) 1 1 == 0) else 0)

/-! The management space (R421). -/

/-- The registers in arrays. -/
def Dev.arrayVal (d : Dev) (off : Nat) : Nat :=
  if 0x3040 ≤ off ∧ off < 0x3060 then setWord (64 * ((off - 0x3040) / 8)) d.retiredCh
  else if 0xE100 ≤ off ∧ off < 0xE200 then
    let n := (off - 0xE100) / 0x40
    match off % 0x40 with
    | 0x04 => d.cskSts n
    | 0x08 => d.cskUse n
    | 0x10 => d.cskLife n
    | 0x18 => d.cskSerial n
    | _ => d.reg off
  else if 0x10200 ≤ off ∧ off < 0x10280 then d.portSts ((off - 0x10200) / 8)
  else if 0x10300 ≤ off ∧ off < 0x10380 then d.portNbr ((off - 0x10300) / 8)
  else if 0x30000 ≤ off ∧ off < 0x40000 then d.qctVal ((off - 0x30000) / 32) (off % 32)
  else d.reg off

/-- A register of the management space that no selector governs, now. -/
def State.plainVal (s : State) (off : Nat) : Nat :=
  let d := s.dev
  match off with
  | 0x0000 => d.idPart
  | 0x0008 => d.idCap
  | 0x1000 => s.lock
  | 0x1008 => s.secBoot
  | 0x100C => d.secSts
  | 0x101C => d.fwSts
  | 0x2000 => d.pwrCtrl
  | 0x2004 => d.reg 0x2004 + pwrCode d.power.st
  | 0x2020 => d.pwrVcore
  | 0x2024 => d.pwrTemp
  | 0x3000 => 2 * b2n d.power.ready
  | 0x3008 => d.mgtAon
  | 0x3038 => d.mgtFenced
  | 0x4004 => d.calSts
  | 0x5018 => d.recSts
  | 0x7018 => d.pool + 2 ^ 32 * d.poolFree
  | 0x7020 => d.tierStatus
  | 0x8008 => d.dirUnresp
  | 0x9000 => d.engMode
  | 0x9004 => d.reg 0x9004 + 2 * b2n d.training
  | 0x9008 => setWord 0 d.fencedBays
  | 0x9010 => setWord 64 d.fencedBays
  | 0xB020 => d.embMove
  | 0xD018 => d.extStatus
  | 0xD028 => min d.revs.length 256
  | 0xE018 => d.impSkip % 2 ^ 32 + 2 ^ 32 * (d.impDone % 2 ^ 32)
  | 0x10004 => d.reg 0x10004 + 4 * b2n d.bringup.isSome
  | 0x10008 => Config.nodeUid % 2 ^ 64
  | 0x10010 => Config.nodeUid / 2 ^ 64 % 2 ^ 64
  | off => d.arrayVal off

/-- A register that a selector of the path governs; none for every other one. -/
def Dev.selVal (d : Dev) (p : Path) (off : Nat) : Option Nat :=
  if selRegs.contains off then some (d.sel p off)
  else if 0x20000 ≤ off ∧ off < 0x20100 then some (d.pmcVal (d.pmcSet p) (off - 0x20000))
  else match off with
    | 0x3018 => some (d.errData (d.sel p 0x3010))
    | 0x3028 => some (d.reg (thrKey (d.sel p 0x3020)))
    | 0x5038 => some (d.meterData (d.sel p 0x5030))
    | 0x7010 =>
      let comp := d.sel p 0x700C
      some (smGet comp 0 d.quota + 2 ^ 32 * d.pinned comp)
    | 0x7028 => some (d.rootData (d.sel p 0x7024))
    | 0xD030 => some (smGet (d.sel p 0xD02C) 0 d.membs)
    | 0xD040 =>
      let sel := d.sel p 0xD038
      some (if sel % 32 < 20 then smGet (20 * (sel / 32) + sel % 32) 0 d.egWords else 0)
    | 0xD050 => some (d.grantData (d.sel p 0xD048))
    | _ => none

/-- The registers that the management core and the always-on island keep current in STOP (R428). -/
def liveRegs : List Nat := [0x1008, 0x100C, 0x2000, 0x2004, 0x2018, 0x2024, 0x2028, 0x3008]

/-- The registers whose fields rules compute, apart from the arrays. -/
def computedRegs : List Nat := [
  0x0000, 0x0008, 0x1000, 0x101C, 0x2020, 0x3000, 0x3038, 0x4004, 0x5018, 0x7018, 0x7020, 0x8008, 0x9000, 0x9004, 0x9008, 0x9010,
  0xB020, 0xD018, 0xD028, 0xE018, 0x10004, 0x10008, 0x10010]

/-- The computed arrays. -/
def computedArrays : List Nat :=
  (List.range 4).flatMap (fun n => [0x3040 + 8 * n, 0xE104 + 0x40 * n, 0xE108 + 0x40 * n, 0xE110 + 0x40 * n, 0xE118 + 0x40 * n])
  ++ (List.range 16).flatMap (fun n => [0x10200 + 8 * n, 0x10300 + 8 * n])

/-- What step 4 of R358 captures: the value of every register, listed where it differs from the stored reset value (R360). -/
def State.captured (s : State) : SMap Nat :=
  let d := s.dev
  let offs := computedRegs ++ computedArrays ++ (smKeys d.regs).filter (fun k => decide (k < 0x40000))
    ++ d.queues.map (fun p => qctKey p.2.fn 4)
  offs.foldl (fun m o => smPut (regReset o) o (s.plainVal o) m) []

/-- A register of the management space as a path reads it (R428). -/
def State.mgmtVal (s : State) (p : Path) (off : Nat) : Nat :=
  let d := s.dev
  match d.selVal p off with
  | some v => v
  | none =>
    if (d.power.st = .stop ∨ d.power.st = .waking) ∧ ¬ liveRegs.contains off then smGet off (regReset off) d.power.snapshot
    else s.plainVal off

/-! Host function space (R418). -/

/-- The key of a register of a host function's space by its offset in BAR0, where one lies there: its value's key, its width. -/
def fnReg (f off : Nat) : Option (Nat × Nat) :=
  match off with
  | 0x0 => some (0, 32)
  | 0x4 => some (4, 32)
  | 0x8 => some (8, 32)
  | 0x100 => some (qctKey f 0, 32)
  | 0x104 => some (qctKey f 4, 32)
  | 0x108 => some (qctKey f 8, 64)
  | 0x110 => some (qctKey f 16, 32)
  | 0x200 => some (intCtlKey f, 32)
  | 0x204 => some (intStsKey f, 32)
  | off =>
    if 0x1008 ≤ off ∧ off < 0x1100 then (regPmc (off - 0x1000)).map (fun r => (pmcKey f (off - 0x1000), r.width))
    else none

/-- The value of such a register. -/
def State.fnVal (s : State) (f key : Nat) : Nat :=
  if key = 0 then s.dev.idPart else if key = 8 then s.dev.idCap
  else if key = qctKey f 4 then s.dev.qctVal f 4
  else if key = pmcKey f 8 then s.dev.ticks
  else s.dev.reg key

/-- A 32-bit word of the MSI-X table. -/
def Dev.msixWord (d : Dev) (f i : Nat) : Nat :=
  let e := smGet (2048 * f + i / 4) msixEmpty d.msix
  match i % 4 with
  | 0 => e.addr % 2 ^ 32
  | 1 => e.addr / 2 ^ 32 % 2 ^ 32
  | 2 => e.data % 2 ^ 32
  | _ => b2n e.masked

/-- A 32-bit word of the MSI-X structures of a function: the table, and the pending bits. -/
def Dev.msixRead (d : Dev) (f off : Nat) : Option Nat :=
  if 0x8000 ≤ off ∧ off < 0x10000 then some (d.msixWord f ((off - 0x8000) / 4))
  else if 0x10000 ≤ off ∧ off < 0x10100 then
    some (setWord (2048 * f + 8 * (off - 0x10000)) d.pba % 2 ^ 32)
  else none

/-! Reads of a register or of one of its halves (R416). -/

/-- The first byte and the width of the register that holds an offset, and its value as a path reads it. -/
def State.regAt (s : State) (p : Path) (off : Nat) : Option (Nat × Nat × Nat) :=
  let at_ (o : Nat) : Option (Nat × Nat × Nat) :=
    match p with
    | .fn f => (fnReg f o).map (fun k => (o, k.2, s.fnVal f k.1))
    | p =>
      if o ≥ 0x40000 then none
      else if 0x20000 < o ∧ o < 0x30000 then (if o < 0x20100 then (regPmc (o - 0x20000)).map (fun r => (o, r.width, s.mgmtVal p o)) else none)
      else (regRow o).map (fun r => (o, r.width, s.mgmtVal p o))
  match at_ off with
  | some r => some r
  | none => if off < 4 then none else match at_ (off - 4) with
    | some (o, 64, v) => some (o, 64, v)
    | _ => none

/-- Whether an access of a size at an offset is one of R416: naturally aligned, 4 or 8 bytes, and 8 bytes only for a 64-bit
register, or where none lies. -/
def accessOk (off width : Nat) (r : Option (Nat × Nat × Nat)) : Bool :=
  (width == 4 || width == 8) && off % width == 0 && (match r with
    | some (o, w, _) => width == 4 || (w == 64 && o == off)
    | none => true)

/-- Read a register: none where the access is refused as BOUNDS or as unsupported. An offset without a register reads zero. -/
def State.readReg (s : State) (p : Path) (off width : Nat) : Option Nat × State :=
  let r := s.regAt p off
  let lt := s.dev.latch p
  let leave (l : Latch) : State := { s with dev := s.dev.setLatch p l }
  match p, (match p with | .fn f => s.dev.msixRead f off | _ => none) with
  | .fn f, some v =>
    if (width = 4 ∨ width = 8) ∧ off % width = 0 then
      (some (if width = 4 then v else v + 2 ^ 32 * (s.dev.msixRead f (off + 4)).getD 0), leave ⟨none, none⟩)
    else (none, leave ⟨none, none⟩)
  | _, _ =>
    if ! accessOk off width r then (none, leave ⟨none, none⟩)
    else match r with
      | none => (some 0, leave ⟨none, none⟩)
      | some (o, w, v) =>
        if width = 8 ∨ w = 32 then (some v, leave ⟨none, none⟩)
        else if o = off then (some (v % 2 ^ 32), leave ⟨none, some (o, v / 2 ^ 32)⟩)
        else match lt.readHigh with
          | some (o', h) => (some (if o' = o then h else v / 2 ^ 32), leave ⟨none, none⟩)
          | none => (some (v / 2 ^ 32), leave ⟨none, none⟩)

end Sys2Proof.Machine
end

