-- ==== Sys2Proof/Machine/Power.lean ====
section
/-! DEFINITION. Power states, resets and boot: the entry of STOP and its refusal, wakes, the reset types, the boot, and what
happens to the rails (R356 to R368, R374, R405, R412, R427). -/

namespace Sys2Proof.Machine

open Sys2Proof

/-! Refusing STOP (R357). -/

/-- Unit 1: work of queues. -/
def Dev.queuesBusy (d : Dev) : Bool := d.queues.any (fun p =>
  let x := p.2
  ! x.running.isEmpty || ! x.staged.isEmpty || x.sqHead != x.sqTail || decide (x.unsignalled > 0) || x.st == .draining || x.st == .error)

/-- Unit 2: work of the turntable. -/
def Dev.turntableBusy (d : Dev) : Bool :=
  ! d.moves.isEmpty || decide (d.poolFree < d.waterLow) || ! d.lostLeaves.isEmpty || d.mapDegraded

/-- Unit 3: work of the signal box. -/
def Dev.signalBoxBusy (d : Dev) : Bool :=
  d.dir.any (fun p => p.2.bi.isSome) || d.sweep.isSome || d.revs.any (·.draining) || d.refused.any (fun r => r.mark.isSome)

/-- Unit 4: work of the translation unit. -/
def Dev.translationBusy (d : Dev) : Bool := d.faults.any (fun f => f.kind != 4 || ! f.written) || ! d.invs.isEmpty

/-- Unit 5: work of the fabric. -/
def Dev.fabricBusy (d : Dev) : Bool :=
  d.flowsOut.any (fun f => ! f.unacked.isEmpty) || d.ports.any (fun p => p.2.st == .training) || d.bringup.isSome

/-- Unit 6: leased extents that are served. -/
def Dev.leaseBusy (d : Dev) : Bool :=
  d.extents.any (fun e => e.leased && (e.st == .active || e.st == .source || e.st == .dest || e.st == .doubt))

/-- Unit 7: work of the casks. -/
def Dev.casksBusy (d : Dev) : Bool := d.slots.any (fun p => p.2.busy != 0 || p.2.loading)

/-- Unit 8: calibration, and channels that retire. -/
def Dev.calibrationBusy (d : Dev) : Bool := d.calBusy || ! d.retiring.isEmpty

/-- Unit 10: a live update, and records not yet in the NOR. -/
def Dev.managementBusy (d : Dev) : Bool := d.fwBusy || ! d.fw.rollout.isEmpty || ! d.recorder.buf.isEmpty

/-- The unit with the lowest code whose condition holds at a request of STOP. -/
def Dev.stopUnit (d : Dev) : Option Nat :=
  if d.queuesBusy then some 1
  else if d.turntableBusy then some 2
  else if d.signalBoxBusy then some 3
  else if d.translationBusy then some 4
  else if d.fabricBusy then some 5
  else if d.leaseBusy then some 6
  else if d.casksBusy then some 7
  else if d.calibrationBusy then some 8
  else if d.managementBusy then some 10
  else none

/-- A request of STOP (R357, R361). -/
def Dev.requestStop (d : Dev) : Dev :=
  match d.power.st with
  | .run => match d.stopUnit with
    | some u => d.accountStop 0 u
    | none => { d with power := { d.power with st := .entering, step := 1, linkL1 := false, dozed := [], snapshot := [] } }
  | .waking => d.accountStop 0 10
  | _ => d

/-- STOP_REQUEST (R357, R358). -/
def execStopRequest (path : Path) (s : State) : Host.Outcome State Fault Refusal :=
  .next (s.onPathDev path none true true 0x2000 (.stopRequest path) (fun d => d.requestStop))

/-- STOP_L1_TIMEOUT (R357, R358 step 6): the steps taken are undone, and the request is refused. -/
def execStopL1Timeout (s : State) : Host.Outcome State Fault Refusal :=
  s.onDev (fun d =>
    if d.power.st = .entering ∧ d.power.step = 6 ∧ ¬ d.power.linkL1 then d.undoEntry.accountStop 0 9 else d)

/-- STOP_ABORT (R361): an event that FABRIC, CASKS, HOST_PORT or MANAGEMENT has seen. -/
def execStopAbort (unit : Nat) (s : State) : Host.Outcome State Fault Refusal :=
  s.onDev (fun d => if unit = 5 ∨ unit = 7 ∨ unit = 9 ∨ unit = 10 then d.abortEntry unit else d)

/-! The steps of the entry (R358 to R360). -/

/-- Step 2: the NOR copies of the island's counters, and the casks' journals and counters. -/
def Dev.saveCounters (d : Dev) : Dev :=
  let d := { d with power := { d.power with norTicks := d.opTicks, norPcc := d.pcc } }
  [0, 1, 2, 3].foldl (fun d n =>
    let s := d.slot n
    if s.rail && (s.code == 2 || s.code == 3) then d.modCask n writeCounters else d) d

/-- Step 3: every cache is dropped. -/
def Dev.dropCaches (d : Dev) : Dev := { d with dirCache := [], tlb := [], tptr := [], tlbSec := [], rowCache := [] }

/-- The step of an entry of STOP that follows. -/
def State.entryStep (s : State) : State :=
  let d := s.dev
  let at_ (d : Dev) (n : Nat) : Dev := { d with power := { d.power with step := n } }
  match d.power.step with
  | 1 => { s with dev := at_ d.saveCounters 2 }
  | 2 => { s with dev := at_ d.dropCaches 3 }
  | 3 => { s with dev := at_ { d with
      power := { d.power with snapshot := s.captured }, meters := { d.meters with atStop := d.meters.total } } 4 }
  | 4 => { s with dev := at_ ((List.range 16).foldl (fun d p => d.dozePort p) d) 5 }
  | 5 => { s with dev := at_ d 6 }
  | 6 => { s with dev := at_ { d with power := { d.power with linkL1 := true } } 7 }
  | _ => { s with dev := { d with
      power := { d.power with st := .stop, step := 8 }, flowsOut := [], flowsIn := [] } }

/-! Resets (R365, R427). -/

/-- What a slot is after a reset: its cask stays in it, without power. -/
def SlotSt.afterReset (s : SlotSt) : SlotSt := { SlotSt.empty with cask := if s.detect then s.cask else none, detect := s.detect }

/-- The block with everything at its reset value, apart from the island, the NOR, the casks and the modules in its ports. -/
def Dev.cleared (d : Dev) : Dev := { Dev.reset with
  part := d.part
  activeLds := d.activeLds
  enabledFns := d.enabledFns
  ports := (d.ports.filter (fun p => p.2.module)).map (fun p => (p.1, { PortSt.empty with module := true }))
  slots := (d.slots.filter (fun p => p.2.detect)).map (fun p => (p.1, p.2.afterReset))
  deny := d.deny
  scores := d.scores
  fencedBays := d.fencedBays
  fencedScan := d.fencedScan
  fencedPorts := d.fencedPorts
  retiredCh := d.retiredCh
  retiring := d.retiring
  retiredDies := d.retiredDies
  calNor := d.calNor
  power := { Dev.reset.power with pwrgd := d.power.pwrgd, clock := d.power.clock, norTicks := d.power.norTicks, norPcc := d.power.norPcc }
  pins := { Dev.reset.pins with thermtrip := d.pins.thermtrip, corePower := d.pins.corePower, tripRecord := d.pins.tripRecord }
  fw := { Dev.reset.fw with
    slotA := d.fw.slotA, slotB := d.fw.slotB, activeB := d.fw.activeB, runningB := d.fw.activeB, microcode := d.fw.microcode }
  ticks := d.ticks
  opTicks := d.opTicks
  pcc := d.pcc
  recorder := { d.recorder with buf := [], windowed := [], secondly := [] }
  meters := { d.meters with due := [], atStop := [] }
  free := d.free
  out := d.out }

/-- A device reset: it clears the locks. The boot follows as time passes. -/
def State.deviceReset (s : State) : State := { s with lock := 0, dev := s.dev.cleared }

/-- Start the tick counter and the meters anew, as a cold reset does. -/
def Dev.zeroMeters (d : Dev) : Dev := { d with
  ticks := 0
  meters := { Dev.reset.meters with window := d.opTicks / (32768 * 60), startSec := d.sec, startPcc := d.pcc } }

/-- A cold reset: the island keeps its counters where VDD_AON stayed up, and takes the NOR copies otherwise; it counts the power
cycle, whose count goes to the NOR, and looks for its 32.768 kHz clock. The number of active LDs is the one set (R87). -/
def State.coldReset (s : State) (found : PowerOn) : State :=
  let d := s.dev
  let ops := if found.aonKept then d.opTicks else d.power.norTicks
  let pcc := ((if found.aonKept then d.pcc else d.power.norPcc) + 1) % 2 ^ 32
  let d := { d with opTicks := ops, pcc := pcc }
  let d := { d.cleared with
    activeLds := if 1 ≤ found.lds ∧ found.lds ≤ 16 then List.range found.lds else d.activeLds
    power := { d.cleared.power with pwrgd := true, clock := found.clock, norPcc := pcc }
    pins := { d.cleared.pins with thermtrip := false, corePower := true } }
  { s with lock := 0, dev := d.zeroMeters }

/-- COLD_RESET (R365, R366): PWRGD rises, and finds VDD_AON, the 32.768 kHz clock (R407) and the number of active LDs that the fabric manager
has set (R87). That number takes effect with the reset, and LDs 0 to the number less 1 are active (DESIGN CHOICE, log entry 191). -/
def execColdReset (found : PowerOn) (s : State) : Host.Outcome State Fault Refusal := .next (s.coldReset found)

/-- DEVICE_RESET (R365). -/
def execDeviceReset (_cause : Nat) (s : State) : Host.Outcome State Fault Refusal :=
  .next (if s.dev.power.pwrgd then s.deviceReset else s)

/-- WATCHDOG_EXPIRY (R365). -/
def execWatchdogExpiry (s : State) : Host.Outcome State Fault Refusal := .next (if s.dev.power.pwrgd then s.deviceReset else s)

/-! The boot (R366, R374, R412). -/

/-- The slot that the boot ROM runs: ACTIVE where it is valid, else the other one; none where neither is. -/
def State.bootSlot (s : State) : Option Bool :=
  let w := s.dev.fw
  if (w.slot w.activeB).runs s.fuses then some w.activeB
  else if (w.slot (! w.activeB)).runs s.fuses then some (! w.activeB)
  else none

/-- Steps 3 to 9 of the boot of a block whose image has been chosen. -/
def Dev.bootWith (d : Dev) (slot : Bool) : Dev :=
  let d := if slot = d.fw.activeB then d else d.setRf 0x200C 1 0 3
  let code := (d.fw.slot slot).microcode
  let d := d.modFw (fun w => { w with
    runningB := slot, microcode := (List.range d.bays).foldl (fun m b => smPut 0 b code m) w.microcode })
  let d := { d.modLoop (fun v => { v with set := 800, running := true }) with power := { d.power with ready := true } }
  let d := match d.pins.tripRecord with
    | some (.thermal sensor temp) =>
      { d with pins := { d.pins with tripRecord := none } }.event .thermalTrip [.unit (sensor % 256), .count temp]
    | some .noClock => { d with pins := { d.pins with tripRecord := none } }.event .thermalTrip []
    | none => d
  let d := if d.calNor.any (·.bad) then d.event .calBad [] else d
  let d := (List.range 16).foldl (fun d p => if (d.port p).module then d.restPort p else d) d
  d.raiseRails

/-- The boot. Without its clock step 1 does not end, and the trip record names the cause (R407); with no slot that can be run the management
core stays in the boot ROM. -/
def State.boot (s : State) : State :=
  let d := s.dev
  if ! d.power.pwrgd || d.power.ready || d.power.stuck || ! d.pins.corePower then s
  else if ! d.power.clock then
    { s with dev := { d with power := { d.power with stuck := true }, pins := { d.pins with tripRecord := some .noClock } } }
  else match s.bootSlot with
    | some b => { s with dev := d.bootWith b }
    | none => { s with dev := { d with power := { d.power with stuck := true } } }

/-- CXL_LINK_UP (R366 step 7). In STOP it is the link's electrical-idle exit (R362). -/
def execCxlLinkUp (s : State) : Host.Outcome State Fault Refusal :=
  s.onDev (fun d =>
    if ! d.power.pwrgd || ! d.power.ready || d.power.linkUp then d
    else
      let d := d.hostArrives
      { d with power := { d.power with linkUp := true } })

/-! Wakes (R362, R363). -/

/-- Step 4 of R363: logic ready. Slots whose cask was removed in STOP are handled as pulled, casks retrain, the doorbell lines of
active queues are read, and what waited goes on. -/
def Dev.logicReady (d : Dev) : Dev :=
  let gone := d.power.removed
  let d := { d with power := { d.power with
    st := .run, step := 0, linkL1 := false, dozed := [], removed := [], snapshot := [], waking := 0, wakeStep := 0 } }
  let d := gone.foldl (fun d n => d.losesCask n { SlotSt.empty with cmdErr := (d.slot n).cmdErr }) d
  let d := [0, 1, 2, 3].foldl (fun d n =>
    if (d.slot n).rail && (d.slot n).serving then d.modSlot n (fun s => { s with retrain := true }) else d) d
  let d := d.raiseRails
  let d := d.queues.foldl (fun d p => if p.2.st = .active then d.raise (.queue p.1) else d) d
  (d.wake (fun w => w == .power)).writeWindow

/-- A wake fails at a step: an event names it, and a device reset follows. -/
def State.wakeFails (s : State) (step : Nat) : State :=
  { s with dev := (s.dev.event .wakeFailed [.unit step]).flushEvents }.deviceReset

/-- The step of a wake that follows. What VDD_AON held does not survive its loss, so the image's CRC fails. -/
def State.wakeStep (s : State) : State :=
  let d := s.dev
  if d.power.wakeStep < 3 then { s with dev := { d with power := { d.power with wakeStep := d.power.wakeStep + 1 } } }
  else if d.power.aonLost then s.wakeFails 4
  else { s with dev := d.logicReady }

/-- WAKE (R361 to R363): a source fires. In an entry of STOP it aborts it. -/
def Dev.wakeSource (d : Dev) (src idx : Nat) : Dev :=
  let open_ : Bool := match src with
    | 1 => true
    | 2 => decide (idx < 16) && d.portWakeEn idx
    | 3 => decide (idx < 16) && d.portWakeEn idx
    | 4 => decide (idx < 4) && d.rf 0x2000 1 1 == 1
    | 5 => true
    | _ => false
  let unit := match src with
    | 1 => 9
    | 2 => 5
    | 3 => 5
    | 4 => 7
    | _ => 10
  if open_ then (d.abortEntry unit).startWake src idx else d

/-- WAKE (R362, R363). -/
def execWakeUp (source index : Nat) (s : State) : Host.Outcome State Fault Refusal := s.onDev (fun d => d.wakeSource source index)

/-- MANAGEMENT_EXIT (R362): PWR_CTRL.STOP written 0. -/
def execManagementExit (path : Path) (s : State) : Host.Outcome State Fault Refusal :=
  .next (s.onPathDev path none true true 0x2000 (.managementExit path) (fun d => d.wakeSource 5 0))

/-- WAKE_STEP_TIMEOUT (R363). -/
def execWakeStepTimeout (step : Nat) (s : State) : Host.Outcome State Fault Refusal :=
  .next (if s.dev.power.st = .waking ∧ 1 ≤ step ∧ step ≤ 4 then s.wakeFails step else s)

/-- The effect of a write of PWR_CTRL (R368). -/
def Dev.writePwrCtrl (d : Dev) (v : Nat) : Dev :=
  let d := d.setRf 0x2000 1 1 (bits v 1 1)
  if bit v 0 then d.requestStop else d.wakeSource 5 0

/-- SEC_LOCK.PWR (R381). -/
def lockPwr : Nat := 9

/-- The effect of a write of PWR_MODE (R364, R368): only SVC = 2 has one, and RECOVERY is left by a reset alone. -/
def Dev.writePwrMode (d : Dev) (v : Nat) : Dev :=
  if bits v 1 0 = 2 ∧ d.svc ≠ 3 then d.setRf 0x200C 1 0 2 else d

/-- PWR_MODE_TEST (R364). -/
def execPwrModeTest (path : Path) (s : State) : Host.Outcome State Fault Refusal :=
  .next (s.onPath path none false false 0x200C (.pwrModeTest path) (fun s =>
    if bit s.lock lockPwr then s else { s with dev := s.dev.writePwrMode 2 }))

/-! Resets of the host port and of an LD (R100, R365, R427). -/

/-- Whether a request is a host's, from one of some LDs. -/
def fromLds (lds : List Nat) (r : MemReq) : Bool := match hostOf r with | some (ld, _) => lds.contains ld | none => false

/-- What some LDs have asked for and have not been answered is dropped. -/
def Dev.dropHost (d : Dev) (lds : List Nat) : Dev := { d with
  waiting := d.waiting.filter (fun w => ! fromLds lds w.req)
  refused := d.refused.filter (fun r => ! fromLds lds r.req)
  promoWait := d.promoWait.filter (fun p => ! fromLds lds p.2)
  found := d.found.filter (fun x => ! fromLds lds x.1)
  dir := d.dir.map (fun (p : Nat × DirEntry) => (p.1, { p.2 with
    bi := p.2.bi.map (fun (b : BiWait) => { b with req := b.req.filter (fun r => ! fromLds lds r) }) }))
  revs := d.revs.map (fun (r : Revocation) => { r with accepted := r.accepted.filter (fun x => ! fromLds lds x) })
  timedOut := d.timedOut.filter (fun x => ! lds.contains x.1) }

/-- Reset some LDs: their DIR_UNRESP bits are set, the queues of their functions are deleted as with ABORT, and their decoders, the
origins of their windows, their functions' registers and their DOE sessions are reset. -/
def Dev.resetLds (d : Dev) (lds : List Nat) : Dev :=
  let mine (f : Nat) : Bool := decide (f < 1024) && lds.contains (f / 64)
  let d := (lds.filter (fun l => d.activeLds.contains l)).foldl (fun (d : Dev) l => d.silence l) (d.dropHost lds)
  let fns := ((d.queues.map (fun p => p.2.fn)).filter mine).eraseDups
  let d := fns.foldl (fun (d : Dev) f => d.deleteAll f) d
  let d := lds.foldl (fun (d : Dev) l => (List.range 8).foldl (fun (d : Dev) n => d.uncommit l n) d) d
  let d := d.resetFns mine
  { d with
    regs := d.regs.filter (fun p => ! (decide (0x6400 ≤ p.1 ∧ p.1 < 0x6800) && lds.contains ((p.1 - 0x6400) / 0x40)))
    fw := { d.fw with sessions := d.fw.sessions.filter (fun x => x.transport ≥ 16 || ! lds.contains x.transport) } }

/-- The LDs whose function space or DOE mailbox a waiting access addresses. -/
def heldLd : Instr → Option Nat
  | .registerWrite (.fn f) _ _ _ => some (f / 64)
  | .pmcEvtWrite (.fn f) _ _ => some (f / 64)
  | .qctCtrlEn (.fn f) _ _ => some (f / 64)
  | .msixVectorUnmask f _ => some (f / 64)
  | .challenge t _ _ => if t < 16 then some t else none
  | .getMeasurements t _ _ => if t < 16 then some t else none
  | .getCertificate t _ _ _ => if t < 16 then some t else none
  | .keyExchange t _ _ _ => if t < 16 then some t else none
  | _ => none

/-- The accesses of some LDs that wait are dropped. -/
def Dev.dropHeld (d : Dev) (lds : List Nat) : Dev :=
  { d with held := d.held.filter (fun c => match heldLd c with | some l => ! lds.contains l | none => true) }

/-- HOST_PORT_RESET (R365). -/
def execHostPortReset (s : State) : Host.Outcome State Fault Refusal :=
  s.onDev (fun d =>
    if ! d.power.pwrgd || ! d.power.ready then d
    else
      let d := (d.resetLds (List.range 16)).dropHeld (List.range 16)
      { d with power := { d.power with linkUp := false } })

/-- LD_RESET (R365). -/
def execLdReset (ld : Nat) (s : State) : Host.Outcome State Fault Refusal :=
  s.onDev (fun d => if ! d.power.pwrgd || ! d.power.ready || ld ≥ 16 then d else (d.resetLds [ld]).dropHeld [ld])

/-! Loss of power (R405, R412). -/

/-- The core is without power: what it held is lost, and only a cold reset brings it back. -/
def Dev.losePower (d : Dev) : Dev := { d.cleared with pins := { d.cleared.pins with corePower := false } }

/-- POWER_LOSS (R405). -/
def execPowerLoss (s : State) : Host.Outcome State Fault Refusal := s.onDev (fun d => if d.power.pwrgd then d.losePower else d)

/-- PWRGD_FALL (R405, R412). -/
def execPwrgdFall (s : State) : Host.Outcome State Fault Refusal :=
  s.onDev (fun d =>
    if ! d.power.pwrgd then d
    else
      let d := d.losePower
      { d with power := { d.power with pwrgd := false }, pins := { d.pins with thermtrip := false } })

/-- VDD_AON_LOSS (R365, R405): the island's counters resume from their copies. Outside RUN what the retention SRAM holds is lost. -/
def execVddAonLoss (s : State) : Host.Outcome State Fault Refusal :=
  s.onDev (fun d => { d with
    opTicks := d.power.norTicks
    pcc := d.power.norPcc
    power := { d.power with aonLost := d.power.aonLost || d.power.st == .stop || d.power.st == .waking
      || (d.power.st == .entering && decide (d.power.step ≥ 4)) } })

/-- THERMAL_TRIP (R412). -/
def execThermalTrip (sensor temp : Nat) (s : State) : Host.Outcome State Fault Refusal :=
  s.onDev (fun d =>
    if ! d.power.pwrgd || d.pins.thermtrip then d
    else { d with pins := { d.pins with thermtrip := true, tripRecord := some (.thermal sensor temp) } }.losePower)

end Sys2Proof.Machine
end

