-- ==== Sys2Proof/Machine/RegWrite.lean ====
section
/-! DEFINITION. Writes of registers: fields under their access codes and locks, the actions of the registers that have one, and
the half-register latches (R16, R415 to R428). -/

namespace Sys2Proof.Machine

open Sys2Proof

/-! Fields (R16, R426). -/

/-- `old` with the bits of a mask taken from `v`. -/
def mix (old m v : Nat) : Nat := (old ^^^ (old &&& m)) ||| (v &&& m)

/-- A register after a write of the bits that `m` names: RW fields take the value, RWL fields unless locked, and RW1C bits clear
where a 1 is written. -/
def writeFields (r : RegRow) (locked : Bool) (old m v : Nat) : Nat :=
  let x := mix old ((r.rw ||| (if locked then 0 else r.rwl)) &&& m) v
  x ^^^ (x &&& (v &&& m &&& r.w1c))

/-- Whether the lock of a register's RWL fields is set (R426): for TRN_WIN_ORIGIN_n the Committed bit of the decoder, for a QCT
record QCT_CTRL.EN of its function. -/
def State.locked (s : State) (key lock : Nat) : Bool :=
  if lock = 32 then (smGet? ((key - 0x6400) / 8) s.dev.hdm).isSome
  else if lock = 33 then s.dev.rf (qctKey ((key - 0x30000) / 32) 16) 0 0 == 1
  else bit s.lock lock

/-- Write the fields of a register that has no action of its own. -/
def State.storeReg (s : State) (key m v : Nat) : State :=
  match regRow key with
  | none => s
  | some r => { s with dev := s.dev.setReg key (writeFields r (s.locked key r.lock) (s.dev.reg key) m v) }

/-- The mask of a whole register, and that of its high half. -/
def wholeMask : Nat := 2 ^ 64 - 1
def highMask : Nat := 2 ^ 64 - 2 ^ 32

/-! Registers with an action. -/

/-- What a run of a unit started by its register measures: open values. -/
def Dev.measured (d : Dev) : Option (List Byte) × Dev :=
  let (ok, d) := d.takeFree
  let (n, d) := d.takeFree
  let (x, d) := d.takeFree
  (if ok % 2 = 0 then none else some (leBytes (n % 65536) x), d)

/-- A write of CAL_CMD (R353 to R355). -/
def Dev.writeCalCmd (d : Dev) (p : Path) (v : Nat) : Dev :=
  let d := (d.setRf 0x4000 30 28 (bits v 30 28)).setRf 0x4000 11 0 (bits v 11 0)
  if ! bit v 31 then d
  else match bits v 30 28 with
    | 1 =>
      let (r, d) := d.measured
      d.calRun (bits v 11 0) r
    | 2 => d.calExportTo (.calExport p)
    | 3 => d.calWriteFrom (.calWrite p)
    | _ => d.calErr

/-- A write of REC_CMD (R391, R392). -/
def Dev.writeRecCmd (d : Dev) (p : Path) (v : Nat) : Dev :=
  let d := d.setRf 0x5004 1 0 (bits v 1 0)
  if ! bit v 31 then d
  else match bits v 1 0 with
    | 1 => d.recExportTo (.recExport p)
    | 2 => d.recClearBy p
    | _ => d.recErr

/-- A write of SEC_FW_CMD (R375). -/
def State.writeFwCmd (s : State) (p : Path) (v : Nat) : State :=
  let op := bits v 2 0
  let slot := bit v 3
  if bit v 31 then s.fwGo op slot (.stageImage p slot)
  else { s with dev := (s.dev.setRf 0x1018 2 0 op).setRf 0x1018 3 3 (b2n slot) }

/-- A write of a word of a grant (R314, R320). The frames of it in use stay so. -/
def Dev.writeGrant (d : Dev) (sel m v : Nat) : Dev :=
  let slot := sel % 256
  let g := smGet slot ⟨0, 0, []⟩ d.grants
  let g := if bit sel 8 then { g with word1 := mix g.word1 m v } else { g with word0 := mix g.word0 m v }
  { d with grants := smPut ⟨0, 0, []⟩ slot g d.grants }

/-- A write of a register whose base is locked with its EN, and whose EN has an effect: the high half alone leaves EN as it is. -/
def State.writeBase (s : State) (key lock m v : Nat) (f : Dev → Nat → Dev) : State :=
  if bit s.lock lock then s
  else if m % 2 = 0 then s.storeReg key m v
  else { s with dev := f s.dev v }

/-- A write of a register of the arrays of the management space. -/
def State.arrayStore (s : State) (off m v : Nat) : State :=
  let d := s.dev
  if 0xE100 ≤ off ∧ off < 0xE200 then
    let n := (off - 0xE100) / 0x40
    if off % 0x40 = 0 then
      { s with dev := if bit v 31 then d.cskGo n (bits v 2 0) else d.setRf off 2 0 (bits v 2 0) }
    else if off % 0x40 = 4 then
      { s with dev := if bit v 6 then d.modSlot n (fun x => { x with cmdErr := false }) else d }
    else s
  else if 0x10100 ≤ off ∧ off < 0x10140 then { s with dev := d.writePortCfg ((off - 0x10100) / 4) v }
  else if 0x30000 ≤ off ∧ off < 0x40000 then
    let fi := (off - 0x30000) / 32
    match off % 32 with
    | 0 => { s with dev := d.writeRange fi v }
    | 4 => s.storeReg off m v
    | 8 => if isHostFn fi then s else s.storeReg off m v
    | 16 => if isHostFn fi then s else { s with dev := d.writeEn fi (bit v 0) }
    | _ => s
  else s.storeReg off m v

/-- A write of a PMC_ register of a set (R384, R397). -/
def State.pmcStore (s : State) (set o m v : Nat) : State :=
  if 0x10 ≤ o ∧ o < 0x30 then { s with dev := s.dev.writeEvt set ((o - 0x10) / 4) v } else s.storeReg (pmcKey set o) m v

/-- Write the bits that `m` names of the management-space register at `off`; its other bits have the value that `v` gives them. -/
def State.mgmtStore (s : State) (p : Path) (off m v : Nat) : State :=
  let d := s.dev
  if selRegs.contains off then
    { s with dev := d.setSel p off (v &&& ((regRow off).map (·.rw)).getD 0) }
  else if 0x20000 ≤ off ∧ off < 0x20100 then s.pmcStore (d.pmcSet p) (off - 0x20000) m v
  else match off with
    | 0x1000 => s.writeLock v
    | 0x1018 => s.writeFwCmd p v
    | 0x2000 => { s with dev := d.writePwrCtrl v }
    | 0x200C => if bit s.lock lockPwr then s else { s with dev := d.writePwrMode v }
    | 0x3000 => if bit v 0 then s.deviceReset else s
    | 0x3028 => s.storeReg (thrKey (d.sel p 0x3020)) m v
    | 0x3030 => if bit v 31 then { s with dev := d.unfence (bits v 11 0) } else s
    | 0x4000 => { s with dev := d.writeCalCmd p v }
    | 0x5004 => { s with dev := d.writeRecCmd p v }
    | 0x7000 => if bit s.lock lockTier then s else { s with dev := d.writeMapCfg v }
    | 0x7010 => if m % 2 = 0 then s else { s with dev := d.writeQuota (d.sel p 0x700C) v }
    | 0x7028 => { s with dev := d.writeRoot (d.sel p 0x7024) v }
    | 0x9000 => { s with dev := d.writeMode v }
    | 0xA000 => s.writeBase off lockAtn m v Dev.writeAtn
    | 0xB000 => s.writeBase off lockEmb m v Dev.writeHtab
    | 0xD000 => s.writeBase off lockExt m v Dev.writeExtBase
    | 0xD00C => { s with dev := d.writeDefCtrl v }
    | 0xD030 => { s with dev := { d with membs := smPut 0 (d.sel p 0xD02C) (mix (smGet (d.sel p 0xD02C) 0 d.membs) m v) d.membs } }
    | 0xD040 => { s with dev := d.writeEgData p v }
    | 0xD050 => { s with dev := d.writeGrant (d.sel p 0xD048) m v }
    | 0x10004 => { s with dev := d.writeFabCtrl v }
    | off => s.arrayStore off m v

/-! Host function space (R418). -/

/-- Write a register of a host function's space by its key. QCT_RANGE and the identity registers are read-only there. -/
def State.fnStore (s : State) (f key m v : Nat) : State :=
  if key < 0x100 ∨ key = qctKey f 0 then s
  else if key = qctKey f 16 then { s with dev := s.dev.writeEn f (bit v 0) }
  else if pmcKey f 0 ≤ key ∧ key < pmcKey f 0x100 then s.pmcStore f (key - pmcKey f 0) m v
  else s.storeReg key m v

/-- Write one 32-bit word of a function's MSI-X table; a mask that is cleared sends the message held (R145). -/
def Dev.msixStore (d : Dev) (f i v : Nat) : Dev :=
  let k := 2048 * f + i / 4
  let e := smGet k msixEmpty d.msix
  let put (e : MsixEntry) : Dev := { d with msix := smPut msixEmpty k e d.msix }
  match i % 4 with
  | 0 => put { e with addr := mix e.addr (msk 31 2) v }
  | 1 => put { e with addr := mix e.addr highMask (2 ^ 32 * v) }
  | 2 => put { e with data := v % 2 ^ 32 }
  | _ => if bit v 0 then put { e with masked := true } else d.unmask f (i / 4)

/-- An access to a function's MSI-X structures: 4 or 8 aligned bytes. The pending bits are read-only. -/
def State.msixWrite (s : State) (f off width v : Nat) : State :=
  if off ≥ 0x10000 then s
  else
    let i := (off - 0x8000) / 4
    let d := s.dev.msixStore f i (v % 2 ^ 32)
    { s with dev := if width = 8 then d.msixStore f (i + 1) (v / 2 ^ 32 % 2 ^ 32) else d }

/-! Writes (R416). -/

/-- Write the bits that `m` names of the register at offset `o`. -/
def State.storeAt (s : State) (p : Path) (o m v : Nat) : State :=
  match p with
  | .fn f => match fnReg f o with
    | some (key, _) => s.fnStore f key m v
    | none => s
  | p => s.mgmtStore p o m v

/-- Carry out a write that has passed on its path; `lt` holds the path's latches as the access found them. The number is the
refusal of R417, or 4 for an unsupported request; 0 where there is none. -/
def State.writeReg (s : State) (p : Path) (lt : Latch) (off width v : Nat) : Nat × State :=
  let bad : Nat := match p with | .fn _ => 4 | _ => 2
  match p, decide (0x8000 ≤ off ∧ off < 0x10100) with
  | .fn f, true => if (width = 4 ∨ width = 8) ∧ off % width = 0 then (0, s.msixWrite f off width v) else (bad, s)
  | _, _ =>
    let r := s.regAt p off
    if ! accessOk off width r then (bad, s)
    else match r with
      | none => (0, s)
      | some (o, w, cur) =>
        if w = 32 then (0, s.storeAt p o wholeMask (v % 2 ^ 32))
        else if width = 8 then (0, s.storeAt p o wholeMask (v % 2 ^ 64))
        else if o = off then (0, { s with dev := s.dev.setLatch p ⟨some (o, v % 2 ^ 32), none⟩ })
        else match lt.heldLow with
          | some (o', lo) =>
            if o' = o then (0, s.storeAt p o wholeMask (lo + 2 ^ 32 * (v % 2 ^ 32)))
            else (0, s.storeAt p o highMask (cur % 2 ^ 32 + 2 ^ 32 * (v % 2 ^ 32)))
          | none => (0, s.storeAt p o highMask (cur % 2 ^ 32 + 2 ^ 32 * (v % 2 ^ 32)))

/-- Whether a write of a register sets a GO field, or STOP, that a live update's restart holds (R378). -/
def heldGo (off v : Nat) : Bool :=
  off == 0x2000 || ((off == 0x4000 || off == 0xD00C || off == 0x3030 || (decide (0xE100 ≤ off ∧ off < 0xE200) && off % 0x40 == 0)) && bit v 31)

/-- A register write on a path, and its refusal. -/
def State.access (s : State) (p : Path) (off width v : Nat) : Nat × State :=
  let own := match p with | .fn f => if isHostFn f && decide (off < 0x20000) then some f else none | _ => none
  let lt := s.dev.latch p
  match s.dev.pathAns p own (heldGo off v) (off == 0x2000) with
  | .pass => ({ s with dev := s.dev.setLatch p ⟨none, none⟩ } : State).writeReg p lt off width v
  | .refuse r => (r, { s with dev := (s.dev.setLatch p ⟨none, none⟩).nauthCount p })
  | .hold => (0, s.onPath p own (heldGo off v) (off == 0x2000) off (.registerWrite p off width v) id)
  | .drop => (0, s)

/-- REGISTER_WRITE (R416). -/
def execRegisterWrite (path : Path) (off width value : Nat) (s : State) : Host.Outcome State Fault Refusal :=
  let (r, s) := s.access path off width value
  .next (if r = 0 then s else { s with dev := s.dev.send (.regStatus (pathKey path) off r) })

end Sys2Proof.Machine
end

