-- ==== Sys2Proof/Machine/Mgmt.lean ====
section
/-! DEFINITION. MGMT packets: their source route, and READ_NBR, READ_REG, WRITE_REG and ECHO at the last hop (R285, R286,
R417). -/

namespace Sys2Proof.Machine

open Sys2Proof

/-- The route fields of a MGMT body (R285). -/
def mgHops (b : List Byte) : Nat := fld b 16 1 % 32
def mgPtr (b : List Byte) : Nat := fld b 17 1 % 32
def mgRsp (b : List Byte) : Bool := bit (fld b 17 1) 7
def mgOp (b : List Byte) : Nat := fld b 18 1
def mgAddr (b : List Byte) : Nat := fld b 20 4
def mgOut (b : List Byte) (h : Nat) : Nat := fld b 24 8 / 16 ^ h % 16
def mgRet (b : List Byte) (h : Nat) : Nat := fld b 32 8 / 16 ^ h % 16

/-- A body with PTR and RSP set. -/
def mgMove (b : List Byte) (ptr : Nat) (rsp : Bool) : List Byte := splice b 17 (leBytes 1 (ptr + 128 * b2n rsp))

/-- A body with the input port of hop `h` recorded. -/
def mgNote (b : List Byte) (h port : Nat) : List Byte :=
  splice b 32 (leBytes 8 (fld b 32 8 - 16 ^ h * mgRet b h + 16 ^ h * (port % 16)))

/-- A body of 72 bytes with a result and data. -/
def mgAnswer (b : List Byte) (result : Nat) (data : List Byte) : List Byte :=
  splice (splice (slice b 0 72) 19 (leBytes 1 result)) 40 (slice data 0 32)

/-- Take a MGMT packet that has come on a port, with its receive buffer still held: whether it is to be handled, and the state after the
checks of the ingress. -/
def Dev.mgTake (d : Dev) (p : Nat) (m : FabMsg) : Bool × Dev :=
  if m.type ≠ 0x0A then (false, d)
  else if d.inbox.contains (p, m) then (true, { d with inbox := d.inbox.erase (p, m) })
  else if p ≥ 16 || ! d.portUp p then (false, d)
  else match d.admits m with
    | (false, d) => (false, d.freeBuf p m)
    | (true, d) => (true, d)

/-- Whether a packet is for this node to execute: it is no answer, and its route has no further hop. -/
def mgHere (m : FabMsg) (op : Nat) : Bool := ! mgRsp m.body && decide (mgPtr m.body ≥ mgHops m.body) && mgOp m.body == op

/-- Send a packet on by a port. -/
def Dev.mgSend (d : Dev) (out from_ : Nat) (m : FabMsg) (body : List Byte) : Dev :=
  d.enqueue out ⟨from_, m.vc, d.ticks, { m with vc := 4, body := body }⟩

/-- Answer a packet that was executed here: its buffer is free again, and it walks back. -/
def Dev.mgReply (d : Dev) (p : Nat) (m : FabMsg) (result : Nat) (data : List Byte) : Dev :=
  (d.freeBuf p m).mgSend p 16 m (mgMove (mgAnswer m.body result data) (mgPtr m.body) true)

/-- A packet in transit, onward or back, or back at its sender. -/
def Dev.mgForward (d : Dev) (p : Nat) (m : FabMsg) : Dev :=
  let b := m.body
  let ptr := mgPtr b
  if mgRsp b then
    if ptr > 0 then d.mgSend (mgRet b (ptr - 1)) p m (mgMove b (ptr - 1) true) else (d.freeBuf p m).send (.mgmt p m)
  else d.mgSend (mgOut b ptr) p m (mgMove (mgNote b ptr p) (ptr + 1) false)

/-- MGMT_FORWARD (R285). -/
def execMgmtForward (port : Nat) (m : FabMsg) (s : State) : Host.Outcome State Fault Refusal :=
  s.onDev (fun d =>
    if ! mgRsp m.body && decide (mgPtr m.body ≥ mgHops m.body ∨ mgHops m.body > 16) then d
    else match d.mgTake port m with
      | (true, d) => d.mgForward port m
      | (false, d) => d)

/-- MGMT_FORWARD_TMO (R285): a packet that this router has queued for 10 µs is discarded. -/
def execMgmtForwardTmo (port : Nat) (m : FabMsg) (s : State) : Host.Outcome State Fault Refusal :=
  s.onDev (fun d =>
    let x := d.port port
    if port ≥ 16 || m.type ≠ 0x0A then d
    else match x.txq.find? (fun q => q.msg == m) with
      | some q => d.unqueue port q
      | none => d)

/-- READ_NBR (R285): the NEIGH body last received on a port. -/
def execReadNbr (port : Nat) (m : FabMsg) (s : State) : Host.Outcome State Fault Refusal :=
  s.onDev (fun d =>
    if ! mgHere m 0 then d
    else match d.mgTake port m with
      | (false, d) => d
      | (true, d) =>
        let a := mgAddr m.body
        if a ≥ 16 then d.mgReply port m 2 [] else d.mgReply port m 0 (((d.port a).nbr.map nbrBody).getD []))

/-- The width of a MGMT access (R417): that of the register at the offset. -/
def State.mgWidth (s : State) (off : Nat) : Nat :=
  match s.regAt .mgmt off with
  | some (o, 64, _) => if o = off then 8 else 4
  | _ => 4

/-- READ_REG (R285, R417). -/
def execReadReg (port : Nat) (m : FabMsg) (s : State) : Host.Outcome State Fault Refusal :=
  .next (if ! mgHere m 1 then s
    else match s.dev.mgTake port m with
      | (false, d) => { s with dev := d }
      | (true, d) =>
        let s := { s with dev := d }
        let a := mgAddr m.body
        match s.readReg .mgmt a (s.mgWidth a) with
        | (some v, s) => { s with dev := s.dev.mgReply port m 0 (leBytes 8 v) }
        | (none, s) => { s with dev := s.dev.mgReply port m 2 [] })

/-- WRITE_REG (R286, R417): BUSY is answered as DENIED. A reset that the write causes takes the answer with it. -/
def execWriteReg (port : Nat) (m : FabMsg) (s : State) : Host.Outcome State Fault Refusal :=
  .next (if ! mgHere m 2 then s
    else match s.dev.mgTake port m with
      | (false, d) => { s with dev := d }
      | (true, d) =>
        if fld m.body 0 16 ≠ d.fmUid then { s with dev := (d.stat 0x10030 15 0 1).mgReply port m 1 [] }
        else
          let s := { s with dev := d }
          let a := mgAddr m.body
          let n := s.mgWidth a
          let (r, s) := s.access .mgmt a n (fld m.body 40 n)
          if ! s.dev.power.ready then s
          else { s with dev := s.dev.mgReply port m (if r = 3 then 1 else r) (slice m.body 40 32) })

/-- MGMT_ECHO (R285). -/
def execMgmtEcho (port : Nat) (m : FabMsg) (s : State) : Host.Outcome State Fault Refusal :=
  s.onDev (fun d =>
    if ! mgHere m 3 then d
    else match d.mgTake port m with
      | (true, d) => d.mgReply port m 0 (slice m.body 40 32)
      | (false, d) => d)

end Sys2Proof.Machine
end

