-- ==== Sys2Proof/Machine/Dispatch.lean ====
section
/-! DEFINITION. The meaning of every command: one arm per row of the opcode table. -/

namespace Sys2Proof.Machine

open Sys2Proof

/-- The effect of a command on everything but the queue of waiting commands. -/
def exec (i : Instr) (s : State) : Host.Outcome State Fault Refusal :=
  match i with
  | .nop q n => Sys2Proof.Machine.execNop q n s
  | .copy q n => Sys2Proof.Machine.execCopy q n s
  | .fill q n => Sys2Proof.Machine.execFill q n s
  | .timetableRun q n => Sys2Proof.Machine.execTimetableRun q n s
  | .writeAck q n => Sys2Proof.Machine.execWriteAck q n s
  | .fence q n => Sys2Proof.Machine.execFence q n s
  | .placeWriteRecord q n => Sys2Proof.Machine.execPlaceWriteRecord q n s
  | .placeBind q n => Sys2Proof.Machine.execPlaceBind q n s
  | .placeDemote q n => Sys2Proof.Machine.execPlaceDemote q n s
  | .placePromote q n => Sys2Proof.Machine.execPlacePromote q n s
  | .attnPartial q n => Sys2Proof.Machine.execAttnPartial q n s
  | .kvAppend q n => Sys2Proof.Machine.execKvAppend q n s
  | .kvRelease q n => Sys2Proof.Machine.execKvRelease q n s
  | .gatherPool q n => Sys2Proof.Machine.execGatherPool q n s
  | .scatterAdd q n => Sys2Proof.Machine.execScatterAdd q n s
  | .tableSwitch q n => Sys2Proof.Machine.execTableSwitch q n s
  | .tableMove q n => Sys2Proof.Machine.execTableMove q n s
  | .vsearch q n => Sys2Proof.Machine.execVsearch q n s
  | .vinsert q n => Sys2Proof.Machine.execVinsert q n s
  | .vdelete q n => Sys2Proof.Machine.execVdelete q n s
  | .optStep q n => Sys2Proof.Machine.execOptStep q n s
  | .streamRun q n => Sys2Proof.Machine.execStreamRun q n s
  | .ecRebuildData q n => Sys2Proof.Machine.execEcRebuildData q n s
  | .ecRebuildParity q n => Sys2Proof.Machine.execEcRebuildParity q n s
  | .extentXferMove q n => Sys2Proof.Machine.execExtentXferMove q n s
  | .extentXferAbort q n => Sys2Proof.Machine.execExtentXferAbort q n s
  | .extentRevokeHosts q n => Sys2Proof.Machine.execExtentRevokeHosts q n s
  | .extentRevokeComp q n => Sys2Proof.Machine.execExtentRevokeComp q n s
  | .queueCreate q n => Sys2Proof.Machine.execQueueCreate q n s
  | .queueDeleteDrain q n => Sys2Proof.Machine.execQueueDeleteDrain q n s
  | .queueDeleteAbort q n => Sys2Proof.Machine.execQueueDeleteAbort q n s
  | .invalidateRange q n => Sys2Proof.Machine.execInvalidateRange q n s
  | .faultResumeRetry q n => Sys2Proof.Machine.execFaultResumeRetry q n s
  | .faultResumeFail q n => Sys2Proof.Machine.execFaultResumeFail q n s
  | .getInfo q n => Sys2Proof.Machine.execGetInfo q n s
  | .descriptorStart q => Sys2Proof.Machine.execDescriptorStart q s
  | .descriptorComplete q n => Sys2Proof.Machine.execDescriptorComplete q n s
  | .coalNsExpiry q => Sys2Proof.Machine.execCoalNsExpiry q s
  | .watchEvent armer => Sys2Proof.Machine.execWatchEvent armer s
  | .watchSnoop off => Sys2Proof.Machine.execWatchSnoop off s
  | .hostRead ld hpa ask tag => Sys2Proof.Machine.execHostRead ld hpa ask tag s
  | .hostWrite ld hpa data mask poison tag => Sys2Proof.Machine.execHostWrite ld hpa data mask poison tag s
  | .hostWriteBack ld hpa data poison keepS tag => Sys2Proof.Machine.execHostWriteBack ld hpa data poison keepS tag s
  | .cleanEvictionNotice ld hpa => Sys2Proof.Machine.execCleanEvictionNotice ld hpa s
  | .deviceAccess eng off write data mask poison tag => Sys2Proof.Machine.execDeviceAccess eng off write data mask poison tag s
  | .birsp ld hpa keepS wb poison => Sys2Proof.Machine.execBirsp ld hpa keepS wb poison s
  | .biconflict ld hpa => Sys2Proof.Machine.execBiconflict ld hpa s
  | .requestRepresent k => Sys2Proof.Machine.execRequestRepresent k s
  | .starvationTicketGrant line => Sys2Proof.Machine.execStarvationTicketGrant line s
  | .bisnpTimeout ld off => Sys2Proof.Machine.execBisnpTimeout ld off s
  | .sweepEnd => Sys2Proof.Machine.execSweepEnd s
  | .hdmDecoderCommit ld n base size ways biEnable => Sys2Proof.Machine.execHdmDecoderCommit ld n base size ways biEnable s
  | .hdmDecoderUncommit ld n => Sys2Proof.Machine.execHdmDecoderUncommit ld n s
  | .revokeDrainEnd extent => Sys2Proof.Machine.execRevokeDrainEnd extent s
  | .extRevokeTmoExpiry extent => Sys2Proof.Machine.execExtRevokeTmoExpiry extent s
  | .faultSignalExpiry pasid => Sys2Proof.Machine.execFaultSignalExpiry pasid s
  | .faultHeadPoll pasid => Sys2Proof.Machine.execFaultHeadPoll pasid s
  | .faultTmoExpiry id => Sys2Proof.Machine.execFaultTmoExpiry id s
  | .migrationDmaDone pasid page ok data => Sys2Proof.Machine.execMigrationDmaDone pasid page ok data s
  | .invalidationAck q n => Sys2Proof.Machine.execInvalidationAck q n s
  | .demotionStart => Sys2Proof.Machine.execDemotionStart s
  | .demotionCommit frame => Sys2Proof.Machine.execDemotionCommit frame s
  | .promotionSubblockLand frame sub data => Sys2Proof.Machine.execPromotionSubblockLand frame sub data s
  | .promotionComplete frame => Sys2Proof.Machine.execPromotionComplete frame s
  | .openRecordDurable frame => Sys2Proof.Machine.execOpenRecordDurable frame s
  | .relocationCommit frame => Sys2Proof.Machine.execRelocationCommit frame s
  | .ageWindowBoundary => Sys2Proof.Machine.execAgeWindowBoundary s
  | .tierMapCopyLoss stack => Sys2Proof.Machine.execTierMapCopyLoss stack s
  | .tierMapRebuild leaf => Sys2Proof.Machine.execTierMapRebuild leaf s
  | .leafBuildDone root => Sys2Proof.Machine.execLeafBuildDone root s
  | .checkFailure loc q n => Sys2Proof.Machine.execCheckFailure loc q n s
  | .modeSwitch path value => Sys2Proof.Machine.execModeSwitch path value s
  | .modeSwitchDone => Sys2Proof.Machine.execModeSwitchDone s
  | .rowLockRelease row => Sys2Proof.Machine.execRowLockRelease row s
  | .rowMoveStep handle row => Sys2Proof.Machine.execRowMoveStep handle row s
  | .scannerPartEnd q n part => Sys2Proof.Machine.execScannerPartEnd q n part s
  | .vsearchRoundEnd q n => Sys2Proof.Machine.execVsearchRoundEnd q n s
  | .timetableEntryStart q n k => Sys2Proof.Machine.execTimetableEntryStart q n k s
  | .timetableEntryComplete q n k => Sys2Proof.Machine.execTimetableEntryComplete q n k s
  | .semaphorePoll q n k => Sys2Proof.Machine.execSemaphorePoll q n k s
  | .timetableWaitTmo q n k => Sys2Proof.Machine.execTimetableWaitTmo q n k s
  | .moduleInsert port => Sys2Proof.Machine.execModuleInsert port s
  | .moduleRemove port => Sys2Proof.Machine.execModuleRemove port s
  | .portTrainSuccess port lambda nbr credits => Sys2Proof.Machine.execPortTrainSuccess port lambda nbr credits s
  | .portTrainFail port => Sys2Proof.Machine.execPortTrainFail port s
  | .portLinkLoss port => Sys2Proof.Machine.execPortLinkLoss port s
  | .portDoze port => Sys2Proof.Machine.execPortDoze port s
  | .portWake port cause => Sys2Proof.Machine.execPortWake port cause s
  | .portEnWrite path port en => Sys2Proof.Machine.execPortEnWrite path port en s
  | .portFenceWrite path port fence => Sys2Proof.Machine.execPortFenceWrite path port fence s
  | .flitReceive port words => Sys2Proof.Machine.execFlitReceive port words s
  | .rd port m => Sys2Proof.Machine.execRd port m s
  | .wr port m => Sys2Proof.Machine.execWr port m s
  | .wrn port m => Sys2Proof.Machine.execWrn port m s
  | .atom port m => Sys2Proof.Machine.execAtom port m s
  | .bulkRd port m => Sys2Proof.Machine.execBulkRd port m s
  | .subdesc port m => Sys2Proof.Machine.execSubdesc port m s
  | .parityMsg port m => Sys2Proof.Machine.execParityMsg port m s
  | .leaseMsg port m => Sys2Proof.Machine.execLeaseMsg port m s
  | .echo port m => Sys2Proof.Machine.execEcho port m s
  | .neigh port m => Sys2Proof.Machine.execNeigh port m s
  | .neighSend port => Sys2Proof.Machine.execNeighSend port s
  | .rdData port m => Sys2Proof.Machine.execRdData port m s
  | .wrdone port m => Sys2Proof.Machine.execWrdone port m s
  | .wrack port m => Sys2Proof.Machine.execWrack port m s
  | .atomData port m => Sys2Proof.Machine.execAtomData port m s
  | .bulkData port m => Sys2Proof.Machine.execBulkData port m s
  | .partialMsg port m => Sys2Proof.Machine.execPartialMsg port m s
  | .leaseRsp port m => Sys2Proof.Machine.execLeaseRsp port m s
  | .echoRsp port m => Sys2Proof.Machine.execEchoRsp port m s
  | .flownak port m => Sys2Proof.Machine.execFlownak port m s
  | .wrdoneTimer src sidx => Sys2Proof.Machine.execWrdoneTimer src sidx s
  | .e2eResend dst sidx tag => Sys2Proof.Machine.execE2eResend dst sidx tag s
  | .fabReqTmoExpiry dst sidx tag => Sys2Proof.Machine.execFabReqTmoExpiry dst sidx tag s
  | .ageDiscard port m => Sys2Proof.Machine.execAgeDiscard port m s
  | .flowExpiry here node sidx => Sys2Proof.Machine.execFlowExpiry here node sidx s
  | .mgmtForward port m => Sys2Proof.Machine.execMgmtForward port m s
  | .mgmtForwardTmo port m => Sys2Proof.Machine.execMgmtForwardTmo port m s
  | .readNbr port m => Sys2Proof.Machine.execReadNbr port m s
  | .readReg port m => Sys2Proof.Machine.execReadReg port m s
  | .writeReg port m => Sys2Proof.Machine.execWriteReg port m s
  | .mgmtEcho port m => Sys2Proof.Machine.execMgmtEcho port m s
  | .bringup path => Sys2Proof.Machine.execBringup path s
  | .bringupComplete => Sys2Proof.Machine.execBringupComplete s
  | .define path leased comp => Sys2Proof.Machine.execDefine path leased comp s
  | .undefine path => Sys2Proof.Machine.execUndefine path s
  | .reassign path leased comp => Sys2Proof.Machine.execReassign path leased comp s
  | .leaseRenew extent => Sys2Proof.Machine.execLeaseRenew extent s
  | .leaseExpire extent => Sys2Proof.Machine.execLeaseExpire extent s
  | .lapsedAcquire extent => Sys2Proof.Machine.execLapsedAcquire extent s
  | .ledgerLost => Sys2Proof.Machine.execLedgerLost s
  | .doubtStallExpiry extent => Sys2Proof.Machine.execDoubtStallExpiry extent s
  | .egRecordWrite path value => Sys2Proof.Machine.execEgRecordWrite path value s
  | .adoptCask path slot => Sys2Proof.Machine.execAdoptCask path slot s
  | .evacuateCask path slot => Sys2Proof.Machine.execEvacuateCask path slot s
  | .releaseCask path slot => Sys2Proof.Machine.execReleaseCask path slot s
  | .retireCask path slot => Sys2Proof.Machine.execRetireCask path slot s
  | .eraseCask path slot => Sys2Proof.Machine.execEraseCask path slot s
  | .importCask path slot => Sys2Proof.Machine.execImportCask path slot s
  | .forgetCask path slot => Sys2Proof.Machine.execForgetCask path slot s
  | .caskInsert slot cask => Sys2Proof.Machine.execCaskInsert slot cask s
  | .caskFtlLoaded slot => Sys2Proof.Machine.execCaskFtlLoaded slot s
  | .caskPull slot => Sys2Proof.Machine.execCaskPull slot s
  | .caskDieFail slot die => Sys2Proof.Machine.execCaskDieFail slot die s
  | .caskWorn slot => Sys2Proof.Machine.execCaskWorn slot s
  | .caskLifeReached slot => Sys2Proof.Machine.execCaskLifeReached slot s
  | .caskCounterWrite slot => Sys2Proof.Machine.execCaskCounterWrite slot s
  | .caskPageScrub slot frame corrections refresh => Sys2Proof.Machine.execCaskPageScrub slot frame corrections refresh s
  | .caskBranchOvercurrent slot => Sys2Proof.Machine.execCaskBranchOvercurrent slot s
  | .vcaskOutOfRange => Sys2Proof.Machine.execVcaskOutOfRange s
  | .stackScrub word symbols => Sys2Proof.Machine.execStackScrub word symbols s
  | .scoreHalving => Sys2Proof.Machine.execScoreHalving s
  | .scoreWarn loc => Sys2Proof.Machine.execScoreWarn loc s
  | .scoreLimit loc => Sys2Proof.Machine.execScoreLimit loc s
  | .marginSample bands headroom => Sys2Proof.Machine.execMarginSample bands headroom s
  | .loweringHoldEnd => Sys2Proof.Machine.execLoweringHoldEnd s
  | .capMissWindow => Sys2Proof.Machine.execCapMissWindow s
  | .channelRetireDone ch => Sys2Proof.Machine.execChannelRetireDone ch s
  | .channelLoss ch => Sys2Proof.Machine.execChannelLoss ch s
  | .calRun path unit result => Sys2Proof.Machine.execCalRun path unit result s
  | .calScheduledRun unit result => Sys2Proof.Machine.execCalScheduledRun unit result s
  | .calExport path => Sys2Proof.Machine.execCalExport path s
  | .calWrite path => Sys2Proof.Machine.execCalWrite path s
  | .calNorWrite => Sys2Proof.Machine.execCalNorWrite s
  | .mgtUnfence path loc => Sys2Proof.Machine.execMgtUnfence path loc s
  | .stopRequest path => Sys2Proof.Machine.execStopRequest path s
  | .stopL1Timeout => Sys2Proof.Machine.execStopL1Timeout s
  | .stopAbort unit => Sys2Proof.Machine.execStopAbort unit s
  | .wakeUp source index => Sys2Proof.Machine.execWakeUp source index s
  | .managementExit path => Sys2Proof.Machine.execManagementExit path s
  | .wakeStepTimeout step => Sys2Proof.Machine.execWakeStepTimeout step s
  | .coldReset found => Sys2Proof.Machine.execColdReset found s
  | .deviceReset cause => Sys2Proof.Machine.execDeviceReset cause s
  | .watchdogExpiry => Sys2Proof.Machine.execWatchdogExpiry s
  | .hostPortReset => Sys2Proof.Machine.execHostPortReset s
  | .ldReset ld => Sys2Proof.Machine.execLdReset ld s
  | .functionLevelReset fn => Sys2Proof.Machine.execFunctionLevelReset fn s
  | .powerLoss => Sys2Proof.Machine.execPowerLoss s
  | .vddAonLoss => Sys2Proof.Machine.execVddAonLoss s
  | .thermalAlert cls temp => Sys2Proof.Machine.execThermalAlert cls temp s
  | .thermalTrip sensor temp => Sys2Proof.Machine.execThermalTrip sensor temp s
  | .stageImage path slot => Sys2Proof.Machine.execStageImage path slot s
  | .activate path slot => Sys2Proof.Machine.execActivate path slot s
  | .confirm path => Sys2Proof.Machine.execConfirm path s
  | .revert path => Sys2Proof.Machine.execRevert path s
  | .microcodeRollout bay => Sys2Proof.Machine.execMicrocodeRollout bay s
  | .secLockWrite path value => Sys2Proof.Machine.execSecLockWrite path value s
  | .challenge transport slot nonce => Sys2Proof.Machine.execChallenge transport slot nonce s
  | .getMeasurements transport index nonce => Sys2Proof.Machine.execGetMeasurements transport index nonce s
  | .getCertificate transport slot off len => Sys2Proof.Machine.execGetCertificate transport slot off len s
  | .keyExchange transport id exchange leaf => Sys2Proof.Machine.execKeyExchange transport id exchange leaf s
  | .pmcEvtWrite path k event => Sys2Proof.Machine.execPmcEvtWrite path k event s
  | .recorderFlush => Sys2Proof.Machine.execRecorderFlush s
  | .recExport path => Sys2Proof.Machine.execRecExport path s
  | .recClear path => Sys2Proof.Machine.execRecClear path s
  | .accountingWindowEnd => Sys2Proof.Machine.execAccountingWindowEnd s
  | .operatingTick => Sys2Proof.Machine.execOperatingTick s
  | .pkgPowerUpdate mw die hbm opt => Sys2Proof.Machine.execPkgPowerUpdate mw die hbm opt s
  | .tierRootWrite path value => Sys2Proof.Machine.execTierRootWrite path value s
  | .tierMapEnable path value => Sys2Proof.Machine.execTierMapEnable path value s
  | .pinQuotaWrite path value => Sys2Proof.Machine.execPinQuotaWrite path value s
  | .qctRangeWrite path fn value => Sys2Proof.Machine.execQctRangeWrite path fn value s
  | .qctCtrlEn path fn en => Sys2Proof.Machine.execQctCtrlEn path fn en s
  | .atnRegEnable path value => Sys2Proof.Machine.execAtnRegEnable path value s
  | .embHtabEnable path value => Sys2Proof.Machine.execEmbHtabEnable path value s
  | .extTabEnable path value => Sys2Proof.Machine.execExtTabEnable path value s
  | .pwrModeTest path => Sys2Proof.Machine.execPwrModeTest path s
  | .registerWrite path off width value => Sys2Proof.Machine.execRegisterWrite path off width value s
  | .pwrgdFall => Sys2Proof.Machine.execPwrgdFall s
  | .cxlLinkUp => Sys2Proof.Machine.execCxlLinkUp s
  | .msixVectorUnmask fn vector => Sys2Proof.Machine.execMsixVectorUnmask fn vector s
  | .caskRetrainDone => Sys2Proof.Machine.execCaskRetrainDone s

end Sys2Proof.Machine
end

