-- ==== Sys2Proof/Machine/Idle.lean ====
section
/-! DEFINITION. What passes while no command waits: one reference tick, in which the boot, the steps of an entry of STOP or of a
wake, and the work that Ndonte does by itself go on, and one access that had to wait is carried out. -/

namespace Sys2Proof.Machine

open Sys2Proof

/-- The path of a register access. -/
def accessPath : Instr → Option Path
  | .modeSwitch p _ | .portEnWrite p _ _ | .portFenceWrite p _ _ | .bringup p | .define p _ _ | .undefine p | .reassign p _ _
  | .egRecordWrite p _ | .adoptCask p _ | .evacuateCask p _ | .releaseCask p _ | .retireCask p _ | .eraseCask p _ | .importCask p _
  | .forgetCask p _ | .calRun p _ _ | .calExport p | .calWrite p | .mgtUnfence p _ | .stopRequest p | .managementExit p
  | .stageImage p _ | .activate p _ | .confirm p | .revert p | .secLockWrite p _ | .pmcEvtWrite p _ _ | .recExport p | .recClear p
  | .tierRootWrite p _ | .tierMapEnable p _ | .pinQuotaWrite p _ | .qctRangeWrite p _ _ | .qctCtrlEn p _ _ | .atnRegEnable p _
  | .embHtabEnable p _ | .extTabEnable p _ | .pwrModeTest p | .registerWrite p _ _ _ => some p
  | .msixVectorUnmask f _ => some (.fn f)
  | .challenge t _ _ | .getMeasurements t _ _ | .getCertificate t _ _ _ | .keyExchange t _ _ _ => some (.fn (64 * t))
  | _ => none

/-- Whether an access that waits may now be carried out (R366, R378, R428). -/
def Dev.due (d : Dev) (c : Instr) : Bool :=
  d.power.stuck || (d.power.ready && (match accessPath c with
    | some (.fn _) => d.power.st == .run
    | _ => ! d.fw.restarting))

/-- Carry out the oldest access that waits and may go on. What it finds in the latches of its path stands. -/
def State.release (s : State) : State :=
  match s.dev.held.find? s.dev.due with
  | none => s
  | some c =>
    match exec c { s with dev := { s.dev with held := s.dev.held.erase c } } with
    | .next t => { t with dev := { t.dev with latches := s.dev.latches } }
    | _ => s

/-- The work that Ndonte does by itself in RUN. -/
def Dev.background (d : Dev) : Dev :=
  let d := d.mendLeaves.raiseRails.evacStep
  let d := [0, 1, 2, 3].foldl (fun (d : Dev) n => d.releaseStep n) d
  let d := d.unpromoteAll.retireStep.settleAll.writeWindow.orderStep.admitHeld
  let d := (Dev.giveRoom 64 d).startRebuilds.openEvents.giveOwed.faultStep.adminStep
  { d with flowsIn := d.flowsIn.map (fun (f : FlowIn) => { f with aheadSent := false }) }

/-- What goes on by itself in a state of power. -/
def State.passes (s : State) : State :=
  if ! s.dev.power.ready then (if s.dev.power.stuck then s.release else s.boot)
  else match s.dev.power.st with
    | .run => ({ s with dev := s.dev.background } : State).endRestart.release
    | .entering => s.entryStep.release
    | .stop => s.release
    | .waking => s.wakeStep

/-- One reference tick: the tick counter counts, except in STOP and without power (R10, R382, R397). -/
def Dev.tick (d : Dev) : Dev :=
  { d with ticks := if d.power.st = .stop ∨ ¬ d.power.pwrgd then d.ticks else (d.ticks + 1) % 2 ^ 64 }

/-- One idle step. -/
def idleStep (s : State) : State :=
  let t := s.passes
  { t with dev := t.dev.tick }

end Sys2Proof.Machine
end

