-- ==== Sys2Proof/WellFormed.lean ====
section
/-! DEFINITION. Which commands are well formed: every operand lies in the range that the manual gives it. An ill-formed command can
come from no sender; `exec` still answers it. -/

namespace Sys2Proof

/-- A queue ID (R17). -/
def queueOk (q : Nat) : Bool := decide (q < 2 ^ 14)

/-- A node ID (R17). -/
def nodeOk (n : Nat) : Bool := decide (n < 2 ^ 12)

/-- A logical device (R17). -/
def ldOk (ld : Nat) : Bool := decide (ld < 16)

/-- A cask slot (R321). -/
def slotOk (slot : Nat) : Bool := decide (slot < 4)

/-- A Meunol port (R270). -/
def portOk (port : Nat) : Bool := decide (port < 16)

/-- A host function: LD x 64 + n (R422). -/
def hostFnOk (f : Nat) : Bool := decide (f < 1024)

/-- A function of R422: a host function, or 1,024 + g for fabric endpoint group g. -/
def funcOk (f : Nat) : Bool := decide (f < 2048)

/-- A line's local offset: 48 bits, 64-byte aligned (R11, R33). -/
def lineOk (off : Nat) : Bool := decide (off < 2 ^ 48) && decide (off % 64 = 0)

/-- A register path: a session ID has 32 bits, a function is a host's. -/
def Path.wf : Path → Bool
  | .fm | .mgmt | .mctp none => true
  | .mctp (some i) => decide (i < 2 ^ 32)
  | .fn f => hostFnOk f

/-- A block that arms a line. -/
def Armer.wf : Armer → Bool
  | .queue q => queueOk q
  | .faultArea pasid => decide (pasid < 2 ^ 20)
  | .semaphore q _ => queueOk q

/-- An engine: 128 bays and 32 scanners (R3). -/
def Engine.wf : Engine → Bool
  | .bay n => decide (n < 128)
  | .scanner n => decide (n < 32)
  | .turntable | .kiln | .dispatcher | .agent | .queueFront => true

/-- The fields of a message (R276): their widths, and a body of whole 8-byte units in at most 20,480 bytes with the header. -/
def msgOk (m : FabMsg) : Bool :=
  nodeOk m.dst && nodeOk m.src && decide (m.sidx < 2 ^ 20 ∧ m.type < 256 ∧ m.vc < 8 ∧ m.tag < 2 ^ 16 ∧ m.ord < 1024 ∧ m.part < 64
    ∧ m.age < 256 ∧ m.status < 16) && decide (m.body.length % 8 = 0 ∧ m.body.length ≤ 20464)

/-- A NEIGH body (R284). -/
def nbrOk (n : Neighbour) : Bool :=
  nodeOk n.node && decide (n.uid < 2 ^ 128 ∧ n.port < 256 ∧ n.part < 64 ∧ n.width < 256)

/-- The wavelengths in use of a port's eight: 8 or 4 of them (R271). -/
def lambdaOk (lambda : Nat) : Bool :=
  decide (lambda < 256) && ((List.range 8).countP (fun i => lambda.testBit i) == 8 || (List.range 8).countP (fun i => lambda.testBit i) == 4)

/-- A received flit: eight code words of 36 symbols (R273, R341). -/
def flitOk (words : List (List Byte)) : Bool := decide (words.length = 8) && words.all (fun w => decide (w.length = 36))

/-- The records and counters of a cask module (R77, R321). -/
def caskOk (c : Cask) : Bool :=
  c.recs.all (fun r => decide (r.kind < 256 ∧ r.frame < 2 ^ 32) && r.data.all (fun x => decide (x.1 < 65536))
    && r.pois.all (fun w => decide (w < 2048))) && c.failedDies.all (fun k => decide (k < 128))

/-- Whether a command is well formed. -/
def Instr.wf : Instr → Bool
  | .nop q _ | .copy q _ | .fill q _ | .timetableRun q _ | .writeAck q _ | .fence q _ | .placeWriteRecord q _
  | .placeBind q _ | .placeDemote q _ | .placePromote q _ | .attnPartial q _ | .kvAppend q _ | .kvRelease q _
  | .gatherPool q _ | .scatterAdd q _ | .tableSwitch q _ | .tableMove q _ | .vsearch q _ | .vinsert q _
  | .vdelete q _ | .optStep q _ | .streamRun q _ | .ecRebuildData q _ | .ecRebuildParity q _ | .extentXferMove q _
  | .extentXferAbort q _ | .extentRevokeHosts q _ | .extentRevokeComp q _ | .queueCreate q _ | .queueDeleteDrain q _
  | .queueDeleteAbort q _ | .invalidateRange q _ | .faultResumeRetry q _ | .faultResumeFail q _ | .getInfo q _
  | .descriptorStart q | .descriptorComplete q _ | .coalNsExpiry q | .invalidationAck q _ | .scannerPartEnd q _ _
  | .vsearchRoundEnd q _ | .timetableEntryStart q _ _ | .timetableEntryComplete q _ _ | .semaphorePoll q _ _
  | .timetableWaitTmo q _ _ => queueOk q
  | .watchEvent armer => armer.wf
  | .watchSnoop off => lineOk off
  | .hostRead ld hpa _ _ | .hostWrite ld hpa _ _ _ _ | .hostWriteBack ld hpa _ _ _ _ | .cleanEvictionNotice ld hpa
  | .birsp ld hpa _ _ _ | .biconflict ld hpa => ldOk ld && decide (hpa < 2 ^ 52)
  | .deviceAccess eng off _ data _ _ _ =>
    eng.wf && lineOk off && data.hops.all (fun h => decide (h.node < 16 ∧ h.symbols.length = 36))
  | .requestRepresent _ | .starvationTicketGrant _ | .sweepEnd | .faultTmoExpiry _ | .demotionStart
  | .ageWindowBoundary | .tierMapRebuild _ | .modeSwitchDone | .rowLockRelease _ | .bringupComplete | .ledgerLost
  | .vcaskOutOfRange | .scoreHalving | .loweringHoldEnd | .capMissWindow | .calNorWrite | .stopL1Timeout
  | .cxlLinkUp | .deviceReset _ | .watchdogExpiry | .hostPortReset | .powerLoss | .vddAonLoss | .thermalTrip _ _
  | .recorderFlush | .accountingWindowEnd | .operatingTick | .pkgPowerUpdate _ _ _ _ | .pwrgdFall
  | .caskRetrainDone => true
  | .coldReset found => decide (1 ≤ found.lds ∧ found.lds ≤ 16)
  | .bisnpTimeout ld off => ldOk ld && lineOk off
  | .hdmDecoderCommit ld n _ _ _ _ | .hdmDecoderUncommit ld n => ldOk ld && decide (n < 8)
  | .revokeDrainEnd extent | .extRevokeTmoExpiry extent | .leaseRenew extent | .leaseExpire extent
  | .lapsedAcquire extent | .doubtStallExpiry extent => decide (extent < 2 ^ 32)
  | .faultSignalExpiry pasid | .faultHeadPoll pasid => decide (pasid < 2 ^ 20)
  | .migrationDmaDone pasid page _ data =>
    decide (pasid < 2 ^ 20) && decide (page < 2 ^ 32) && decide (data.length ≤ 65536)
  | .demotionCommit frame | .promotionComplete frame | .openRecordDurable frame | .relocationCommit frame =>
    decide (frame < 2 ^ 32)
  | .promotionSubblockLand frame sub data =>
    decide (frame < 2 ^ 32) && decide (sub < 16) && decide (data.length ≤ 4096)
  | .tierMapCopyLoss stack => decide (stack < 8)
  | .leafBuildDone root => decide (root < 65536)
  | .checkFailure loc q _ => decide (loc.loc < 2 ^ 12) && queueOk q
  | .modeSwitch path value | .secLockWrite path value | .tierMapEnable path value => path.wf && decide (value < 2 ^ 32)
  | .rowMoveStep handle _ => decide (handle < 2 ^ 32)
  | .moduleInsert port | .moduleRemove port | .portTrainFail port | .portLinkLoss port | .portDoze port
  | .portWake port _ | .neighSend port => portOk port
  | .portTrainSuccess port lambda nbr credits =>
    portOk port && lambdaOk lambda && nbrOk nbr && decide (credits.length = 7)
  | .portEnWrite path port _ | .portFenceWrite path port _ => path.wf && portOk port
  | .flitReceive port words => portOk port && flitOk words
  | .rd port m | .wr port m | .wrn port m | .atom port m | .bulkRd port m | .subdesc port m | .parityMsg port m
  | .leaseMsg port m | .echo port m | .neigh port m | .rdData port m | .wrdone port m | .wrack port m
  | .atomData port m | .bulkData port m | .partialMsg port m | .leaseRsp port m | .echoRsp port m | .flownak port m
  | .ageDiscard port m | .mgmtForward port m | .mgmtForwardTmo port m | .readNbr port m | .readReg port m
  | .writeReg port m | .mgmtEcho port m => portOk port && msgOk m
  | .wrdoneTimer src sidx => nodeOk src && decide (sidx < 2 ^ 20)
  | .e2eResend dst sidx tag | .fabReqTmoExpiry dst sidx tag =>
    nodeOk dst && decide (sidx < 2 ^ 20) && decide (tag < 2 ^ 16)
  | .flowExpiry _ node sidx => nodeOk node && decide (sidx < 2 ^ 20)
  | .bringup path | .undefine path | .calExport path | .calWrite path | .stopRequest path | .managementExit path
  | .stageImage path _ | .activate path _ | .confirm path | .revert path | .recExport path | .recClear path
  | .pwrModeTest path => path.wf
  | .define path _ comp | .reassign path _ comp => path.wf && decide (comp < 2 ^ 10)
  | .egRecordWrite path value | .tierRootWrite path value | .pinQuotaWrite path value | .atnRegEnable path value
  | .embHtabEnable path value | .extTabEnable path value => path.wf && decide (value < 2 ^ 64)
  | .adoptCask path slot | .evacuateCask path slot | .releaseCask path slot | .retireCask path slot
  | .eraseCask path slot | .importCask path slot | .forgetCask path slot => path.wf && slotOk slot
  | .caskInsert slot cask => slotOk slot && caskOk cask
  | .caskFtlLoaded slot | .caskPull slot | .caskWorn slot | .caskLifeReached slot | .caskCounterWrite slot
  | .caskBranchOvercurrent slot => slotOk slot
  | .caskDieFail slot die => slotOk slot && decide (die < 128)
  | .caskPageScrub slot frame _ _ => slotOk slot && decide (frame < 2 ^ 32)
  | .stackScrub word symbols =>
    decide (symbols.length = 36) && (match word with | .sram k => decide (k < 6) | .stack _ => true)
  | .scoreWarn loc | .scoreLimit loc => decide (loc < 2 ^ 12)
  | .marginSample bands _ => bands.all (fun b => decide (b.1 < 4096))
  | .channelRetireDone ch | .channelLoss ch => decide (ch < 256)
  | .calRun path unit _ => path.wf && decide (unit < 4096)
  | .calScheduledRun unit _ => decide (unit < 4096)
  | .mgtUnfence path loc => path.wf && decide (loc < 2 ^ 12)
  | .stopAbort unit => decide (1 ≤ unit ∧ unit ≤ 10)
  | .wakeUp source index => decide (1 ≤ source ∧ source ≤ 5) && decide (index < 16)
  | .wakeStepTimeout step => decide (1 ≤ step ∧ step ≤ 4)
  | .ldReset ld => ldOk ld
  | .functionLevelReset fn => hostFnOk fn
  | .thermalAlert cls _ => decide (cls < 3)
  | .microcodeRollout bay => decide (bay < 128)
  | .challenge transport slot _ | .getCertificate transport slot _ _ => decide (transport ≤ 16) && decide (slot < 2)
  | .getMeasurements transport index _ => decide (transport ≤ 16) && (decide (index ≤ 7) || index == 255)
  | .keyExchange transport _ _ _ => decide (transport ≤ 16)
  | .pmcEvtWrite path k event => path.wf && decide (k < 8) && decide (event < 256)
  | .qctRangeWrite path fn value => path.wf && funcOk fn && decide (value < 2 ^ 32)
  | .qctCtrlEn path fn _ => path.wf && funcOk fn
  | .registerWrite path off width value =>
    path.wf && decide (off % 4 = 0) && (width == 4 || width == 8) && decide (value < 2 ^ (8 * width))
  | .msixVectorUnmask fn vector => hostFnOk fn && decide (vector < 2048)

end Sys2Proof
end

