-- ==== Sys2Proof/Certificates/Slice0/Obligations.lean ====
section
/-! DEFINITION. The statements about the model, for the provers: what the numbered rules of the manual say that a command or the
block does. Statements that rest on a choice of the model name its log entry. -/

namespace Sys2Proof.Claims

open Sys2Proof Sys2Proof.Machine

/-- A command answers the state whose block is `d`, with the locks, the fuses and the queue of commands as they were. -/
def Gives (c : Instr) (s : State) (d : Dev) : Prop := exec c s = .next { s with dev := d }

/-- Descriptor `n` of queue `q` has been started as the record `r` of the queue `x`, runs, and has opcode `op`. -/
def Running (d : Dev) (q n op : Nat) (x : Queue) (r : Started) : Prop :=
  smGet? q d.queues = some x ∧ x.running.find? (fun r => r.seq == n) = some r ∧ r.phase = .running ∧ lf r.bytes 0 1 = op

/-- A started descriptor whose run has gone as far as `d` and waits: the translations under which the access that it waits on has been
issued are kept (R50), and the faults it has met are written (R55). -/
def Waits (c : Instr) (s : State) (q : Nat) (x : Queue) (r : Started) (ts : List Issued) (d : Dev) : Prop :=
  Gives c s ((d.setIssued (descCtx q x r) ts).flushFaults (descPasid r.bytes))

/-- The descriptor commands whose run ends the descriptor: opcode (R133), queue, number, and the meaning of the row. -/
def descOf : Instr → Option (Nat × Nat × Nat × (Line → M (Nat × Nat × Nat)))
  | .nop q n => some (0x7F, q, n, fun _ => okRun)
  | .copy q n => some (0x01, q, n, copyM)
  | .fill q n => some (0x02, q, n, fillM)
  | .writeAck q n => some (0x04, q, n, writeAckM)
  | .fence q n => some (0x05, q, n, fenceM)
  | .placeWriteRecord q n => some (0x08, q, n, placeM 0 writeRecordM)
  | .placeBind q n => some (0x08, q, n, placeM 1 bindM)
  | .placeDemote q n => some (0x08, q, n, placeM 2 demoteM)
  | .placePromote q n => some (0x08, q, n, placeM 3 promoteM)
  | .attnPartial q n => some (0x10, q, n, attnPartialM)
  | .kvAppend q n => some (0x11, q, n, kvAppendM)
  | .kvRelease q n => some (0x11, q, n, kvReleaseM)
  | .gatherPool q n => some (0x18, q, n, gatherPoolM)
  | .scatterAdd q n => some (0x19, q, n, scatterAddM)
  | .tableSwitch q n => some (0x1A, q, n, tableSwitchM)
  | .tableMove q n => some (0x1A, q, n, tableMoveM)
  | .vsearchRoundEnd q n => some (0x20, q, n, roundEndM)
  | .vinsert q n => some (0x21, q, n, vinsertM)
  | .vdelete q n => some (0x22, q, n, vdeleteM)
  | .optStep q n => some (0x28, q, n, optStepM)
  | .streamRun q n => some (0x30, q, n, streamM)
  | .ecRebuildData q n => some (0x38, q, n, rebuildM false)
  | .ecRebuildParity q n => some (0x38, q, n, rebuildM true)
  | .extentXferMove q n => some (0x40, q, n, xferM 0 moveM)
  | .extentXferAbort q n => some (0x40, q, n, xferM 1 abortM)
  | .queueCreate q n => some (0x80, q, n, queueCreateM)
  | .faultResumeRetry q n => some (0x83, q, n, faultResumeM 0)
  | .faultResumeFail q n => some (0x83, q, n, faultResumeM 1)
  | _ => none

/-- The started descriptor `n` of queue `q` has ended with a status of its own and two results. -/
def Ended (d : Dev) (q n st r0 r1 : Nat) : Prop :=
  ∃ r, d.startedOf q n = some r ∧ r.phase = .finished ∧ r.status = st ∧ r.res0 = r0 ∧ r.res1 = r1

end Sys2Proof.Claims

open Sys2Proof Sys2Proof.Machine Sys2Proof.Claims

/-! The machine: one step, the queue, the locks, the fuses and memory. -/

/-- A step with command `c` at the front of the queue is `exec` of `c` on the state with the rest of the queue. With no command
waiting a step is one idle step, which always answers a next state (log entry 1). -/
def Obligations.StepRunsFrontCommand : Prop :=
  (∀ (c : Instr) (s : State), step { s with pending := c :: s.pending } = exec c s) ∧
  (∀ s : State, step { s with pending := [] } = .next (idleStep { s with pending := [] }))

/-- Every command answers a next state in every state: the manual has no condition that stops the block. -/
def Obligations.EveryCommandAnswersNext : Prop :=
  ∀ (c : Instr) (s : State), ∃ t, exec c s = .next t

/-- A step takes the command at the front of the queue and leaves the rest as it was, in every state. -/
def Obligations.StepTakesOnlyTheFront : Prop :=
  ∀ s t : State, step s = .next t → t.pending = s.pending.tail

/-- R377: a write of SEC_LOCK that passes sets the bits written as 1 and changes no other; in every step, of a live update too, each lock bit that is set stays set, unless the step is one that resets the part: then
every lock is clear and the part is not yet ready. Measurement block 7 reports the locks. -/
def Obligations.LocksFallOnlyWithReset : Prop :=
  (∀ (s : State) (p : Path) (v : Nat), s.dev.pathAns p none false false = .pass → ∃ t, exec (.secLockWrite p v) s = .next t ∧
    ∀ b, t.lock.testBit b = (s.lock.testBit b || (decide (b < 11) && v.testBit b))) ∧
  (∀ s t : State, step s = .next t →
    (∀ b, s.lock.testBit b = true → t.lock.testBit b = true) ∨ (t.lock = 0 ∧ t.dev.power.ready = false)) ∧
  (∀ s : State, s.lock < 2 ^ 32 → fld (s.measurement 7) 0 4 = s.lock)

/-- R373: the SVN fuses are a thermometer bank: no step lowers their count, in any state. -/
def Obligations.FusesNeverFall : Prop :=
  ∀ s t : State, step s = .next t → s.fuses ≤ t.fuses

/-- Every step keeps the canonical form of T0's memory: addresses strictly rising, and no byte listed that equals what an
unlisted address reads as. -/
def Obligations.MemoryStaysCanonical : Prop :=
  ∀ s t : State, Memory.wf s.dev.mem = true → step s = .next t → Memory.wf t.dev.mem = true

/-- R365, R427: after reset no lock is set, no command waits, no queue, tier map, decoder, directory entry or extent exists, no cask serves, and the part is not
yet ready; T0's memory lists nothing, in canonical form; and the registers below hold the reset values of their tables (R86, R108, R183,
R231, R250, R297, R320, R338, R355, R368, R397), a counter set no selected event. That memory lists nothing is the model's (log entry 5). -/
def Obligations.ResetState : Prop :=
  State.reset.lock = 0 ∧ State.reset.pending = [] ∧ Memory.wf State.reset.dev.mem = true ∧ State.reset.dev.mem = [] ∧
  State.reset.dev.queues = [] ∧ State.reset.dev.roots = [] ∧ State.reset.dev.hdm = [] ∧ State.reset.dev.dir = [] ∧
  State.reset.dev.extents = [] ∧ (∀ n, (State.reset.dev.slot n).serving = false) ∧ State.reset.dev.power.ready = false ∧
  State.reset.dev.power.st = .run ∧
  (∀ p ∈ [(0x2000, 2), (0x200C, 1), (0x2020, 0x026C0000), (0x4010, 3), (0x5000, 0x3C), (0x5020, 4), (0x6008, 0x64), (0x7004, 0x32),
    (0x7008, 0x00280014), (0x8000, 0x3E8), (0x8004, 0x1F4), (0xA008, 0x10), (0xB008, 0x400), (0xB00C, 0x10), (0xC008, 0x40),
    (0xD01C, 0xFFF), (0xD020, 0x7D0), (0xD024, 0x64), (0xE000, 4), (0xE004, 0x10), (0x10028, 0x14), (0x1002C, 0x64), (0x1000, 0),
    (0x7000, 0), (0x9000, 0), (0xD000, 0), (0x10004, 0)], State.reset.dev.reg p.1 = p.2) ∧
  (∀ n < 16, State.reset.dev.reg (0x10100 + 4 * n) = 5) ∧ (∀ n < 17, State.reset.dev.reg (0x10400 + 4 * n) = 0x1FFFF) ∧
  (∀ set < 2048, ∀ i < 8, State.reset.dev.reg (pmcKey set (0x10 + 4 * i)) = 0 ∧ State.reset.dev.reg (pmcKey set (0x40 + 8 * i)) = 0)
/-! Queues and descriptors. -/

/-- Every descriptor command whose run ends completes: where the started descriptor runs, has the row's opcode and the run of
its meaning ends with status `st` and results `r0` and `r1`, the next state carries out the run's held writes in order, charges
its accesses, and ends the descriptor with that status and those results. Locks, fuses and queue are unchanged. Where no started
descriptor of that queue and number runs, nothing changes.
The model's own choices it may rest on are in log entries 3, 30. -/
def Obligations.DescriptorEndsWithItsResults : Prop :=
  ∀ (c : Instr) (op q n : Nat) (m : Line → M (Nat × Nat × Nat)), descOf c = some (op, q, n, m) →
  (∀ (s : State) (x : Queue) (r : Started) (st r0 r1 : Nat) (k : RunSt), Running s.dev q n op x r →
    s.dev.runM (descCtx q x r) (m r.bytes) = (.ok (st, r0, r1), k) →
    Gives c s (((Dev.commit (descCtx q x r) k.d k.log).chargeRun (descCtx q x r) k.acc).finish q n st r0 r1)) ∧
  (∀ s : State, (∀ r, s.dev.startedOf q n = some r → r.phase ≠ .running) → exec c s = .next s)

/-- R137: ending a descriptor's run records its results, the lower of its status and any status that a part has reported
before (OK counts as none), and the code of the status in DETAIL beside those already there: that code alone where no part has reported one. A descriptor ends once: no command of it changes anything then. -/
def Obligations.EndingRecordsLowestStatus : Prop :=
  ∀ (d : Dev) (q n st r0 r1 : Nat) (r : Started), d.startedOf q n = some r →
    (∃ t, (d.finish q n st r0 r1).startedOf q n = some t ∧ t.phase = .finished ∧ t.res0 = r0 ∧ t.res1 = r1 ∧
      t.status = (if r.status = 0 then st else if st = 0 then r.status else min r.status st) ∧
      (∀ b, t.detail.testBit b = (r.detail.testBit b || (decide (st ≠ 0) && decide (b = st % 16)))) ∧
      (r.detail = 0 → st ≠ 0 → t.detail = 2 ^ (st % 16))) ∧
    (∀ (c : Instr) (op : Nat) (m : Line → M (Nat × Nat × Nat)) (s : State), descOf c = some (op, q, n, m) → s.dev = d.finish q n st r0 r1 →
      exec c s = .next s)

/-- R118, R133: NOP ends at once with OK and results 0; FENCE, with a scope code that is not reserved, ends so once no descriptor
of its queue with a lower number is left, and until then it stays among the running descriptors. R133: queue 0 takes the admin opcodes 0x80 to 0x84, every other queue the plain ones, and every queue FENCE and NOP.
The model's own choices it may rest on are in log entry 72. -/
def Obligations.QueuesTakeTheirOpcodes : Prop :=
  (∀ (s : State) (q n : Nat) (x : Queue) (r : Started),
     (Running s.dev q n 0x7F x r → r.status = 0 → ∃ t, exec (.nop q n) s = .next t ∧ Ended t.dev q n 0 0 0) ∧
     (Running s.dev q n 0x05 x r → r.status = 0 → lf r.bytes 8 1 % 8 ≤ 4 → (∀ y ∈ x.running, n ≤ y.seq) →
       ∃ t, exec (.fence q n) s = .next t ∧ Ended t.dev q n 0 0 0) ∧
     (∀ y ∈ x.running, Running s.dev q n 0x05 x r → lf r.bytes 8 1 % 8 ≤ 4 → y.seq < n →
       Waits (.fence q n) s q x r [] s.dev)) ∧
  (∀ lq op : Nat, opAllowed lq op = true ↔
     op = 0x05 ∨ op = 0x7F ∨ (lq = 0 ∧ 0x80 ≤ op ∧ op ≤ 0x84) ∨
     (lq ≠ 0 ∧ (op ∈ [0x01, 0x02, 0x03, 0x04] ∨ op ∈ [0x08, 0x10, 0x11] ∨ op ∈ [0x18, 0x19, 0x1A] ∨ op ∈ [0x20, 0x21, 0x22]
       ∨ op ∈ [0x28, 0x30, 0x38] ∨ op ∈ [0x40, 0x41])))

/-- The checks that an invalidation's operand passes (R49): frames, a page-aligned start, and an address in range. -/
def Sys2Proof.Claims.invOk (i : Invalidation) : Bool :=
  decide (i.frames ≠ 0 ∧ i.start % 65536 = 0 ∧ i.start < 2 ^ (if i.mode = 0 then 48 else 60))

/-- The invalidation that an operand block spells (R49), for the descriptor that names it. -/
def Sys2Proof.Claims.invOf (id : DescId) (bs : List Byte) : Invalidation :=
  ⟨id.queue, id.seq, fld bs 4 4 % 2, bit (fld bs 0 4) 31, fld bs 0 4 % 2 ^ 20, fld bs 8 8, fld bs 16 4, bit (fld bs 4 4) 1, []⟩

/-- R50, R148, R149: the admin commands that end later begin here. INVALIDATE_RANGE with a valid operand block, which names no other
function's PASID or is a privileged function's, marks its range as withdrawing and drops what the caches hold of it, with fewer
than 64 invalidations in progress. QUEUE_DELETE,
naming an existing queue 1 to COUNT - 1 of its function that is not being deleted, reads SQ_TAIL once more and
puts the queue into DRAINING, with ABORT where its MODE is 1. Both descriptors stay running. R50: once no request that was outstanding when an invalidation marked its range is outstanding any longer, and no access issued before
under a translation that it withdraws waits, the last acknowledgement ends the invalidation, and its descriptor with OK and results 0;
while one is, nothing changes.
The model's own choices it may rest on are in log entries 63, 70, 197. -/
def Obligations.InvalidationsAndDeletionsRun : Prop :=
  (∀ (s : State) (q n : Nat) (x : Queue) (r : Started),
     (∀ (bs : List Byte) (k : RunSt) (y : Queue), Running s.dev q n 0x82 x r →
       (s.dev.invs.any (fun i => i.queue == q && i.seq == n)) = false →
       s.dev.runM (descCtx q x r) (rdV (lf r.bytes 8 8) 32) = (.ok bs, k) →
       invOk (invOf ⟨q, n⟩ bs) = true → smGet? q k.d.queues = some y →
       let i := invOf ⟨q, n⟩ bs
       ∀ k' : RunSt, (if i.mode = 0 ∧ ! i.all then otherFns i.pasid (descCtx q x r) k = (.ok false, k')
         else k' = k ∧ s.dev.qPriv y.fn = true) → k'.d.invs.length < 64 →
       Waits (.invalidateRange q n) s q x r k'.iss (k'.d.withdraw { i with
         inflight := (k'.d.fabOut.filter (fun o => (ownerDesc o.owner).isSome)).map (·.msg) })) ∧
     (∀ (abort : Bool) (y : Queue), Running s.dev q n 0x81 x r → 1 ≤ lf r.bytes 8 2 → lf r.bytes 8 2 < s.dev.qCount x.fn →
       lf r.bytes 10 1 = b2n abort → smGet? (s.dev.qBase x.fn + lf r.bytes 8 2) s.dev.queues = some y → y.del = none →
       Waits (if abort then .queueDeleteAbort q n else .queueDeleteDrain q n) s q x r []
         (s.dev.beginDelete (s.dev.qBase x.fn + lf r.bytes 8 2) abort (some ⟨q, n⟩)).2)) ∧
  (∀ (s : State) (q n : Nat) (i : Invalidation), s.dev.invs.find? (fun i => i.queue == q && i.seq == n) = some i →
     ((∀ o ∈ s.dev.fabOut, o.msg ∉ i.inflight) → s.dev.issuedWaits i = false → Gives (.invalidationAck q n) s
       (Dev.finish { s.dev with invs := s.dev.invs.filter (fun j => ! (j.queue == q && j.seq == n)) } q n 0 0 0)) ∧
     ((∃ o ∈ s.dev.fabOut, o.msg ∈ i.inflight) ∨ s.dev.issuedWaits i = true → exec (.invalidationAck q n) s = .next s))

/-- R143, R134, R144: the front descriptor of an ACTIVE queue that may start, whose turn it is, and that passes the checks of its opcode and
PASID, moves among the started ones: it runs, with no status yet, for the composition of its PASID, on a bay that is picked for it; a switch
or move of a table takes its place in their order. A poisoned slot starts a descriptor that has ended with POISON. A queue whose turn it is
not starts nothing, and an admin queue that may start goes before every other.
The model's own choices it may rest on are in log entries 71, 27, 65, 196. -/
def Obligations.FrontDescriptorStarts : Prop :=
  ∀ (s : State) (q : Nat) (x : Queue) (u : Staged) (rest : List Staged),
    s.dev.power.st = .run → smGet? q s.dev.queues = some x → x.staged = u :: rest → x.st = .active → x.del = none →
    x.mayStart u = true →
    (∀ (a : Arb), s.dev.turnOf q = some a →
      let d : Dev := { s.dev with arb := a }
      (∀ (comp : Nat) (note : List Nat) (e : Dev), u.pois0 = false → u.pois1 = false →
        d.unitTry (startChecks d x u.bytes) = (.ok (0, comp, note), e) →
        let (bay, e) := e.pickBay x.fn
        let order := if lf u.bytes 0 1 = 0x1A then e.switchQ.filter (fun (y : Nat × DescId) => e.runs y.2) ++ [(lf u.bytes 16 4, ⟨q, u.seq⟩)]
          else e.switchQ
        Gives (.descriptorStart q) s (Dev.setQ { e with switchQ := order } q { x with staged := rest, running := x.running ++
          [⟨u.seq, u.bytes, false, false, comp, .running, 0, 0, 0, 0, [], [], 0, 0, note, [], bay, []⟩] })) ∧
      (u.pois1 = true → u.pois0 = false → lf u.bytes 0 1 = 0x7F →
        Gives (.descriptorStart q) s (d.setQ q { x with staged := rest, running := x.running ++
          [⟨u.seq, u.bytes, false, true, 0, .finished, 2, 4, 0, 0, [], [], 0, 0, [], [], 0, []⟩] }))) ∧
    (s.dev.turnOf q = none → exec (.descriptorStart q) s = .next s) ∧
    (∀ (a : Arb) (p : Nat) (y : Queue), s.dev.turnOf q = some a → q ∉ s.dev.arb.stuck → (p, y) ∈ s.dev.queues → y.startable = true →
      y.lq = 0 → p ∉ s.dev.arb.stuck → ∃ z, (q, z) ∈ s.dev.queues ∧ z.lq = 0)

/-- What a posted completion leaves (R135, R383): it is counted, as failed where its status is not OK, and the descriptor's row
locks, its place among the switches and its search end. -/
def Sys2Proof.Claims.afterPost (d : Dev) (q n : Nat) (x : Queue) (r : Started) : Dev :=
  let d := (d.count x.fn 0x01 1).count x.fn 0x02 (if r.status = 0 then 0 else 1)
  let d := (d.stat 0xC010 63 32 0).stat 0xC010 15 8 0
  { d with
    rowLocks := d.rowLocks.filter (fun l => l.desc != DescId.mk q n)
    switchQ := d.switchQ.filter (fun y => y.2 != DescId.mk q n)
    searches := d.searches.filter (fun x => x.desc != DescId.mk q n) }

/-- R138, R146: the completion of a descriptor that has ended, with nothing it sent or wrote outstanding, is written into the
queue's next slot; the queue's next slot, PHASE and COUNT advance and the descriptor is gone from it. With IEN clear, or the
descriptor's quiet flag, no signal is sent; with IEN set and no coalescing a host function's queue sends its vector. When COAL_NS
has run out for completions not yet signalled, their signal is sent and nothing stays unsignalled.
The model's own choices it may rest on are in log entries 69, 74. -/
def Obligations.CompletionIsPosted : Prop :=
  (∀ (s : State) (q n : Nat) (x : Queue) (r : Started) (e : Dev),
    smGet? q s.dev.queues = some x → x.running.find? (fun r => r.seq == n) = some r → r.phase = .finished → x.del = none →
    r.pois0 = false → lf r.bytes 0 1 ≠ 0x20 → s.dev.outstanding ⟨q, n⟩ = false → s.dev.writePending (.eng .queueFront) none = false →
    s.dev.unitTry (postM x (completionBytes q x r)) = (.ok (), e) →
    (x.ien = false ∨ bit (lf r.bytes 1 1) 1 = true →
      Gives (.descriptorComplete q n) s ((afterPost e q n x r).setQ q (x.advance n))) ∧
    (x.ien = true → bit (lf r.bytes 1 1) 1 = false → x.coalN = 0 → x.fn < 1024 →
      Gives (.descriptorComplete q n) s
        ((((afterPost e q n x r).setQ q { x.advance n with unsignalled := 0, coalWait := false }).count x.fn 0x12 1).msixSend x.fn x.lq))) ∧
  (∀ (s : State) (q : Nat) (x : Queue), smGet? q s.dev.queues = some x → x.coalWait = true → 0 < x.unsignalled → x.fn < 1024 →
    Gives (.coalNsExpiry q) s
      (((s.dev.setQ q { x with unsignalled := 0, coalWait := false }).count x.fn 0x12 1).msixSend x.fn x.lq))

/-- R135, R138: the 32 bytes of a completion: TAG of the descriptor, STATUS, SQ_HEAD, queue ID, the two results, DETAIL, the opcode,
zeros, and PHASE with the bit of an unreadable descriptor. Advancing the queue by it takes the next slot of the ring, changes PHASE
exactly when the ring starts over, and counts one completion modulo 2^32. -/
def Obligations.CompletionRecord : Prop :=
  (∀ (q : Nat) (x : Queue) (r : Started), r.pois0 = false → r.detail ≠ 0 →
    let bs := completionBytes q x r
    bs.length = 32 ∧ fld bs 0 2 = lf r.bytes 2 2 ∧ fld bs 2 2 = r.status % 2 ^ 16 ∧ fld bs 4 2 = x.sqHead % 2 ^ 16 ∧
    fld bs 6 2 = q % 2 ^ 14 ∧ fld bs 8 8 = r.res0 % 2 ^ 64 ∧ fld bs 16 8 = r.res1 % 2 ^ 64 ∧
    fld bs 24 2 = r.detail % 2 ^ 16 ∧ fld bs 26 1 = lf r.bytes 0 1 ∧ fld bs 27 4 = 0 ∧ fld bs 31 1 = b2n x.phase) ∧
  (∀ (x : Queue) (n : Nat), x.cqNext < x.cqN →
    (x.cqNext + 1 < x.cqN → (x.advance n).cqNext = x.cqNext + 1 ∧ (x.advance n).phase = x.phase) ∧
    (x.cqNext + 1 = x.cqN → (x.advance n).cqNext = 0 ∧ (x.advance n).phase = ! x.phase) ∧
    (x.advance n).count = (x.count + 1) % 2 ^ 32 ∧ (x.advance n).ctx = x.ctx ∧ (x.advance n).sqHead = x.sqHead ∧
    (∀ r, r ∈ (x.advance n).running ↔ r ∈ x.running ∧ r.seq ≠ n))

/-- R145, R151, R422, R427: the registers of a function's queues. A write of QCT_RANGE with EN clear and a range free of every other
function's takes BASE, COUNT (at most 2,048 for a host function) and PRIV, and a range that is taken sets RREJ alone. A write that
sets EN creates queue 0 where the function has queues and queue 0 passes its checks, and sets BUSY while a queue of the function is still being deleted; one that clears EN by the function itself deletes its queues. Function level reset deletes them and resets the function's registers.
Unmasking a vector clears its mask and, where it was pending, sends its message.
The model's own choices it may rest on are in log entries 73, 75. -/
def Obligations.FunctionRegistersAct : Prop :=
  ∀ (s : State),
    (∀ (p : Path) (fn v : Nat), s.dev.pathAns p none false false = .pass → s.dev.rf (qctKey fn 16) 0 0 = 0 → fn < 2048 →
      let e := s.dev.setLatch p ⟨none, none⟩
      let count := if fn < 1024 then min (bits v 30 16) 2048 else bits v 30 16
      (s.dev.rangeTaken fn (bits v 13 0) count = false → Gives (.qctRangeWrite p fn v) s
        (e.setReg (qctKey fn 0) (bits v 13 0 + 2 ^ 16 * count + 2 ^ 31 * bits v 31 31))) ∧
      (s.dev.rangeTaken fn (bits v 13 0) count = true → Gives (.qctRangeWrite p fn v) s (e.setRf (qctKey fn 4) 3 3 1))) ∧
    (∀ (fn : Nat), fn < 1024 → s.dev.pathAns (.fn fn) (some fn) false false = .pass → s.dev.rf (qctKey fn 16) 0 0 = 1 →
      Gives (.qctCtrlEn (.fn fn) fn false) s
        ((((s.dev.setLatch (.fn fn) ⟨none, none⟩).setRf (qctKey fn 16) 0 0 0).setRf (qctKey fn 4) 1 1 0).deleteAll fn)) ∧
    (∀ (fn : Nat) (e : Dev), fn < 1024 → s.dev.pathAns (.fn fn) (some fn) false false = .pass → s.dev.rf (qctKey fn 16) 0 0 = 0 →
      s.dev.qCount fn ≠ 0 →
      let f := (s.dev.setLatch (.fn fn) ⟨none, none⟩).setRf (qctKey fn 16) 0 0 1
      ((∀ p ∈ s.dev.queues, p.2.fn ≠ fn) → f.createQueue fn 0 = (some 0, e) →
        Gives (.qctCtrlEn (.fn fn) fn true) s (e.setRf (qctKey fn 4) 1 1 0)) ∧
      ((∃ p ∈ s.dev.queues, p.2.fn = fn) → Gives (.qctCtrlEn (.fn fn) fn true) s (f.setRf (qctKey fn 4) 1 1 1))) ∧
    (∀ (fn : Nat), fn < 1024 → Gives (.functionLevelReset fn) s ((s.dev.deleteAll fn).resetFns (· == fn))) ∧
    (∀ (fn v : Nat) (e : MsixEntry), fn < 1024 → v < 2048 → s.dev.pathAns (.fn fn) (some fn) false false = .pass →
      smGet (2048 * fn + v) msixEmpty s.dev.msix = e → ∃ t, exec (.msixVectorUnmask fn v) s = .next { s with dev := t } ∧
        t.msix = smPut msixEmpty (2048 * fn + v) { e with masked := false } s.dev.msix ∧
        (s.dev.pba.contains (2048 * fn + v) = true →
          t.out = .msix fn v e.addr e.data :: s.dev.out ∧ t.pba = nsDel (2048 * fn + v) s.dev.pba) ∧
        (s.dev.pba.contains (2048 * fn + v) = false → t.out = s.dev.out ∧ t.pba = s.dev.pba))

/-! Faults, migration, timetables, searches and revocations: descriptors that go on over several commands. -/

/-- R55 to R57, R60: the commands of the fault area and of migration on fault. A signal window that ends with no signal pending closes; with
one pending it is sent and the window runs on. The poll of a polled control line writes what waits. When TRN_FAULT_TMO runs out for an
outstanding fault, with TMO not 0, Ndonte applies FAIL itself: the fault is gone, its waiting descriptors complete with FAULT, and an
event is recorded. R59 step 4, R60: where the DMA of a migrating page has ended well and the compare-and-write takes place, the migration is
over and a record of kind MIGRATED, which nobody waits on, is entered and written to the fault area; where the leaf had changed,
the migration is over and no record is entered. What waited on the page then walks again.
The model's own choices it may rest on are in log entries 26, 67, 182. -/
def Obligations.FaultTimersAndMigrationsEnd : Prop :=
  (∀ (s : State),
     (∀ (p : Nat) (a : FaultArea), smGet? p s.dev.areas = some a → a.window = true → a.pendingSignal = false →
       Gives (.faultSignalExpiry p) s { s.dev with areas := smSet p { a with window := false } s.dev.areas }) ∧
     (∀ (p : Nat) (a : FaultArea) (cx : PasidCtx) (e : Dev), smGet? p s.dev.areas = some a → a.window = true → a.pendingSignal = true →
       s.dev.unitRun (pasidCtx p) = (some (.ok cx), e) →
       Gives (.faultSignalExpiry p) s (Dev.signalFaults { e with areas := smSet p { a with pendingSignal := false } e.areas } cx)) ∧
     (∀ p, Armer.faultArea p ∈ s.dev.polledLines → Gives (.faultHeadPoll p) s (s.dev.flushFaults p)) ∧
     (∀ (f : FaultEntry), s.dev.faults.find? (fun g => g.id == f.id && g.kind != 4) = some f → s.dev.rf 0x6008 13 0 ≠ 0 →
       Gives (.faultTmoExpiry f.id) s
         ((((s.dev.dropFault f.id).failWaiters f).event .faultTimeout [.pasid f.pasid, .queue f.queue]).flushFaults f.pasid))) ∧
  (∀ (s : State) (p page : Nat) (data : List Byte) (m : Migration) (cx : PasidCtx) (e : Dev),
     s.dev.migrations.find? (fun m => m.pasid == p && m.page == page) = some m →
     s.dev.unitRun (pasidCtx p) = (some (.ok cx), e) →
     ∀ (b : Bool) (e' : Dev), e.unitTry (migrateCommit m data cx) = (.ok b, e') →
       (b = false → Gives (.migrationDmaDone p page true data) s (e'.migrationOver m)) ∧
       (b = true → Gives (.migrationDmaDone p page true data) s
         (((e'.migrationOver m).addFault m.pasid m.dva 4 m.access 3 (m.waiters.head?.getD ⟨0, 0⟩)
           (e'.descTag (m.waiters.head?.getD ⟨0, 0⟩)) m.engine false).flushFaults m.pasid)))

/-- R260, R262: TIMETABLE_RUN with valid fields and a table that reads without poison, each of whose entries passes the checks, takes the
table up with every entry waiting and evaluates the waits of its first window. R263 to R265: an entry that may start, and whose addresses translate, runs; an entry whose work ends well counts as issued and,
once its writes are visible, as ended; a wait that exceeds TMO fails its entry with TIMEOUT, and a poll of a polled semaphore
evaluates the wait. R263: no entry starts while an entry with a lower index may start and is not stalled, while a fault stalls it, after a failure, or beyond INFLIGHT; and an
entry starts only when both its dependencies have completed and its wait is met.
The model's own choices it may rest on are in log entries 103, 104. -/
def Obligations.TimetablesRun : Prop :=
  (∀ (s : State) (q n : Nat) (x : Queue) (r : Started) (bs : List Byte) (ps : List Bool) (k : RunSt),
     Running s.dev q n 0x03 x r → s.dev.table ⟨q, n⟩ = none →
     lf r.bytes 8 8 % 64 = 0 → 1 ≤ lf r.bytes 16 4 → lf r.bytes 16 4 ≤ 65536 → ttTmo r.bytes ≤ 10000000 → ttInflight r.bytes ≤ 256 →
     s.dev.runM (descCtx q x r) (rdRawV (lf r.bytes 8 8) (64 * lf r.bytes 16 4)) = (.ok (bs, ps), k) → ps.any id = false →
     (∀ i < lf r.bytes 16 4, (ttEntry (fld bs (64 * i) 64)).ok i = true) →
     let t : Timetable := ⟨⟨q, n⟩, (List.range (lf r.bytes 16 4)).map (fun i => fld bs (64 * i) 64),
       List.replicate (lf r.bytes 16 4) 0, [], [], [], []⟩
     Gives (.timetableRun q n) s
       (((Dev.setIssued { k.d with timetables := k.d.timetables ++ [t] } (descCtx q x r) k.iss).flushFaults (descPasid r.bytes)).tableWaits
         ⟨q, n⟩)) ∧
  (∀ (s : State) (q n k : Nat) (t : Timetable), s.dev.table ⟨q, n⟩ = some t →
     (∀ (r : Started) (e : Dev), s.dev.startedOf q n = some r → t.starts (ttInflight r.bytes) k = true →
       s.dev.tableRun ⟨q, n⟩ k (t.entry k).eng (startEntryM (t.entry k)) = (some (.ok ()), e) →
       Gives (.timetableEntryStart q n k) s (e.modTable ⟨q, n⟩ (fun t => { t with states := t.states.set k 1 }))) ∧
     (∀ (e : Dev), t.st k = 1 → s.dev.tableRun ⟨q, n⟩ k (t.entry k).eng (workEntryM (t.entry k)) = (some (.ok 0), e) →
       Gives (.timetableEntryComplete q n k) s
         ((e.modTable ⟨q, n⟩ (fun t => { t with states := t.states.set k 4 })).entryEnds ⟨q, n⟩ k)) ∧
     (t.waits k = true → Gives (.timetableWaitTmo q n k) s (s.dev.entryFails ⟨q, n⟩ k stTimeout)) ∧
     (Armer.semaphore q n ∈ s.dev.polledLines → Gives (.semaphorePoll q n k) s (s.dev.evalWait ⟨q, n⟩ k).2)) ∧
  (∀ (t : Timetable) (m i : Nat), t.starts m i = true →
     t.st i = 0 ∧ t.running < m ∧ 3 ∉ t.states ∧ (∀ x ∈ t.stalled, x.1 ≠ i) ∧
     (∀ j < i, t.ready j = true → ∃ x ∈ t.stalled, x.1 = j) ∧
     ((t.entry i).dep0 = noDep ∨ t.st (t.entry i).dep0 = 2) ∧ ((t.entry i).dep1 = noDep ∨ t.st (t.entry i).dep1 = 2) ∧
     ((t.entry i).wsem = 0 ∨ i ∈ t.met))

/-- R95: a watch event that has been raised is delivered to the block that armed the line: a queue reads its doorbell line, a
fault area writes what waits, a timetable evaluates its waits; the event is then no longer raised. DIR_WATCH.NS after a grant of
OWNED on a watched line, BISnpData goes to the line's holder and the entry waits for its answer.
The model's own choices it may rest on are in log entries 60, 178. -/
def Obligations.WatchEventIsDelivered : Prop :=
  ∀ (s : State),
    (∀ (q : Nat) (e : Dev), Armer.queue q ∈ s.dev.raised → s.dev.readDoorbell q = (true, e) →
      Gives (.watchEvent (.queue q)) s { e with raised := e.raised.filter (· ≠ .queue q) }) ∧
    (∀ (p : Nat) (e : Dev), Armer.faultArea p ∈ s.dev.raised → s.dev.flushTry p = (true, e) →
      Gives (.watchEvent (.faultArea p)) s { e with raised := e.raised.filter (· ≠ .faultArea p) }) ∧
    (∀ (q n : Nat), Armer.semaphore q n ∈ s.dev.raised → Gives (.watchEvent (.semaphore q n)) s
      (Dev.tableWaits { s.dev with raised := s.dev.raised.filter (· ≠ .semaphore q n) } ⟨q, n⟩)) ∧
    (∀ (off pl l : Nat) (x : DirEntry) (w : Armer), s.dev.pline off = some pl → pl ∈ s.dev.snoopDue → s.dev.unresp = [] →
      smGet? pl s.dev.dir = some x → x.bi = none → x.st = .owned → x.watch = some w → x.ptrs = [l] → x.ovf = false →
      Gives (.watchSnoop off) s { s.dev with
        snoopDue := nsDel pl s.dev.snoopDue
        dir := smSet pl { x with bi := some ⟨[l], false, none, false, true⟩ } s.dev.dir
        timedOut := s.dev.timedOut.filter (fun p => ! (p.2 == pl && [l].contains p.1))
        out := .bisnp l (s.dev.hpaOf l (64 * (off / 64))) false :: s.dev.out })

/-- R242, R243: VSEARCH begins its search on its first run, and waits for its rounds; the end of a part posts the part's heap to the
search. Neither ends the descriptor.
The model's own choices it may rest on are in log entries 3, 100. -/
def Obligations.SearchGoesOnInRounds : Prop :=
  ∀ (s : State) (q n : Nat) (x : Queue) (r : Started) (k : RunSt), Running s.dev q n 0x20 x r →
    (s.dev.searches.any (fun y => y.desc == ⟨q, n⟩) = false →
      s.dev.runM (descCtx q x r) (startSearch r.bytes) = (.ok (), k) → Waits (.vsearch q n) s q x r k.iss k.d) ∧
    (∀ part, s.dev.runM (descCtx q x r) (atStage 0 (endPart part)) = (.ok (), k) → Waits (.scannerPartEnd q n part) s q x r k.iss k.d)


/-! Hosts: accesses, the directory, back-invalidates, timeouts, decoders and revocations. -/

/-- The frame of the line at `off` is in T0 with entry `e`, and nothing holds an access of it: the part runs, its root and leaf are good, no
move and no OPEN record is outstanding, no extents are defined, and nothing waits at home. -/
def Sys2Proof.Claims.HomeFree (d : Dev) (off : Nat) (e : TEntry) : Prop :=
  d.power.st = .run ∧ d.power.ready = true ∧ d.mapOn = true ∧ d.rootBusy = [] ∧ d.lostLeaves = [] ∧
  d.entry (off / 65536) = some e ∧ e.tier = 0 ∧ e.psn = false ∧ smGet? (off / 65536) d.moves = none ∧
  smGet? (off / 65536) d.openPend = none ∧ d.extOn = false ∧ d.refused = [] ∧ d.waiting = [] ∧ d.presented = []

/-- A host of an LD that may be served at `off`: the link is up, the LD is active, its HPA names the line, a tracker is free, no sweep or
revocation stands against it, and its accesses are not sampled. -/
def Sys2Proof.Claims.HostFree (d : Dev) (ld hpa off : Nat) : Prop :=
  d.power.linkUp = true ∧ ld ∈ d.activeLds ∧ (∃ a, d.hpaOff ld hpa = some a ∧ 64 * (a / 64) = off) ∧ d.hasTracker ld = true ∧
  d.unresp = [] ∧ d.revs = [] ∧ (d.reg (pmcKey (64 * ld) 0x90)).testBit 0 = false

/-- R92: a host read of a line that no host holds, in T0 and unhindered, is answered from home at once, with the line's data and
poison. It completes S, E or with no state, as it asked, and the directory then lists the host in SHARED or OWNED, or lists
nothing. Of the rest only LAST of the frame, the cached directory sets, counters and what is noted of the request may change: no byte of
memory does.
The model's own choices it may rest on are in log entries 57, 61. -/
def Obligations.HostReadIsServedFromHome : Prop :=
  ∀ (s : State) (ld hpa off tag : Nat) (ask : Ask) (e : TEntry), HomeFree s.dev off e → HostFree s.dev ld hpa off →
    smGet? (plineOf e.loc off) s.dev.dir = none → (s.dev.setEntries (dirSet (plineOf e.loc off))).length < 8 →
    ∃ t load, exec (.hostRead ld hpa ask tag) s = .next { s with dev := t } ∧
      t = { s.dev with
        out := t.out, dir := t.dir, tmap := t.tmap, dirCache := t.dirCache, regs := t.regs, free := t.free, found := t.found
        lapseOk := t.lapseOk } ∧
      t.out = .hostData ld tag (match ask with | .s => 1 | .a => 2 | .i => 0) load (s.dev.line off) (s.dev.linePoisoned off)
        :: s.dev.out ∧
      t.dir = (match ask with
        | .s => smSet (plineOf e.loc off) ⟨.shared, false, [ld], [ld], none, none⟩ s.dev.dir
        | .a => smSet (plineOf e.loc off) ⟨.owned, false, [ld], [ld], none, none⟩ s.dev.dir
        | .i => s.dev.dir) ∧
      t.tmap = smMod (off / 65536) (fun x => { x with last := s.dev.ageWindow, dirty := x.dirty || false }) s.dev.tmap

/-- R92, R111: a host write of a line that no host holds, in T0 and unhindered and in no erasure group, is applied at home and acknowledged. The
bytes that its mask names take its data, and every other byte of memory reads as before. Of the rest only poison, the frame's LAST
and DIRTY, cached rows, the cached directory sets, counters and what is noted of the request may change.
The model's own choices it may rest on are in log entries 53, 57. -/
def Obligations.HostWriteIsAppliedAtHome : Prop :=
  ∀ (s : State) (ld hpa off tag : Nat) (data : Line) (mask : LineMask) (poison : Bool) (e : TEntry), HomeFree s.dev off e →
    HostFree s.dev ld hpa off → pEgroup (s.dev.precOf e) = 0 → smGet? (plineOf e.loc off) s.dev.dir = none →
    Memory.wf s.dev.mem = true →
    ∃ t load, exec (.hostWrite ld hpa data mask poison tag) s = .next { s with dev := t } ∧
      t = { s.dev with
        out := t.out, mem := t.mem, pois := t.pois, tmap := t.tmap, rowCache := t.rowCache, dirCache := t.dirCache
        regs := t.regs, free := t.free, found := t.found, lapseOk := t.lapseOk } ∧
      t.out = .hostCmp ld tag load :: s.dev.out ∧
      (∀ i < 64, t.byte (off + i) = if mask.getLsbD i then lineByte data i else s.dev.byte (off + i)) ∧
      (∀ a, (a < off ∨ off + 64 ≤ a) → t.byte a = s.dev.byte a)

/-- R92: a device-side read of a line that no host holds, in T0 and unhindered, takes its data from home; a device-side write in no
erasure group is applied there and done. Neither makes a directory entry, and a read changes no byte of memory. R20, R344: a word that
arrives uncorrectable at a node goes on poisoned, with its half of the line as it was, and the node is charged with the error.
The model's own choices it may rest on are in log entries 57, 204. -/
def Obligations.DeviceAccessIsServedFromHome : Prop :=
  ∀ (s : State) (eng : Engine) (off tag : Nat) (data : Line) (mask : LineMask) (poison : Bool) (e : TEntry), off % 64 = 0 →
    HomeFree s.dev off e → smGet? (plineOf e.loc off) s.dev.dir = none →
    (∃ t, exec (.deviceAccess eng off false ⟨data, []⟩ mask poison tag) s = .next { s with dev := t } ∧
      t = { s.dev with
        out := .devData tag (s.dev.line off) (s.dev.poisonAt off) (s.dev.poisonAt (off + 32)) :: s.dev.out, tmap := t.tmap
        dirCache := t.dirCache, free := t.free, found := t.found, lapseOk := t.lapseOk }) ∧
    (pEgroup (s.dev.precOf e) = 0 → Memory.wf s.dev.mem = true →
      ∃ t, exec (.deviceAccess eng off true ⟨data, []⟩ mask poison tag) s = .next { s with dev := t } ∧
        t = { s.dev with
          out := .devDone tag 0 :: s.dev.out, mem := t.mem, pois := t.pois, tmap := t.tmap, rowCache := t.rowCache
          dirCache := t.dirCache, free := t.free, found := t.found, lapseOk := t.lapseOk } ∧
        (∀ i < 64, t.byte (off + i) = if mask.getLsbD i then lineByte data i else s.dev.byte (off + i)) ∧
        (∀ a, (a < off ∨ off + 64 ≤ a) → t.byte a = s.dev.byte a)) ∧
    (∀ (hops : List Hop) (write : Bool) (l : Line) (p0 p1 : Bool) (d : Dev),
      s.dev.crossNodes data (write && poison) (write && poison) hops = ((l, p0, p1), d) →
      Gives (.deviceAccess eng off write ⟨data, hops⟩ mask poison tag) s
        (d.submit (if write then .devWrite eng off l mask p0 p1 tag else .devRead eng off p0 p1 tag))) ∧
    (∀ (h : Hop) (p0 p1 : Bool), h.node < 16 → (v36Decode h.symbols).bad = true →
      s.dev.crossNodes data p0 p1 [h] = ((data, p0 || ! h.upper, p1 || h.upper),
        s.dev.charge (locId 5 h.node) (v36Decode h.symbols).fixed 1))

/-- R36: an HPA inside one committed window n of an LD names the offset HPA - base_n + origin_n, at this node's FA of that offset; and where an HPA names an offset, it lies inside a committed window, and
HPA = base_n + (offset - origin_n). A host's read, write, write-back or clean-eviction notice at an HPA in no committed window of its LD is answered as unsupported and recorded, and changes nothing else. -/
def Obligations.WindowsTranslate : Prop :=
  (∀ (d : Dev) (ld hpa n : Nat) (h : Hdm), n < 8 → smGet? (8 * ld + n) d.hdm = some h → h.base ≤ hpa → hpa < h.base + h.size →
    (∀ k < 8, ∀ g, k ≠ n → smGet? (8 * ld + k) d.hdm = some g → ¬ (g.base ≤ hpa ∧ hpa < g.base + g.size)) →
    d.hpaOff ld hpa = some (hpa - h.base + d.winOrigin ld n)) ∧
  (∀ (d : Dev) (off : Nat), off < 2 ^ 48 → d.ownFa off = (d.rf 0x10000 11 0 <<< 48) ||| off) ∧
  (∀ (d : Dev) (ld hpa off : Nat), d.hpaOff ld hpa = some off → ∃ n h, n < 8 ∧ smGet? (8 * ld + n) d.hdm = some h ∧
    h.base ≤ hpa ∧ hpa < h.base + h.size ∧ off = hpa - h.base + d.winOrigin ld n ∧ hpa = h.base + (off - d.winOrigin ld n)) ∧
  (∀ (s : State) (ld hpa tag : Nat) (c : Instr), s.dev.power.linkUp = true → ld ∈ s.dev.activeLds →
    (∀ n < 8, ∀ h, smGet? (8 * ld + n) s.dev.hdm = some h → ¬ (h.base ≤ hpa ∧ hpa < h.base + h.size)) →
    ((∃ ask, c = .hostRead ld hpa ask tag) ∨ (∃ data mask poison, c = .hostWrite ld hpa data mask poison tag) ∨
      (∃ data poison keepS, c = .hostWriteBack ld hpa data poison keepS tag) ∨ (c = .cleanEvictionNotice ld hpa ∧ tag = 0)) →
    Gives c s ((s.dev.send (.hostUnsupported ld tag)).event .hpaMiss [.ld ld, .fa hpa]))

/-- R35, R37, R88: a decoder commit with BI Enable, one way, base and size multiples of 256 MiB, origin + size within 2^48 and no overlap
in local offset with another window of the LD commits the decoder and says so; a commit that fails a check says so and changes
nothing else. An uncommit takes the decoder away. A size of 0 is refused, and a revocation frees a device without a window: the model's
choices (log entries 179, 181). -/
def Obligations.DecodersCommit : Prop :=
  ∀ (s : State) (ld n base size ways : Nat) (bi : Bool), s.dev.power.linkUp = true → ld ∈ s.dev.activeLds → n < 8 →
    ((bi = true ∧ ways = 1 ∧ 0 < size ∧ base % 2 ^ 28 = 0 ∧ size % 2 ^ 28 = 0 ∧ s.dev.winOrigin ld n + size ≤ 2 ^ 48 ∧
        smGet? (8 * ld + n) s.dev.hdm = none ∧
        (∀ k < 8, ∀ h, smGet? (8 * ld + k) s.dev.hdm = some h →
          s.dev.winOrigin ld n + size ≤ s.dev.winOrigin ld k ∨ s.dev.winOrigin ld k + h.size ≤ s.dev.winOrigin ld n)) →
      Gives (.hdmDecoderCommit ld n base size ways bi) s
        { s.dev with hdm := smSet (8 * ld + n) ⟨base, size⟩ s.dev.hdm, out := .commitResult ld n true :: s.dev.out }) ∧
    ((bi = false ∨ ways ≠ 1 ∨ base % 2 ^ 28 ≠ 0 ∨ size % 2 ^ 28 ≠ 0 ∨ 2 ^ 48 < s.dev.winOrigin ld n + size) →
      Gives (.hdmDecoderCommit ld n base size ways bi) s (s.dev.send (.commitResult ld n false))) ∧
    (∀ h, smGet? (8 * ld + n) s.dev.hdm = some h → s.dev.revs = [] →
      Gives (.hdmDecoderUncommit ld n) s { s.dev with hdm := smErase (8 * ld + n) s.dev.hdm })

/-- R92: the directory's transitions for a line whose entry `x` lists no OVF and is not in BI_WAIT, where every LD answers. A host asking S joins
the sharers; the OWNED holder that asks S keeps the line in SHARED; a host asking A alone takes it in OWNED; a write takes the
entry of a line held only in NONE; and an ask that others' copies stand against sends them BISnpInv, or BISnpData for a read of a
line held in OWNED, each at its own HPA (R36), and holds the request in a tracker, where one is free.
The model's own choices it may rest on are in log entries 51, 52, 53, 25, 178. -/
def Obligations.DirectoryTransitions : Prop :=
  ∀ (d : Dev) (off pl : Nat) (req : MemReq) (x : DirEntry), d.unresp = [] → smGet? pl d.dir = some x → x.bi = none → x.ovf = false →
    x.watch = none → x.ptrs ≠ [] → d.trackerFree (plineStack pl) req = true →
    let d1 := d.cacheSet (dirSet pl)
    let held (inv : Bool) (to_ : List Nat) (r : DirAns × Dev) : Prop := r.1 = .held ∧ r.2 = { d1 with
      dir := smSet pl { x with bi := some ⟨to_, inv, some req, false, false⟩ } d.dir
      timedOut := d.timedOut.filter (fun p => ! (p.2 == pl && to_.contains p.1))
      out := (to_.map (fun l => Out.bisnp l (d.hpaOf l (64 * (off / 64))) inv)).reverse ++ d.out }
    (x.st = .shared → ∀ l,
      d.dirStage off pl (some l) .s req = (.serve, { d1 with dir := smSet pl (addSharer x l) d.dir }) ∧
      d.dirStage off pl (some l) .i req = (.serve, d1) ∧
      (x.ptrs.filter (· ≠ l) = [] → d.dirStage off pl (some l) .a req =
        (.serve, { d1 with dir := smSet pl ⟨.owned, false, [l], [l], none, none⟩ d.dir })) ∧
      (x.ptrs.filter (· ≠ l) ≠ [] → held true (x.ptrs.filter (· ≠ l)) (d.dirStage off pl (some l) .a req)) ∧
      (x.ptrs ≠ [] → held true x.ptrs (d.dirStage off pl none .w req))) ∧
    (x.st = .owned → ∀ h, x.ptrs = [h] → ∀ l, l ≠ h →
      d.dirStage off pl (some h) .s req = (.serve, { d1 with dir := smSet pl ⟨.shared, false, [h], [h], none, none⟩ d.dir }) ∧
      d.dirStage off pl (some h) .w req = (.serve, { d1 with dir := smErase pl d.dir, snoopDue := nsDel pl d.snoopDue }) ∧
      held false [h] (d.dirStage off pl (some l) .s req) ∧ held false [h] (d.dirStage off pl none .i req) ∧
      held true [h] (d.dirStage off pl (some l) .a req) ∧ held true [h] (d.dirStage off pl none .w req))

/-- R92, R99: a back-invalidate answer that is awaited has its data applied and its LD taken off the wait before the request that holds
the tracker goes on; one that nothing awaits is counted as late and otherwise ignored. R92: the write-back of a dirty line by its OWNED holder is applied at home, and the entry goes to SHARED with that host where it keeps
the line, or is gone; a clean-eviction notice takes the host off the entry of a line it holds, and BIConflict is acknowledged.
The model's own choices it may rest on are in log entries 51, 54. -/
def Obligations.SnoopsAreAnsweredAndLinesGivenBack : Prop :=
  (∀ (s : State) (ld hpa a pl : Nat) (keepS poison : Bool), s.dev.power.linkUp = true → ld ∈ s.dev.activeLds →
     s.dev.hpaOff ld hpa = some a → s.dev.pline (64 * (a / 64)) = some pl → (ld, pl) ∉ s.dev.timedOut →
     let off := 64 * (a / 64)
     (∀ (x : DirEntry) (b : BiWait) (data : Line), smGet? pl s.dev.dir = some x → x.bi = some b → ld ∈ b.await →
       ld ∉ s.dev.unresp →
       let y : DirEntry := { x with
         ptrs := if keepS && ! b.inv then x.ptrs else x.ptrs.filter (· ≠ ld)
         bi := some { b with await := b.await.filter (· ≠ ld) } }
       Gives (.birsp ld hpa keepS none poison) s (s.dev.biFinish pl y) ∧
       Gives (.birsp ld hpa keepS (some data) poison) s ((s.dev.applyWrite off data fullMask poison none).1.biFinish pl y)) ∧
     ((∀ x, smGet? pl s.dev.dir = some x → x.bi = none) →
       ∀ wb, Gives (.birsp ld hpa keepS wb poison) s (s.dev.stat 0x8010 47 32 1))) ∧
  (∀ (s : State) (ld hpa a pl : Nat) (x : DirEntry) (e : TEntry), HostFree s.dev ld hpa (64 * (a / 64)) →
     s.dev.hpaOff ld hpa = some a → smGet? pl s.dev.dir = some x → x.bi = none → x.watch = none → x.ovf = false →
     let off := 64 * (a / 64)
     s.dev.pline off = some pl → s.dev.pline a = some pl →
     (∀ (data : Line) (poison keepS : Bool) (tag : Nat), HomeFree s.dev off e → x.st = .owned → x.ptrs = [ld] →
       pEgroup (s.dev.precOf e) = 0 → Memory.wf s.dev.mem = true →
       ∃ t load, exec (.hostWriteBack ld hpa data poison keepS tag) s = .next { s with dev := t } ∧
         t.out = .hostCmp ld tag load :: s.dev.out ∧
         (∀ i < 64, t.byte (off + i) = lineByte data i) ∧ (∀ b, (b < off ∨ off + 64 ≤ b) → t.byte b = s.dev.byte b) ∧
         t.dir = if keepS then smSet pl ⟨.shared, false, [ld], [ld], none, none⟩ s.dev.dir else smErase pl s.dev.dir) ∧
     (s.dev.power.st = .run → s.dev.refused = [] → s.dev.waiting = [] → s.dev.presented = [] → ld ∈ x.ptrs →
       ∃ t, exec (.cleanEvictionNotice ld hpa) s = .next { s with dev := t } ∧
         (x.st = .shared → x.ptrs.filter (· ≠ ld) ≠ [] →
           t = { s.dev with
             dir := smSet pl { x with ptrs := x.ptrs.filter (· ≠ ld) } s.dev.dir, dirCache := t.dirCache, regs := t.regs, free := t.free
             found := t.found, lapseOk := t.lapseOk }) ∧
         (x.st = .owned ∨ x.ptrs.filter (· ≠ ld) = [] →
           t = { s.dev with
             dir := smErase pl s.dev.dir, snoopDue := nsDel pl s.dev.snoopDue, dirCache := t.dirCache, regs := t.regs, free := t.free
             found := t.found, lapseOk := t.lapseOk })) ∧
     Gives (.biconflict ld hpa) s (s.dev.send (.biConflictAck ld (64 * (hpa / 64)))))

/-- R98: a BISnp that an LD has not answered in time ends in four steps: the line is written with poison at home, the wait goes on without
the LD, whose late answer will be known, the LD is treated as unresponsive and a sweep joins, and the timeout is counted and recorded. R100: at the end of a sweep its LDs answer again, and what waited on them is presented.
The model's own choices it may rest on are in log entries 55, 180. -/
def Obligations.SilentHostsAreSwept : Prop :=
  ∀ (s : State),
    (∀ (ld off pl : Nat) (x : DirEntry) (b : BiWait), s.dev.pline off = some pl → smGet? pl s.dev.dir = some x → x.bi = some b →
      ld ∈ b.await →
      let line := 64 * (off / 64)
      let d1 := s.dev.poisonHome line
      let d2 := Dev.biFinish { d1 with timedOut := d1.timedOut ++ [(ld, pl)] } pl (biAnswer x ld false)
      Gives (.bisnpTimeout ld off) s
        (((d2.silence ld).stat 0x8010 63 48 1).event .bisnpTimeout [.ld ld, .fa (d2.ownFa line), .unit (stCode x.st)])) ∧
    (∀ lds, s.dev.sweep = some lds → s.dev.dir = [] →
      Gives .sweepEnd s (Dev.wake { s.dev with unresp := s.dev.unresp.filter (fun l => ! lds.contains l), sweep := none }
        (fun w => match w with | .sweep l => lds.contains l | _ => false)))

/-- R97: the request that stands at a place among the refused ones, with no ticket and nothing that holds it, is presented
again; the ticket of a line that is due next, with fewer than 14 marks on the line and a reserved tracker free, becomes a mark in the
order of marks, is counted, and its request is presented.
The model's own choices it may rest on are in log entries 56, 187. -/
def Obligations.RefusedRequestsGoOn : Prop :=
  ∀ (s : State),
    (∀ (k : Nat) (r : Refused), s.dev.refused[k]? = some r → r.ticket = none → s.dev.holdsTracker r.req = false →
      (s.dev.waiting.any (fun w => w.req == r.req)) = false →
      Gives (.requestRepresent k) s (s.dev.submit r.req).admitHeld) ∧
    (∀ (line : Nat) (r : Refused), s.dev.nextTicket line = some r → (s.dev.marks line).length < 14 →
      s.dev.reservedFree (s.dev.lineNode line) r.req = true →
      Gives (.starvationTicketGrant line) s
        (((Dev.stat { s.dev with
          refused := s.dev.refused.map (fun x => if x.req = r.req then { x with mark := some (s.dev.markCtr + 1), ticket := none } else x)
          markCtr := s.dev.markCtr + 1 } 0x8010 31 16 1).submit r.req).admitHeld))

/-- R103, R106, R309: EXTENT_REVOKE of an extent in ACTIVE at the epoch named, by its composition or a privileged function, installs the
revocation: with HOSTS alone for the LDs of its mask, with COMP for all of them, the extent in REVOKED, its frames unpinned and
its lease given up. The descriptor stays running until the drain ends. R103, R105: the drain of a revocation with nothing left to wait for ends its descriptor with OK; where EXT_REVOKE_TMO runs out first, with no
line left named, the descriptor ends with TIMEOUT. The revocation stays in force, but for LDs that have nothing left to uncommit (R106).
The model's own choices it may rest on are in log entries 59, 126, 181. -/
def Obligations.RevocationsAreInstalledAndDrain : Prop :=
  (∀ (s : State) (q n : Nat) (x : Queue) (r : Started) (e : Extent), Running s.dev q n 0x41 x r → s.dev.extOn = true →
     s.dev.extBy (lf r.bytes 8 4) = some e → (e.comp = r.comp ∨ s.dev.qPriv x.fn = true) → lf r.bytes 12 4 = e.epoch →
     e.st = .active → s.dev.revs.length < 256 → (s.dev.revs.any (fun v => v.desc == some ⟨q, n⟩)) = false →
     (lf r.bytes 18 1 % 4 = 1 → lf r.bytes 16 2 ≠ 0 →
       Waits (.extentRevokeHosts q n) s q x r [] (s.dev.installRev e (lf r.bytes 16 2) (some ⟨q, n⟩))) ∧
     (lf r.bytes 18 1 % 4 = 2 ∨ (lf r.bytes 18 1 % 4 = 3 ∧ lf r.bytes 16 2 ≠ 0) →
       let d := (((s.dev.setExt { e with st := .revoked, peer := none }).markEarly e).unpinRange e.first e.frames).installRev e 0xFFFF
         (some ⟨q, n⟩)
       Waits (.extentRevokeComp q n) s q x r [] (if e.leased then (d.setLease { d.lease e.id with held := false }).askLedger e 3 else d))) ∧
  (∀ (s : State) (extent : Nat) (r : Revocation) (i : DescId), s.dev.revs.find? (fun r => r.extent == extent && r.draining) = some r →
     r.desc = some i → s.dev.linesTracked r.first r.frames = [] →
     (s.dev.heldIn r.lds r.first r.frames = [] → s.dev.movesIn r.first r.frames = false → s.dev.earlyFab r.extent = false →
       s.dev.parityIn r.first r.frames = false →
       Gives (.revokeDrainEnd extent) s
         (Dev.finish ((List.range 16).foldl Dev.freeRevs (s.dev.drainEnded extent)) i.queue i.seq 0 0 0)) ∧
     Gives (.extRevokeTmoExpiry extent) s
       (Dev.finish ((List.range 16).foldl Dev.freeRevs (s.dev.drainEnded extent)) i.queue i.seq 12 0 0))

/-! The turntable and the tier map. -/

/-- What a register access by a path that passes finds: nothing of an access before it is left in the path's latches (R416). -/
def Sys2Proof.Claims.fresh (d : Dev) (p : Path) : Dev := d.setLatch p ⟨none, none⟩

/-- A management register command by path `p` passes (R376, R378, R428). -/
def Sys2Proof.Claims.Passes (d : Dev) (p : Path) : Prop := d.pathAns p none false false = .pass

/-- R22, R73: a sub-block of a promotion whose source has arrived lands: its 4 KiB are filled, its bit is set, and what waits on it goes
on. At the end of the promotion the sub-blocks not yet landed do, the frame's entry names its stack frame in T0, the mover and what held it at a peer or host are free, and
what waits on the frame or for a mover goes on. R77, R83: the OPEN record of a promoted frame goes to the cask that can take it, and then the
frame's writes, which waited for it, go on.
The model's own choices it may rest on are in log entries 45, 49, 173. -/
def Obligations.PromotionsLand : Prop :=
  (∀ (s : State) (f : Nat) (m : Move) (e : TEntry), smGet? f s.dev.moves = some m → smGet? f s.dev.tmap = some e → m.kind = .promote →
    m.queued = 0 → e.psn = false → s.dev.sourceHere f = true →
    (∀ (sub : Nat) (data : List Byte), sub < 16 → m.landed.testBit sub = false →
      (∀ c, m.destTier ≠ 3 → s.dev.moveContent f m e = some c → Gives (.promotionSubblockLand f sub data) s
        (Dev.wake { s.dev.fillSub f sub c.1 c.2 with
          moves := smSet f { m with landed := m.landed ||| 2 ^ sub } (s.dev.fillSub f sub c.1 c.2).moves } (fun w => w == .subBlock f sub))) ∧
      (m.destTier = 3 → Gives (.promotionSubblockLand f sub data) s
        ((s.dev.land f sub m (subCells sub data, [])).wake (fun w => w == .subBlock f sub)))) ∧
    (∀ c, (m.destTier = 3 → m.landed = 65535) → s.dev.moveContent f m e = some c →
      let d1 := (if m.destTier = 3 then s.dev else s.dev.landRest f m c).kilnEvent f e
      let d2 := (d1.setEntry f { e with
        tier := 0, loc := m.dest, mov := false, zero := false
        dirty := e.tier == 1 && (d1.slot e.cslot).busy == 2
        t1c := e.tier == 1 && ! (e.tier == 1 && (d1.slot e.cslot).busy == 2) }).freeSource e m
      Gives (.promotionComplete f) s
        ((Dev.giveOwed { d2 with moves := smErase f d2.moves, promoWait := d2.promoWait.filter (fun p => p.1 != f) }).wake
          (fun w => onMove f w || w == .frameRoom)).tryWanted)) ∧
  (∀ (s : State) (f v n : Nat) (e : TEntry), smGet? f s.dev.openPend = some v → v ≠ openLost → smGet? f s.dev.tmap = some e →
    s.dev.openSlot e.cslot = some n →
    let d := s.dev.appendRec n (frameRec 4 f (s.dev.precOf e) e)
    Gives (.openRecordDurable f) s (Dev.wake { d with openPend := smErase f d.openPend } (fun w => w == .openRecord f)))

/-- R72: with free frames at HIGH or more, demotions end; below LOW, or while they run, victims are demoted until the free frames and
those coming free reach HIGH. R74: a demotion to a cask that can take it, with no line of the frame tracked and no durable parity of
it outstanding, commits: the record goes to the cask, the entry names T1 and the slot, and the stack frame is free. A relocation with
no line tracked gives the frame its new stack frame.
The model's own choices it may rest on are in log entries 9, 44, 46, 36, 37, 174. -/
def Obligations.DemotionsBeginAndCommit : Prop :=
  (∀ s : State, s.dev.mapOn = true → s.dev.power.st = .run → s.dev.wantDemote = [] →
    (max 1 s.dev.waterHigh ≤ s.dev.poolFree → Gives .demotionStart s { s.dev with evicting := false }) ∧
    (s.dev.poolFree < max 1 s.dev.waterHigh → s.dev.poolFree < max 1 s.dev.waterLow →
      Gives .demotionStart s (Dev.evict 64 { s.dev with evicting := true }))) ∧
  (∀ (s : State) (f : Nat) (m : Move) (e : TEntry), smGet? f s.dev.moves = some m → smGet? f s.dev.tmap = some e →
    s.dev.frameLines e = [] →
    (m.kind = .demote → m.destTier = 1 → (s.dev.slot m.destSlot).canTake = true →
      (s.dev.parity.any (fun p => p.frame == f && p.durable)) = false →
      Gives (.demotionCommit f) s ((s.dev.appendRec m.destSlot (s.dev.t1Record f e m).1).demoted f { e with
        tier := 1, cslot := m.destSlot, loc := 0, zero := (s.dev.t1Record f e m).2.1, lossy := (s.dev.t1Record f e m).2.2 })) ∧
    (m.kind = .relocate → s.dev.linesOfLoc e.loc = [] →
      let d1 := { s.dev with
        dir := smEraseRange (1024 * e.loc) (1024 * e.loc + 1024) s.dev.dir
        snoopDue := s.dev.snoopDue.filter (fun pl => pl / 1024 != e.loc)
        coWatch := s.dev.coWatch.filter (fun p => p.1 / 1024 != e.loc)
        timedOut := s.dev.timedOut.filter (fun p => p.2 / 1024 != e.loc)
        moves := smErase f s.dev.moves }
      Gives (.relocationCommit f) s
        (((d1.setEntry f { e with loc := m.dest, mov := false }).wake (fun w => onMove f w || w == .frameRoom)).tryWanted.tryDemotes)))

/-- R82: the loss of a stack takes the copies of leaves that lie in it and is recorded once; a leaf with no copy left is lost. A lost leaf
whose entries have been written again and whose rebuilds have ended is in use again, and what waited goes on. R424: at the end of a leaf's
build its root is no longer busy, and what waited on it goes on. R424: a root that is not populated takes a free leaf slot below LEAVES while no root is busy, and is busy itself where the map is on; a
root without frames is released; a write that neither changes nothing nor can be carried out sets ERR and changes nothing else.
The model's own choices it may rest on are in log entries 41, 42, 43, 176. -/
def Obligations.MapRootsAndLeavesComeAndGo : Prop :=
  (∀ (s : State),
     (∀ (st r l : Nat), st < s.dev.stacks → s.dev.roots = [(r, l)] → s.dev.leafStack l 0 = some st →
       (∀ st', st' ≠ st → s.dev.leafStack l 1 = some st' → Gives (.tierMapCopyLoss st) s
         (Dev.event { s.dev with leafAt := smSet (2 * l) 0 s.dev.leafAt } .mapDegraded [.count 1])) ∧
       (s.dev.leafStack l 1 = none → Gives (.tierMapCopyLoss st) s
         (Dev.event { s.dev with leafAt := smSet (2 * l) 0 s.dev.leafAt, lostLeaves := nsAdd l s.dev.lostLeaves } .mapDegraded [.count 1]))) ∧
     (∀ (leaf root : Nat), s.dev.roots.find? (fun p => p.2 == leaf) = some (root, leaf) → leaf ∈ s.dev.lostLeaves → s.dev.casksLoad = false →
       leaf ∈ s.dev.leafWritten → (∀ f ∈ s.dev.rootFrames root, ∀ o ∈ s.dev.fabOut, o.owner ≠ .rebuild f) →
       (∀ f ∈ s.dev.wantRebuild, f / 65536 ≠ root) →
       Gives (.tierMapRebuild leaf) s (s.dev.finishLeaf leaf root)) ∧
     (∀ root, root ∈ s.dev.rootBusy → s.dev.casksLoad = false → Gives (.leafBuildDone root) s
       (Dev.wake { s.dev.buildLeaf root with rootBusy := nsDel root s.dev.rootBusy } (fun w => w == .root root)))) ∧
  (∀ (s : State) (p : Path) (v : Nat), Passes s.dev p → v.testBit 62 = false →
     let root := bits (s.dev.sel p 0x7024) 15 0
     let leaf := bits v 16 1
     let d := fresh s.dev p
     (v.testBit 0 = true → smGet? root s.dev.roots = none → leaf < s.dev.leaves → leaf ∉ s.dev.leafSlots → s.dev.rootBusy = [] →
       let d1 := { d with roots := smSet root leaf d.roots, leafAt := smErase (2 * leaf) (smErase (2 * leaf + 1) d.leafAt) }
       Gives (.tierRootWrite p v) s (if s.dev.mapOn then { d1 with rootBusy := [root] } else { d1 with rootNew := nsAdd root d.rootNew })) ∧
     (v.testBit 0 = true → smGet? root s.dev.roots = none → (s.dev.leaves ≤ leaf ∨ leaf ∈ s.dev.leafSlots ∨ s.dev.rootBusy ≠ []) →
       Gives (.tierRootWrite p v) s (d.setReg 0x7028 (2 ^ 62))) ∧
     (v.testBit 0 = false → smGet? root s.dev.roots ≠ none → s.dev.rootFrames root = [] → s.dev.rootBusy = [] →
       Gives (.tierRootWrite p v) s { d with roots := smErase root d.roots, rootNew := nsDel root d.rootNew }) ∧
     (v.testBit 0 = false → smGet? root s.dev.roots ≠ none → s.dev.rootFrames root ≠ [] →
       Gives (.tierRootWrite p v) s (d.setReg 0x7028 (2 ^ 62))))

/-- R71: at an age-window boundary the window's number goes on modulo 256, TIER_AGE takes effect, at least 1 ms and at most 60,000 ms, and the
demand notes of windows before the last are forgotten; entries change only at every 64th window. R86, R70: the first write of EN = 1 lays the map out, with LEAVES as written, and its populated roots are busy until their leaves are
built; with SEC_LOCK.TIER set nothing changes. A pin quota is taken while the quotas together stay within 15/16 of the pool, and otherwise
sets TIER_STATUS.QREJ alone.
The model's own choices it may rest on are in log entries 39, 163, 171, 175. -/
def Obligations.AgeWindowsAndTierRegistersAct : Prop :=
  (∀ s : State, ∃ t, exec .ageWindowBoundary s = .next { s with dev := t } ∧
     t = { s.dev with ageWindow := t.ageWindow, ageMs := t.ageMs, demand := t.demand, tmap := t.tmap } ∧
     t.ageWindow = (s.dev.ageWindow + 1) % 256 ∧ 1 ≤ t.ageMs ∧ t.ageMs ≤ 60000 ∧
     (1 ≤ s.dev.rf 0x7004 15 0 → s.dev.rf 0x7004 15 0 ≤ 60000 → t.ageMs = s.dev.rf 0x7004 15 0) ∧
     (t.ageWindow % 64 ≠ 0 → t.tmap = s.dev.tmap) ∧
     (∀ p ∈ t.demand, p ∈ s.dev.demand ∧ ringSub 256 t.ageWindow p.2 ≤ 1)) ∧
  (∀ (s : State) (p : Path) (v : Nat), Passes s.dev p →
     (s.lock.testBit 1 = false → s.dev.mapLaid = false → s.dev.mapOn = false → v.testBit 0 = true →
       ∃ t, exec (.tierMapEnable p v) s = .next { s with dev := t } ∧ t.mapLaid = true ∧ t.mapOn = true ∧ t.leaves = bits v 17 1 ∧
         t.rootNew = [] ∧ (∀ r, r ∈ t.rootBusy ↔ r ∈ smKeys s.dev.roots) ∧ t.tmap = s.dev.tmap ∧ t.mem = s.dev.mem) ∧
     (s.lock.testBit 1 = true → Gives (.tierMapEnable p v) s (fresh s.dev p)) ∧
     (let comp := bits (s.dev.sel p 0x700C) 9 0
      let q := bits v 31 0
      let others := s.dev.quota.foldl (fun a x => if x.1 = comp then a else a + x.2) 0
      (16 * (others + q) ≤ 15 * s.dev.pool →
        Gives (.pinQuotaWrite p v) s { fresh s.dev p with quota := smPut 0 comp q s.dev.quota }) ∧
      (15 * s.dev.pool < 16 * (others + q) → Gives (.pinQuotaWrite p v) s ((fresh s.dev p).setRf 0x7020 3 3 1))))

/-! Descriptors by the steps of their work: which checks, which operands read and which writes let each complete, and its results. -/

/-- A part `m` of a descriptor's work goes from `k` to `k'` and yields `a`: its operands could be read, or its writes be made. -/
def Sys2Proof.Claims.Does {α : Type} (c : Ctx) (m : M α) (k : RunSt) (a : α) (k' : RunSt) : Prop := m c k = (.ok a, k')

/-- The block at the start of a descriptor's work. -/
def Sys2Proof.Claims.begins (s : State) : RunSt := ⟨s.dev, [], 0, [], [], []⟩

/-- A descriptor's work, having gone as far as `k`, ends with a status and two results: its held writes are carried out and its record
has ended. -/
def Sys2Proof.Claims.Ends (i : Instr) (s : State) (q n : Nat) (x : Queue) (r : Started) (k : RunSt) (st r0 r1 : Nat) : Prop :=
  Gives i s (((Dev.commit (descCtx q x r) k.d k.log).chargeRun (descCtx q x r) k.acc).finish q n st r0 r1)

/-- The same where no rule states the two results: they are free values. -/
def Sys2Proof.Claims.EndsOpen (i : Instr) (s : State) (q n : Nat) (x : Queue) (r : Started) (k : RunSt) (st : Nat) : Prop :=
  Ends i s q n x r { k with d := k.d.takeFree.2.takeFree.2 } st (k.d.takeFree.1 % 2 ^ 64) (k.d.takeFree.2.takeFree.1 % 2 ^ 64)

/-- R176, R117, R147: FILL with a length of 1 to 2^40, a pattern of 1, 2, 4 or 8 bytes and a destination that can be written writes the
pattern repeated, and ends with OK. COPY of ranges that do not overlap reads its source and writes it with its poison: POISON where
a byte of it was poisoned. WRITE_ACK of 1 to 24 bytes within a line, to this node or at a scope below FABRIC, writes its bytes; to another node
at FABRIC scope it sends an acknowledged write. GET_INFO writes the 64 bytes of information; QUEUE_CREATE of an existing local queue whose context entry passes its checks creates it
and gives its number. FAULT_RESUME of an outstanding fault takes it away and lets its waiting descriptors walk again, or fails them.
The model's own choices it may rest on are in log entries 50, 68, 76. -/
def Obligations.MovesAndAdminComplete : Prop :=
  ∀ (s : State) (q n : Nat) (x : Queue) (r : Started),
    let c := descCtx q x r
    let l := r.bytes
    (∀ k, Running s.dev q n 0x02 x r → 1 ≤ lf l 16 8 → lf l 16 8 ≤ 2 ^ 40 → lf l 32 1 ∈ [1, 2, 4, 8] → dvaFits (lf l 8 8) (lf l 16 8) = true →
      (65536 ≤ lf l 16 8 ∨ s.dev.noBay = false) →
      Does c (atStage 1 (wrV (lf l 8 8) (repeated (leBytes (lf l 32 1) (lf l 24 8)) (lf l 16 8)))) (begins s) () k →
      EndsOpen (.fill q n) s q n x r k 0) ∧
    (∀ bs ps k1 ds k2 k3, Running s.dev q n 0x01 x r → 1 ≤ lf l 24 8 → lf l 24 8 ≤ 2 ^ 40 →
      (lf l 8 8 + lf l 24 8 ≤ lf l 16 8 ∨ lf l 16 8 + lf l 24 8 ≤ lf l 8 8) →
      dvaFits (lf l 8 8) (lf l 24 8) = true → dvaFits (lf l 16 8) (lf l 24 8) = true → (65536 ≤ lf l 24 8 ∨ s.dev.noBay = false) →
      Does c (atStage 0 (rdRawV (lf l 8 8) (lf l 24 8))) (begins s) (bs, ps) k1 → Does c (xlateAll 2 (pagesOf (lf l 16 8) (lf l 24 8))) k1 ds k2 →
      Does c (atStage 1 (wrPiecesMixed ds (bs.zip ps))) k2 () k3 →
      EndsOpen (.copy q n) s q n x r k3 (if ps.any id then 2 else 0)) ∧
    (∀ fa k1 k2, Running s.dev q n 0x04 x r → 1 ≤ lf l 16 1 → lf l 16 1 ≤ 24 → lf l 8 8 % 64 + lf l 16 1 ≤ 64 → lf l 17 1 % 8 ≤ 4 →
      Does c (xlate (lf l 8 8) 2) (begins s) fa k1 → (k1.d.isOwn fa = true ∨ lf l 17 1 % 8 ≠ 4) →
      Does c (wr fa (leBytes (lf l 16 1) (lf l 40 24))) k1 () k2 → Ends (.writeAck q n) s q n x r k2 0 0 0) ∧
    (∀ fa k1 k2, Running s.dev q n 0x04 x r → 1 ≤ lf l 16 1 → lf l 16 1 ≤ 24 → lf l 8 8 % 64 + lf l 16 1 ≤ 64 → lf l 17 1 % 8 = 4 →
      Does c (xlate (lf l 8 8) 2) (begins s) fa k1 → k1.d.isOwn fa = false → k1.d.issueStatus (fa / 2 ^ 48) = none →
      Does c (noteAcc fa true false false) k1 () k2 →
      let run := runLine ⟨fa, leBytes (lf l 16 1) (lf l 40 24), false⟩
      let d := k2.d.writeOut (fa / 2 ^ 48) c.sidx 2 (leBytes 8 (64 * (fa / 64)) ++ leBytes 8 run.2.toNat ++ lineBytes run.1) true false
        (.desc c.did (fa / 64))
      Ends (.writeAck q n) s q n x r { k2 with d := d } 0 0 0) ∧
    (∀ k, Running s.dev q n 0x84 x r → Does c (wrV (lf l 8 8) (infoBytes s.dev x.fn)) (begins s) () k →
      Ends (.getInfo q n) s q n x r k 0 0 0) ∧
    (∀ d, Running s.dev q n 0x80 x r → 1 ≤ lf l 8 2 → lf l 8 2 < s.dev.qCount x.fn → s.dev.createQueue x.fn (lf l 8 2) = (some 0, d) →
      Ends (.queueCreate q n) s q n x r { begins s with d := d } 0 (d.qBase x.fn + lf l 8 2) 0) ∧
    (∀ f k, Running s.dev q n 0x83 x r → Does c (otherFns (lf l 8 4 % 2 ^ 20)) (begins s) false k →
      k.d.faults.find? (fun f => f.pasid == lf l 8 4 % 2 ^ 20 && f.id == lf l 12 4 && f.written && f.kind != 4) = some f →
      (lf l 16 1 = 0 → Ends (.faultResumeRetry q n) s q n x r { k with d := (k.d.dropFault f.id).resumeWaiters f.waiters f.page f.kind } 0 0 0) ∧
      (lf l 16 1 = 1 → Ends (.faultResumeFail q n) s q n x r { k with d := (k.d.dropFault f.id).failWaiters f } 0 0 0))

/-- R68, R69: PLACE with an operand block that can be read. WRITE_RECORD of a valid record of the submitter's composition, whose
pins keep to the quota, replaces the record, and the frames bound to it take its PIN and are asked for where it does not allow their
tier. BIND, DEMOTE and PROMOTE of frames that pass the checks of the range bind every frame,
or ask for the demotion of those that can be demoted, or for the promotion of those outside it. RESULT0 is the number of frames.
The model's own choices it may rest on are in log entries 45, 48, 172. -/
def Obligations.PlacementsComplete : Prop :=
  ∀ (s : State) (q n : Nat) (x : Queue) (r : Started) (p : PlaceOp) (k : RunSt),
    let c := descCtx q x r
    Running s.dev q n 0x08 x r → Does c (placeOp r.bytes) (begins s) p k →
    (let bound := k.d.tmap.filter (fun e => e.2.prec == p.prec)
      let more := (bound.filter (fun e => ! e.2.pin)).length
      let d := bound.foldl (fun (d : Dev) e =>
        let d := if pPin p.record then (if e.2.pin then d else d.pinFrame e.1 e.2) else d.modEntry e.1 (fun y => { y with pin := false })
        if pTier p.record e.2.tier then d else { d with wantPromo := nsAdd e.1 d.wantPromo })
        { k.d with precs := smSet p.prec p.record k.d.precs }
      p.action = 0 → p.prec ≠ 0 → k.d.precOk p.record = true → (pValid (k.d.precRaw p.prec) = true → pComp (k.d.precRaw p.prec) = r.comp) →
      pComp p.record = r.comp → (pPin p.record = false ∨ more = 0 ∨ k.d.overQuota r.comp more = false) →
      Ends (.placeWriteRecord q n) s q n x r { k with d := if d.mapOn then d.tryWanted else d } 0 0 0) ∧
    (∀ fs k', Does c (placeFrames p) k fs k' →
      (let more := (fs.filter (fun f => match k'.d.entry f with | some e => ! e.pin | none => true)).length
        ∀ m d, p.action = 1 → k'.d.mapOn = true → fs.all k'.d.rooted = true →
        (∀ f ∈ fs, f / 65536 ∉ k'.d.rootBusy ∧ smGet (f / 65536) 65536 k'.d.roots ∉ k'.d.lostLeaves) →
        (pPin (k'.d.prec p.prec) = false ∨ more = 0 ∨ k'.d.overQuota r.comp more = false) →
        Dev.bindAll p.prec 0 fs k'.d = (m, none, d) → Ends (.placeBind q n) s q n x r { k' with d := d.tryWanted } 0 m 0) ∧
      (p.action = 2 → Ends (.placeDemote q n) s q n x r { k' with
        d := Dev.tryDemotes (fs.foldl (fun d f => match d.entry f with
          | some e => if d.canDemote f e then { d with wantDemote := nsAdd f d.wantDemote } else d
          | none => d) k'.d) } 0 p.frames 0) ∧
      (p.action = 3 → Ends (.placePromote q n) s q n x r { k' with
        d := Dev.tryWanted (fs.foldl (fun d f => match d.entry f with
          | some e => if e.tier = 0 then d else { d with wantPromo := nsAdd f d.wantPromo }
          | none => d) k'.d) } 0 p.frames 0))

/-- The same as `Ends` where what follows the last write only accounts: no held write and no byte of memory changes any more. -/
def Sys2Proof.Claims.EndsKept (i : Instr) (s : State) (q n : Nat) (x : Queue) (r : Started) (k : RunSt) (st r0 r1 : Nat) : Prop :=
  ∃ k', k'.log = k.log ∧ k'.acc = k.acc ∧ k'.d.mem = k.d.mem ∧ k'.d.pois = k.d.pois ∧ Ends i s q n x r k' st r0 r1

/-- R188, R191: KV_APPEND of rows that do not fill the block writes the converted K and V rows at their positions and ends with OK;
rows that fill it seal it, with the results of the seal. KV_RELEASE of a matching registry entry empties it on its last
reference, with bit 3 of RESULT1, and otherwise leaves it with one reference less, which RESULT1 gives.
The model's own choices it may rest on are in log entries 91, 92. -/
def Obligations.KvBlocksComplete : Prop :=
  ∀ (s : State) (q n : Nat) (x : Queue) (r : Started),
    let c := descCtx q x r
    let l := r.bytes
    Running s.dev q n 0x11 x r →
    (∀ fa k1 e src k2 rows k3 k4,
      let size := kvBlockBytes (lf l 45 1) (lf l 40 2)
      let row := kvRowBytes (lf l 45 1) (lf l 40 2)
      let sb := (vecBytes (lf l 44 1) (lf l 40 2)).getD 0
      lf l 46 1 = 0 → okDim (lf l 40 2) = true → lf l 42 1 ≤ 63 → 1 ≤ lf l 43 1 → lf l 42 1 + lf l 43 1 ≤ 64 → lf l 47 1 ≤ 1 →
      lf l 48 16 = 0 → okKvFmt (lf l 45 1) = true → (lf l 44 1 ∈ [0x00, 0x01, 0x02] ∨ lf l 44 1 = lf l 45 1) →
      dimFits (lf l 40 2) (lf l 45 1) = true → Does c (xlate (lf l 16 8) 2) (begins s) fa k1 → blockOk fa size = true →
      k1.d.isOwn fa = true → k1.d.entry (faOff fa / 65536) = some e → pLossy (k1.d.precOf e) = false → k1.d.noBay = false →
      (lf l 42 1 + lf l 43 1 = 64 → lf l 47 1 = 1 → k1.d.regOn = true) →
      Does c (atStage 0 (rdV (lf l 8 8) (2 * lf l 43 1 * sb))) k1 src k2 →
      convertRows (lf l 44 1) (lf l 45 1) (lf l 40 2) ((List.range (2 * lf l 43 1)).map (fun i => slice src (i * sb) sb)) = some rows →
      Does c (atStage 2 (wr (fa + lf l 42 1 * row) (rows.take (lf l 43 1)).flatten)) k2 () k3 →
      Does c (atStage 2 (wr (fa + (64 + lf l 42 1) * row) (rows.drop (lf l 43 1)).flatten)) k3 () k4 →
      (lf l 42 1 + lf l 43 1 < 64 → Ends (.kvAppend q n) s q n x r k4 0 0 0) ∧
      (lf l 42 1 + lf l 43 1 = 64 → ∀ a b k5, Does c (sealBlock l fa size) k4 (a, b) k5 → Ends (.kvAppend q n) s q n x r k5 0 a b)) ∧
    (∀ fp k1 fa k2 es k3 i, lf l 46 1 = 1 → s.dev.regOn = true → Does c (rdV (lf l 8 8) 16) (begins s) fp k1 →
      Does c (xlate (lf l 16 8) 1) k1 fa k2 → Does c (bucketOf fp) k2 es k3 → matching es fp r.comp = some i →
      let e := nth es i ⟨[], 0, 0, 0, false⟩
      e.block = fa →
      let k := { k3 with d := k3.d.takeFree.2 }
      let r0 := k3.d.takeFree.1 % 2 ^ 64
      (∀ k4, e.refs ≤ 1 → Does c (wrEntry fp i (List.replicate 32 0)) k () k4 → Ends (.kvRelease q n) s q n x r k4 0 r0 8) ∧
      (∀ k4, 1 < e.refs → Does c (wrEntry fp i (regEntryBytes { e with refs := e.refs - 1 })) k () k4 →
        Ends (.kvRelease q n) s q n x r k4 0 r0 (2 ^ 32 * (e.refs - 1))))

/-- R209 to R211, R213, R225, R228: descriptors of embedding tables. GATHER_POOL pools every bag whose operands it could read: RESULT0 counts the
indices pooled, RESULT1 the skipped ones and the bags unwritten, with POISON where there is one. SCATTER_ADD updates the rows
of each round once: RESULT0 the rows, RESULT1 the updates and the skipped indices. TABLE_SWITCH installs its record under the next
version, which is RESULT0, and RESULT1 is the version before. A move of rows ends when every row of its list has moved.
The model's own choices it may rest on are in log entries 97, 98, 99, 94, 96, 184, 185, 186, 195. -/
def Obligations.TablesComplete : Prop :=
  ∀ (s : State) (q n : Nat) (x : Queue) (r : Started),
    let c := descCtx q x r
    let l := r.bytes
    (∀ ob k1 t k2 obs k3 ib k4 os k5 wp k6 places k7 k8 a y k9 k10,
      let h := lf l 24 4
      let part := bit (lf l 44 1) 0
      let offs := (List.range (lf l 36 4 + 1)).map (fun i => indexAt 1 obs i)
      let items := List.zipWith (fun (o : Occ) w => (o.row, (o.poison, w))) os (weightsOf (lf l 43 1) (lf l 32 4) wp.1 wp.2)
      let sts := (if y.unwritten > 0 then [2] else []) ++ y.stop.toList
      Running s.dev q n 0x18 x r → s.dev.embOn = true → 1 ≤ lf l 32 4 → 1 ≤ lf l 36 4 → lf l 36 4 ≤ 16777216 → lf l 40 1 ≤ 2 →
      lf l 8 8 % 32 = 0 → Does c (rdV (lf l 8 8) 32) (begins s) ob k1 →
      Does c (bindTable (lf l 28 4) (! (lf l 43 1 != 0x1F && lf l 40 1 == 2) && ! (fld ob 16 8 == 0 && lf l 43 1 != 0x1F))
        ((part || [0x00, 0x01, 0x02].contains (lf l 41 1)) && decide (lf l 42 1 ≤ 1) && [0x00, 0x01, 0x02, 0x1F].contains (lf l 43 1))) k1 t k2 →
      s.dev.noBay = false → Does c (atStage 2 (rdV (fld ob 8 8) (8 * (lf l 36 4 + 1)))) k2 obs k3 → offsetsOk offs (lf l 32 4) = true →
      Does c (atStage 0 (rdRawV (fld ob 0 8) (lf l 32 4 * indexBytes (lf l 42 1)))) k3 ib k4 →
      Does c (occurrences t (lf l 42 1) (lf l 32 4) (bit (lf l 44 1) 1) ib.1 ib.2) k4 os k5 →
      Does c (if lf l 43 1 = 0x1F then pure ([], []) else atStage 2 (rdRawV (fld ob 16 8) (lf l 32 4 * (elemBits (lf l 43 1) / 8)))) k5 wp k6 →
      Does c (placeRows t (distinct (os.filterMap (·.row)))) k6 places k7 → Does c (askRows t places) k7 () k8 →
      Does c (poolRounds h (k8.d.rowSets h t) t ⟨lf l 40 1, lf l 41 1, part, lf l 43 1 != 0x1F, lf l 16 8,
          if part then 4 + 4 * t.dim else t.dim * (elemBits (lf l 41 1) / 8)⟩
        (roundsOf (k8.d.roundCap (64 * ceilDiv t.used 64) t.dim) places (cutAt offs items)) ⟨k8.d.rowCache, 0, 0, [], []⟩
        ⟨0, 0, ⟨[], 0, false⟩, none⟩) k8 (a, y) k9 → Does c (batchEnds a) k9 () k10 →
      EndsKept (.gatherPool q n) s q n x r k10 (sts.foldl worse 0) (y.pooled % 2 ^ 64)
        (((os.filter (fun o => o.row.isNone && ! o.poison)).length % 2 ^ 32 + 2 ^ 32 * y.unwritten) % 2 ^ 64)) ∧
    (∀ t k1 ib k2 os k3 ub k4 places k5 k6 a y k7 k8,
      let h := lf l 24 4
      let items := ((List.range (lf l 32 4)).zip os).map (fun (x : Nat × Occ) => [(x.2.row, x.1)])
      Running s.dev q n 0x19 x r →
      Does c (bindTable (lf l 28 4) (s.dev.embOn && decide (lf l 32 4 ≥ 1) && ! (v32 (lf l 36 4)).special)
        (decide (lf l 40 1 ≤ 1) && [0x00, 0x01, 0x02].contains (lf l 41 1))) (begins s) t k1 → s.dev.noBay = false →
      Does c (atStage 2 (rdRawV (lf l 8 8) (lf l 32 4 * indexBytes (lf l 40 1)))) k1 ib k2 →
      Does c (occurrences t (lf l 40 1) (lf l 32 4) (bit (lf l 42 1) 1) ib.1 ib.2) k2 os k3 →
      Does c (atStage 0 (rdRawV (lf l 16 8) (lf l 32 4 * (vecBytes (lf l 41 1) t.dim).getD 0))) k3 ub k4 →
      Does c (placeRows t (distinct (os.filterMap (·.row)))) k4 places k5 → Does c (askRows t places) k5 () k6 →
      Does c (addRounds ⟨h, t, v32 (lf l 36 4), lf l 41 1, ub.1, ub.2⟩ (k6.d.rowSets h t)
        (roundsOf (k6.d.roundCap (64 * ceilDiv (4 * t.dim) 64) 0) places items) ⟨k6.d.rowCache, 0, 0, [], []⟩
        ⟨[], 0, [], if os.any (·.poison) then [2] else []⟩) k6 (a, y) k7 →
      Does c (do lockRows y.locks; batchEnds a) k7 () k8 →
      EndsKept (.scatterAdd q n) s q n x r k8 (y.sts.foldl worse 0) (y.rows.length % 2 ^ 64)
        ((y.upd % 2 ^ 32 + 2 ^ 32 * (os.filter (fun o => o.row.isNone && ! o.poison)).length) % 2 ^ 64)) ∧
    (∀ bs k1 old k2 k3, Running s.dev q n 0x1A x r → r.step = 0 → s.dev.embOn = true → lf l 16 4 < s.dev.handles → lf l 24 1 = 0 →
      s.dev.switchTurn (lf l 16 4) c.did = true →
      Does c (rdV (lf l 8 8) 64) (begins s) bs k1 → (tableRec bs).ok = true → Does c (handleRec (lf l 16 4)) k1 old k2 →
      (tableRec bs).comp = r.comp → (old.valid = true → old.comp = r.comp) →
      (bit (lf l 25 1) 1 = true ∨ lf l 20 4 = old.current) →
      Does c (wrOwn (s.dev.handleAt (lf l 16 4)) (splice bs 40 (leBytes 4 (nextVersion old.current)))) k2 () k3 →
      (bit (lf l 25 1) 0 = false ∨ s.dev.boundOld (lf l 16 4) (nextVersion old.current) = false) →
      Ends (.tableSwitch q n) s q n x r { k3 with d := k3.d.reshare (lf l 16 4) (tableRec bs) } 0 (nextVersion old.current) old.current) ∧
    (∀ t k1, Running s.dev q n 0x1A x r → s.dev.embOn = true → lf l 16 4 < s.dev.handles → lf l 24 1 = 1 →
      s.dev.switchTurn (lf l 16 4) c.did = true →
      r.step = (movePairs r.note).length + 1 → Does c (handleRec (lf l 16 4)) (begins s) t k1 →
      (∀ m ∈ s.dev.rowMoves, m.desc ≠ c.did) → k1.d = s.dev →
      EndsKept (.tableMove q n) s q n x r k1 0 (movePairs r.note).length 0)

/-- R256 to R258, R168 to R174: OPT_STEP whose operand blocks pass their checks updates the rows that its gradients name: RESULT0 the rows
updated, RESULT1 those skipped by stamp and as not finite, and the lowest status met. STREAM whose stages pass their checks hands its vectors from
source to sink: RESULT0 the vectors handed to the sink, RESULT1 those of the source.
The model's own choices it may rest on are in log entries 80 to 87, 93, 78, 94, 185, 198, 199. -/
def Obligations.UpdatesAndStreamsComplete : Prop :=
  ∀ (s : State) (q n : Nat) (x : Queue) (r : Started),
    let c := descCtx q x r
    let l := r.bytes
    (∀ hb k1 ob k2 gb k3 ib k4 t k5,
      let h := optHyp hb
      let o := optState ob
      let rows := lf l 40 4
      let w := indexBytes (lf l 46 1)
      let at_ (i : Nat) : Int := indexAt (lf l 46 1) ib.1 i
      let all := List.range rows
      let good := all.filter (fun i => ! ((ib.2.drop (i * w)).take w).any id)
      let okIdx (i : Nat) : Bool := decide (0 ≤ at_ i ∧ at_ i < o.rows)
      let named := if lf l 32 8 = 0 then all.map (fun i => (i, i)) else (good.filter okIdx).map (fun i => ((at_ i).toNat, i))
      let sts := (if lf l 32 8 ≠ 0 && good.length < rows then [2] else []) ++ (if lf l 32 8 ≠ 0 && ! good.all okIdx then [10] else [])
      Running s.dev q n 0x28 x r → 1 ≤ rows → lf l 44 1 ≤ 2 → lf l 16 8 % 64 = 0 → lf l 24 8 % 64 = 0 →
      Does c (rdV (lf l 16 8) 64) (begins s) hb k1 → Does c (rdV (lf l 24 8) 64) k1 ob k2 →
      hypOk (lf l 44 1) h = true → o.inRange (lf l 44 1) = true → (lf l 32 8 ≠ 0 ∨ rows ≤ o.rows) →
      (isMx (lf l 45 1) = false ∨ o.rowLen % 32 = 0) → lf l 45 1 ∈ gradFmts → lf l 46 1 ≤ 1 → o.fmtsOk (lf l 44 1) = true → k2.d.noBay = false →
      Does c (atStage 0 (rdRawV (lf l 8 8) (rows * (vecBytes (lf l 45 1) o.rowLen).getD 0))) k2 gb k3 →
      Does c (if lf l 32 8 = 0 then pure ([], []) else atStage 0 (rdRawV (lf l 32 8) (rows * w))) k3 ib k4 →
      Does c (atStage 2 (optAll o (lf l 44 1) h (lf l 48 4) (bit (lf l 47 1) 0) (optJobs o h (lf l 45 1) gb.1 gb.2 (groupRows named)) sts)) k4 t k5 →
      EndsKept (.optStep q n) s q n x r k5 (t.sts.foldl worse 0) (t.upd % 2 ^ 64) ((t.stamped % 2 ^ 32 + 2 ^ 32 * t.nonFin) % 2 ^ 64)) ∧
    (∀ bs k1 src rest e0 more sink e1 os k2 vs k3,
      let mid := (rest.zip more).dropLast
      let work := (mid.zip os).map (fun x => (x.1.1, x.1.2, x.2))
      Running s.dev q n 0x30 x r → lf l 8 8 % 32 = 0 → 2 ≤ lf l 16 1 → lf l 16 1 ≤ 6 → 1 ≤ lf l 20 4 → lf l 20 4 ≤ 65536 →
      1 ≤ lf l 24 8 → lf l 24 8 ≤ 2 ^ 40 → Does c (rdV (lf l 8 8) (32 * lf l 16 1)) (begins s) bs k1 →
      (List.range (lf l 16 1)).map (fun i => { stageOf (slice bs (32 * i) 32) with pos := i }) = src :: rest →
      streamChecks (lf l 20 4) (src :: rest) = .ok (e0 :: more) → k1.d.noBay = false →
      (src :: rest).getLast? = some sink → (e0 :: more).getLast? = some e1 → Does c (operands mid) k1 os k2 →
      Does c (atStage 0 (sourceVecs src ((rest.head?.map (·.code)) == some scKiln) (lf l 20 4) (lf l 24 8) e0.bytes)) k2 vs k3 →
      (∀ out k4 ends k5, (∀ y, work.getLast? = some y → y.1.code ≠ scOpt) → Does c (runStages e0 work vs) k3 out k4 →
        Does c (atStage sink.pos (sinkVecs sink e1 out.1)) k4 ends k5 →
        EndsKept (.streamRun q n) s q n x r k5 ((out.2 ++ ends).foldl worse 0) (out.1.length % 2 ^ 64) (vs.length % 2 ^ 64)) ∧
      (∀ u e o out k4 a b st k5, work.getLast? = some (u, e, o) → u.code = scOpt → Does c (runStages e0 work.dropLast vs) k3 out k4 →
        Does c (updateStream u sink e.len e.span e1.bytes o out.1 out.2 vs.length) k4 (st, a, b) k5 →
        EndsKept (.streamRun q n) s q n x r k5 st a b))

/-- R196 to R202, R244, R245, R247, R248: ATTN_PARTIAL, whose operands could be read and whose parts all came back good, merges them and writes one
record a head: RESULT0 counts the KV rows, RESULT1 the blocks read in place and those forwarded. The end of a search's last round writes the
nearest K: SHORT where there are fewer. VINSERT and VDELETE apply their entries in order: RESULT0 those applied, RESULT1 those
skipped.
The model's own choices it may rest on are in log entries 89, 100, 101, 102, 78, 183, 203. -/
def Obligations.AttentionAndSearchComplete : Prop :=
  ∀ (s : State) (q n : Nat) (x : Queue) (r : Started),
    let c := descCtx q x r
    let l := r.bytes
    (∀ ob k1 qb k2 bb k3 lb k4 qs own k5 cs k6 parts k7 heads k8 k9,
      let sh : AttnShape := ⟨fld ob 30 1, fld ob 28 2, fld ob 31 1, fld ob 32 1, fld ob 24 4⟩
      let limits := fld ob 16 8 != 0
      let inPlace := bit (lf l 28 1) 0
      let blocks := (List.range (lf l 24 4)).map (fun i => (fld bb (8 * i) 8, if limits then fld lb (4 * i) 4 else 64))
      let size := 8 + sh.dim * 4
      Running s.dev q n 0x10 x r → 1 ≤ lf l 24 4 → lf l 24 4 ≤ 1048576 → lf l 8 8 % 64 = 0 → Does c (rdV (lf l 8 8) 64) (begins s) ob k1 →
      attnShapeStatus sh (fld ob 33 1) = 0 → k1.d.noBay = false →
      Does c (atStage (1 + b2n inPlace) (rdV (fld ob 0 8) (sh.g * (vecBytes sh.qfmt sh.dim).getD 0))) k1 qb k2 →
      Does c (atStage 0 (rdV (fld ob 8 8) (8 * lf l 24 4))) k2 bb k3 →
      Does c (if limits then atStage 0 (rdV (fld ob 16 8) (4 * lf l 24 4)) else pure []) k3 lb k4 → queries sh qb = some qs →
      Does c (splitOnce sh qb limits inPlace blocks) k4 own k5 → Does c (attnChunks sh inPlace own.1) k5 cs k6 → Does c partsOf k6 parts k7 →
      (∀ k ∈ parts.2, ∃ p ∈ parts.1, p.key = k) →
      (∀ st ∈ own.2.1 ++ (chunkParts cs).flatMap partEnds ++ parts.1.flatMap partStatuses, st = 0) →
      Does c (attnHeads sh (chunkParts cs) (fun g => parts.1.map (fun p => recordPart sh.dim (slice p.recs (g * size) size))) 0 qs) k7 heads k8 →
      Does c (atStage (4 + b2n inPlace) (writeRecords (lf l 16 8) (fld ob 33 1) (8 + sh.dim * (elemBits (fld ob 33 1) / 8)) 0 heads)) k8 () k9 →
      EndsKept (.attnPartial q n) s q n x r k9 0 (((chunkCounts cs).1 + (parts.1.map (·.res0)).foldl (· + ·) 0) % 2 ^ 64)
        ((((chunkCounts cs).2 + (parts.1.map (fun p => p.res1 % 2 ^ 32)).foldl (· + ·) 0) % 2 ^ 32 + 2 ^ 32 * own.2.2) % 2 ^ 64)) ∧
    (∀ y order k1 k2 z best k3 k4,
      let o := searchOps (leBytes 64 z.ops)
      let g := indexRec (leBytes 128 z.index)
      let near := mergeCands o.keep z.heap
      let out := best.take o.k
      Running s.dev q n 0x20 x r → s.dev.searches.find? (fun v => v.desc == ⟨q, n⟩) = some y →
      Does c (arrivals (List.range y.parts.length)) (begins s) order k1 → Does c (atStage 0 (endParts (order.flatMap id))) k1 () k2 →
      k2.d.searches.find? (fun v => v.desc == ⟨q, n⟩) = some z → z.sts = [] →
      (o.widen = false ∨ o.k ≤ z.heap.length ∨ ((z.probe.take o.most).drop z.probed).take o.nprobe = []) →
      Does c (if o.rerank = 0 then pure near else do
        let ys ← atStage 0 (rerankCands g ⟨o.qfmt, (decVec o.qfmt g.dim z.query).getD []⟩ near)
        pure (ys.foldl (fun h a => heapInsert (h.length + 1) a h) [])) k2 best k3 →
      Does c (atStage 3 (wrV (lf l 16 8) (out.flatMap candBytes))) k3 () k4 →
      EndsKept (.vsearchRoundEnd q n) s q n x r k4 (if out.length < o.k then 1 else 0) (out.length % 2 ^ 64)
        ((z.read % 2 ^ 32 + 2 ^ 32 * (z.probed % 2 ^ 16) + 2 ^ 48 * min z.stale 65535) % 2 ^ 64)) ∧
    (∀ rec_ k1 ib k2 lb k3 bs k4 book k5 y k6,
      let g := indexRec rec_
      let vb := (vecBytes (lf l 40 1) g.dim).getD 0
      Running s.dev q n 0x21 x r → 1 ≤ lf l 32 4 → lf l 32 4 ≤ 16777216 → Does c boundIndex (begins s) rec_ k1 →
      lf l 40 1 ∈ [0x00, 0x01, 0x02] → g.comp = r.comp → k1.d.noBay = false → Does c (atStage 0 (rdV (lf l 8 8) (8 * lf l 32 4))) k1 ib k2 →
      Does c (atStage 0 (rdV (lf l 16 8) (4 * lf l 32 4))) k2 lb k3 → Does c (atStage 0 (rdV (lf l 24 8) (lf l 32 4 * vb))) k3 bs k4 →
      Does c (atStage 1 (codebook g)) k4 book k5 → Does c (atStage 2 (insertAll g book ((List.range (lf l 32 4)).map (fun i =>
        (fld ib (8 * i) 8, fld lb (4 * i) 4, (decVec (lf l 40 1) g.dim (slice bs (i * vb) vb)).getD []))) ⟨0, 0, false, false, false, none⟩)) k5 y k6 → y.stop = none →
      EndsKept (.vinsert q n) s q n x r k6
        (worse (if y.range then 10 else if y.full then 1 else 0) (if y.format then 9 else 0)) (y.made % 2 ^ 64) (y.skipped % 2 ^ 64)) ∧
    (∀ rec_ k1 ib k2 y k3,
      let g := indexRec rec_
      Running s.dev q n 0x22 x r → 1 ≤ lf l 16 4 → Does c boundIndex (begins s) rec_ k1 → g.comp = r.comp →
      k1.d.noBay = false → Does c (atStage 0 (rdV (lf l 8 8) (8 * lf l 16 4))) k1 ib k2 →
      Does c (atStage 1 (deleteAllIds g ((List.range (lf l 16 4)).map (fun i => fld ib (8 * i) 8 % 2 ^ 34)) (0, 0, []))) k2 y k3 →
      EndsKept (.vdelete q n) s q n x r k3 (y.2.2.foldl worse 0) (y.1 % 2 ^ 64) (y.2.1 % 2 ^ 64))

/-- R305 to R307, R315, R316: EC_REBUILD whose fields pass their checks rebuilds its stripes from the survivors, once their lines have
been fetched: RESULT0 the units written, RESULT1 the lines written as poison, and POISON where there is one. EXTENT_XFER with MODE 0 that the
ledger holds at EPOCH e in IDLE with the source as owner takes the steps of R306 in order and ends with OK: RESULT0 is e + 1, RESULT1 the frames copied.
With MODE 1, in PREPARE or COPY, it ends with OK and RESULT0 e.
The model's own choices it may rest on are in log entries 119 to 124, 127. -/
def Obligations.RebuildsAndTransfersComplete : Prop :=
  ∀ (s : State) (q n : Nat) (x : Queue) (r : Started),
    let c := descCtx q x r
    let l := r.bytes
    (∀ (parity : Bool) w k1 y k2,
      let k := egK w
      let lost := if parity then [k, k + 1] else if lf l 11 1 = 2 then [lf l 12 1, lf l 13 1] else [lf l 12 1]
      let outs := (lost.zip [lf l 24 8, lf l 32 8]).filter (fun o => ! parity || o.2 != 0)
      Running s.dev q n 0x38 x r → lf l 10 1 = b2n parity → s.dev.eg (lf l 8 2) = some w →
      (parity = true ∨ (1 ≤ lf l 11 1 ∧ lf l 11 1 ≤ 2 ∧ lf l 12 1 < k + 2 ∧ (lf l 11 1 = 2 → lf l 13 1 < k + 2 ∧ lf l 13 1 ≠ lf l 12 1))) →
      1 ≤ lf l 20 4 → lf l 16 4 + lf l 20 4 ≤ egStripes w → (∀ i ∈ ecSources k lost, egLost w i = false) →
      (∀ o ∈ outs, dvaFits o.2 (65536 * lf l 20 4) = true) →
      Does c (fetchLines ((List.range (lf l 20 4)).flatMap (fun t => (ecSources k lost).flatMap (fun i =>
        (linesOf (egNode w i * 2 ^ 48 + 65536 * (egBase w i + lf l 16 4 + t)) 65536).map (· / 64))))) (begins s) () k1 →
      Does c (rebuildStripes w lost outs (lf l 16 4) (lf l 20 4)) k1 y k2 →
      Ends (if parity then .ecRebuildParity q n else .ecRebuildData q n) s q n x r k2 (if y.2 = 0 then 0 else 2) y.1 y.2) ∧
    (∀ rec_ k1 k2 k3,
      let o := xferOp l
      Running s.dev q n 0x40 x r → Does c (xferChecks o) (begins s) () k1 → Does c (readLedger o) k1 rec_ k2 → Does c (revokeFree o) k2 () k3 →
      rec_.epoch = o.epoch →
      (∀ k4 k5 k6 k7 m k8 k9 k10 k11,
        let comp := rec_.comp
        lf l 28 1 = 0 → rec_.phase = 0 → rec_.owner = o.src →
        Does c (ledgerStep 1 2 1 o.epoch o.src (some o.dst) o comp) k3 () k4 → Does c (once 2 (stepPrepare o rec_)) k4 () k5 →
        Does c (ledgerStep 3 2 2 o.epoch o.src (some o.dst) o comp) k5 () k6 → Does c (once 4 (stepCopy o rec_)) k6 () k7 →
        Does c (copiedFrames o) k7 m k8 → Does c (ledgerStep 6 2 3 o.epoch o.src (some o.dst) o comp) k8 () k9 →
        Does c (once 7 (stepCommit o comp)) k9 () k10 → Does c (stepRelease o comp) k10 () k11 →
        Ends (.extentXferMove q n) s q n x r k11 0 (o.epoch + 1) m) ∧
      (∀ k4 m k5 b k6,
        lf l 28 1 = 1 → (rec_.phase = 1 ∨ rec_.phase = 2) → rec_.peer = some o.dst →
        Does c (ledgerStep 1 2 0 o.epoch o.src none o rec_.comp) k3 () k4 → Does c (copiedFrames o) k4 m k5 →
        let d := match k5.d.extBy o.extent with
          | none => k5.d
          | some e => if k5.d.node = o.src then (if e.epoch = o.epoch then k5.d.abortSource e else k5.d)
            else if e.epoch = o.epoch + 1 then k5.d.abortDest e else k5.d
        Does c (peerStep 2 (if d.node = o.src then o.dst else o.src) 9 0 o 0 rec_.comp) { k5 with d := d } b k6 →
        Ends (.extentXferAbort q n) s q n x r k6 0 o.epoch m))

/-! Meunol: messages, ports, requests and answers. -/

/-- R276: the header of a message lies at its offsets, with its padded length in 8-byte units and the status in the last two bytes, and the bytes of a well-formed message,
whose SRC is zero where it has NOID, spell that message again. -/
def Obligations.MessagesRoundTrip : Prop :=
  ∀ m : FabMsg, msgOk m = true → (m.noId = true → m.src = 0) →
    (msgBytes m).length = msgLen m ∧ msgOf (msgBytes m) = m ∧ headLen (msgBytes m) = 16 + m.body.length ∧
    fld (msgBytes m) 0 2 = m.dst ∧ fld (msgBytes m) 2 2 = (if m.noId then 2 ^ 15 else m.src) ∧ fld (msgBytes m) 4 3 = m.sidx ∧
    fld (msgBytes m) 7 1 = m.type ∧
    fld (msgBytes m) 8 1 = b2n m.first + 2 * b2n m.ackReq + 4 * b2n m.poison + 8 * b2n m.pin + 16 * m.vc ∧
    fld (msgBytes m) 9 2 = m.tag ∧ fld (msgBytes m) 11 2 = m.ord + 1024 * m.part ∧ fld (msgBytes m) 13 1 = m.age ∧
    fld (msgBytes m) 14 2 = 16 * (2 + m.body.length / 8) + m.status ∧ (msgBytes m).drop 16 = m.body

/-- A message arrives on a port and is for this node: it waits in the receive buffer, which is then free again, or it comes whole and the
ingress and the router let it in. `e` is the block that takes it. -/
def Sys2Proof.Claims.Comes (d : Dev) (p : Nat) (m : FabMsg) (e : Dev) : Prop :=
  ((p, m) ∈ d.inbox ∧ e = d.takeUp p m) ∨
  ((p, m) ∉ d.inbox ∧ p < 16 ∧ d.portUp p = true ∧ d.admits m = (true, d) ∧
    ((m.type = 0x0B ∧ e = d.freeBuf p m) ∨
      (m.type ≠ 0x0A ∧ m.type ≠ 0x0B ∧ d.route p m = .here ∧ e = (d.freeBuf p m).abortEntry 5)))

/-- R270, R297: a port with a module, for which nothing is queued, that leaves a state holds no retry buffer, no credits and no neighbour in its new one; a module seated in it, or an EN or FENCE
written, lets it rest FENCED, DISABLED or in TRAINING.
The model's own choices it may rest on are in log entries 19, 20, 22, 200. -/
def Obligations.PortsLeaveTheirStates : Prop :=
  ∀ (s : State) (p : Nat), p < 16 →
    let d := s.dev
    let x := d.port p
    (x.module = true → x.txq = [] → (∀ st, st ≠ .absent → ((d.leavePort p st).port p).st = st ∧ ((d.leavePort p st).port p).retry = [] ∧
        ((d.leavePort p st).port p).credits = [] ∧ ((d.leavePort p st).port p).nbr = none ∧
        ((d.leavePort p st).port p).module = x.module) ∧
      ((d.restPort p).port p).st = if d.portFence p then .fenced else if ! d.portEn p || d.fencedPorts.contains p then .disabled else .training) ∧
    (x.module = false → Gives (.moduleInsert p) s ((d.setPort p { x with module := true }).restPort p)) ∧
    (x.module = true → Gives (.moduleRemove p) s ((d.setPort p { x with module := false }).leavePort p .absent)) ∧
    (x.st = .up → Gives (.portLinkLoss p) s (d.leavePort p .training)) ∧
    (x.st = .training → d.power.st = .run →
      (x.fails < 2 → Gives (.portTrainFail p) s ((d.setPort p { x with fails := x.fails + 1 }).train p)) ∧
      (2 ≤ x.fails → Gives (.portTrainFail p) s ((d.leavePort p .disabled).event .portState [.port p, .state 3 1]))) ∧
    (∀ (path : Path), Passes d path →
      let e := fresh d path
      (∀ en, (x.st = .disabled ∨ x.st = .fenced) → d.portFence p = false → en = true →
        Gives (.portEnWrite path p en) s ((e.setRf (portCfg p) 2 0 (bits (setBits (d.reg (portCfg p)) 0 0 1) 2 0)).restPort p)) ∧
      (x.st ≠ .absent → x.st ≠ .disabled → d.portFence p = false →
        Gives (.portEnWrite path p false) s ((e.setRf (portCfg p) 2 0 (bits (setBits (d.reg (portCfg p)) 0 0 0) 2 0)).leavePort p .disabled)) ∧
      (x.st ≠ .absent → d.portFence p = false →
        Gives (.portFenceWrite path p true) s ((e.setRf (portCfg p) 2 0 (bits (setBits (d.reg (portCfg p)) 1 1 1) 2 0)).leavePort p .fenced)) ∧
      (x.st = .fenced → d.portFence p = true → d.portEn p = true →
        Gives (.portFenceWrite path p false) s ((e.setRf (portCfg p) 2 0 (bits (setBits (d.reg (portCfg p)) 1 1 0) 2 0)).restPort p)))

/-- R273, R274, R341: the first flit with an uncorrectable code word is asked for again, with a flit that carries NAK, or as soon as the retry
buffer has room for it; flits after it are discarded until the awaited one comes. A flit that could be read and is the next in order has its acknowledgement and credits taken, and its message is received. R271, R272, R284: training agrees the wavelengths and brings a port UP with the neighbour and credits exchanged, after which it sends NEIGH as its flit 0; an UP port whose retry buffer
has room sends NEIGH in one flit, and records the neighbour that a NEIGH names. A port goes to DOZE when its neighbour announces STOP. A message to send makes
it send the wake pattern; on light or a pattern received it trains again, which with WAKE_EN clear raises no wake.
The model's own choices it may rest on are in log entries 17, 18, 21, 189, 200. -/
def Obligations.PortsComeUpAndReceive : Prop :=
  (∀ (s : State) (p : Nat) (words : List (List Byte)), p < 16 → s.dev.portUp p = true →
     let ws := (List.range 8).map (fun i => v36Decode (nth words i []))
     let d := s.dev.charge (locId 3 p) (ws.foldl (fun a w => a + w.fixed) 0) (ws.countP (·.bad))
     let x := d.port p
     ((ws.any (·.bad)) = true →
       let awaited := awaitedFlit x (v36Decode (nth words 0 []))
       (x.nakSent = true → awaited = false → Gives (.flitReceive p words) s d) ∧
       (x.nakSent = false ∨ awaited = true →
         (x.retry.length < 1024 → Gives (.flitReceive p words) s ((d.setPort p { x with nakSent := true, nakDue := false }).sendAck p true)) ∧
         (1024 ≤ x.retry.length → Gives (.flitReceive p words) s (d.setPort p { x with nakSent := true, nakDue := true })))) ∧
     ((ws.any (·.bad)) = false →
       let f := flitOf (ws.flatMap (·.data))
       let space := (ws.flatMap (fun w => w.data.map (fun b => (b, w.poison)))).drop 8
       let y := ackRetry x f.ack
       f.nak = false → y.nakDue = false → y.st = .up →
       (f.seq ≠ (y.rxGood + 1) % 4096 → Gives (.flitReceive p words) s ((d.setPort p y).pump p)) ∧
       (∀ ms rest, f.seq = (y.rxGood + 1) % 4096 → cutStream (y.rx.length + 248) (y.rx ++ space) = (ms, rest) →
         Gives (.flitReceive p words) s
           ((ms.foldl (fun d m => d.receive p m)
             (d.setPort p { addCredits y f.crvc f.crcnt with rxGood := f.seq, nakSent := false, nakDue := false, rx := rest })).pump p)))) ∧
  (∀ (s : State) (p : Nat), p < 16 →
     let d := s.dev
     let x := d.port p
     (∀ (lambda : Nat) (nbr : Neighbour) (credits : List Nat), x.st = .training → d.power.st = .run → x.txq = [] →
       (lambdas lambda = 8 ∨ lambdas lambda = 4) → nbr.stopping = false →
       ∃ t f cr, exec (.portTrainSuccess p lambda nbr credits) s = .next { s with dev := t } ∧
         t = { d with ports := t.ports, pins := t.pins, out := .flit p f :: .initCredits p cr :: d.out } ∧ f.seq = 0 ∧ f.nak = false ∧
         (d.inbox = [] → (∀ y ∈ d.ports, y.2.txq = []) → cr = List.replicate 6 128 ++ [3072]) ∧
         f.space.take 48 = msgBytes { d.ownMsg 0 0 0x0B ((d.setPort p { x with lambda := lambda % 256 }).neighBody p false) with vc := 0 } ∧
         (t.port p).st = .up ∧ (t.port p).nbr = some nbr ∧ (t.port p).lambda = lambda % 256 ∧ (t.port p).txSeq = 1 ∧
         (t.port p).rxGood = 4095 ∧ (t.port p).credits = (List.range 7).map (fun v => nth credits v 0)) ∧
     (x.st = .up →
       let own := { d.ownMsg 0 0 0x0B (d.neighBody p false) with vc := 0 }
       (x.retry.length < 1024 → ∃ t f, exec (.neighSend p) s = .next { s with dev := t } ∧
         t = { d with ports := t.ports, out := .flit p f :: d.out } ∧ f.seq = x.txSeq ∧ f.space.take 48 = msgBytes own) ∧
       (1024 ≤ x.retry.length → Gives (.neighSend p) s (d.setPort p { x with txq := ⟨16, 0, d.ticks, own⟩ :: x.txq }))) ∧
     (∀ (m : FabMsg) (e : Dev), m.type = 0x0B → Comes d p m e → e.portUp p = true →
       let e1 := e.setPort p { e.port p with nbr := some (neighOf m.body) }
       Gives (.neigh p m) s (if (neighOf m.body).stopping then e1.leavePort p .doze else e1)) ∧
     (∀ n, x.st = .up → d.power.st ≠ .entering → x.nbr = some n → n.stopping = true → Gives (.portDoze p) s (d.leavePort p .doze)) ∧
     (x.st = .doze → d.power.st = .run →
       let e := d.setPort p { x with waking := true }
       (x.txq ≠ [] → Gives (.portWake p .localMessage) s (d.send (.wakePattern p))) ∧
       (d.portWakeEn p = false → Gives (.portWake p .light) s (e.train p) ∧ Gives (.portWake p .pattern) s (e.train p))))

/-- A served request is held no longer, and its refusals end. -/
def Sys2Proof.Claims.unheld (d : Dev) : Dev := { d with
  fabIn := d.fabIn.filter (fun y => y.id != 0)
  refused := d.refused.filter (fun r => match r.req with | .fab i _ _ => i != 0 | _ => true) }

/-- A write-class message is the one its flow expects (R280): `f` is the flow's state, new where the message begins it with FIRST. -/
def Sys2Proof.Claims.InTurn (d : Dev) (m : FabMsg) (f : FlowIn) : Prop :=
  (d.flowIn m.src m.sidx = some f ∧ (m.first = true ∨ f.expect = m.ord)) ∨
  (d.flowIn m.src m.sidx = none ∧ m.first = true ∧ d.flowsIn.length < 16384 ∧ f = ⟨m.src, m.sidx, m.ord, 0, none, false, false⟩)

/-- R277, R280, R281, R283, R290, R312: a request that lands here while none is held is carried out at home and answered. RD and BULK_RD return the data with its
poison. A write-class message in turn advances what its flow expects, and is applied and acknowledged: WR writes the bytes of its mask, WRN its lines, PARITY adds
its scaled delta to the unit, or poisons it, and ATOM returns the old value with its poison, which the flow remembers. A read of an FA of another node is
answered with BOUNDS. ECHO returns its 8 bytes. A message without FIRST for an unknown flow is discarded with
FLOWNAK UNKNOWN.
The model's own choices it may rest on are in log entries 108, 109, 115. -/
def Obligations.RequestsAreServedAtHome : Prop :=
  ∀ (s : State) (p : Nat) (m : FabMsg) (e : Dev), Comes s.dev p m e → e.fabIn = [] →
    let x : FabIn := ⟨0, m, false, []⟩
    let c := fabCtx x
    let at_ (d : Dev) : RunSt := ⟨{ d with fabIn := [x] }, [], 0, [], [], []⟩
    let carried (k : RunSt) : Dev := Dev.commit c k.d k.log
    let fa := fld m.body 0 8
    let line := 64 * (fa / 64)
    (m.type = 9 → Gives (.echo p m) s (e.respond m 0x88 0 0 false (slice m.body 0 8))) ∧
    (m.type = 1 → e.isOwn fa = false →
      Gives (.rd p m) s ((unheld { e with fabIn := [x] }).respond m 0x81 10 m.ord false (List.replicate 64 0))) ∧
    (∀ v k, m.type = 1 → e.isOwn fa = true → Does c (rdLine line) (at_ e) v k → (carried k).parityPending 0 = false →
      Gives (.rd p m) s ((unheld (carried k)).respond m 0x81 0 m.ord (v.p0 || v.p1) (lineBytes v.data))) ∧
    (∀ bs ps k, m.type = 5 → e.isOwn fa = true → fa % 64 = 0 → fld m.body 8 4 % 64 = 0 → 64 ≤ fld m.body 8 4 → fld m.body 8 4 ≤ 65536 →
      Does c (rdRaw fa (fld m.body 8 4)) (at_ e) (bs, ps) k → (carried k).parityPending 0 = false →
      Gives (.bulkRd p m) s ((bulkParts 0 none ((chunks 64 bs).zip ((chunks 64 ps).map (fun q => q.any id)))).foldl
        (fun d r => d.respond m 0x85 0 m.ord r.2.2 (leBytes 4 r.1 ++ List.replicate 4 0 ++ r.2.1)) (unheld (carried k)))) ∧
    (∀ f, InTurn e m f →
      let e1 := e.setFlowIn { f with expect := (m.ord + 1) % 1024, aheadSent := false }
      (∀ k, m.type = 2 → e.isOwn fa = true →
        Does c (wrRuns m.poison ((maskRuns (slice m.body 16 64) (slice m.body 8 8)).map (fun r => (line + r.1, r.2)))) (at_ e1) () k →
        (carried k).parityPending 0 = false → Gives (.wr p m) s ((unheld (carried k)).ackWrite m 0)) ∧
      (∀ k, m.type = 3 → e.isOwn fa = true → 1 ≤ fld m.body 8 1 → fld m.body 8 1 ≤ 32 →
        Does c (wr line (slice m.body 16 (64 * fld m.body 8 1)) m.poison) (at_ e1) () k → (carried k).parityPending 0 = false →
        Gives (.wrn p m) s ((unheld (carried k)).ackWrite m 0)) ∧
      (∀ old k, m.type = 4 → e.isOwn fa = true → fa % 8 = 0 → Does c (atomRaw fa (fld m.body 8 1) (fld m.body 16 8) (fld m.body 24 8)) (at_ e1) old k →
        (carried k).parityPending 0 = false →
        let d := (unheld (carried k)).respond m 0x84 0 m.ord old.2 (leBytes 8 old.1)
        Gives (.atom p m) s (d.setFlowIn { (d.flowIn m.src m.sidx).getD ⟨m.src, m.sidx, 0, 0, none, false, false⟩ with
          lastAtom := some (m.ord, leNat (leBytes 8 old.1), old.2) })) ∧
      (∀ w, m.type = 7 → (at_ e1).d.parityHolder m = some w →
        let role := fld m.body 3 1
        let unit := (at_ e1).d.ownFa (65536 * (egBase w (egK w + role) + fld m.body 4 4) + 64 * (fld m.body 8 2 % 1024))
        let own : Ctx := { c with checked := false }
        (∀ k, m.poison = true → Does own (wr unit (List.replicate 64 0) true) (at_ e1) () k → (carried k).parityPending 0 = false →
          Gives (.parityMsg p m) s ((unheld (carried k)).ackWrite m 0)) ∧
        (∀ v k1 k, m.poison = false → Does own (rdLine unit) (at_ e1) v k1 → v.p0 = false → v.p1 = false →
          Does own (wr unit (xorBytes (lineBytes v.data) ((slice m.body 16 64).map (fun b =>
            BitVec.ofNat 8 (gfMul (if role = 0 then 1 else gfExp (fld m.body 2 1)) b.toNat)))) false) k1 () k →
          (carried k).parityPending 0 = false → Gives (.parityMsg p m) s ((unheld (carried k)).ackWrite m 0)))) ∧
    (m.type = 2 → e.flowIn m.src m.sidx = none → m.first = false → Gives (.wr p m) s (e.flowNak m 1 0))

/-- R279, R302, R306: a SUBDESC in turn, with no other held, is acknowledged, and its fragment kept; with the last fragment its attention work runs, and PARTIAL
returns its status, DETAIL, records, rows and blocks in place, and its bytes and bay time are charged to the composition that it carries (R200, R395). A LEASE from a party of the transfer is answered with this node's record: COMMIT moves a source in
DOUBT to MOVED, PREPARE makes the destination's entry, and every ledger operation is refused with DENIED.
The model's own choices it may rest on are in log entries 65, 111, 118, 119, 167, 190. -/
def Obligations.PartsAndLeasesAreAnswered : Prop :=
  ∀ (s : State) (p : Nat) (m : FabMsg) (e : Dev), Comes s.dev p m e →
    (∀ f, m.type = 6 → InTurn e m f → e.subs = [] → e.fabIn = [] → e.parityPending 0 = false →
      let g : FlowIn := { f with expect := (m.ord + 1) % 1024, aheadSent := false }
      let held (last : Bool) : SubCtx := ⟨m.src, m.sidx, m.tag, slice m.body 0 32, m.body.drop 32, 1, last⟩
      let comp := fld m.body 8 2 % 1024
      let e1 (last : Bool) : Dev := (unheld ((Dev.meter { e with subs := [held last] } comp 3 (msgLen m)).setFlowIn g)).ackWrite m 0
      (fld m.body 0 2 = 0 → Gives (.subdesc p m) s (e1 false)) ∧
      (∀ y k, fld m.body 0 2 = 2 ^ 15 →
        let x := held true
        let c : Ctx := ⟨.fab (subId x), fld x.head 8 2 % 1024, x.src, true, bit (fld x.head 10 2) 2, none, 0, 0, true, .agent, 0, 255⟩
        Does c (runSub x.head x.payload) ⟨e1 true, [], 0, [], [], []⟩ y k →
        let body := leBytes 2 y.detail ++ List.replicate 6 0 ++ leBytes 8 y.rows ++ leBytes 8 y.inPlace ++ y.recs
        let sent := if k.d.routing then 16 + 8 * ceilDiv body.length 8 else 0
        let charged : Dev := (Dev.meter { k.d.subGone x with free := k.d.free + 1 } comp 2 (Config.free k.d.free)).meter comp 3 sent
        Gives (.subdesc p m) s (charged.respond (k.d.subReq x) 0x86 y.st 0 false body))) ∧
    (let b := leaseOf m.body
     let rsp (d : Dev) (result st : Nat) : Dev := d.respond m 0x87 st 0 false (leaseBytes (d.peerRecord b result))
     m.type = 8 → e.extOn = true →
     ((m.src = b.owner ∨ some m.src = b.peer) →
       (b.op ≠ 8 → b.op ≠ 9 → Gives (.leaseMsg p m) s (rsp e 2 0)) ∧
       (∀ x, b.op = 8 → b.phase = 3 → e.asSource b = some x → x.st = .doubt →
         Gives (.leaseMsg p m) s (rsp (e.setExt { x with st := .moved }) 0 0)) ∧
       (∀ d, b.op = 8 → b.phase = 1 → b.peer = some e.node → (e.destOf b = none ∨ e.asDest b ≠ none) → e.prepareDest b b.owner = (0, d) →
         Gives (.leaseMsg p m) s (rsp d 0 0)) ∧
       (b.op = 9 → e.sourceOf b = none → e.destOf b = none → Gives (.leaseMsg p m) s (rsp e 0 0))) ∧
     (m.src ≠ b.owner → some m.src ≠ b.peer → Gives (.leaseMsg p m) s (rsp e 2 0)))

/-- R277, R281 to R283, R293: an answer goes to whoever made its request. RD_DATA and a whole BULK_DATA give a descriptor its lines, ATOM_DATA the old value, PARTIAL
its part, LEASE_RSP the ledger's record, and ECHO_RSP a round trip; one with a STATUS fails the request. WRDONE, WRACK and ATOM_DATA
acknowledge the message they name and every earlier one of its flow. FLOWNAK sends a flow again from the message expected, or from its lowest unacknowledged one with FIRST.
The model's own choices it may rest on are in log entries 114, 121, 198. -/
def Obligations.AnswersReachTheirRequests : Prop :=
  ∀ (s : State) (p : Nat) (m : FabMsg) (e : Dev), Comes s.dev p m e →
    let flow := (e.chargeIn m).ackFlow m.src m.sidx m.ord
    (∀ o, e.fabReq m.src m.sidx m.tag = some o →
      let d := e.chargeIn m
      let d1 := d.dropOut o
      (m.type = 0x81 → o.msg.type = 1 →
        (∀ i l, o.owner = .desc i l → m.status = 0 →
          Gives (.rdData p m) s (d1.giveLines i [⟨l, bytesLine (slice m.body 0 64), m.poison, 0⟩])) ∧
        (m.status ≠ 0 → Gives (.rdData p m) s (d.outFails o m.status))) ∧
      (m.type = 0x85 → o.msg.type = 5 → m.status = 0 →
        let got := o.got ++ [(fld m.body 0 4, m.body.drop 8, m.poison)]
        let ls := (List.range (fld o.msg.body 8 4 / 64)).map (gotLine got)
        (none ∈ ls → Gives (.bulkData p m) s { d with fabOut := d.fabOut.map (fun x => if x = o then { x with got := got } else x) }) ∧
        (∀ ks, ls = ks.map some → Gives (.bulkData p m) s (d.bulkDone o ks))) ∧
      (∀ i key, m.type = 0x84 → o.msg.type = 4 → o.owner = .desc i key →
        Gives (.atomData p m) s (((flow.2.acked flow.1).dropOut o).giveLines i [⟨key, bytesLine (slice m.body 0 8), m.poison, m.status⟩])) ∧
      (∀ i, m.type = 0x86 → o.msg.type = 6 → o.owner = .subdesc i →
        Gives (.partialMsg p m) s (d1.notePart i ⟨2 * m.src + bits (fld o.msg.body 10 2) 2 2, m.status, fld m.body 0 2, fld m.body 8 8,
          fld m.body 16 8, m.body.drop 24⟩)) ∧
      (m.type = 0x87 → o.msg.type = 8 →
        (∀ i key, o.owner = .desc i key →
          Gives (.leaseRsp p m) s (d1.giveLines i [⟨key, bytesLine (slice m.body 0 32), false, m.status⟩])) ∧
        (∀ id, o.owner = .lease id → m.status = 0 → Gives (.leaseRsp p m) s (d1.ledgerAnswer id (leaseOf m.body)))) ∧
      (∀ n b t0, m.type = 0x88 → o.msg.type = 9 → o.owner = .echo n → d1.bringup = some b →
        b.sentAt.find? (fun x => x.1 == n && x.2.1 == m.tag) = some (n, m.tag, t0) →
        Gives (.echoRsp p m) s { d1 with bringup := some { b with rtts := b.rtts ++ [(n, d1.ticks - t0)] } })) ∧
    (m.type = 0x82 → Gives (.wrdone p m) s ((e.ackFlow m.src m.sidx m.ord).2.acked (e.ackFlow m.src m.sidx m.ord).1)) ∧
    (m.type = 0x83 →
      (m.status = 0 → Gives (.wrack p m) s (flow.2.acked flow.1)) ∧
      (∀ x o, m.status ≠ 0 → flow.1.getLast? = some x → (flow.2.acked flow.1.dropLast).fabReq x.dst x.sidx x.tag = some o →
        Gives (.wrack p m) s ((flow.2.acked flow.1.dropLast).outFails o m.status))) ∧
    (m.type = 0x8F →
      (∀ f i, fld m.body 0 1 = 0 → e.flowOut m.src m.sidx = some f → ordAt f m.ord = some i →
        Gives (.flownak p m) s (e.resendFrom m.src m.sidx i false)) ∧
      (fld m.body 0 1 = 1 → Gives (.flownak p m) s (e.resendFrom m.src m.sidx 0 true)) ∧
      (fld m.body 0 1 = 2 → Gives (.flownak p m) s e)) ∧
    (∀ (d : Dev) (f : FlowOut) (i : Nat), d.flowOut m.src m.sidx = some f → ordAt f m.ord = some i →
      (d.ackFlow m.src m.sidx m.ord).1 = f.unacked.take (i + 1))

/-- A MGMT packet arrives on a port and is let in: it waits in the receive buffer, or comes whole through the ingress (R285, R291). -/
def Sys2Proof.Claims.MgmtComes (d : Dev) (p : Nat) (m : FabMsg) (e : Dev) : Prop :=
  m.type = 0x0A ∧ (((p, m) ∈ d.inbox ∧ e = { d with inbox := d.inbox.erase (p, m) }) ∨ ((p, m) ∉ d.inbox ∧ p < 16 ∧ d.portUp p = true ∧ d.admits m = (true, d) ∧ e = d))

/-- R280 to R282, R285: the timers of flows and requests. WRDONE is sent for what is visible; an idle flow is forgotten; a request goes out again, a flow
from its lowest unacknowledged message; a request whose time is up fails with TIMEOUT, and a write-class one ends its flow; a router discards
a message whose AGE has reached 250, which is counted, and a MGMT packet that it has queued too long, and their receive buffers are free again.
The model's own choices it may rest on are in log entries 19, 110, 188. -/
def Obligations.FabricTimersAct : Prop :=
  ∀ (s : State),
    let d := s.dev
    (∀ src sidx f, d.flowIn src sidx = some f → f.timer = true →
      Gives (.wrdoneTimer src sidx) s ((d.setFlowIn { f with aheadSent := false, sinceDone := 0, timer := false }).respond
        { d.ownMsg 0 sidx 2 [] with src := src, tag := 0 } 0x82 0 (d.lastVisible f) false [])) ∧
    (∀ node sidx, (d.flowPending node sidx = none →
        Gives (.flowExpiry true node sidx) s { d with flowsIn := d.flowsIn.filter (fun f => ! (f.src == node && f.sidx == sidx)) }) ∧
      Gives (.flowExpiry false node sidx) s
        { d with flowsOut := d.flowsOut.filter (fun f => ! (f.dst == node && f.sidx == sidx && f.unacked.isEmpty)) }) ∧
    (∀ dst sidx tag o, d.fabReq dst sidx tag = some o →
      (writeClass o.msg.type = false → Gives (.e2eResend dst sidx tag) s (d.sendOwn o.msg) ∧
        Gives (.fabReqTmoExpiry dst sidx tag) s (d.outFails o 12)) ∧
      (∀ f, writeClass o.msg.type = true → d.flowOut dst sidx = some f → (∃ m ∈ f.unacked, m.tag = tag) →
        Gives (.e2eResend dst sidx tag) s (d.resendFrom dst sidx 0 false)) ∧
      (∀ f i line, writeClass o.msg.type = true → o.owner = .desc i line → d.flowOut dst sidx = some f → f.unacked = [o.msg] →
        Gives (.fabReqTmoExpiry dst sidx tag) s ((d.setFlowOut { f with unacked := [], fresh := true }).outFails o 12))) ∧
    (∀ p m q, p < 16 →
      let e := (d.setPort p { d.port p with txq := (d.port p).txq.erase q }).releaseAll [q]
      ((d.port p).txq.find? (fun q => q.msg == m && decide ((d.aged q).age ≥ 250)) = some q →
        Gives (.ageDiscard p m) s (e.stat 0x10030 31 16 1)) ∧
      ((d.port p).txq.find? (fun q => q.msg == m) = some q → m.type = 0x0A → Gives (.mgmtForwardTmo p m) s e))

/-- R285, R286, R293, R417: a MGMT packet goes on by the port its route names, with the port it came by recorded, or walks back; at its last hop READ_NBR
returns the neighbour, READ_REG a register, WRITE_REG writes one for the fabric manager's UID alone, and ECHO returns the data. BRINGUP
sends its echoes; at its end, with every node heard, the span and the worst round trip decide the bays' mode.
The model's own choices it may rest on are in log entries 112, 116, 117. -/
def Obligations.ManagementActs : Prop :=
  ∀ (s : State),
    (∀ p m e, MgmtComes s.dev p m e →
      let b := m.body
      let ptr := mgPtr b
      (mgRsp b = false → ptr < mgHops b → mgHops b ≤ 16 →
        Gives (.mgmtForward p m) s
          (e.enqueue (mgOut b ptr) ⟨p, m.vc, e.ticks, { m with vc := 4, body := mgMove (mgNote b ptr p) (ptr + 1) false }⟩)) ∧
      (mgRsp b = true → 0 < ptr → Gives (.mgmtForward p m) s
        (e.enqueue (mgRet b (ptr - 1)) ⟨p, m.vc, e.ticks, { m with vc := 4, body := mgMove b (ptr - 1) true }⟩)) ∧
      (mgRsp b = true → ptr = 0 → Gives (.mgmtForward p m) s ((e.freeBuf p m).send (.mgmt p m))) ∧
      (mgRsp b = false → mgHops b ≤ ptr →
        (mgOp b = 0 → mgAddr b < 16 → Gives (.readNbr p m) s (e.mgReply p m 0 (((e.port (mgAddr b)).nbr.map nbrBody).getD []))) ∧
        (mgOp b = 0 → 16 ≤ mgAddr b → Gives (.readNbr p m) s (e.mgReply p m 2 [])) ∧
        (∀ v t, mgOp b = 1 →
          State.readReg { s with dev := e } .mgmt (mgAddr b) (State.mgWidth { s with dev := e } (mgAddr b)) = (some v, t) →
          exec (.readReg p m) s = .next { t with dev := t.dev.mgReply p m 0 (leBytes 8 v) }) ∧
        (∀ t, mgOp b = 2 → fld b 0 16 = e.fmUid →
          let n := State.mgWidth { s with dev := e } (mgAddr b)
          State.access { s with dev := e } .mgmt (mgAddr b) n (fld b 40 n) = (0, t) → t.dev.power.ready = true →
          exec (.writeReg p m) s = .next { t with dev := t.dev.mgReply p m 0 (slice b 40 32) }) ∧
        (mgOp b = 2 → fld b 0 16 ≠ e.fmUid → Gives (.writeReg p m) s ((e.stat 0x10030 15 0 1).mgReply p m 1 [])) ∧
        (mgOp b = 3 → Gives (.mgmtEcho p m) s (e.mgReply p m 0 (slice b 40 32))))) ∧
    (∀ path, Passes s.dev path → Gives (.bringup path) s
      (((fresh s.dev path).setRf 0x10004 0 0 (s.dev.rf 0x10004 0 0)).startBringup)) ∧
    (∀ b, s.dev.bringup = some b → s.dev.svc ≠ 1 → (∀ o ∈ s.dev.fabOut, ∀ n, o.owner ≠ .echo n) → (∀ n ∈ b.nodes, ∃ x ∈ b.rtts, x.1 = n) →
      let worst := b.nodes.foldl (fun a n => max a (median ((b.rtts.filter (fun x => x.1 == n)).map (·.2)))) 0
      let t := Dev.applyBringup { s.dev with bringup := none } (b.nodes.length + 1) worst
      Gives .bringupComplete s t ∧ t.span = b.nodes.length + 1)

/-! Extents and casks. -/

/-- A management register command by path `p`, of those that only the fabric manager's start, passes. -/
def Sys2Proof.Claims.PassesGo (d : Dev) (p : Path) : Prop := d.pathAns p none true false = .pass

/-- What a write of EXT_DEF_CTRL leaves before its operation: the fields it names (R320). -/
def Sys2Proof.Claims.defCtrl (d : Dev) (p : Path) (v : Nat) : Dev :=
  ((fresh d p).setRf 0xD00C 18 15 (bits v 18 15)).setRf 0xD00C 9 0 (bits v 9 0)

/-- R301, R303, R304, R308, R310, R320: DEFINE makes an entry in the lowest free slot, ACTIVE, or LAPSED until its lease is granted; UNDEFINE of a REVOKED or LAPSED extent removes its frames
and its entry; REASSIGN of a REVOKED one gives it the next EPOCH and a composition; each, where it is not allowed, sets DEFERR alone. A lease that expires lapses an extent that is served; renewing, acquiring
and a stall in DOUBT or DEST ask the ledger. A word of an erasure group is kept until word 0 is written:
then the record of its 20 words takes effect where it is valid, and the slot holds none where it is not. With SEC_LOCK.EXT set the table's base does not change; as
EN is written to 1 every entry is FREE.
The model's own choices it may rest on are in log entries 118, 123, 125, 201. -/
def Obligations.ExtentsLiveByTheirLeases : Prop :=
  ∀ (s : State),
    let d := s.dev
    (∀ id x, d.extBy id = some x → x.leased = true →
      ((d.lease id).held = true → Gives (.leaseRenew id) s (d.acquire x)) ∧
      (x.st = .lapsed → Gives (.lapsedAcquire id) s (d.acquire x)) ∧
      ((d.lease id).held = true →
        let e := d.setLease { d.lease id with held := false }
        (x.st = .active ∨ x.st = .source → Gives (.leaseExpire id) s (e.setExt { x with st := .lapsed })) ∧
        (x.st ≠ .active → x.st ≠ .source → Gives (.leaseExpire id) s e)) ∧
      (x.st = .doubt ∨ x.st = .dest →
        Gives (.doubtStallExpiry id) s ((d.setLease { d.lease id with stalled := x.st == .dest }).askLedger x 1))) ∧
    ((∃ l ∈ d.leases, l.waiting = true) → Gives .ledgerLost s (d.setRf 0xD018 2 2 1)) ∧
    (∀ path leased comp, PassesGo d path → comp < 1024 →
      (let e := defCtrl d path (defValue 1 leased comp)
       let first := e.rf 0xD010 31 0
       let n := e.rf 0xD010 63 32
       let ok := e.extOn = true ∧ e.extBy (e.reg 0xD008) = none ∧ e.overlapsExt first n = false ∧ 1 ≤ n ∧ n ≤ 16777216 ∧ first + n ≤ 2 ^ 32 ∧
         1 ≤ comp ∧ e.extents.length < 65536
       (ok → Gives (.define path leased comp) s
         (e.startExt ⟨e.freeExtSlot, e.reg 0xD008, max 1 (e.reg 0xD058), first, n, comp, .active, leased, none⟩)) ∧
       (¬ ok → Gives (.define path leased comp) s e.defErr)) ∧
      (let e := defCtrl d path (defValue 3 leased comp)
       (∀ x, e.extOn = true → e.extBy (e.reg 0xD008) = some x → x.st = .revoked → 1 ≤ comp →
         Gives (.reassign path leased comp) s (e.startExt { x with comp := comp, epoch := (x.epoch + 1) % 2 ^ 32, leased := leased })) ∧
       (e.extOn = false ∨ e.extBy (e.reg 0xD008) = none ∨ comp = 0 → Gives (.reassign path leased comp) s e.defErr))) ∧
    (∀ path, PassesGo d path →
      let e := defCtrl d path (defValue 2 false (d.rf 0xD00C 9 0))
      (∀ x, e.extOn = true → e.extBy (e.reg 0xD008) = some x → (x.st = .revoked ∨ x.st = .lapsed) →
        let e1 := (e.removeFrames x.first x.frames).dropExt x
        Gives (.undefine path) s { e1.endXfer x.id with leases := e1.leases.filter (fun l => l.extent != x.id) }) ∧
      (e.extOn = false ∨ e.extBy (e.reg 0xD008) = none → Gives (.undefine path) s e.defErr)) ∧
    (∀ path v, Passes d path →
      let e := fresh d path
      let word := bits (d.sel path 0xD038) 4 0
      (0 < word → word < 20 → Gives (.egRecordWrite path v) s
        { e with egWords := smPut 0 (20 * bits (d.sel path 0xD038) 12 5 + word) v d.egWords }) ∧
      (20 ≤ word → Gives (.egRecordWrite path v) s e) ∧
      (word = 0 →
        let slot := bits (d.sel path 0xD038) 12 5
        let kept := smPut 0 (20 * slot) v d.egWords
        let w := (List.range 20).map (fun i => smGet (20 * slot + i) 0 kept)
        Gives (.egRecordWrite path v) s
          (Dev.dropLostParity { e with egWords := kept, egs := if egValid w then smSet slot w d.egs else smErase slot d.egs } w)) ∧
      (s.lock.testBit 6 = true → Gives (.extTabEnable path v) s e) ∧
      (s.lock.testBit 6 = false → v % 2 = 1 →
        ∃ t, exec (.extTabEnable path v) s = .next { s with dev := t } ∧ t.extents = [] ∧ t.leases = [] ∧ t.xfers = [] ∧
          t = { e with extents := [], leases := [], xfers := [], regs := t.regs, mem := t.mem }))

/-- What a write of CSK_CMD_n with GO finds: its OP is stored (R338). -/
def Sys2Proof.Claims.cskOp (d : Dev) (p : Path) (n op : Nat) : Dev := (fresh d p).setRf (cskCmdReg n) 2 0 op

/-- R330, R332, R336: the commands of a slot. ADOPT binds a FRESH cask and formats it; EVACUATE marks the slot and drops the T0 frames' copies on
it; RELEASE abandons the demotions to the cask and switches it off once nothing reads it; RETIRE takes an empty cask out of service; ERASE frees a RETIRED or refused FOREIGN one;
FORGET denies an empty cask's serial; IMPORT reads a FOREIGN cask's frames. With no cask in the slot each of them changes nothing and sets CMDERR.
The model's own choices it may rest on are in log entries 128, 129, 130. -/
def Obligations.CaskCommandsAct : Prop :=
  ∀ (s : State) (path : Path) (n : Nat), n < 4 → PassesGo s.dev path →
    let at_ := cskOp s.dev path n
    (∀ op c, ((op = 1 ∧ c = .adoptCask path n) ∨ (op = 2 ∧ c = .evacuateCask path n) ∨ (op = 3 ∧ c = .releaseCask path n) ∨
        (op = 4 ∧ c = .retireCask path n) ∨ (op = 5 ∧ c = .eraseCask path n) ∨ (op = 6 ∧ c = .importCask path n) ∨
        (op = 7 ∧ c = .forgetCask path n)) → ((at_ op).slot n).cask = none →
      Gives c s ((at_ op).setSlot n { (at_ op).slot n with cmdErr := true })) ∧
    (∀ k, (s.dev.slot n).cask = some k → (s.dev.slot n).rail = true →
      let x := s.dev.slot n
      (x.code = 1 → x.busy = 0 → Gives (.adoptCask path n) s
        (((at_ 1).setSlot n { x with serving := true, cask := some { k with bind := ownerId, state := 2, homeSlot := n, recs := [] } }).wake
          (fun w => w == .frameRoom))) ∧
      (x.readable = true → x.busy = 0 → Gives (.evacuateCask path n) s
        (Dev.stopDemotions { (at_ 2).setSlot n { x with busy := 2 } with
          tmap := s.dev.tmap.map (fun p => if p.2.tier = 0 ∧ p.2.cslot = n then (p.1, { p.2 with t1c := false }) else p) } n).evacStep) ∧
      (x.busy ≠ 3 → Gives (.releaseCask path n) s ((((at_ 3).setSlot n { x with busy := 3 }).stopDemotions n).releaseStep n)) ∧
      ((x.code = 2 ∨ x.code = 3) → x.busy = 0 → s.dev.caskFrames n = [] → Gives (.retireCask path n) s
        ((at_ 4).setSlot n { x with serving := false, loading := false, cask := some { k with state := 4 } })) ∧
      (x.code = 4 → x.busy = 0 → Gives (.eraseCask path n) s ((at_ 5).setSlot n { x with cask := some { k with bind := 0, recs := [] } })) ∧
      (x.code = 5 → (x.reason = 3 ∨ x.reason = 4) → x.busy = 0 → Gives (.eraseCask path n) s
        { (at_ 5).setSlot n { x with foreign := false, reason := 0, cask := some { k with state := 1, bind := 0, recs := [] } } with
          deny := nsDel k.serial s.dev.deny }) ∧
      (x.code = 5 → (x.reason = 3 ∨ x.reason = 4) → (at_ 6).rf 0xE000 0 0 = 1 → x.busy = 0 → Gives (.importCask path n) s
        (Dev.importFrom k n ((at_ 6).rf 0xE010 51 32) ((at_ 6).rf 0xE008 63 32) ((at_ 6).rf 0xE008 31 0) ((at_ 6).rf 0xE010 31 0)
          { at_ 6 with impDone := 0, impSkip := 0 })) ∧
      ((x.code = 1 ∨ x.code = 2 ∨ x.code = 3) → x.busy = 0 → s.dev.caskFrames n = [] → s.dev.deny.length < 256 →
        Gives (.forgetCask path n) s { at_ 7 with deny := nsAdd k.serial s.dev.deny }))

/-- The branch of a slot is switched off, and its cask, which stays seated, treated as pulled (R405). -/
def Sys2Proof.Claims.switchedOff (d : Dev) (n : Nat) : Dev :=
  if (d.slot n).rail then d.losesCask n { SlotSt.empty with
    cmdErr := (d.slot n).cmdErr, detect := true, cask := (d.slot n).cask } else d

/-- R322, R324, R331, R333 to R335, R343, R403, R405: a cask that is inserted waits for power, or is checked, and one that is bound to its slot goes on to load; loaded, it serves. One that is
pulled is lost, or noted by the island in STOP; a branch over its current, or every branch with VCASK_IN out of range, is switched off. A die that fails is counted, and its pages rebuilt; a
worn cask is written no more; one that reaches its rated life is recorded; counters are written to the element.
The model's own choices it may rest on are in log entries 131 to 134, 165, 202. -/
def Obligations.CasksComeWearAndGo : Prop :=
  ∀ (s : State) (n : Nat), n < 4 →
    let d := s.dev
    let x := d.slot n
    (∀ c, x.detect = false → n ∉ d.power.removed →
      let e := d.setSlot n { SlotSt.empty with
        cask := some { c with inserts := (c.inserts + 1) % 2 ^ 32 }
        detect := true
        cmdErr := x.cmdErr }
      let e1 := if e.rf 0x2000 1 1 = 1 then (e.abortEntry 7).startWake 4 n else e
      Gives (.caskInsert n c) s (if e1.power.st = .run ∧ e1.power.pwrgd then e1.raiseCask n else e1)) ∧
    (∀ c, x.cask = some c → d.caskReason c = 0 → (c.state = 2 ∨ c.state = 3) → c.homeSlot = n →
      d.raiseCask n = d.setSlot n { x with
        rail := true, checked := true, foreign := false, reason := 0, wrongSlot := false, loading := true, serving := false
        retrain := false, safe := false, busy := 0, life := decide (fcwOf c ≥ 250000) }) ∧
    (x.loading = true → x.rail = true → Gives (.caskFtlLoaded n) s
      (((d.setSlot n { x with loading := false, serving := true }).caskEvent n).wake (fun w => w == .cask n || w == .frameRoom))) ∧
    (x.detect = true → d.power.st ≠ .stop → d.power.st ≠ .waking →
      Gives (.caskPull n) s (d.losesCask n { SlotSt.empty with cmdErr := x.cmdErr })) ∧
    (x.detect = true → (d.power.st = .stop ∨ d.power.st = .waking) → Gives (.caskPull n) s
      { d.setSlot n { x with detect := false } with power := { d.power with removed := nsAdd n d.power.removed } }) ∧
    (x.rail = true → Gives (.caskBranchOvercurrent n) s
      ((d.event .caskCurrent [d.slotField n]).losesCask n { SlotSt.empty with cmdErr := x.cmdErr, detect := true })) ∧
    Gives .vcaskOutOfRange s (switchedOff (switchedOff (switchedOff (switchedOff d 0) 1) 2) 3) ∧
    (let trained (d : Dev) (k : Nat) : Dev :=
       if (d.slot k).retrain then (d.setSlot k { d.slot k with retrain := false }).wake (fun w => w == .cask k) else d
     Gives .caskRetrainDone s (trained (trained (trained (trained d 0) 1) 2) 3)) ∧
    (∀ c die, x.cask = some c → die < 128 → x.rail = true → die ∉ c.failedDies → (∀ y ∈ c.failedDies, dieGroup y ≠ dieGroup die) →
      Gives (.caskDieFail n die) s
        (((d.charge (locId 4 (128 * n + die)) 0 1).modCask n (fun c => { c with failedDies := nsAdd die c.failedDies })).rebuildDie n)) ∧
    (x.rail = true → x.code = 2 →
      let f := d.takeFree.2
      let e := (Dev.modCask f.takeFree.2 n (fun c => { wornSpare d.takeFree.1 f.takeFree.1 c with state := 3 })).stopDemotions n
      e.rf 0xE000 2 2 = 0 → Gives (.caskWorn n) s e) ∧
    (∀ v w (c : Cask), (wornSpare v w c).spare < 1024 ∨ (wornSpare v w c).groupSpare < 64) ∧
    (∀ c, x.cask = some c → x.life = false → x.checked = true → 250000 ≤ fcwOf c →
      Gives (.caskLifeReached n) s ((d.setSlot n { x with life := true }).event .life [d.slotField n])) ∧
    (x.rail = true → (x.code = 2 ∨ x.code = 3) → Gives (.caskCounterWrite n) s (d.modCask n writeCounters)) ∧
    (∀ frame corrections refresh, Gives (.caskPageScrub n frame corrections refresh) s d)

/-! Errors, margins and calibration. -/

/-- The set-point of VDD_CORE raised by `mv`, at least to the floor and at most to 880 mV; the run of green samples begins again (R26). -/
def Sys2Proof.Claims.raised (v : VLoop) (mv floor : Nat) : VLoop := { v with set := min 880 (max floor (v.set + mv)), greenRun := 0 }

/-- The lowest set-point that the voltage loop may choose: PWR_VCORE.FLOOR within 620 to 880 mV (R26, R31). -/
def Sys2Proof.Claims.lowest (d : Dev) : Nat := max 620 (min 880 (d.rf 0x2020 25 16))

/-- R341, R343 to R346, R350, R351, R355: a scrubbed word is written back corrected or poisoned and charged. Scores are halved; WARN acts once, on a bay, a scanner, a stack PHY or a port;
LIMIT fences or retires. MGT_UNFENCE brings back a bay, a scanner or a port with its score at 0, not a stack channel or a cask die. A RETIRING channel that holds no frame in use is retired; a lost
one at once, its frames without a whole copy on a cask poisoned, with an event per range of them.
The model's own choices it may rest on are in log entries 38, 137, 138, 193. -/
def Obligations.LocationsAreWarnedFencedAndRetired : Prop :=
  ∀ (s : State),
    let d := s.dev
    (∀ word sym e, d.entry (word / 2048) = some e → e.tier = 0 → e.psn = false → sym.length = 36 →
      let a := v36Decode sym
      let c := d.charge (locId 0 (locChannel e.loc)) a.fixed (if a.bad then 1 else 0)
      (a.bad = true → Gives (.stackScrub (.stack word) sym) s (c.poisonWord word)) ∧
      (a.bad = false → (a.poison = true ∨ a.fixed = 0) → Gives (.stackScrub (.stack word) sym) s c) ∧
      (a.bad = false → a.poison = false → a.fixed ≠ 0 →
        let e := Dev.setBytes a.data (32 * word) c
        Gives (.stackScrub (.stack word) sym) s { e with pois := nsDel word c.pois })) ∧
    (∀ region sym, region < 6 → sym.length = 36 →
      let a := v36Decode sym
      Gives (.stackScrub (.sram region) sym) s (d.charge (locId 5 (16 + region)) a.fixed (if a.bad then 1 else 0))) ∧
    (∃ t, Gives .scoreHalving s { d with scores := t } ∧
      (∀ p ∈ t, ∃ q ∈ d.scores, p.1 = q.1 ∧ p.2.score = q.2.score / 2 ∧ p.2.ce = q.2.ce ∧ p.2.ue = q.2.ue ∧
        (p.2.warned = true ↔ q.2.warned = true ∧ 65536 * d.thrWarn (locKind q.1) ≤ 2 * (q.2.score / 2))) ∧
      (∀ q ∈ d.scores, 2 ≤ q.2.score → ∃ p ∈ t, p.1 = q.1)) ∧
    (∀ loc, d.locExists loc = true →
      let x := d.score loc
      let i := locIndex loc
      (x.warned = true ∨ x.score < 65536 * d.thrWarn (locKind loc) → Gives (.scoreWarn loc) s d) ∧
      (x.warned = false → 65536 * d.thrWarn (locKind loc) ≤ x.score →
        let e := (d.event .scoreWarn [.loc loc, .score (x.score / 65536), .count x.ce, .count x.ue]).setScore loc { x with warned := true }
        let sched (u : Nat) : Dev := if u ∈ e.calSched then e else { e with calSched := e.calSched ++ [u] }
        (locKind loc = 0 → Gives (.scoreWarn loc) s (sched (0x200 + i / 32))) ∧
        (locKind loc = 1 → Gives (.scoreWarn loc) s (sched i)) ∧
        (locKind loc = 2 → Gives (.scoreWarn loc) s (sched (0x100 + i))) ∧
        (locKind loc = 3 → Gives (.scoreWarn loc) s
          (if (e.port i).st = .up ∨ (e.port i).st = .doze then e.leavePort i .training else e)) ∧
        (locKind loc = 4 → Gives (.scoreWarn loc) s e) ∧
        (locKind loc = 5 → Gives (.scoreWarn loc) s (if i < 16 then sched (0x700 + i) else e))) ∧
      (d.thrLimit (locKind loc) = 0 ∨ x.score < 65536 * d.thrLimit (locKind loc) → Gives (.scoreLimit loc) s d) ∧
      (0 < d.thrLimit (locKind loc) → 65536 * d.thrLimit (locKind loc) ≤ x.score →
        let e := d.event .scoreLimit [.loc loc, .score (x.score / 65536), .count x.ce, .count x.ue]
        (locKind loc = 0 → i ∉ d.retiredCh → i ∉ d.retiring → Gives (.scoreLimit loc) s (e.beginRetire i).retireStep) ∧
        (locKind loc = 1 → i ∉ d.fencedBays → Gives (.scoreLimit loc) s { e with fencedBays := nsAdd i e.fencedBays }) ∧
        (locKind loc = 2 → i ∉ d.fencedScan → Gives (.scoreLimit loc) s { e with fencedScan := nsAdd i e.fencedScan }) ∧
        (locKind loc = 3 → i ∉ d.fencedPorts → (d.port i).module = false →
          Gives (.scoreLimit loc) s { e with fencedPorts := nsAdd i e.fencedPorts }) ∧
        (locKind loc = 3 → i ∉ d.fencedPorts → (d.port i).module = true →
          Gives (.scoreLimit loc) s (Dev.restPort { e with fencedPorts := nsAdd i e.fencedPorts } i)) ∧
        (locKind loc = 4 → i ∉ d.retiredDies →
          Gives (.scoreLimit loc) s (Dev.rebuildDie { e with retiredDies := nsAdd i e.retiredDies } (i / 128))) ∧
        (locKind loc = 5 → Gives (.scoreLimit loc) s d)) ∧
      (∀ path, PassesGo d path → loc < 4096 →
        let e := fresh d path
        let zero (e : Dev) : Dev := e.setScore loc { x with score := 0, warned := false }
        (locKind loc = 0 ∨ locKind loc = 4 → Gives (.mgtUnfence path loc) s e) ∧
        (locKind loc = 1 → Gives (.mgtUnfence path loc) s (zero { e with fencedBays := nsDel i e.fencedBays })) ∧
        (locKind loc = 2 → Gives (.mgtUnfence path loc) s (zero { e with fencedScan := nsDel i e.fencedScan })) ∧
        (locKind loc = 3 → (i ∉ d.fencedPorts ∨ (d.port i).st ≠ .disabled) →
          Gives (.mgtUnfence path loc) s (zero { e with fencedPorts := nsDel i e.fencedPorts })) ∧
        (locKind loc = 3 → i ∈ d.fencedPorts → (d.port i).st = .disabled →
          Gives (.mgtUnfence path loc) s ((zero { e with fencedPorts := nsDel i e.fencedPorts }).restPort i)) ∧
        (locKind loc = 5 → Gives (.mgtUnfence path loc) s (zero e)))) ∧
    (∀ ch,
      (ch ∈ d.retiring → (∀ l ∈ d.usedLocs, locChannel l ≠ ch) → Gives (.channelRetireDone ch) s
        (Dev.retireStep { d with retiring := nsDel ch d.retiring, retiredCh := nsAdd ch d.retiredCh })) ∧
      (ch ∉ d.retiring ∨ (∃ l ∈ d.usedLocs, locChannel l = ch) → Gives (.channelRetireDone ch) s d) ∧
      (32 * d.stacks ≤ ch ∨ ch ∈ d.retiredCh → Gives (.channelLoss ch) s d) ∧
      (let fs := d.framesOfCh ch
       ch < 32 * d.stacks → ch ∉ d.retiredCh → (∀ f ∈ fs, smGet? f d.moves = none) →
        (∀ p ∈ d.moves, p.2.kind ≠ .demote → locChannel p.2.dest ≠ ch) →
        let e := { d with retiring := nsDel ch d.retiring, retiredCh := nsAdd ch d.retiredCh }
        let bad := fs.filter (fun f => match smGet? f d.tmap with | some x => ! (x.t1c && ! x.dirty) | none => false)
        let e := bad.foldl (fun (e : Dev) f => (e.modEntry f (fun x => { x with t1c := false, dirty := false })).poisonFrame f) e
        let e := (rangesOf bad).foldl (fun (e : Dev) r => e.event .channelLost [.frames r.1 r.2, .count (r.2 + 1 - r.1)]) e
        Gives (.channelLoss ch) s ((e.loseReserved ch).settleAll.wake (fun w => match w with | .move f => fs.contains f | _ => false))))

/-- R2, R26, R27, R179, R180, R183, R347, R349, R352 to R354: a failed check is counted in CSUM or RES, charges its bay or scanner, raises VDD_CORE by 10 mV and holds the lowering; a second one within a descriptor ends it with RESIDUE. A
set-point below the floor rises to it. A red sample raises the set-point by 20 mV and holds the lowering, an amber one by 10 mV; green ones lower it by 5 mV after 16 samples with headroom, or at once above the cap. A run of a unit writes its codes with
the guard steps added and its trims go back to 0; one that finds no passing code fences a bay or scanner. EXPORT and WRITE use the buffer, and check it first; the NOR takes the pending records.
The model's own choices it may rest on are in log entries 113, 135, 136, 139, 192, 105. -/
def Obligations.MarginsAndCalibrationAct : Prop :=
  ∀ (s : State),
    let d := s.dev
    (∀ csum loc q n, d.locExists loc = true → (locKind loc = 1 ∨ locKind loc = 2) →
      let e := if csum = true ∧ locKind loc = 1 then d.stat 0x9018 63 32 1 else d.stat 0x9018 31 16 1
      let e := e.charge loc 0 1
      let e := { e with vloop := { raised e.vloop 10 (lowest d) with hold := true } }
      (d.startedOf q n = none → Gives (.checkFailure ⟨loc, csum⟩ q n) s e) ∧
      (∀ x r, smGet? q d.queues = some x → d.startedOf q n = some r → r.phase ≠ .finished →
        let e := (e.count x.fn 0x11 1).modStarted q n (fun r => { r with failures := r.failures + 1 })
        (r.failures = 0 → Gives (.checkFailure ⟨loc, csum⟩ q n) s e) ∧
        (1 ≤ r.failures → Gives (.checkFailure ⟨loc, csum⟩ q n) s (e.endsResidue q n r) ∧
          (e.table ⟨q, n⟩ = none → resultWork (lf r.bytes 0 1) = none →
            e.endsResidue q n r = (e.stat 0x9018 15 0 1).finishOpen (lf r.bytes 0 1) q n 11)))) ∧
    (d.vloop.running = true → d.power.st = .run → d.fw.restarting = false →
      let floor := lowest d
      let v := { d.vloop with set := max d.vloop.set floor }
      let exceeds := d.overCap
      (∀ bands headroom, (∃ b ∈ bands, d.hasMonitor b.1 = true ∧ b.2 = .red) → v.set < 880 →
        let red := ((bands.filter (fun b => d.hasMonitor b.1)).filter (fun b => b.2 == .red)).map (·.1)
        Gives (.marginSample bands headroom) s { d with vloop := { raised v 20 floor with
          hold := true
          redRun := v.redRun.filter (fun p => red.contains p.1)
          capStop := exceeds
          capMissed := v.capMissed || exceeds } }) ∧
      (∀ bands headroom, (∀ b ∈ bands, d.hasMonitor b.1 = true → b.2 ≠ .red) → (∃ b ∈ bands, d.hasMonitor b.1 = true ∧ b.2 = .amber) →
        Gives (.marginSample bands headroom) s { d with vloop := { raised v 10 floor with
          redRun := []
          capStop := exceeds
          capMissed := v.capMissed || exceeds } }) ∧
      (∀ headroom,
        let n := if headroom then v.greenRun + 1 else 0
        (exceeds = false → (n < 16 ∨ v.hold = true ∨ v.set ≤ floor) → Gives (.marginSample [] headroom) s
          { d with vloop := { v with redRun := [], capStop := false, greenRun := min 16 n } }) ∧
        (exceeds = false → 16 ≤ n → v.hold = false → floor < v.set → Gives (.marginSample [] headroom) s
          { d with vloop := { v with redRun := [], capStop := false, greenRun := 0, set := max floor (v.set - 5) } }) ∧
        (exceeds = true → v.capStop = false → v.hold = false → floor < v.set → Gives (.marginSample [] headroom) s
          { d with vloop := { v with redRun := [], greenRun := 0, set := max floor (v.set - 5) } }))) ∧
    (d.vloop.running = false ∨ d.power.st ≠ .run → ∀ bands headroom, Gives (.marginSample bands headroom) s d) ∧
    Gives .loweringHoldEnd s { d with vloop := { d.vloop with hold := false } } ∧
    (d.vloop.capMissed = false → Gives .capMissWindow s d) ∧
    (d.vloop.capMissed = true → Gives .capMissWindow s
      ((Dev.setRf { d with vloop := { d.vloop with capMissed := false } } 0x2004 3 3 1).event .capMiss [.count (d.reg 0x2028)])) ∧
    (∀ path unit result, PassesGo d path → unit < 4096 →
      let e := ((fresh d path).setRf 0x4000 30 28 1).setRf 0x4000 11 0 unit
      (e.unitExists unit = false → Gives (.calRun path unit result) s (e.setRf 0x4004 30 30 1)) ∧
      (e.unitExists unit = true → unit / 256 ≠ 4 →
        let e := { e with calSched := e.calSched.filter (· != unit) }
        (result = none → Gives (.calRun path unit result) s ((e.fenceUnit unit).event .calRefused [.unit (unit % 256)])) ∧
        (∀ body, result = some body → unit / 256 ≤ 1 →
          let codes := body.map (fun b => BitVec.ofNat 8 (min 255 (b.toNat + e.rf 0x4010 3 0)))
          let t := e.takeFree.2.calTake unit [⟨1, unit, d.sec, codes, false⟩, ⟨2, unit, d.sec, leBytes 3 e.takeFree.1, false⟩]
          Gives (.calRun path unit result) s { t with vloop := { t.vloop with trim := smErase unit t.vloop.trim } }))) ∧
    (∀ unit result,
      (d.power.st ≠ .run ∨ d.fw.restarting = true ∨ unit ∉ d.calSched → Gives (.calScheduledRun unit result) s d) ∧
      (d.power.st = .run → d.fw.restarting = false → unit ∈ d.calSched → d.unitExists unit = true → Gives (.calScheduledRun unit result) s
        (Dev.calibrate { d with calSched := d.calSched.filter (· != unit) } unit result))) ∧
    (∀ path, PassesGo d path →
      (let e := (fresh d path).setRf 0x4000 30 28 2
       let bs := d.calNor.flatMap calBytes
       let buf := bits (e.reg 0x4008) 47 16 * 65536
       (8388608 < bs.length ∨ (0 < bs.length ∧ e.pinnedRange buf bs.length = false) → Gives (.calExport path) s (e.setRf 0x4004 30 30 1)) ∧
       (∀ t, bs.length ≤ 8388608 → (bs.length = 0 ∨ e.pinnedRange buf bs.length = true) → e.unitTry (wr (e.ownFa buf) bs) = (.ok (), t) →
         Gives (.calExport path) s (t.setRf 0x4004 23 0 bs.length))) ∧
      (let e := (fresh d path).setRf 0x4000 30 28 3
       let n := e.rf 0x4004 23 0
       let buf := bits (e.reg 0x4008) 47 16 * 65536
       (8388608 < n ∨ (0 < n ∧ e.pinnedRange buf n = false) → Gives (.calWrite path) s (e.setRf 0x4004 30 30 1)) ∧
       (∀ bs t, n ≤ 8388608 → (n = 0 ∨ e.pinnedRange buf n = true) → e.unitTry (rd (e.ownFa buf) n) = (.ok bs, t) →
         (calParse bs.length bs = none → Gives (.calWrite path) s (t.setRf 0x4004 30 30 1)) ∧
         (∀ recs, calParse bs.length bs = some recs → (∃ r ∈ recs, t.unitExists r.unit = false) →
           Gives (.calWrite path) s (t.setRf 0x4004 30 30 1)) ∧
         (∀ recs, calParse bs.length bs = some recs → (∀ r ∈ recs, t.unitExists r.unit = true) → Gives (.calWrite path) s
           ((recs.map (·.unit)).eraseDups.foldl (fun (t : Dev) u => t.calTake u (recs.filter (fun r => r.unit == u))) t))))) ∧
    (∀ r, d.calPending = [r] → Gives .calNorWrite s { d with
      calNor := calReplace d.calNor [{ r with stamp := d.sec }]
      calPending := [] })

/-! Power, resets and boot. -/

/-- A write of PWR_CTRL by path `p` passes: the one write that a management path takes in every state of power (R428). -/
def Sys2Proof.Claims.PassesPwr (d : Dev) (p : Path) : Prop := d.pathAns p none true true = .pass

/-- A refused request of STOP (`kind` 0) or an aborted entry (`kind` 1) as R364 accounts it: in NORMAL it is counted and its unit and kind written; in every mode an event names the unit. -/
def Sys2Proof.Claims.accounted (d : Dev) (kind unit : Nat) : Dev :=
  let d := if d.rf 0x200C 1 0 ≠ 0 then d else
    ((if kind = 0 then d.stat 0x2010 15 0 1 else d.stat 0x2010 31 16 1).setRf 0x2010 35 32 unit).setRf 0x2010 36 36 kind
  d.event (if kind = 0 then .stopRefused else .stopAborted) [.unit unit]

/-- A wake from STOP as R362 and R364 begin it: in START_UP, TEST and RECOVERY its source is written with the port or slot and the operating seconds; in every mode an event names it. -/
def Sys2Proof.Claims.wakes (d : Dev) (src idx : Nat) : Dev :=
  let d := { d with power := { d.power with st := .waking, waking := src, wakeStep := 0 } }
  let d := if d.rf 0x200C 1 0 = 0 then d else
    ((d.setRf 0x2018 3 0 src).setRf 0x2018 7 4 (if src = 2 ∨ src = 3 ∨ src = 4 then idx else 0)).setRf 0x2018 63 32 d.sec
  d.event .woke [.unit src]

/-- R357, R358, R361 to R364, R366: a request of STOP is refused with the unit whose condition holds, the one with the lowest code first, ignored while ENTERING and refused with unit MANAGEMENT while WAKING;
else the entry begins. An entry that cannot reach L1, or that a source or an event meets, is undone and accounted. In STOP each source that is not masked starts a wake. A step of a wake that times
out is recorded and the part reset. While no command waits, the entry goes on to STOP and the wake to RUN by themselves (log entry 1).
The model's own choices it may rest on are in log entries 1, 28, 141, 142, 143. -/
def Obligations.StopIsEnteredAndLeft : Prop :=
  ∀ (s : State),
    let d := s.dev
    (∀ path, PassesPwr d path →
      let e := fresh d path
      (d.power.st = .run →
        (∀ (u : Nat) (busy : Dev → Bool), (u, busy) ∈ [(1, Dev.queuesBusy), (2, Dev.turntableBusy), (3, Dev.signalBoxBusy), (4, Dev.translationBusy),
            (5, Dev.fabricBusy), (6, Dev.leaseBusy), (7, Dev.casksBusy), (8, Dev.calibrationBusy), (10, Dev.managementBusy)] →
          busy d = true → ∃ v ≤ u, Gives (.stopRequest path) s (accounted e 0 v)) ∧
        (d.queuesBusy = true → Gives (.stopRequest path) s (accounted e 0 1)) ∧
        (d.queuesBusy = false → d.turntableBusy = false → d.signalBoxBusy = false → d.translationBusy = false → d.fabricBusy = false →
          d.leaseBusy = false → d.casksBusy = false → d.calibrationBusy = false →
          (d.managementBusy = true → Gives (.stopRequest path) s (accounted e 0 10)) ∧
          (d.managementBusy = false → Gives (.stopRequest path) s
            { e with power := { d.power with st := .entering, step := 1, linkL1 := false, dozed := [], snapshot := [] } })) ∧
        Gives (.managementExit path) s e) ∧
      (d.power.st = .entering → Gives (.stopRequest path) s e ∧ Gives (.managementExit path) s (accounted e.undoEntry 1 10)) ∧
      (d.power.st = .waking → Gives (.stopRequest path) s (accounted e 0 10) ∧ Gives (.managementExit path) s e) ∧
      (d.power.st = .stop → Gives (.stopRequest path) s e ∧ Gives (.managementExit path) s (wakes e 5 0))) ∧
    (d.power.st = .entering →
      (d.power.step = 6 → d.power.linkL1 = false → Gives .stopL1Timeout s (accounted d.undoEntry 0 9)) ∧
      (∀ u, (u = 5 ∨ u = 7 ∨ u = 9 ∨ u = 10) → Gives (.stopAbort u) s (accounted d.undoEntry 1 u)) ∧
      (∀ src n, ((src = 2 ∨ src = 3) → n < 16 → d.portWakeEn n = true → Gives (.wakeUp src n) s (accounted d.undoEntry 1 5)) ∧
        (src = 4 → n < 4 → d.rf 0x2000 1 1 = 1 → Gives (.wakeUp src n) s (accounted d.undoEntry 1 7)))) ∧
    (d.power.st ≠ .entering → Gives .stopL1Timeout s d ∧ ∀ u, Gives (.stopAbort u) s d) ∧
    (d.power.st = .stop → ∀ n,
      Gives (.wakeUp 1 n) s (wakes d 1 n) ∧ Gives (.wakeUp 5 n) s (wakes d 5 n) ∧
      (∀ src, (src = 2 ∨ src = 3) → n < 16 →
        (d.portWakeEn n = true → Gives (.wakeUp src n) s (wakes d src n)) ∧ (d.portWakeEn n = false → Gives (.wakeUp src n) s d)) ∧
      (n < 4 → (d.rf 0x2000 1 1 = 1 → Gives (.wakeUp 4 n) s (wakes d 4 n)) ∧ (d.rf 0x2000 1 1 ≠ 1 → Gives (.wakeUp 4 n) s d))) ∧
    (d.power.st = .run ∨ d.power.st = .waking → ∀ src n, Gives (.wakeUp src n) s d) ∧
    (∀ step, 1 ≤ step → step ≤ 4 → d.power.st = .waking → exec (.wakeStepTimeout step) s =
      .next { s with lock := 0, dev := ((d.event .wakeFailed [.unit step]).flushEvents).cleared }) ∧
    (∀ step, d.power.st ≠ .waking → exec (.wakeStepTimeout step) s = .next s) ∧
    (d.power.pwrgd = false ∨ d.power.ready = false ∨ d.power.linkUp = true → Gives .cxlLinkUp s d) ∧
    (d.power.pwrgd = true → d.power.ready = true → d.power.linkUp = false → d.power.st = .run →
      Gives .cxlLinkUp s { d with power := { d.power with linkUp := true } }) ∧
    (∀ path, Passes d path →
      (s.lock.testBit 9 = true ∨ d.rf 0x200C 1 0 = 3 → Gives (.pwrModeTest path) s (fresh d path)) ∧
      (s.lock.testBit 9 = false → d.rf 0x200C 1 0 ≠ 3 → Gives (.pwrModeTest path) s ((fresh d path).setRf 0x200C 1 0 2))) ∧
    (s.pending = [] → d.power.ready = true → d.held = [] →
      (d.power.st = .entering → 7 ≤ d.power.step →
        step s = .next { s with dev := Dev.tick { d with power := { d.power with st := .stop, step := 8 }, flowsOut := [], flowsIn := [] } }) ∧
      (d.power.st = .waking → d.power.wakeStep < 3 →
        step s = .next { s with dev := Dev.tick { d with power := { d.power with wakeStep := d.power.wakeStep + 1 } } }) ∧
      (d.power.st = .waking → 3 ≤ d.power.wakeStep → d.power.aonLost = false → step s = .next { s with dev := d.logicReady.tick }) ∧
      (d.power.st = .stop → step s = .next s))

/-- The block `t` has been reset from `d` (R28, R346, R365, R427): what the island, the NOR, the casks and the modules hold stays, all else is as after reset, and the boot has yet to run. -/
def Sys2Proof.Claims.ResetFrom (d t : Dev) : Prop :=
  let z := State.reset.dev
  (t.scores = d.scores ∧ t.fencedBays = d.fencedBays ∧ t.fencedScan = d.fencedScan ∧ t.fencedPorts = d.fencedPorts ∧ t.retiredCh = d.retiredCh ∧ t.retiring = d.retiring ∧
    t.retiredDies = d.retiredDies ∧ t.calNor = d.calNor ∧ t.deny = d.deny ∧ t.fw.slotA = d.fw.slotA ∧ t.fw.slotB = d.fw.slotB ∧
    t.fw.activeB = d.fw.activeB ∧ t.fw.runningB = d.fw.activeB ∧ t.part = d.part ∧
    t.slots = (d.slots.filter (fun p => p.2.detect)).map (fun p => (p.1, { SlotSt.empty with cask := p.2.cask, detect := true })) ∧
    t.ports = (d.ports.filter (fun p => p.2.module)).map (fun p => (p.1, { PortSt.empty with module := true }))) ∧
  (t.regs = z.regs ∧ t.sels = z.sels ∧ t.latches = z.latches ∧ t.msix = z.msix ∧ t.pba = z.pba ∧ t.mem = z.mem ∧ t.pois = z.pois ∧ t.roots = z.roots ∧
    t.rootBusy = z.rootBusy ∧ t.mapLaid = z.mapLaid ∧ t.tmap = z.tmap ∧ t.remotes = z.remotes ∧ t.precs = z.precs ∧ t.moves = z.moves ∧
    t.openPend = z.openPend ∧ t.demand = z.demand ∧ t.ageWindow = z.ageWindow ∧ t.ageMs = z.ageMs ∧ t.victimStart = z.victimStart ∧ t.tierFull = z.tierFull ∧
    t.leafAt = z.leafAt ∧ t.lostLeaves = z.lostLeaves ∧ t.leafWritten = z.leafWritten ∧ t.wantRebuild = z.wantRebuild ∧ t.rootNew = z.rootNew ∧
    t.evicting = z.evicting ∧ t.wantPromo = z.wantPromo ∧ t.wantDemote = z.wantDemote ∧ t.promoWait = z.promoWait ∧ t.quota = z.quota ∧ t.seqCtr = z.seqCtr ∧
    t.hdm = z.hdm ∧ t.dir = z.dir ∧ t.dirRot = z.dirRot ∧ t.dirCache = z.dirCache ∧ t.refused = z.refused ∧ t.markCtr = z.markCtr ∧ t.waiting = z.waiting ∧
    t.unresp = z.unresp ∧ t.sweep = z.sweep ∧ t.timedOut = z.timedOut ∧ t.revs = z.revs ∧ t.raised = z.raised ∧ t.snoopDue = z.snoopDue ∧
    t.coWatch = z.coWatch ∧ t.polledLines = z.polledLines ∧ t.tlb = z.tlb ∧ t.tptr = z.tptr ∧ t.tlbSec = z.tlbSec ∧ t.arb = z.arb ∧ t.bayTurn = z.bayTurn ∧
    t.ringOwed = z.ringOwed ∧ t.invs = z.invs ∧ t.faults = z.faults ∧ t.areas = z.areas ∧ t.migrations = z.migrations ∧ t.faultCtr = z.faultCtr ∧
    t.queues = z.queues ∧ t.inbox = z.inbox ∧ t.flowsOut = z.flowsOut ∧ t.flowsIn = z.flowsIn ∧ t.fabOut = z.fabOut ∧ t.fabIn = z.fabIn ∧ t.subs = z.subs ∧
    t.parity = z.parity ∧ t.bringup = z.bringup ∧ t.span = z.span ∧ t.tagCtr = z.tagCtr ∧ t.extents = z.extents ∧ t.lapseOk = z.lapseOk ∧ t.found = z.found ∧
    t.smpWin = z.smpWin ∧ t.leases = z.leases ∧ t.membs = z.membs ∧ t.egWords = z.egWords ∧ t.egs = z.egs ∧ t.grants = z.grants ∧ t.xfers = z.xfers ∧
    t.impDone = z.impDone ∧ t.impSkip = z.impSkip ∧ t.calPending = z.calPending ∧ t.calSched = z.calSched ∧ t.vloop = z.vloop ∧ t.sampleRun = z.sampleRun ∧
    t.threadMode = z.threadMode ∧ t.modeBusy = z.modeBusy ∧ t.training = z.training ∧ t.rowCache = z.rowCache ∧ t.rowLocks = z.rowLocks ∧
    t.rowMoves = z.rowMoves ∧ t.switchQ = z.switchQ ∧ t.embRound = z.embRound ∧ t.timetables = z.timetables ∧ t.searches = z.searches ∧ t.held = z.held ∧
    t.fw.sessions = z.fw.sessions) ∧
  t.power.ready = false ∧ t.power.stuck = false ∧ t.power.st = .run ∧ t.power.linkUp = false

/-- The boot that runs the image of a slot (R26, R331, R346, R355, R366, R412): its microcode goes into every bay, the voltage loop starts from 800 mV, the part is ready, the record
of a trip and a bad calibration record become events, the ports with a module train, and the casks are raised. -/
def Sys2Proof.Claims.booted (d : Dev) (slot : Bool) : Dev :=
  let code := (d.fw.slot slot).microcode
  let d := { d with
    fw := { d.fw with runningB := slot, microcode := (List.range d.bays).foldl (fun m b => smPut 0 b code m) d.fw.microcode }
    vloop := { d.vloop with set := 800, running := true }
    power := { d.power with ready := true } }
  let d := match d.pins.tripRecord with
    | some (.thermal sensor temp) =>
      Dev.event { d with pins := { d.pins with tripRecord := none } } .thermalTrip [.unit (sensor % 256), .count temp]
    | some .noClock => Dev.event { d with pins := { d.pins with tripRecord := none } } .thermalTrip []
    | none => d
  let d := if d.calNor.any (·.bad) then d.event .calBad [] else d
  ((List.range 16).foldl (fun (d : Dev) p => if (d.port p).module then d.restPort p else d) d).raiseRails

/-- R141, R365, R366, R374, R405, R407, R412: a device reset and the watchdog clear the locks and keep the island's counters; a cold reset also counts the power cycle and starts the tick counter anew. The
boot runs the ACTIVE slot where it is valid, else the other one, then in RECOVERY; with neither it stays in the boot ROM, and without its 32.768 kHz clock it does not end, with the cause in the trip record. A reset of the host port or of an LD silences the LDs and takes their decoders, registers and
sessions. With its power lost, or at a thermal trip, the part keeps what the resets keep, and only a cold reset brings it back. The island's counters resume from their copies when VDD_AON was lost.
The model's own choices it may rest on are in log entries 144 to 148, 191. -/
def Obligations.ResetsKeepWhatTheyMust : Prop :=
  ∀ (s : State),
    let d := s.dev
    (∀ c, (c = .watchdogExpiry ∨ ∃ cause, c = .deviceReset cause) →
      (d.power.pwrgd = true → ∃ t, exec c s = .next { s with lock := 0, dev := t } ∧ ResetFrom d t ∧ t.power.pwrgd = true ∧
        t.ticks = d.ticks ∧ t.opTicks = d.opTicks ∧ t.pcc = d.pcc ∧ t.pins.corePower = d.pins.corePower) ∧
      (d.power.pwrgd = false → exec c s = .next s)) ∧
    (∀ kept clock lds, ∃ t, exec (.coldReset ⟨kept, clock, lds⟩) s = .next { s with lock := 0, dev := t } ∧ ResetFrom d t ∧ t.power.pwrgd = true ∧ t.power.clock = clock ∧ t.ticks = 0 ∧
      t.opTicks = (if kept then d.opTicks else d.power.norTicks) ∧ t.pcc = ((if kept then d.pcc else d.power.norPcc) + 1) % 2 ^ 32 ∧
      t.pins.corePower = true ∧ t.pins.thermtrip = false ∧ t.pins.tripRecord = d.pins.tripRecord ∧
      (1 ≤ lds → lds ≤ 16 → ∀ ld, ld ∈ t.activeLds ↔ ld < lds)) ∧
    (d.power.pwrgd = true → ∃ t, Gives .powerLoss s t ∧ ResetFrom d t ∧ t.power.pwrgd = true ∧ t.pins.corePower = false) ∧
    (d.power.pwrgd = true → ∃ t, Gives .pwrgdFall s t ∧ ResetFrom d t ∧ t.power.pwrgd = false ∧ t.pins.corePower = false ∧ t.pins.thermtrip = false) ∧
    (d.power.pwrgd = true → d.pins.thermtrip = false → ∀ sensor temp, ∃ t, Gives (.thermalTrip sensor temp) s t ∧ ResetFrom d t ∧
      t.pins.thermtrip = true ∧ t.pins.corePower = false ∧ t.pins.tripRecord = some (.thermal sensor temp)) ∧
    (d.power.pwrgd = false → ∀ sensor temp, Gives .powerLoss s d ∧ Gives .pwrgdFall s d ∧ Gives (.thermalTrip sensor temp) s d) ∧
    (∃ p, Gives .vddAonLoss s { d with opTicks := d.power.norTicks, pcc := d.power.norPcc, power := p } ∧ p = { d.power with aonLost := p.aonLost } ∧
      (p.aonLost = true ↔ d.power.aonLost = true ∨ d.power.st = .stop ∨ d.power.st = .waking ∨ (d.power.st = .entering ∧ 4 ≤ d.power.step))) ∧
    (d.power.ready = false ∨ d.power.pwrgd = false → Gives .hostPortReset s d ∧ ∀ ld, Gives (.ldReset ld) s d) ∧
    (d.power.ready = true → d.power.pwrgd = true →
      (∀ ld, 16 ≤ ld → Gives (.ldReset ld) s d) ∧
      (∀ ld, ld < 16 → ld ∈ d.activeLds → (∀ p ∈ d.queues, p.2.fn / 64 ≠ ld) →
        let e := (d.dropHost [ld]).silence ld
        let e := (List.range 8).foldl (fun (e : Dev) n => e.uncommit ld n) e
        let e := e.resetFns (fun f => decide (f < 1024) && decide (f / 64 = ld))
        Gives (.ldReset ld) s (Dev.dropHeld { e with
          regs := e.regs.filter (fun p => ! decide (0x6400 + 0x40 * ld ≤ p.1 ∧ p.1 < 0x6440 + 0x40 * ld))
          fw := { e.fw with sessions := e.fw.sessions.filter (fun x => x.transport ≥ 16 || x.transport != ld) } } [ld])) ∧
      ∃ t, Gives .hostPortReset s t ∧ t.power.linkUp = false ∧ (∀ p ∈ t.regs, p.1 < 0x6400 ∨ 0x6800 ≤ p.1) ∧
        (∀ x ∈ t.fw.sessions, 16 ≤ x.transport)) ∧
    (s.pending = [] → d.power.pwrgd = true → d.power.ready = false → d.power.stuck = false → d.pins.corePower = true → d.power.st = .run →
      let w := d.fw
      (d.power.clock = false → step s = .next { s with dev := Dev.tick { d with
        power := { d.power with stuck := true }
        pins := { d.pins with tripRecord := some .noClock } } }) ∧
      (d.power.clock = true → (w.slot w.activeB).runs s.fuses = true → step s = .next { s with dev := (booted d w.activeB).tick }) ∧
      (d.power.clock = true → (w.slot w.activeB).runs s.fuses = false → (w.slot (! w.activeB)).runs s.fuses = true →
        step s = .next { s with dev := (booted (d.setRf 0x200C 1 0 3) (! w.activeB)).tick }) ∧
      (d.power.clock = true → (w.slot w.activeB).runs s.fuses = false → (w.slot (! w.activeB)).runs s.fuses = false →
        step s = .next { s with dev := Dev.tick { d with power := { d.power with stuck := true } } }))

/-! Firmware, locks and identity. -/

/-- What a write of SEC_FW_CMD with GO finds: its OP and SLOT are stored (R381). -/
def Sys2Proof.Claims.secOp (d : Dev) (p : Path) (op : Nat) (slot : Bool) : Dev := ((fresh d p).setRf 0x1018 2 0 op).setRf 0x1018 3 3 (if slot then 1 else 0)

/-- A firmware command that fails sets SEC_FW_STS.ERR and writes its reason (R375). -/
def Sys2Proof.Claims.failing (d : Dev) (reason : Nat) : Dev := { d.setRf 0x101C 8 8 1 with fw := { d.fw with reason := reason } }

/-- R26, R373 to R375, R377 to R379: a write of SEC_LOCK sets bits and clears none. STAGE puts a valid image into a slot that neither runs nor is ACTIVE, and an invalid one leaves the slot invalid. ACTIVATE and
REVERT raise VDD_CORE by 20 mV and restart the management core; CONFIRM makes the running slot ACTIVE and burns fuses up to the image's SVN where SVN_COMMIT is set; each fails with the reason of the table. A restart ends in the target slot, or
with reason 1 in the old one; microcode is rolled out bay by bay where UCOMPAT is the same.
The model's own choices it may rest on are in log entries 151, 152. -/
def Obligations.FirmwareIsStagedActivatedAndConfirmed : Prop :=
  ∀ (s : State) (path : Path), Passes s.dev path →
    let d := s.dev
    (∀ v, ∃ l, exec (.secLockWrite path v) s = .next { s with lock := l, dev := fresh d path } ∧
      ∀ b, l.testBit b = (s.lock.testBit b || (decide (b < 11) && v.testBit b))) ∧
    (∀ slot,
      let e := secOp d path 1 slot
      let put (t : Dev) (x : FwSlot) : Dev := { t with fw := if slot then { t.fw with slotB := x } else { t.fw with slotA := x } }
      (d.fw.restarting = true → Gives (.stageImage path slot) s (failing e 4)) ∧
      (d.fw.restarting = false → (slot = d.fw.runningB ∨ slot = d.fw.activeB) → Gives (.stageImage path slot) s (failing e 2)) ∧
      (d.fw.restarting = false → slot ≠ d.fw.runningB → slot ≠ d.fw.activeB →
        let buf := bits (e.reg 0x1010) 47 16 * 65536
        (e.pinnedRange buf 16777216 = false → Gives (.stageImage path slot) s (failing (put e .blank) 1)) ∧
        (∀ head body t, e.pinnedRange buf 16777216 = true → e.unitTry (readImage buf) = (.ok (head, body), t) →
          (∀ x, imageOf s.fuses head body = some x → Gives (.stageImage path slot) s (put t x)) ∧
          (imageOf s.fuses head body = none → Gives (.stageImage path slot) s (failing (put t .blank) 1))))) ∧
    (∀ slot,
      let e := secOp d path 2 slot
      (d.fwBusy = true ∨ d.calBusy = true → Gives (.activate path slot) s (failing e 4)) ∧
      (d.fwBusy = false → d.calBusy = false → d.power.st = .run →
        ((d.fw.slot slot).valid = false ∨ (d.fw.slot slot).svn < s.fuses → Gives (.activate path slot) s (failing e 2)) ∧
        ((d.fw.slot slot).valid = true → s.fuses ≤ (d.fw.slot slot).svn → Gives (.activate path slot) s { e with
          fw := { d.fw with restarting := true, target := slot }
          vloop := raised d.vloop 20 (lowest d) }))) ∧
    (let e := secOp d path 3 (bit (d.reg 0x1018) 3)
     let x := d.fw.slot d.fw.runningB
     let owed : Prop := x.svnCommit = true ∧ s.fuses < min 64 x.svn
     (d.fw.restarting = true → Gives (.confirm path) s (failing e 4)) ∧
     (d.fw.restarting = false → d.fw.runningB = d.fw.activeB → ¬ owed → Gives (.confirm path) s (failing e 5)) ∧
     (d.fw.restarting = false → (d.fw.runningB ≠ d.fw.activeB ∨ owed) → exec (.confirm path) s = .next { s with
       fuses := if x.svnCommit = true then max s.fuses (min 64 x.svn) else s.fuses
       dev := { e with fw := { d.fw with activeB := d.fw.runningB } } })) ∧
    (let e := secOp d path 4 (bit (d.reg 0x1018) 3)
     (d.fwBusy = true → Gives (.revert path) s (failing e 4)) ∧
     (d.fwBusy = false → d.fw.runningB = d.fw.activeB → Gives (.revert path) s (failing e 2)) ∧
     (d.fwBusy = false → d.fw.runningB ≠ d.fw.activeB → Gives (.revert path) s { e with
       fw := { d.fw with restarting := true, target := d.fw.activeB }
       vloop := raised d.vloop 20 (lowest d) })) ∧
    (d.fw.restarting = false → s.endRestart = s) ∧
    (d.fw.restarting = true →
      let x := d.fw.slot d.fw.target
      (x.valid = false ∨ x.svn < s.fuses → s.endRestart = { s with dev := failing { d with fw := { d.fw with restarting := false } } 1 }) ∧
      (x.valid = true → s.fuses ≤ x.svn → s.endRestart = { s with dev := { d with fw := { d.fw with
        restarting := false
        runningB := d.fw.target
        heldMicrocode := decide (x.ucompat ≠ (d.fw.slot d.fw.runningB).ucompat)
        rollout := if x.ucompat = (d.fw.slot d.fw.runningB).ucompat then
          (List.range d.bays).filter (fun b => smGet b 0 d.fw.microcode != x.microcode) else [] } } })) ∧
    (∀ bay,
      (bay ∉ d.fw.rollout ∨ d.fw.restarting = true → Gives (.microcodeRollout bay) s d) ∧
      (bay ∈ d.fw.rollout → d.fw.restarting = false → Gives (.microcodeRollout bay) s { d with fw := { d.fw with
        rollout := d.fw.rollout.filter (· != bay)
        microcode := smPut 0 bay (d.fw.slot d.fw.runningB).microcode d.fw.microcode } }))

/-- R370, R371, R378: on a DOE mailbox of an LD and on MCTP, CHALLENGE and GET_MEASUREMENTS answer with a signature of the Alias key over the requester's nonce, GET_CERTIFICATE with the part of the chain asked for,
KEY_EXCHANGE with a session, of at most four on each transport; measurement block 7 carries the locks. What is not offered is answered with ERROR; while the management core restarts every request with ResponseNotReady and
200 ms; a request on a mailbox outside RUN waits. The codes and formats of the answers are the model's (PRESUMED, log entry 149).
The model's own choices it may rest on are in log entries 149, 150. -/
def Obligations.IdentityIsAnswered : Prop :=
  ∀ (s : State) (tr : Nat),
    let d := s.dev
    let alias_ : Nat := leNat (sha3 (cdi1 (d.fw.slot d.fw.runningB) ++ asciiBytes "ALIAS"))
    let chain (slot : Nat) : List Byte := Config.certChain slot (if slot = 0 then deviceSeed else alias_)
    tr ≤ 16 → d.power.pwrgd = true → (tr = 16 ∨ d.power.linkUp = true) →
    (∀ c, ((∃ slot nonce, c = .challenge tr slot nonce) ∨ (∃ i nonce, c = .getMeasurements tr i nonce) ∨
        (∃ slot off len, c = .getCertificate tr slot off len) ∨ (∃ n ex leaf, c = .keyExchange tr n ex leaf)) →
      ((tr = 16 ∨ d.power.st = .run) → d.fw.restarting = true → Gives c s (d.send (.spdm tr 0x7F (leBytes 1 0x42 ++ leBytes 4 200)))) ∧
      (tr < 16 → d.power.st ≠ .run → ∃ t, Gives c s t ∧ t.held = d.held ++ [c])) ∧
    ((tr = 16 ∨ d.power.st = .run) → d.fw.restarting = false →
      (∀ slot nonce,
        (1 < slot → Gives (.challenge tr slot nonce) s (d.send (.spdm tr 0x7F [0x01]))) ∧
        (slot ≤ 1 →
          let body := sha3 (chain slot) ++ nonce
          Gives (.challenge tr slot nonce) s (d.send (.spdm tr 0x03 (body ++ Config.mldsaSign alias_ body))))) ∧
      (∀ i nonce,
        (7 < i → i ≠ 255 → Gives (.getMeasurements tr i nonce) s (d.send (.spdm tr 0x7F [0x01]))) ∧
        (i ≤ 7 ∨ i = 255 →
          let body := (if i = 0 then [0x07] else if i = 255 then ((List.range 7).map (fun k => s.measBlock (k + 1))).flatten else s.measBlock i) ++ nonce
          Gives (.getMeasurements tr i nonce) s (d.send (.spdm tr 0x60 (body ++ Config.mldsaSign alias_ body))))) ∧
      (∀ slot off len,
        (1 < slot ∨ (chain slot).length < off → Gives (.getCertificate tr slot off len) s (d.send (.spdm tr 0x7F [0x01]))) ∧
        (slot ≤ 1 → off ≤ (chain slot).length →
          Gives (.getCertificate tr slot off len) s (d.send (.spdm tr 0x02 (((chain slot).drop off).take len))))) ∧
      (∀ n ex leaf,
        let mine := d.fw.sessions.filter (fun x => x.transport == tr)
        ((∃ x ∈ mine, x.id = n) → Gives (.keyExchange tr n ex leaf) s (d.send (.spdm tr 0x7F [0x01]))) ∧
        ((∀ x ∈ mine, x.id ≠ n) → 4 ≤ mine.length → Gives (.keyExchange tr n ex leaf) s (d.send (.spdm tr 0x7F [0x0A]))) ∧
        ((∀ x ∈ mine, x.id ≠ n) → mine.length < 4 →
          let k := Config.mlkemEncaps ex
          let e := { d with fw := { d.fw with sessions := d.fw.sessions ++ [Session.mk tr n leaf.isSome (leaf.getD 0) k.2] } }
          Gives (.keyExchange tr n ex leaf) s (e.send (.spdm tr 0x64 (k.1 ++ Config.mldsaSign alias_ (ex ++ k.1))))))) ∧
    (∃ rest, s.measurement 7 = leBytes 4 s.lock ++ rest) ∧ s.measurement 3 = leBytes 32 (d.fw.slot d.fw.runningB).bodyHash

/-! Records, meters and registers. -/

/-- R384: a counter that has counted past 2^48 - 1 wraps to 0 and goes on, and sets its bit in PMC_OVF; nothing else changes, and no interrupt is raised. A write of PMC_CNT_n, by the function itself or by a management path that has
selected its set, sets the counter, and a write of PMC_EVT_n also clears its counter. -/
def Obligations.CountersWrapAndAreWritten : Prop :=
  (∀ (d : Dev) (set i n : Nat), i < 8 → n < 2 ^ 48 → d.reg (pmcKey set (0x40 + 8 * i)) < 2 ^ 48 →
    let k := pmcKey set (0x40 + 8 * i)
    (d.reg k + n < 2 ^ 48 → d.bump set i n = d.setReg k (d.reg k + n)) ∧
    (2 ^ 48 ≤ d.reg k + n →
      let e := d.setReg k (d.reg k + n - 2 ^ 48)
      d.bump set i n = e.setReg (pmcKey set 0x80) (e.reg (pmcKey set 0x80) ||| 2 ^ i))) ∧
  (∀ (s : State) (i v : Nat), i < 8 → v < 2 ^ 48 →
    (∀ f, f < 1024 → s.dev.pathAns (.fn f) (some f) false false = .pass →
      Gives (.registerWrite (.fn f) (0x1040 + 8 * i) 8 v) s ((fresh s.dev (.fn f)).setReg (pmcKey f (0x40 + 8 * i)) v) ∧
      Gives (.pmcEvtWrite (.fn f) i (v % 256)) s
        (((fresh s.dev (.fn f)).setRf (pmcKey f (0x10 + 4 * i)) 7 0 (v % 256)).setReg (pmcKey f (0x40 + 8 * i)) 0)) ∧
    (∀ p, (p = .fm ∨ p = .mgmt ∨ ∃ n, p = .mctp n) → Passes s.dev p →
      let set := bits (s.dev.sel p 0x20000) 10 0
      Gives (.registerWrite p (0x20040 + 8 * i) 8 v) s ((fresh s.dev p).setReg (pmcKey set (0x40 + 8 * i)) v) ∧
      Gives (.pmcEvtWrite p i (v % 256)) s (((fresh s.dev p).setRf (pmcKey set (0x10 + 4 * i)) 7 0 (v % 256)).setReg (pmcKey set (0x40 + 8 * i)) 0)))

/-- TALERT_N after an update of PWR_TEMP (R412): it follows the alert bits, and an alert is recorded once in a 1-second window. -/
def Sys2Proof.Claims.alerting (d : Dev) : Dev :=
  let d := { d with pins := { d.pins with talert := d.rf 0x2024 2 0 != 0 } }
  if d.rf 0x2024 2 0 = 0 then d else d.eventSecond .thermalAlert 0 [.unit (d.rf 0x2024 2 0)]

/-- R27, R365, R384, R390 to R393, R395, R396, R412, R413, R425: a write of PMC_EVT_n selects the event and clears its counter. A record that waits is appended where it fits, after which LOG_FULL is written once and later ones are counted.
EXPORT copies the log, CLEAR empties it for a requester that authenticated itself in an SPDM session and is denied and recorded otherwise. At an operating tick the counter counts and every frame raises the meter of its composition; at a window's end its record falls due, and the
meters, limits and row-cache counters go on. Measured power and temperatures are shown; at its alert level a sensor asserts TALERT_N.
The model's own choices it may rest on are in log entries 154, 155. -/
def Obligations.RecordsAndMetersAct : Prop :=
  ∀ (s : State),
    let d := s.dev
    (∀ path i ev, d.pathAns path (match path with | .fn f => if f < 1024 then some f else none | _ => none) false false = .pass → i < 8 →
      let set := match path with | .fn f => f | p => bits (d.sel p 0x20000) 10 0
      Gives (.pmcEvtWrite path i ev) s (((fresh d path).setRf (pmcKey set (0x10 + 4 * i)) 7 0 ev).setReg (pmcKey set (0x40 + 8 * i)) 0)) ∧
    (let r := d.recorder
     (r.buf = [] ∨ d.fw.restarting = true → Gives .recorderFlush s d) ∧
     (∀ e, r.buf = [e] → d.fw.restarting = false →
       (r.full = false → eventsLen r.log + e.len ≤ 67108800 →
         Gives .recorderFlush s { d with recorder := { r with buf := [], log := r.log ++ [e] } }) ∧
       (r.full = false → 67108800 < eventsLen r.log + e.len →
         let lost := min (r.lost + 1) 0xFFFFFF
         Gives .recorderFlush s { d with recorder := { r with
           buf := [], log := r.log ++ [⟨.logFull, d.sec, d.pcc, [.count lost]⟩], full := true, lost := lost } }) ∧
       (r.full = true → Gives .recorderFlush s { d with recorder := { r with buf := [], lost := min (r.lost + 1) 0xFFFFFF } }))) ∧
    (∀ path, Passes d path →
      (let e := (fresh d path).setRf 0x5004 1 0 1
       let off := e.rf 0x5008 31 0
       let n := e.rf 0x5008 63 32
       let buf := bits (e.reg 0x5010) 47 16 * 65536
       (8388608 < n ∨ off % 4 ≠ 0 ∨ 67108864 < off + n ∨ (0 < n ∧ e.pinnedRange buf n = false) →
         Gives (.recExport path) s (e.setRf 0x5018 2 2 1)) ∧
       (∀ t, n ≤ 8388608 → off % 4 = 0 → off + n ≤ 67108864 → (n = 0 ∨ e.pinnedRange buf n = true) →
         e.unitTry (wr (e.ownFa buf) (d.logBytes off n)) = (.ok (), t) → Gives (.recExport path) s t)) ∧
      (let e := (fresh d path).setRf 0x5004 1 0 2
       (d.requester path = none → Gives (.recClear path) s ((e.setRf 0x5018 2 2 1).event .clearDenied [])) ∧
       (∀ leaf, d.requester path = some leaf → Gives (.recClear path) s { e with recorder := { d.recorder with
         log := [⟨.cleared, d.sec, d.pcc, [.text (hexBytes (leBytes 32 leaf)), .count d.recorder.log.length]⟩], full := false, lost := 0 } }))) ∧
    (∀ path, (∀ i, path ≠ .mctp (some i)) → d.requester path = none) ∧
    (let raise (e : Dev) (p : Nat × TEntry) : Dev :=
       if d.rooted p.1 = false then e
       else if p.2.tier = 0 ∧ p.2.psn = false then e.meter (pComp (d.precOf p.2)) 0 1
       else if p.2.tier = 1 ∧ p.2.zero = false then e.meter (pComp (d.precOf p.2)) 1 1 else e
     let e := if d.mapOn then d.tmap.foldl raise d else d
     let e := { e with opTicks := (d.opTicks + 1) % 2 ^ 48 }
     Gives .operatingTick s (if (d.opTicks + 1) % 2 ^ 48 % 32768 = 0 then { e with recorder := { e.recorder with secondly := [] } } else e)) ∧
    (let m := d.meters
     let len := max 1 (min 3600 (d.rf 0x5000 11 0))
     let logged := bits (d.reg 0x5020) 47 16 ≠ 0
     let e := { d with meters := { m with
       due := if logged then m.due ++ [(m.window, d.windowRecord)] else m.due
       slot := if logged then (m.slot + 1) % 2 ^ max 1 (min 12 (d.rf 0x5020 3 0)) else m.slot
       atWindow := m.total
       window := if len = m.length then m.window + 1 else d.opTicks / (32768 * len)
       length := len
       startSec := d.sec
       startPcc := d.pcc } }
     Gives .accountingWindowEnd s e.endWindowEvents.rowDecay.writeWindow) ∧
    (∀ mw die hbm opt, mw < 2 ^ 32 → die < 256 → hbm < 256 → opt < 256 →
      let alerts := (if 110 ≤ die then 1 else 0) + (if 95 ≤ hbm then 2 else 0) + (if 85 ≤ opt then 4 else 0)
      Gives (.pkgPowerUpdate mw die hbm opt) s
        (alerting ((d.setReg 0x2028 mw).setReg 0x2024 (opt * 2 ^ 24 + hbm * 2 ^ 16 + die * 2 ^ 8 + alerts)))) ∧
    (∀ k temp, k ≤ 2 →
      let level := if k = 0 then 110 else if k = 1 then 95 else 85
      (temp < level → Gives (.thermalAlert k temp) s d) ∧ (level ≤ temp → Gives (.thermalAlert k temp) s (alerting (d.setRf 0x2024 k k 1))))

/-- The management-space registers without an action of their own: their fields act as R16 gives for their codes, and as a later command reads them. -/
def Sys2Proof.Claims.plainRegs : List Nat := [0x1004, 0x1010, 0x101C, 0x2004, 0x2008, 0x2020, 0x2024, 0x4004, 0x4008, 0x4010, 0x5000, 0x5008, 0x5010, 0x5018,
  0x5020, 0x6000, 0x6008, 0x7004, 0x7008, 0x7020, 0x8000, 0x8004, 0x9018, 0xA008, 0xA010, 0xB008, 0xB00C, 0xB010, 0xC000, 0xC008, 0xD008, 0xD010, 0xD018, 0xD01C,
  0xD020, 0xD024, 0xD058, 0xE000, 0xE004, 0xE008, 0xE010, 0x10000, 0x10018, 0x10020, 0x10028, 0x1002C, 0x10030]

/-- A register `r` that held `old` holds `x` after a write of the bits `lo` up to `hi` from `v` (R16): RW takes the value, RWL unless locked, RW1C clears where a 1 is written, other bits stay. -/
def Sys2Proof.Claims.Written (r : RegRow) (locked : Bool) (lo hi old v x : Nat) : Prop :=
  ∀ b, x.testBit b =
    if b < lo ∨ hi ≤ b then old.testBit b
    else if r.w1c.testBit b then old.testBit b && ! v.testBit b
    else if r.rw.testBit b || (r.rwl.testBit b && ! locked) then v.testBit b else old.testBit b

/-- R16, R154, R155, R205, R226, R228, R229, R231, R376, R378, R382, R415 to R417, R426, R428: a write reaches a whole register of its width, or its halves one after the other, of which the low one waits for the next access on its path; its fields take it by their codes and locks. A selector is
its path's own. Other sizes and misaligned accesses, other spaces than a function's own, writes outside RUN and MCTP writes without a session that SEC_CFG.AUTH asks for are refused; an offset without a register takes nothing. ENG_MODE switches the bays once each has
switched; the table bases of attention and embeddings clear their areas as EN is written to 1; a row's lock is released; a row that is moved is copied, and once its copy is visible and its turn has come its remap entry is written, and its freeze ends when no sum waits.
The model's own choices it may rest on are in log entries 28, 157, 158. -/
def Obligations.RegistersAreWritten : Prop :=
  ∀ (s : State),
    let d := s.dev
    (∀ p, (p = .fm ∨ p = .mgmt ∨ ∃ n, p = .mctp n) →
      let e := fresh d p
      (Passes d p → ∀ off ∈ plainRegs, ∀ r, regRow off = some r → ∀ v,
        let locked := s.lock.testBit r.lock
        (∃ x, Gives (.registerWrite p off (r.width / 8) v) s (e.setReg off x) ∧ Written r locked 0 r.width (d.reg off) v x) ∧
        (r.width = 64 →
          Gives (.registerWrite p off 4 v) s (e.setLatch p ⟨some (off, v % 2 ^ 32), none⟩) ∧
          (∀ low, (d.latch p).heldLow = some (off, low) → low < 2 ^ 32 → ∃ x, Gives (.registerWrite p (off + 4) 4 v) s (e.setReg off x) ∧
            Written r locked 0 64 (d.reg off) (low + 2 ^ 32 * (v % 2 ^ 32)) x) ∧
          ((∀ low, (d.latch p).heldLow ≠ some (off, low)) → ∃ x, Gives (.registerWrite p (off + 4) 4 v) s (e.setReg off x) ∧
            Written r locked 32 64 (d.reg off) (2 ^ 32 * (v % 2 ^ 32)) x))) ∧
      (Passes d p → ∀ off ∈ [0x3010, 0x3020, 0x5030, 0x700C, 0x7024, 0xD02C, 0xD038, 0xD048, 0x20000], ∀ r v, regRow off = some r → v < 2 ^ 32 →
        Gives (.registerWrite p off 4 v) s { e with sels := smPut 0 (pathKey p * 0x40000 + off) (v &&& r.rw) d.sels }) ∧
      (Passes d p → ∀ off width v, off < 0x10000 → (off ≠ 0x2000 ∧ off ≠ 0x3030 ∧ off ≠ 0x4000 ∧ off ≠ 0xD00C) → off < 0xE100 →
        ((width ≠ 4 ∧ width ≠ 8) ∨ off % width ≠ 0 → Gives (.registerWrite p off width v) s (e.send (.regStatus (pathKey p) off 2))) ∧
        (width = 4 → off % 4 = 0 → regRow off = none → (∀ r, regRow (off - 4) = some r → r.width = 32) → Gives (.registerWrite p off width v) s e)) ∧
      (d.power.pwrgd = true → d.power.ready = true → d.power.stuck = false → d.fw.restarting = false → d.power.st ≠ .run → (∀ n, p ≠ .mctp n) →
        ∀ off width v, off ≠ 0x2000 → Gives (.registerWrite p off width v) s (e.send (.regStatus (pathKey p) off 3)))) ∧
    (d.power.pwrgd = true → d.power.ready = true → d.fw.restarting = false → d.rf 0x1004 0 0 = 1 → ∀ n off width v, d.authenticated n = false →
      Gives (.registerWrite (.mctp n) off width v) s
        (Dev.send { fresh d (.mctp n) with fw := { d.fw with naUth := min (d.fw.naUth + 1) 65535 } } (.regStatus (pathKey (.mctp n)) off 1))) ∧
    (d.power.pwrgd = true → d.power.ready = true → d.fw.restarting = true → ∀ n off width v,
      Gives (.registerWrite (.mctp n) off width v) s { d with held := d.held ++ [.registerWrite (.mctp n) off width v] }) ∧
    (d.power.pwrgd = true → d.power.ready = true → d.power.stuck = false → ∀ f off width v, (1024 ≤ f ∨ 0x20000 ≤ off) →
      Gives (.registerWrite (.fn f) off width v) s ((fresh d (.fn f)).send (.regStatus (pathKey (.fn f)) off 4))) ∧
    (∀ p v, Passes d p →
      (let e := (fresh d p).setRf 0x9000 2 1 (bits v 2 1)
       let thread := if e.rf 0x9000 1 1 = 1 then e.rf 0x9000 2 2 = 1 else e.rf 0x9000 3 3 = 1
       Gives (.modeSwitch p v) s { e with modeBusy := d.modeBusy || decide (thread ↔ d.threadMode = false) }) ∧
      (s.lock.testBit 2 = true → Gives (.atnRegEnable p v) s (fresh d p)) ∧
      (s.lock.testBit 2 = false →
        let e := (fresh d p).setReg 0xA000 (bits v 47 8 * 256 + v % 2)
        (v % 2 = 0 → Gives (.atnRegEnable p v) s e) ∧ (v % 2 = 1 → Gives (.atnRegEnable p v) s
          (e.zeroRange (bits (e.reg 0xA000) 47 8 * 256) (256 * 2 ^ max 10 (min 24 (e.rf 0xA008 4 0)))))) ∧
      (s.lock.testBit 3 = true → Gives (.embHtabEnable p v) s (fresh d p)) ∧
      (s.lock.testBit 3 = false →
        let e := (fresh d p).setReg 0xB000 (bits v 47 6 * 64 + v % 2)
        (v % 2 = 0 → Gives (.embHtabEnable p v) s e) ∧ (v % 2 = 1 → Gives (.embHtabEnable p v) s
          ((Dev.zeroRange { e with rowCache := [] } (bits (e.reg 0xB000) 47 6 * 64) (64 * max 1 (min 65536 (e.rf 0xB008 16 0)))).zeroRange
            (bits (e.reg 0xB010) 47 16 * 65536) (1048576 * d.bays))))) ∧
    (d.modeBusy = false → Gives .modeSwitchDone s d) ∧
    (d.modeBusy = true →
      let thread := if d.rf 0x9000 1 1 = 1 then d.rf 0x9000 2 2 = 1 else d.rf 0x9000 3 3 = 1
      Gives .modeSwitchDone s { d with threadMode := decide thread, modeBusy := false }) ∧
    (∀ row, Gives (.rowLockRelease row) s { d with rowLocks := d.rowLocks.filter (fun l => l.fa != row) }) ∧
    (∀ h row,
      (d.rowMoves.find? (fun m => m.handle == h && m.row == row) = none → Gives (.rowMoveStep h row) s d) ∧
      (∀ m x r, d.rowMoves.find? (fun m => m.handle == h && m.row == row) = some m →
        smGet? m.desc.queue d.queues = some x → x.running.find? (fun r => r.seq == m.desc.seq) = some r →
        let c := descCtx m.desc.queue x r
        (m.stage = 1 →
          (∀ k, d.runM c (copyRowM (d.tableAt h) m) = (.ok (), k) → Gives (.rowMoveStep h row) s
            ((((k.d.copyOutRow c m k.log).chargeAcc c k.acc).setMove m { m with stage := 2 }).modStarted m.desc.queue m.desc.seq
              (fun y => { y with remote := [] }))) ∧
          (∀ st k, d.runM c (copyRowM (d.tableAt h) m) = (.error (.done st), k) → Gives (.rowMoveStep h row) s (k.d.moveFails m.desc st))) ∧
        (m.stage = 2 → d.moveReady m = false → Gives (.rowMoveStep h row) s d) ∧
        (m.stage = 2 → d.moveReady m = true →
          (∀ k, d.runM c (remapRowM (d.tableAt h) m) = (.ok (), k) →
            let e := ((Dev.commit c k.d k.log).chargeAcc c k.acc).setMove m { m with stage := 3 }
            Gives (.rowMoveStep h row) s
              { e with rowCache := e.rowCache.filter (fun y => ! (y.handle == h && e.isOwn m.src && y.off == faOff m.src)) }) ∧
          (∀ st k, d.runM c (remapRowM (d.tableAt h) m) = (.error (.done st), k) → Gives (.rowMoveStep h row) s (k.d.moveFails m.desc st))) ∧
        (3 ≤ m.stage → (∀ w ∈ m.waiters, d.runs w = false) → Gives (.rowMoveStep h row) s { d with rowMoves := d.rowMoves.erase m }) ∧
        (3 ≤ m.stage → (∃ w ∈ m.waiters, d.runs w = true) → Gives (.rowMoveStep h row) s d)))
end

