-- ==== Sys2Proof/Laws/Kiln.lean ====
section
/-! SUPPORT. The rotations of the exponent-plane split undo each other (R79). -/

namespace Sys2Proof.Machine

open Sys2Proof

/-- The join's rotation undoes the split's. -/
theorem rotr1_rotl1 (w x : Nat) (hw : 0 < w) (hx : x < 2 ^ w) : rotr1 w (rotl1 w x) = x := by
  obtain ⟨k, rfl⟩ : ∃ k, w = k + 1 := ⟨w - 1, by omega⟩
  unfold rotr1 rotl1
  simp only [Nat.add_sub_cancel, Nat.pow_succ] at *
  generalize hP : 2 ^ k = P at *
  have hpos : 0 < P := hP ▸ Nat.two_pow_pos k
  rcases Nat.lt_or_ge x P with h | h
  · rw [Nat.div_eq_of_lt h, Nat.mod_eq_of_lt (by omega), show (x * 2 + 0) / 2 = x by omega, show (x * 2 + 0) % 2 = 0 by omega]; omega
  · have h1 : x / P = 1 := by
      apply Nat.div_eq_of_lt_le <;> omega
    have h2 : x * 2 % (P * 2) = x * 2 - P * 2 := by
      rw [Nat.mod_eq_sub_mod (by omega), Nat.mod_eq_of_lt (by omega)]
    rw [h1, h2, show (x * 2 - P * 2 + 1) / 2 = x - P by omega, show (x * 2 - P * 2 + 1) % 2 = 1 by omega]; omega

end Sys2Proof.Machine
end

