-- ==== Sys2Proof/Laws/SMap.lean ====
section
/-! SUPPORT. What the operations of sparse maps do: a read after a write, and that every one keeps the rising order of keys. -/

namespace Sys2Proof.Machine

variable {α : Type}

/-- Rising keys, as a relation between all pairs of entries. -/
theorem smSorted_iff (m : SMap α) : smSorted m = true ↔ m.Pairwise (fun a b => a.1 < b.1) := by
  induction m with
  | nil => simp [smSorted]
  | cons a m ih =>
    cases m with
    | nil => simp [smSorted]
    | cons b m =>
      obtain ⟨i, u⟩ := a
      obtain ⟨j, v⟩ := b
      simp only [smSorted, Bool.and_eq_true, decide_eq_true_eq, ih]
      constructor
      · rintro ⟨h, hp⟩
        refine List.pairwise_cons.2 ⟨fun x hx => ?_, hp⟩
        rcases List.mem_cons.1 hx with rfl | hx
        · exact h
        · exact Nat.lt_trans h ((List.pairwise_cons.1 hp).1 x hx)
      · intro hp
        exact ⟨(List.pairwise_cons.1 hp).1 (j, v) List.mem_cons_self, (List.pairwise_cons.1 hp).2⟩

@[simp] theorem smGet?_smSet_self (k : Nat) (v : α) (m : SMap α) : smGet? k (smSet k v m) = some v := by
  induction m with
  | nil => simp [smSet, smGet?]
  | cons a m ih =>
    obtain ⟨j, w⟩ := a
    by_cases h : j = k
    · simp [smSet, smGet?, h]
    · by_cases h2 : k < j
      · simp [smSet, smGet?, h, h2]
      · simp [smSet, smGet?, h, h2, ih]

theorem smGet?_smSet_ne {k l : Nat} (h : l ≠ k) (v : α) (m : SMap α) : smGet? l (smSet k v m) = smGet? l m := by
  induction m with
  | nil => simp [smSet, smGet?, Ne.symm h]
  | cons a m ih =>
    obtain ⟨j, w⟩ := a
    by_cases h1 : j = k
    · subst h1; simp [smSet, smGet?, Ne.symm h]
    · by_cases h2 : k < j
      · by_cases h3 : l < k
        · have h4 : l < j := Nat.lt_trans h3 h2
          have h5 : j ≠ l := Nat.ne_of_gt h4
          simp [smSet, smGet?, h1, h2, Ne.symm h, h3, h4, h5]
        · simp [smSet, smGet?, h1, h2, Ne.symm h, h3]
      · simp [smSet, smGet?, h1, h2, ih]

/-- A key below every key of a sorted map is not listed. -/
theorem smGet?_of_lt {k : Nat} {m : SMap α} (h : ∀ p ∈ m, k < p.1) : smGet? k m = none := by
  cases m with
  | nil => rfl
  | cons a m =>
    obtain ⟨j, w⟩ := a
    have : k < j := h (j, w) List.mem_cons_self
    simp [smGet?, this, Nat.ne_of_gt this]

theorem smGet?_smErase_self (k : Nat) {m : SMap α} (h : smSorted m = true) : smGet? k (smErase k m) = none := by
  rw [smSorted_iff] at h
  induction m with
  | nil => rfl
  | cons a m ih =>
    obtain ⟨j, w⟩ := a
    have hp := List.pairwise_cons.1 h
    by_cases h1 : j = k
    · subst h1; simp only [smErase, if_pos]; exact smGet?_of_lt hp.1
    · by_cases h2 : k < j
      · simp [smErase, smGet?, h1, h2]
      · simp [smErase, smGet?, h1, h2, ih hp.2]

theorem smGet?_smErase_ne {k l : Nat} (h : l ≠ k) {m : SMap α} (hs : smSorted m = true) :
    smGet? l (smErase k m) = smGet? l m := by
  rw [smSorted_iff] at hs
  induction m with
  | nil => rfl
  | cons a m ih =>
    obtain ⟨j, w⟩ := a
    have hp := List.pairwise_cons.1 hs
    by_cases h1 : j = k
    · subst h1
      simp only [smErase, if_pos, smGet?, Ne.symm h, if_false]
      by_cases h3 : l < j
      · simp only [h3, if_true]
        exact smGet?_of_lt (fun p hq => Nat.lt_trans h3 (hp.1 p hq))
      · simp [h3]
    · by_cases h2 : k < j
      · simp [smErase, h1, h2]
      · simp [smErase, smGet?, h1, h2, ih hp.2]

/-- The keys of a map after a write: the one written, and those it had. -/
theorem mem_smSet {k : Nat} {v : α} {m : SMap α} {p : Nat × α} (h : p ∈ smSet k v m) : p = (k, v) ∨ p ∈ m := by
  induction m with
  | nil => simpa [smSet] using h
  | cons a m ih =>
    obtain ⟨j, w⟩ := a
    simp only [smSet] at h
    split at h
    · rcases List.mem_cons.1 h with h | h
      · exact .inl h
      · exact .inr (List.mem_cons_of_mem _ h)
    · split at h
      · exact List.mem_cons.1 h
      · rcases List.mem_cons.1 h with h | h
        · exact .inr (h ▸ List.mem_cons_self)
        · exact (ih h).imp id (List.mem_cons_of_mem _)

theorem mem_smErase {k : Nat} {m : SMap α} {p : Nat × α} (h : p ∈ smErase k m) : p ∈ m := by
  induction m with
  | nil => simp [smErase] at h
  | cons a m ih =>
    obtain ⟨j, w⟩ := a
    simp only [smErase] at h
    split at h
    · exact List.mem_cons_of_mem _ h
    · split at h
      · exact h
      · rcases List.mem_cons.1 h with h | h
        · exact h ▸ List.mem_cons_self
        · exact List.mem_cons_of_mem _ (ih h)

theorem smSorted_smSet (k : Nat) (v : α) {m : SMap α} (h : smSorted m = true) : smSorted (smSet k v m) = true := by
  rw [smSorted_iff] at h ⊢
  induction m with
  | nil => simp [smSet]
  | cons a m ih =>
    obtain ⟨j, w⟩ := a
    have hp := List.pairwise_cons.1 h
    simp only [smSet]
    split
    · rename_i e; subst e; exact List.pairwise_cons.2 ⟨hp.1, hp.2⟩
    · split
      · rename_i h1 h2
        refine List.pairwise_cons.2 ⟨fun p hq => ?_, h⟩
        rcases List.mem_cons.1 hq with rfl | hq
        · exact h2
        · exact Nat.lt_trans h2 (hp.1 p hq)
      · rename_i h1 h2
        refine List.pairwise_cons.2 ⟨fun p hq => ?_, ih hp.2⟩
        rcases mem_smSet hq with rfl | hq
        · exact Nat.lt_of_le_of_ne (Nat.le_of_not_lt h2) h1
        · exact hp.1 p hq

theorem smSorted_smErase (k : Nat) {m : SMap α} (h : smSorted m = true) : smSorted (smErase k m) = true := by
  rw [smSorted_iff] at h ⊢
  induction m with
  | nil => simp [smErase]
  | cons a m ih =>
    obtain ⟨j, w⟩ := a
    have hp := List.pairwise_cons.1 h
    simp only [smErase]
    split
    · exact hp.2
    · split
      · exact h
      · exact List.pairwise_cons.2 ⟨fun p hq => hp.1 p (mem_smErase hq), ih hp.2⟩

theorem smSorted_filter (f : Nat × α → Bool) {m : SMap α} (h : smSorted m = true) : smSorted (m.filter f) = true := by
  rw [smSorted_iff] at h ⊢
  exact h.filter f

theorem smSorted_smPut [DecidableEq α] (d : α) (k : Nat) (v : α) {m : SMap α} (h : smSorted m = true) :
    smSorted (smPut d k v m) = true := by
  unfold smPut
  split
  · exact smSorted_smErase k h
  · exact smSorted_smSet k v h

/-- A read of the key written. -/
theorem smGet_smPut_self [DecidableEq α] (d : α) (k : Nat) (v : α) {m : SMap α} (h : smSorted m = true) :
    smGet k d (smPut d k v m) = v := by
  unfold smGet smPut
  split
  · rename_i e; rw [smGet?_smErase_self k h]; exact e.symm
  · rw [smGet?_smSet_self]; rfl

/-- A read of any other key. -/
theorem smGet_smPut_ne [DecidableEq α] (d e : α) {k l : Nat} (hne : l ≠ k) (v : α) {m : SMap α} (h : smSorted m = true) :
    smGet l e (smPut d k v m) = smGet l e m := by
  unfold smGet smPut
  split
  · rw [smGet?_smErase_ne hne h]
  · rw [smGet?_smSet_ne hne]

/-- No entry of a map holds the default after a write that removes defaults. -/
theorem all_ne_smPut [DecidableEq α] (d : α) (k : Nat) (v : α) {m : SMap α} (h : ∀ p ∈ m, p.2 ≠ d) :
    ∀ p ∈ smPut d k v m, p.2 ≠ d := by
  intro p hp
  unfold smPut at hp
  split at hp
  · exact h p (mem_smErase hp)
  · rcases mem_smSet hp with rfl | hp
    · assumption
    · exact h p hp

/-! Sets of numbers. -/

theorem mem_nsAdd {k x : Nat} {m : NSet} : x ∈ nsAdd k m ↔ x = k ∨ x ∈ m := by
  induction m with
  | nil => simp [nsAdd]
  | cons j m ih =>
    simp only [nsAdd]
    split
    · rename_i e; subst e; simp
    · split
      · simp
      · simp only [List.mem_cons, ih]
        constructor
        · rintro (h | h | h) <;> simp [h]
        · rintro (h | h | h) <;> simp [h]

theorem mem_nsDel {k x : Nat} {m : NSet} : x ∈ nsDel k m ↔ x ∈ m ∧ x ≠ k := by simp [nsDel]

theorem nsAdd_sorted {k : Nat} {m : NSet} (h : m.Pairwise (· < ·)) : (nsAdd k m).Pairwise (· < ·) := by
  induction m with
  | nil => simp [nsAdd]
  | cons j m ih =>
    have hp := List.pairwise_cons.1 h
    simp only [nsAdd]
    split
    · exact h
    · split
      · rename_i h1 h2
        refine List.pairwise_cons.2 ⟨fun x hx => ?_, h⟩
        rcases List.mem_cons.1 hx with rfl | hx
        · exact h2
        · exact Nat.lt_trans h2 (hp.1 x hx)
      · rename_i h1 h2
        refine List.pairwise_cons.2 ⟨fun x hx => ?_, ih hp.2⟩
        rcases mem_nsAdd.1 hx with rfl | hx
        · omega
        · exact hp.1 x hx

theorem nsDel_sorted {k : Nat} {m : NSet} (h : m.Pairwise (· < ·)) : (nsDel k m).Pairwise (· < ·) := h.filter _

end Sys2Proof.Machine
end

