-- ==== Sys2Proof/Laws/Memory.lean ====
section
/-! SUPPORT. What the operations over memory do: a read after a write, the bytes they leave alone, and that every one of them keeps
memory in its canonical form. -/

namespace Sys2Proof.Machine

open Sys2Proof

/-- The canonical form, as two facts. -/
theorem memory_wf_iff (m : List Host.Cell) :
    Memory.wf m = true ↔ smSorted m = true ∧ ∀ c ∈ m, c.2 ≠ memDefault := by
  simp [Memory.wf, List.all_eq_true]

theorem memory_wf_nil : Memory.wf [] = true := by decide

theorem memory_wf_smPut (k : Nat) (b : Byte) {m : List Host.Cell} (h : Memory.wf m = true) :
    Memory.wf (smPut memDefault k b m) = true := by
  rw [memory_wf_iff] at h ⊢
  exact ⟨smSorted_smPut _ _ _ h.1, all_ne_smPut _ _ _ h.2⟩

theorem memory_wf_filter (f : Host.Cell → Bool) {m : List Host.Cell} (h : Memory.wf m = true) : Memory.wf (m.filter f) = true := by
  rw [memory_wf_iff] at h ⊢
  exact ⟨smSorted_filter f h.1, fun c hc => h.2 c (List.mem_filter.1 hc).1⟩

/-! One byte. -/

theorem byte_setByte_self (d : Dev) (off : Nat) (b : Byte) (h : Memory.wf d.mem = true) : (d.setByte off b).byte off = b :=
  smGet_smPut_self _ _ _ ((memory_wf_iff _).1 h).1

theorem byte_setByte_ne (d : Dev) {off a : Nat} (b : Byte) (h : Memory.wf d.mem = true) (hne : a ≠ off) :
    (d.setByte off b).byte a = d.byte a :=
  smGet_smPut_ne _ _ hne _ ((memory_wf_iff _).1 h).1

theorem setByte_wf {d : Dev} (off : Nat) (b : Byte) (h : Memory.wf d.mem = true) : Memory.wf (d.setByte off b).mem = true :=
  memory_wf_smPut off b h

/-! Folds of writes. -/

/-- A fold keeps what each of its steps keeps. -/
theorem foldl_keeps {α β : Type} (P : β → Prop) (f : β → α → β) (hf : ∀ b a, P b → P (f b a)) :
    ∀ (l : List α) (b : β), P b → P (l.foldl f b)
  | [], _, h => h
  | a :: l, b, h => foldl_keeps P f hf l (f b a) (hf b a h)

theorem setBytes_cons (b : Byte) (bs : List Byte) (off : Nat) (d : Dev) :
    Dev.setBytes (b :: bs) off d = Dev.setBytes bs (off + 1) (d.setByte off b) := rfl

theorem setBytes_wf (bs : List Byte) : ∀ (off : Nat) (d : Dev), Memory.wf d.mem = true →
    Memory.wf (Dev.setBytes bs off d).mem = true := by
  induction bs with
  | nil => intro off d h; exact h
  | cons b bs ih => intro off d h; rw [setBytes_cons]; exact ih _ _ (setByte_wf off b h)

/-- A byte outside a written string keeps its value. -/
theorem byte_setBytes_out (bs : List Byte) : ∀ (off : Nat) (d : Dev) (a : Nat), Memory.wf d.mem = true →
    (a < off ∨ off + bs.length ≤ a) → (Dev.setBytes bs off d).byte a = d.byte a := by
  induction bs with
  | nil => intro off d a _ _; rfl
  | cons b bs ih =>
    intro off d a h ho
    rw [List.length_cons] at ho
    rw [setBytes_cons, ih _ _ _ (setByte_wf off b h) (by omega), byte_setByte_ne d b h (by omega)]

/-- A byte of a written string. -/
theorem byte_setBytes_in (bs : List Byte) : ∀ (off : Nat) (d : Dev) (i : Nat) (hi : i < bs.length), Memory.wf d.mem = true →
    (Dev.setBytes bs off d).byte (off + i) = bs[i] := by
  induction bs with
  | nil => intro off d i hi; exact absurd hi (Nat.not_lt_zero i)
  | cons b bs ih =>
    intro off d i hi h
    rw [setBytes_cons]
    cases i with
    | zero =>
      rw [byte_setBytes_out bs _ _ _ (setByte_wf off b h) (.inl (by omega))]
      exact byte_setByte_self d off b h
    | succ i =>
      have h1 : i < bs.length := by simpa using hi
      have := ih (off + 1) (d.setByte off b) i h1 (setByte_wf off b h)
      rw [show off + (i + 1) = off + 1 + i by omega, this]
      rfl

theorem applyMask_wf {d : Dev} (off : Nat) (data : Line) (m : LineMask) (h : Memory.wf d.mem = true) :
    Memory.wf (d.applyMask off data m).mem = true := by
  unfold Dev.applyMask
  exact foldl_keeps (fun d : Dev => Memory.wf d.mem = true) _ (fun d i hd => by
    split
    · exact setByte_wf _ _ hd
    · exact hd) _ d h

theorem wordPoison_mem (d : Dev) (off : Nat) (m : LineMask) (p : Bool) (c : Nat) : (d.wordPoison off m p c).mem = d.mem := by
  unfold Dev.wordPoison; dsimp only; split
  · rfl
  · split
    · rfl
    · split <;> rfl

theorem writeLine_mem (d : Dev) (off : Nat) (data : Line) (m : LineMask) (p : Bool) :
    (d.writeLine off data m p).mem = (d.applyMask off data m).mem := by
  unfold Dev.writeLine; rw [wordPoison_mem, wordPoison_mem]

theorem writeLine_wf {d : Dev} (off : Nat) (data : Line) (m : LineMask) (p : Bool) (h : Memory.wf d.mem = true) :
    Memory.wf (d.writeLine off data m p).mem = true := by
  rw [writeLine_mem]; exact applyMask_wf off data m h

/-- A byte of another line keeps its value in a write of a line. -/
theorem byte_writeLine_out (d : Dev) (off : Nat) (data : Line) (m : LineMask) (p : Bool) (a : Nat) (h : Memory.wf d.mem = true)
    (ha : a / 64 ≠ off / 64) : (d.writeLine off data m p).byte a = d.byte a := by
  unfold Dev.byte; rw [writeLine_mem]
  unfold Dev.applyMask
  have key : ∀ (l : List Nat) (e : Dev), (∀ i ∈ l, i < 64) → Memory.wf e.mem = true →
      (l.foldl (fun d i => if m.getLsbD i then d.setByte (64 * (off / 64) + i) (lineByte data i) else d) e).byte a = e.byte a := by
    intro l
    induction l with
    | nil => intro e _ _; rfl
    | cons i l ih =>
      intro e hl hw
      have hi : i < 64 := hl i List.mem_cons_self
      simp only [List.foldl_cons]
      rw [ih _ (fun j hj => hl j (List.mem_cons_of_mem _ hj))]
      · split
        · exact byte_setByte_ne e _ hw (by omega)
        · rfl
      · split
        · exact setByte_wf _ _ hw
        · exact hw
  exact key (List.range 64) d (fun i hi => List.mem_range.1 hi) h

theorem writeInLine_wf {d : Dev} (off : Nat) (bs : List Byte) (p : Bool) (h : Memory.wf d.mem = true) :
    Memory.wf (d.writeInLine off bs p).mem = true := writeLine_wf _ _ _ _ h

theorem writeBytes_wf {d : Dev} (off : Nat) (bs : List Byte) (p : Bool) (h : Memory.wf d.mem = true) :
    Memory.wf (d.writeBytes off bs p).mem = true := by
  unfold Dev.writeBytes
  exact foldl_keeps (fun d : Dev => Memory.wf d.mem = true) _ (fun d r hd => writeInLine_wf r.1 r.2 p hd) _ d h

theorem poisonWord_wf {d : Dev} (w : Nat) (h : Memory.wf d.mem = true) : Memory.wf (d.poisonWord w).mem = true :=
  memory_wf_filter _ h

theorem poisonLine_wf {d : Dev} (off : Nat) (h : Memory.wf d.mem = true) : Memory.wf (d.poisonLine off).mem = true :=
  poisonWord_wf _ (poisonWord_wf _ h)

theorem clearFrame_wf {d : Dev} (f : Nat) (h : Memory.wf d.mem = true) : Memory.wf (d.clearFrame f).mem = true :=
  memory_wf_filter _ h

theorem fillFrame_wf {d : Dev} (f : Nat) (data : List Host.Cell) (pois : NSet) (h : Memory.wf d.mem = true) :
    Memory.wf (d.fillFrame f data pois).mem = true := by
  unfold Dev.fillFrame
  exact foldl_keeps (fun d : Dev => Memory.wf d.mem = true) _ (fun d c hd => by
    split
    · exact setByte_wf _ _ hd
    · exact hd) data (d.clearFrame f) (clearFrame_wf f h)

theorem fillSub_wf {d : Dev} (f sub : Nat) (data : List Host.Cell) (pois : NSet) (h : Memory.wf d.mem = true) :
    Memory.wf (d.fillSub f sub data pois).mem = true := by
  unfold Dev.fillSub
  exact foldl_keeps (fun d : Dev => Memory.wf d.mem = true) _ (fun d c hd => setByte_wf _ _ hd) _ d h

theorem poisonFrame_wf {d : Dev} (f : Nat) (h : Memory.wf d.mem = true) : Memory.wf (d.poisonFrame f).mem = true :=
  fillFrame_wf _ _ _ h

/-- Every byte of an emptied frame reads as an unwritten one. -/
theorem byte_clearFrame_in (d : Dev) (f a : Nat) (h : 65536 * f ≤ a ∧ a < 65536 * f + 65536) : (d.clearFrame f).byte a = memDefault := by
  show smGet a memDefault (smEraseRange (65536 * f) (65536 * f + 65536) d.mem) = memDefault
  generalize d.mem = m
  have key : ∀ p ∈ smEraseRange (65536 * f) (65536 * f + 65536) m, p.1 ≠ a := by
    intro p hp e
    have := (List.mem_filter.1 hp).2
    simp only [decide_eq_true_eq] at this
    omega
  generalize smEraseRange (65536 * f) (65536 * f + 65536) m = n at key
  unfold smGet
  induction n with
  | nil => rfl
  | cons b n ih =>
    obtain ⟨j, w⟩ := b
    have hj : j ≠ a := key (j, w) List.mem_cons_self
    simp only [smGet?, hj, if_false]
    split
    · rfl
    · exact ih (fun p hp => key p (List.mem_cons_of_mem _ hp))

end Sys2Proof.Machine
end

