-- ==== Sys2Proof/Laws/State.lean ====
section
/-! SUPPORT. What each update of the block leaves of every field: one lemma per field and update, so that no later proof
unfolds a record update; and what a change of the block leaves of the locks, the fuses and the queue. -/

namespace Sys2Proof.Machine

open Sys2Proof

@[simp] theorem Dev.setReg_part (d : Dev) (key v : Nat) : (d.setReg key v).part = d.part := rfl
@[simp] theorem Dev.setReg_regs (d : Dev) (key v : Nat) : (d.setReg key v).regs = smPut (regReset key) key v d.regs := rfl
@[simp] theorem Dev.setReg_sels (d : Dev) (key v : Nat) : (d.setReg key v).sels = d.sels := rfl
@[simp] theorem Dev.setReg_latches (d : Dev) (key v : Nat) : (d.setReg key v).latches = d.latches := rfl
@[simp] theorem Dev.setReg_msix (d : Dev) (key v : Nat) : (d.setReg key v).msix = d.msix := rfl
@[simp] theorem Dev.setReg_pba (d : Dev) (key v : Nat) : (d.setReg key v).pba = d.pba := rfl
@[simp] theorem Dev.setReg_mem (d : Dev) (key v : Nat) : (d.setReg key v).mem = d.mem := rfl
@[simp] theorem Dev.setReg_pois (d : Dev) (key v : Nat) : (d.setReg key v).pois = d.pois := rfl
@[simp] theorem Dev.setReg_roots (d : Dev) (key v : Nat) : (d.setReg key v).roots = d.roots := rfl
@[simp] theorem Dev.setReg_rootBusy (d : Dev) (key v : Nat) : (d.setReg key v).rootBusy = d.rootBusy := rfl
@[simp] theorem Dev.setReg_mapLaid (d : Dev) (key v : Nat) : (d.setReg key v).mapLaid = d.mapLaid := rfl
@[simp] theorem Dev.setReg_tmap (d : Dev) (key v : Nat) : (d.setReg key v).tmap = d.tmap := rfl
@[simp] theorem Dev.setReg_remotes (d : Dev) (key v : Nat) : (d.setReg key v).remotes = d.remotes := rfl
@[simp] theorem Dev.setReg_precs (d : Dev) (key v : Nat) : (d.setReg key v).precs = d.precs := rfl
@[simp] theorem Dev.setReg_moves (d : Dev) (key v : Nat) : (d.setReg key v).moves = d.moves := rfl
@[simp] theorem Dev.setReg_openPend (d : Dev) (key v : Nat) : (d.setReg key v).openPend = d.openPend := rfl
@[simp] theorem Dev.setReg_demand (d : Dev) (key v : Nat) : (d.setReg key v).demand = d.demand := rfl
@[simp] theorem Dev.setReg_ageWindow (d : Dev) (key v : Nat) : (d.setReg key v).ageWindow = d.ageWindow := rfl
@[simp] theorem Dev.setReg_ageMs (d : Dev) (key v : Nat) : (d.setReg key v).ageMs = d.ageMs := rfl
@[simp] theorem Dev.setReg_victimStart (d : Dev) (key v : Nat) : (d.setReg key v).victimStart = d.victimStart := rfl
@[simp] theorem Dev.setReg_tierFull (d : Dev) (key v : Nat) : (d.setReg key v).tierFull = d.tierFull := rfl
@[simp] theorem Dev.setReg_leafAt (d : Dev) (key v : Nat) : (d.setReg key v).leafAt = d.leafAt := rfl
@[simp] theorem Dev.setReg_lostLeaves (d : Dev) (key v : Nat) : (d.setReg key v).lostLeaves = d.lostLeaves := rfl
@[simp] theorem Dev.setReg_leafWritten (d : Dev) (key v : Nat) : (d.setReg key v).leafWritten = d.leafWritten := rfl
@[simp] theorem Dev.setReg_wantRebuild (d : Dev) (key v : Nat) : (d.setReg key v).wantRebuild = d.wantRebuild := rfl
@[simp] theorem Dev.setReg_rootNew (d : Dev) (key v : Nat) : (d.setReg key v).rootNew = d.rootNew := rfl
@[simp] theorem Dev.setReg_evicting (d : Dev) (key v : Nat) : (d.setReg key v).evicting = d.evicting := rfl
@[simp] theorem Dev.setReg_wantPromo (d : Dev) (key v : Nat) : (d.setReg key v).wantPromo = d.wantPromo := rfl
@[simp] theorem Dev.setReg_wantDemote (d : Dev) (key v : Nat) : (d.setReg key v).wantDemote = d.wantDemote := rfl
@[simp] theorem Dev.setReg_promoWait (d : Dev) (key v : Nat) : (d.setReg key v).promoWait = d.promoWait := rfl
@[simp] theorem Dev.setReg_quota (d : Dev) (key v : Nat) : (d.setReg key v).quota = d.quota := rfl
@[simp] theorem Dev.setReg_seqCtr (d : Dev) (key v : Nat) : (d.setReg key v).seqCtr = d.seqCtr := rfl
@[simp] theorem Dev.setReg_hdm (d : Dev) (key v : Nat) : (d.setReg key v).hdm = d.hdm := rfl
@[simp] theorem Dev.setReg_activeLds (d : Dev) (key v : Nat) : (d.setReg key v).activeLds = d.activeLds := rfl
@[simp] theorem Dev.setReg_enabledFns (d : Dev) (key v : Nat) : (d.setReg key v).enabledFns = d.enabledFns := rfl
@[simp] theorem Dev.setReg_dir (d : Dev) (key v : Nat) : (d.setReg key v).dir = d.dir := rfl
@[simp] theorem Dev.setReg_dirRot (d : Dev) (key v : Nat) : (d.setReg key v).dirRot = d.dirRot := rfl
@[simp] theorem Dev.setReg_dirCache (d : Dev) (key v : Nat) : (d.setReg key v).dirCache = d.dirCache := rfl
@[simp] theorem Dev.setReg_refused (d : Dev) (key v : Nat) : (d.setReg key v).refused = d.refused := rfl
@[simp] theorem Dev.setReg_markCtr (d : Dev) (key v : Nat) : (d.setReg key v).markCtr = d.markCtr := rfl
@[simp] theorem Dev.setReg_waiting (d : Dev) (key v : Nat) : (d.setReg key v).waiting = d.waiting := rfl
@[simp] theorem Dev.setReg_unresp (d : Dev) (key v : Nat) : (d.setReg key v).unresp = d.unresp := rfl
@[simp] theorem Dev.setReg_sweep (d : Dev) (key v : Nat) : (d.setReg key v).sweep = d.sweep := rfl
@[simp] theorem Dev.setReg_timedOut (d : Dev) (key v : Nat) : (d.setReg key v).timedOut = d.timedOut := rfl
@[simp] theorem Dev.setReg_revs (d : Dev) (key v : Nat) : (d.setReg key v).revs = d.revs := rfl
@[simp] theorem Dev.setReg_raised (d : Dev) (key v : Nat) : (d.setReg key v).raised = d.raised := rfl
@[simp] theorem Dev.setReg_snoopDue (d : Dev) (key v : Nat) : (d.setReg key v).snoopDue = d.snoopDue := rfl
@[simp] theorem Dev.setReg_coWatch (d : Dev) (key v : Nat) : (d.setReg key v).coWatch = d.coWatch := rfl
@[simp] theorem Dev.setReg_polledLines (d : Dev) (key v : Nat) : (d.setReg key v).polledLines = d.polledLines := rfl
@[simp] theorem Dev.setReg_tlb (d : Dev) (key v : Nat) : (d.setReg key v).tlb = d.tlb := rfl
@[simp] theorem Dev.setReg_tptr (d : Dev) (key v : Nat) : (d.setReg key v).tptr = d.tptr := rfl
@[simp] theorem Dev.setReg_tlbSec (d : Dev) (key v : Nat) : (d.setReg key v).tlbSec = d.tlbSec := rfl
@[simp] theorem Dev.setReg_arb (d : Dev) (key v : Nat) : (d.setReg key v).arb = d.arb := rfl
@[simp] theorem Dev.setReg_bayTurn (d : Dev) (key v : Nat) : (d.setReg key v).bayTurn = d.bayTurn := rfl
@[simp] theorem Dev.setReg_ringOwed (d : Dev) (key v : Nat) : (d.setReg key v).ringOwed = d.ringOwed := rfl
@[simp] theorem Dev.setReg_invs (d : Dev) (key v : Nat) : (d.setReg key v).invs = d.invs := rfl
@[simp] theorem Dev.setReg_faults (d : Dev) (key v : Nat) : (d.setReg key v).faults = d.faults := rfl
@[simp] theorem Dev.setReg_areas (d : Dev) (key v : Nat) : (d.setReg key v).areas = d.areas := rfl
@[simp] theorem Dev.setReg_migrations (d : Dev) (key v : Nat) : (d.setReg key v).migrations = d.migrations := rfl
@[simp] theorem Dev.setReg_faultCtr (d : Dev) (key v : Nat) : (d.setReg key v).faultCtr = d.faultCtr := rfl
@[simp] theorem Dev.setReg_queues (d : Dev) (key v : Nat) : (d.setReg key v).queues = d.queues := rfl
@[simp] theorem Dev.setReg_ports (d : Dev) (key v : Nat) : (d.setReg key v).ports = d.ports := rfl
@[simp] theorem Dev.setReg_inbox (d : Dev) (key v : Nat) : (d.setReg key v).inbox = d.inbox := rfl
@[simp] theorem Dev.setReg_flowsOut (d : Dev) (key v : Nat) : (d.setReg key v).flowsOut = d.flowsOut := rfl
@[simp] theorem Dev.setReg_flowsIn (d : Dev) (key v : Nat) : (d.setReg key v).flowsIn = d.flowsIn := rfl
@[simp] theorem Dev.setReg_fabOut (d : Dev) (key v : Nat) : (d.setReg key v).fabOut = d.fabOut := rfl
@[simp] theorem Dev.setReg_fabIn (d : Dev) (key v : Nat) : (d.setReg key v).fabIn = d.fabIn := rfl
@[simp] theorem Dev.setReg_subs (d : Dev) (key v : Nat) : (d.setReg key v).subs = d.subs := rfl
@[simp] theorem Dev.setReg_parity (d : Dev) (key v : Nat) : (d.setReg key v).parity = d.parity := rfl
@[simp] theorem Dev.setReg_bringup (d : Dev) (key v : Nat) : (d.setReg key v).bringup = d.bringup := rfl
@[simp] theorem Dev.setReg_span (d : Dev) (key v : Nat) : (d.setReg key v).span = d.span := rfl
@[simp] theorem Dev.setReg_tagCtr (d : Dev) (key v : Nat) : (d.setReg key v).tagCtr = d.tagCtr := rfl
@[simp] theorem Dev.setReg_extents (d : Dev) (key v : Nat) : (d.setReg key v).extents = d.extents := rfl
@[simp] theorem Dev.setReg_lapseOk (d : Dev) (key v : Nat) : (d.setReg key v).lapseOk = d.lapseOk := rfl
@[simp] theorem Dev.setReg_found (d : Dev) (key v : Nat) : (d.setReg key v).found = d.found := rfl
@[simp] theorem Dev.setReg_smpWin (d : Dev) (key v : Nat) : (d.setReg key v).smpWin = d.smpWin := rfl
@[simp] theorem Dev.setReg_leases (d : Dev) (key v : Nat) : (d.setReg key v).leases = d.leases := rfl
@[simp] theorem Dev.setReg_membs (d : Dev) (key v : Nat) : (d.setReg key v).membs = d.membs := rfl
@[simp] theorem Dev.setReg_egWords (d : Dev) (key v : Nat) : (d.setReg key v).egWords = d.egWords := rfl
@[simp] theorem Dev.setReg_egs (d : Dev) (key v : Nat) : (d.setReg key v).egs = d.egs := rfl
@[simp] theorem Dev.setReg_grants (d : Dev) (key v : Nat) : (d.setReg key v).grants = d.grants := rfl
@[simp] theorem Dev.setReg_xfers (d : Dev) (key v : Nat) : (d.setReg key v).xfers = d.xfers := rfl
@[simp] theorem Dev.setReg_slots (d : Dev) (key v : Nat) : (d.setReg key v).slots = d.slots := rfl
@[simp] theorem Dev.setReg_deny (d : Dev) (key v : Nat) : (d.setReg key v).deny = d.deny := rfl
@[simp] theorem Dev.setReg_impDone (d : Dev) (key v : Nat) : (d.setReg key v).impDone = d.impDone := rfl
@[simp] theorem Dev.setReg_impSkip (d : Dev) (key v : Nat) : (d.setReg key v).impSkip = d.impSkip := rfl
@[simp] theorem Dev.setReg_scores (d : Dev) (key v : Nat) : (d.setReg key v).scores = d.scores := rfl
@[simp] theorem Dev.setReg_fencedBays (d : Dev) (key v : Nat) : (d.setReg key v).fencedBays = d.fencedBays := rfl
@[simp] theorem Dev.setReg_fencedScan (d : Dev) (key v : Nat) : (d.setReg key v).fencedScan = d.fencedScan := rfl
@[simp] theorem Dev.setReg_fencedPorts (d : Dev) (key v : Nat) : (d.setReg key v).fencedPorts = d.fencedPorts := rfl
@[simp] theorem Dev.setReg_retiredCh (d : Dev) (key v : Nat) : (d.setReg key v).retiredCh = d.retiredCh := rfl
@[simp] theorem Dev.setReg_retiring (d : Dev) (key v : Nat) : (d.setReg key v).retiring = d.retiring := rfl
@[simp] theorem Dev.setReg_retiredDies (d : Dev) (key v : Nat) : (d.setReg key v).retiredDies = d.retiredDies := rfl
@[simp] theorem Dev.setReg_calNor (d : Dev) (key v : Nat) : (d.setReg key v).calNor = d.calNor := rfl
@[simp] theorem Dev.setReg_calPending (d : Dev) (key v : Nat) : (d.setReg key v).calPending = d.calPending := rfl
@[simp] theorem Dev.setReg_calSched (d : Dev) (key v : Nat) : (d.setReg key v).calSched = d.calSched := rfl
@[simp] theorem Dev.setReg_vloop (d : Dev) (key v : Nat) : (d.setReg key v).vloop = d.vloop := rfl
@[simp] theorem Dev.setReg_power (d : Dev) (key v : Nat) : (d.setReg key v).power = d.power := rfl
@[simp] theorem Dev.setReg_pins (d : Dev) (key v : Nat) : (d.setReg key v).pins = d.pins := rfl
@[simp] theorem Dev.setReg_fw (d : Dev) (key v : Nat) : (d.setReg key v).fw = d.fw := rfl
@[simp] theorem Dev.setReg_ticks (d : Dev) (key v : Nat) : (d.setReg key v).ticks = d.ticks := rfl
@[simp] theorem Dev.setReg_opTicks (d : Dev) (key v : Nat) : (d.setReg key v).opTicks = d.opTicks := rfl
@[simp] theorem Dev.setReg_pcc (d : Dev) (key v : Nat) : (d.setReg key v).pcc = d.pcc := rfl
@[simp] theorem Dev.setReg_recorder (d : Dev) (key v : Nat) : (d.setReg key v).recorder = d.recorder := rfl
@[simp] theorem Dev.setReg_meters (d : Dev) (key v : Nat) : (d.setReg key v).meters = d.meters := rfl
@[simp] theorem Dev.setReg_sampleRun (d : Dev) (key v : Nat) : (d.setReg key v).sampleRun = d.sampleRun := rfl
@[simp] theorem Dev.setReg_threadMode (d : Dev) (key v : Nat) : (d.setReg key v).threadMode = d.threadMode := rfl
@[simp] theorem Dev.setReg_modeBusy (d : Dev) (key v : Nat) : (d.setReg key v).modeBusy = d.modeBusy := rfl
@[simp] theorem Dev.setReg_training (d : Dev) (key v : Nat) : (d.setReg key v).training = d.training := rfl
@[simp] theorem Dev.setReg_rowCache (d : Dev) (key v : Nat) : (d.setReg key v).rowCache = d.rowCache := rfl
@[simp] theorem Dev.setReg_rowLocks (d : Dev) (key v : Nat) : (d.setReg key v).rowLocks = d.rowLocks := rfl
@[simp] theorem Dev.setReg_rowMoves (d : Dev) (key v : Nat) : (d.setReg key v).rowMoves = d.rowMoves := rfl
@[simp] theorem Dev.setReg_switchQ (d : Dev) (key v : Nat) : (d.setReg key v).switchQ = d.switchQ := rfl
@[simp] theorem Dev.setReg_embRound (d : Dev) (key v : Nat) : (d.setReg key v).embRound = d.embRound := rfl
@[simp] theorem Dev.setReg_timetables (d : Dev) (key v : Nat) : (d.setReg key v).timetables = d.timetables := rfl
@[simp] theorem Dev.setReg_searches (d : Dev) (key v : Nat) : (d.setReg key v).searches = d.searches := rfl
@[simp] theorem Dev.setReg_held (d : Dev) (key v : Nat) : (d.setReg key v).held = d.held := rfl
@[simp] theorem Dev.setReg_free (d : Dev) (key v : Nat) : (d.setReg key v).free = d.free := rfl
@[simp] theorem Dev.setReg_out (d : Dev) (key v : Nat) : (d.setReg key v).out = d.out := rfl

@[simp] theorem Dev.setByte_part (d : Dev) (off : Nat) (b : Byte) : (d.setByte off b).part = d.part := rfl
@[simp] theorem Dev.setByte_regs (d : Dev) (off : Nat) (b : Byte) : (d.setByte off b).regs = d.regs := rfl
@[simp] theorem Dev.setByte_sels (d : Dev) (off : Nat) (b : Byte) : (d.setByte off b).sels = d.sels := rfl
@[simp] theorem Dev.setByte_latches (d : Dev) (off : Nat) (b : Byte) : (d.setByte off b).latches = d.latches := rfl
@[simp] theorem Dev.setByte_msix (d : Dev) (off : Nat) (b : Byte) : (d.setByte off b).msix = d.msix := rfl
@[simp] theorem Dev.setByte_pba (d : Dev) (off : Nat) (b : Byte) : (d.setByte off b).pba = d.pba := rfl
@[simp] theorem Dev.setByte_mem (d : Dev) (off : Nat) (b : Byte) : (d.setByte off b).mem = smPut memDefault off b d.mem := rfl
@[simp] theorem Dev.setByte_pois (d : Dev) (off : Nat) (b : Byte) : (d.setByte off b).pois = d.pois := rfl
@[simp] theorem Dev.setByte_roots (d : Dev) (off : Nat) (b : Byte) : (d.setByte off b).roots = d.roots := rfl
@[simp] theorem Dev.setByte_rootBusy (d : Dev) (off : Nat) (b : Byte) : (d.setByte off b).rootBusy = d.rootBusy := rfl
@[simp] theorem Dev.setByte_mapLaid (d : Dev) (off : Nat) (b : Byte) : (d.setByte off b).mapLaid = d.mapLaid := rfl
@[simp] theorem Dev.setByte_tmap (d : Dev) (off : Nat) (b : Byte) : (d.setByte off b).tmap = d.tmap := rfl
@[simp] theorem Dev.setByte_remotes (d : Dev) (off : Nat) (b : Byte) : (d.setByte off b).remotes = d.remotes := rfl
@[simp] theorem Dev.setByte_precs (d : Dev) (off : Nat) (b : Byte) : (d.setByte off b).precs = d.precs := rfl
@[simp] theorem Dev.setByte_moves (d : Dev) (off : Nat) (b : Byte) : (d.setByte off b).moves = d.moves := rfl
@[simp] theorem Dev.setByte_openPend (d : Dev) (off : Nat) (b : Byte) : (d.setByte off b).openPend = d.openPend := rfl
@[simp] theorem Dev.setByte_demand (d : Dev) (off : Nat) (b : Byte) : (d.setByte off b).demand = d.demand := rfl
@[simp] theorem Dev.setByte_ageWindow (d : Dev) (off : Nat) (b : Byte) : (d.setByte off b).ageWindow = d.ageWindow := rfl
@[simp] theorem Dev.setByte_ageMs (d : Dev) (off : Nat) (b : Byte) : (d.setByte off b).ageMs = d.ageMs := rfl
@[simp] theorem Dev.setByte_victimStart (d : Dev) (off : Nat) (b : Byte) : (d.setByte off b).victimStart = d.victimStart := rfl
@[simp] theorem Dev.setByte_tierFull (d : Dev) (off : Nat) (b : Byte) : (d.setByte off b).tierFull = d.tierFull := rfl
@[simp] theorem Dev.setByte_leafAt (d : Dev) (off : Nat) (b : Byte) : (d.setByte off b).leafAt = d.leafAt := rfl
@[simp] theorem Dev.setByte_lostLeaves (d : Dev) (off : Nat) (b : Byte) : (d.setByte off b).lostLeaves = d.lostLeaves := rfl
@[simp] theorem Dev.setByte_leafWritten (d : Dev) (off : Nat) (b : Byte) : (d.setByte off b).leafWritten = d.leafWritten := rfl
@[simp] theorem Dev.setByte_wantRebuild (d : Dev) (off : Nat) (b : Byte) : (d.setByte off b).wantRebuild = d.wantRebuild := rfl
@[simp] theorem Dev.setByte_rootNew (d : Dev) (off : Nat) (b : Byte) : (d.setByte off b).rootNew = d.rootNew := rfl
@[simp] theorem Dev.setByte_evicting (d : Dev) (off : Nat) (b : Byte) : (d.setByte off b).evicting = d.evicting := rfl
@[simp] theorem Dev.setByte_wantPromo (d : Dev) (off : Nat) (b : Byte) : (d.setByte off b).wantPromo = d.wantPromo := rfl
@[simp] theorem Dev.setByte_wantDemote (d : Dev) (off : Nat) (b : Byte) : (d.setByte off b).wantDemote = d.wantDemote := rfl
@[simp] theorem Dev.setByte_promoWait (d : Dev) (off : Nat) (b : Byte) : (d.setByte off b).promoWait = d.promoWait := rfl
@[simp] theorem Dev.setByte_quota (d : Dev) (off : Nat) (b : Byte) : (d.setByte off b).quota = d.quota := rfl
@[simp] theorem Dev.setByte_seqCtr (d : Dev) (off : Nat) (b : Byte) : (d.setByte off b).seqCtr = d.seqCtr := rfl
@[simp] theorem Dev.setByte_hdm (d : Dev) (off : Nat) (b : Byte) : (d.setByte off b).hdm = d.hdm := rfl
@[simp] theorem Dev.setByte_activeLds (d : Dev) (off : Nat) (b : Byte) : (d.setByte off b).activeLds = d.activeLds := rfl
@[simp] theorem Dev.setByte_enabledFns (d : Dev) (off : Nat) (b : Byte) : (d.setByte off b).enabledFns = d.enabledFns := rfl
@[simp] theorem Dev.setByte_dir (d : Dev) (off : Nat) (b : Byte) : (d.setByte off b).dir = d.dir := rfl
@[simp] theorem Dev.setByte_dirRot (d : Dev) (off : Nat) (b : Byte) : (d.setByte off b).dirRot = d.dirRot := rfl
@[simp] theorem Dev.setByte_dirCache (d : Dev) (off : Nat) (b : Byte) : (d.setByte off b).dirCache = d.dirCache := rfl
@[simp] theorem Dev.setByte_refused (d : Dev) (off : Nat) (b : Byte) : (d.setByte off b).refused = d.refused := rfl
@[simp] theorem Dev.setByte_markCtr (d : Dev) (off : Nat) (b : Byte) : (d.setByte off b).markCtr = d.markCtr := rfl
@[simp] theorem Dev.setByte_waiting (d : Dev) (off : Nat) (b : Byte) : (d.setByte off b).waiting = d.waiting := rfl
@[simp] theorem Dev.setByte_unresp (d : Dev) (off : Nat) (b : Byte) : (d.setByte off b).unresp = d.unresp := rfl
@[simp] theorem Dev.setByte_sweep (d : Dev) (off : Nat) (b : Byte) : (d.setByte off b).sweep = d.sweep := rfl
@[simp] theorem Dev.setByte_timedOut (d : Dev) (off : Nat) (b : Byte) : (d.setByte off b).timedOut = d.timedOut := rfl
@[simp] theorem Dev.setByte_revs (d : Dev) (off : Nat) (b : Byte) : (d.setByte off b).revs = d.revs := rfl
@[simp] theorem Dev.setByte_raised (d : Dev) (off : Nat) (b : Byte) : (d.setByte off b).raised = d.raised := rfl
@[simp] theorem Dev.setByte_snoopDue (d : Dev) (off : Nat) (b : Byte) : (d.setByte off b).snoopDue = d.snoopDue := rfl
@[simp] theorem Dev.setByte_coWatch (d : Dev) (off : Nat) (b : Byte) : (d.setByte off b).coWatch = d.coWatch := rfl
@[simp] theorem Dev.setByte_polledLines (d : Dev) (off : Nat) (b : Byte) : (d.setByte off b).polledLines = d.polledLines := rfl
@[simp] theorem Dev.setByte_tlb (d : Dev) (off : Nat) (b : Byte) : (d.setByte off b).tlb = d.tlb := rfl
@[simp] theorem Dev.setByte_tptr (d : Dev) (off : Nat) (b : Byte) : (d.setByte off b).tptr = d.tptr := rfl
@[simp] theorem Dev.setByte_tlbSec (d : Dev) (off : Nat) (b : Byte) : (d.setByte off b).tlbSec = d.tlbSec := rfl
@[simp] theorem Dev.setByte_arb (d : Dev) (off : Nat) (b : Byte) : (d.setByte off b).arb = d.arb := rfl
@[simp] theorem Dev.setByte_bayTurn (d : Dev) (off : Nat) (b : Byte) : (d.setByte off b).bayTurn = d.bayTurn := rfl
@[simp] theorem Dev.setByte_ringOwed (d : Dev) (off : Nat) (b : Byte) : (d.setByte off b).ringOwed = d.ringOwed := rfl
@[simp] theorem Dev.setByte_invs (d : Dev) (off : Nat) (b : Byte) : (d.setByte off b).invs = d.invs := rfl
@[simp] theorem Dev.setByte_faults (d : Dev) (off : Nat) (b : Byte) : (d.setByte off b).faults = d.faults := rfl
@[simp] theorem Dev.setByte_areas (d : Dev) (off : Nat) (b : Byte) : (d.setByte off b).areas = d.areas := rfl
@[simp] theorem Dev.setByte_migrations (d : Dev) (off : Nat) (b : Byte) : (d.setByte off b).migrations = d.migrations := rfl
@[simp] theorem Dev.setByte_faultCtr (d : Dev) (off : Nat) (b : Byte) : (d.setByte off b).faultCtr = d.faultCtr := rfl
@[simp] theorem Dev.setByte_queues (d : Dev) (off : Nat) (b : Byte) : (d.setByte off b).queues = d.queues := rfl
@[simp] theorem Dev.setByte_ports (d : Dev) (off : Nat) (b : Byte) : (d.setByte off b).ports = d.ports := rfl
@[simp] theorem Dev.setByte_inbox (d : Dev) (off : Nat) (b : Byte) : (d.setByte off b).inbox = d.inbox := rfl
@[simp] theorem Dev.setByte_flowsOut (d : Dev) (off : Nat) (b : Byte) : (d.setByte off b).flowsOut = d.flowsOut := rfl
@[simp] theorem Dev.setByte_flowsIn (d : Dev) (off : Nat) (b : Byte) : (d.setByte off b).flowsIn = d.flowsIn := rfl
@[simp] theorem Dev.setByte_fabOut (d : Dev) (off : Nat) (b : Byte) : (d.setByte off b).fabOut = d.fabOut := rfl
@[simp] theorem Dev.setByte_fabIn (d : Dev) (off : Nat) (b : Byte) : (d.setByte off b).fabIn = d.fabIn := rfl
@[simp] theorem Dev.setByte_subs (d : Dev) (off : Nat) (b : Byte) : (d.setByte off b).subs = d.subs := rfl
@[simp] theorem Dev.setByte_parity (d : Dev) (off : Nat) (b : Byte) : (d.setByte off b).parity = d.parity := rfl
@[simp] theorem Dev.setByte_bringup (d : Dev) (off : Nat) (b : Byte) : (d.setByte off b).bringup = d.bringup := rfl
@[simp] theorem Dev.setByte_span (d : Dev) (off : Nat) (b : Byte) : (d.setByte off b).span = d.span := rfl
@[simp] theorem Dev.setByte_tagCtr (d : Dev) (off : Nat) (b : Byte) : (d.setByte off b).tagCtr = d.tagCtr := rfl
@[simp] theorem Dev.setByte_extents (d : Dev) (off : Nat) (b : Byte) : (d.setByte off b).extents = d.extents := rfl
@[simp] theorem Dev.setByte_lapseOk (d : Dev) (off : Nat) (b : Byte) : (d.setByte off b).lapseOk = d.lapseOk := rfl
@[simp] theorem Dev.setByte_found (d : Dev) (off : Nat) (b : Byte) : (d.setByte off b).found = d.found := rfl
@[simp] theorem Dev.setByte_smpWin (d : Dev) (off : Nat) (b : Byte) : (d.setByte off b).smpWin = d.smpWin := rfl
@[simp] theorem Dev.setByte_leases (d : Dev) (off : Nat) (b : Byte) : (d.setByte off b).leases = d.leases := rfl
@[simp] theorem Dev.setByte_membs (d : Dev) (off : Nat) (b : Byte) : (d.setByte off b).membs = d.membs := rfl
@[simp] theorem Dev.setByte_egWords (d : Dev) (off : Nat) (b : Byte) : (d.setByte off b).egWords = d.egWords := rfl
@[simp] theorem Dev.setByte_egs (d : Dev) (off : Nat) (b : Byte) : (d.setByte off b).egs = d.egs := rfl
@[simp] theorem Dev.setByte_grants (d : Dev) (off : Nat) (b : Byte) : (d.setByte off b).grants = d.grants := rfl
@[simp] theorem Dev.setByte_xfers (d : Dev) (off : Nat) (b : Byte) : (d.setByte off b).xfers = d.xfers := rfl
@[simp] theorem Dev.setByte_slots (d : Dev) (off : Nat) (b : Byte) : (d.setByte off b).slots = d.slots := rfl
@[simp] theorem Dev.setByte_deny (d : Dev) (off : Nat) (b : Byte) : (d.setByte off b).deny = d.deny := rfl
@[simp] theorem Dev.setByte_impDone (d : Dev) (off : Nat) (b : Byte) : (d.setByte off b).impDone = d.impDone := rfl
@[simp] theorem Dev.setByte_impSkip (d : Dev) (off : Nat) (b : Byte) : (d.setByte off b).impSkip = d.impSkip := rfl
@[simp] theorem Dev.setByte_scores (d : Dev) (off : Nat) (b : Byte) : (d.setByte off b).scores = d.scores := rfl
@[simp] theorem Dev.setByte_fencedBays (d : Dev) (off : Nat) (b : Byte) : (d.setByte off b).fencedBays = d.fencedBays := rfl
@[simp] theorem Dev.setByte_fencedScan (d : Dev) (off : Nat) (b : Byte) : (d.setByte off b).fencedScan = d.fencedScan := rfl
@[simp] theorem Dev.setByte_fencedPorts (d : Dev) (off : Nat) (b : Byte) : (d.setByte off b).fencedPorts = d.fencedPorts := rfl
@[simp] theorem Dev.setByte_retiredCh (d : Dev) (off : Nat) (b : Byte) : (d.setByte off b).retiredCh = d.retiredCh := rfl
@[simp] theorem Dev.setByte_retiring (d : Dev) (off : Nat) (b : Byte) : (d.setByte off b).retiring = d.retiring := rfl
@[simp] theorem Dev.setByte_retiredDies (d : Dev) (off : Nat) (b : Byte) : (d.setByte off b).retiredDies = d.retiredDies := rfl
@[simp] theorem Dev.setByte_calNor (d : Dev) (off : Nat) (b : Byte) : (d.setByte off b).calNor = d.calNor := rfl
@[simp] theorem Dev.setByte_calPending (d : Dev) (off : Nat) (b : Byte) : (d.setByte off b).calPending = d.calPending := rfl
@[simp] theorem Dev.setByte_calSched (d : Dev) (off : Nat) (b : Byte) : (d.setByte off b).calSched = d.calSched := rfl
@[simp] theorem Dev.setByte_vloop (d : Dev) (off : Nat) (b : Byte) : (d.setByte off b).vloop = d.vloop := rfl
@[simp] theorem Dev.setByte_power (d : Dev) (off : Nat) (b : Byte) : (d.setByte off b).power = d.power := rfl
@[simp] theorem Dev.setByte_pins (d : Dev) (off : Nat) (b : Byte) : (d.setByte off b).pins = d.pins := rfl
@[simp] theorem Dev.setByte_fw (d : Dev) (off : Nat) (b : Byte) : (d.setByte off b).fw = d.fw := rfl
@[simp] theorem Dev.setByte_ticks (d : Dev) (off : Nat) (b : Byte) : (d.setByte off b).ticks = d.ticks := rfl
@[simp] theorem Dev.setByte_opTicks (d : Dev) (off : Nat) (b : Byte) : (d.setByte off b).opTicks = d.opTicks := rfl
@[simp] theorem Dev.setByte_pcc (d : Dev) (off : Nat) (b : Byte) : (d.setByte off b).pcc = d.pcc := rfl
@[simp] theorem Dev.setByte_recorder (d : Dev) (off : Nat) (b : Byte) : (d.setByte off b).recorder = d.recorder := rfl
@[simp] theorem Dev.setByte_meters (d : Dev) (off : Nat) (b : Byte) : (d.setByte off b).meters = d.meters := rfl
@[simp] theorem Dev.setByte_sampleRun (d : Dev) (off : Nat) (b : Byte) : (d.setByte off b).sampleRun = d.sampleRun := rfl
@[simp] theorem Dev.setByte_threadMode (d : Dev) (off : Nat) (b : Byte) : (d.setByte off b).threadMode = d.threadMode := rfl
@[simp] theorem Dev.setByte_modeBusy (d : Dev) (off : Nat) (b : Byte) : (d.setByte off b).modeBusy = d.modeBusy := rfl
@[simp] theorem Dev.setByte_training (d : Dev) (off : Nat) (b : Byte) : (d.setByte off b).training = d.training := rfl
@[simp] theorem Dev.setByte_rowCache (d : Dev) (off : Nat) (b : Byte) : (d.setByte off b).rowCache = d.rowCache := rfl
@[simp] theorem Dev.setByte_rowLocks (d : Dev) (off : Nat) (b : Byte) : (d.setByte off b).rowLocks = d.rowLocks := rfl
@[simp] theorem Dev.setByte_rowMoves (d : Dev) (off : Nat) (b : Byte) : (d.setByte off b).rowMoves = d.rowMoves := rfl
@[simp] theorem Dev.setByte_switchQ (d : Dev) (off : Nat) (b : Byte) : (d.setByte off b).switchQ = d.switchQ := rfl
@[simp] theorem Dev.setByte_embRound (d : Dev) (off : Nat) (b : Byte) : (d.setByte off b).embRound = d.embRound := rfl
@[simp] theorem Dev.setByte_timetables (d : Dev) (off : Nat) (b : Byte) : (d.setByte off b).timetables = d.timetables := rfl
@[simp] theorem Dev.setByte_searches (d : Dev) (off : Nat) (b : Byte) : (d.setByte off b).searches = d.searches := rfl
@[simp] theorem Dev.setByte_held (d : Dev) (off : Nat) (b : Byte) : (d.setByte off b).held = d.held := rfl
@[simp] theorem Dev.setByte_free (d : Dev) (off : Nat) (b : Byte) : (d.setByte off b).free = d.free := rfl
@[simp] theorem Dev.setByte_out (d : Dev) (off : Nat) (b : Byte) : (d.setByte off b).out = d.out := rfl

@[simp] theorem Dev.setQ_part (d : Dev) (q : Nat) (x : Queue) : (d.setQ q x).part = d.part := rfl
@[simp] theorem Dev.setQ_regs (d : Dev) (q : Nat) (x : Queue) : (d.setQ q x).regs = d.regs := rfl
@[simp] theorem Dev.setQ_sels (d : Dev) (q : Nat) (x : Queue) : (d.setQ q x).sels = d.sels := rfl
@[simp] theorem Dev.setQ_latches (d : Dev) (q : Nat) (x : Queue) : (d.setQ q x).latches = d.latches := rfl
@[simp] theorem Dev.setQ_msix (d : Dev) (q : Nat) (x : Queue) : (d.setQ q x).msix = d.msix := rfl
@[simp] theorem Dev.setQ_pba (d : Dev) (q : Nat) (x : Queue) : (d.setQ q x).pba = d.pba := rfl
@[simp] theorem Dev.setQ_mem (d : Dev) (q : Nat) (x : Queue) : (d.setQ q x).mem = d.mem := rfl
@[simp] theorem Dev.setQ_pois (d : Dev) (q : Nat) (x : Queue) : (d.setQ q x).pois = d.pois := rfl
@[simp] theorem Dev.setQ_roots (d : Dev) (q : Nat) (x : Queue) : (d.setQ q x).roots = d.roots := rfl
@[simp] theorem Dev.setQ_rootBusy (d : Dev) (q : Nat) (x : Queue) : (d.setQ q x).rootBusy = d.rootBusy := rfl
@[simp] theorem Dev.setQ_mapLaid (d : Dev) (q : Nat) (x : Queue) : (d.setQ q x).mapLaid = d.mapLaid := rfl
@[simp] theorem Dev.setQ_tmap (d : Dev) (q : Nat) (x : Queue) : (d.setQ q x).tmap = d.tmap := rfl
@[simp] theorem Dev.setQ_remotes (d : Dev) (q : Nat) (x : Queue) : (d.setQ q x).remotes = d.remotes := rfl
@[simp] theorem Dev.setQ_precs (d : Dev) (q : Nat) (x : Queue) : (d.setQ q x).precs = d.precs := rfl
@[simp] theorem Dev.setQ_moves (d : Dev) (q : Nat) (x : Queue) : (d.setQ q x).moves = d.moves := rfl
@[simp] theorem Dev.setQ_openPend (d : Dev) (q : Nat) (x : Queue) : (d.setQ q x).openPend = d.openPend := rfl
@[simp] theorem Dev.setQ_demand (d : Dev) (q : Nat) (x : Queue) : (d.setQ q x).demand = d.demand := rfl
@[simp] theorem Dev.setQ_ageWindow (d : Dev) (q : Nat) (x : Queue) : (d.setQ q x).ageWindow = d.ageWindow := rfl
@[simp] theorem Dev.setQ_ageMs (d : Dev) (q : Nat) (x : Queue) : (d.setQ q x).ageMs = d.ageMs := rfl
@[simp] theorem Dev.setQ_victimStart (d : Dev) (q : Nat) (x : Queue) : (d.setQ q x).victimStart = d.victimStart := rfl
@[simp] theorem Dev.setQ_tierFull (d : Dev) (q : Nat) (x : Queue) : (d.setQ q x).tierFull = d.tierFull := rfl
@[simp] theorem Dev.setQ_leafAt (d : Dev) (q : Nat) (x : Queue) : (d.setQ q x).leafAt = d.leafAt := rfl
@[simp] theorem Dev.setQ_lostLeaves (d : Dev) (q : Nat) (x : Queue) : (d.setQ q x).lostLeaves = d.lostLeaves := rfl
@[simp] theorem Dev.setQ_leafWritten (d : Dev) (q : Nat) (x : Queue) : (d.setQ q x).leafWritten = d.leafWritten := rfl
@[simp] theorem Dev.setQ_wantRebuild (d : Dev) (q : Nat) (x : Queue) : (d.setQ q x).wantRebuild = d.wantRebuild := rfl
@[simp] theorem Dev.setQ_rootNew (d : Dev) (q : Nat) (x : Queue) : (d.setQ q x).rootNew = d.rootNew := rfl
@[simp] theorem Dev.setQ_evicting (d : Dev) (q : Nat) (x : Queue) : (d.setQ q x).evicting = d.evicting := rfl
@[simp] theorem Dev.setQ_wantPromo (d : Dev) (q : Nat) (x : Queue) : (d.setQ q x).wantPromo = d.wantPromo := rfl
@[simp] theorem Dev.setQ_wantDemote (d : Dev) (q : Nat) (x : Queue) : (d.setQ q x).wantDemote = d.wantDemote := rfl
@[simp] theorem Dev.setQ_promoWait (d : Dev) (q : Nat) (x : Queue) : (d.setQ q x).promoWait = d.promoWait := rfl
@[simp] theorem Dev.setQ_quota (d : Dev) (q : Nat) (x : Queue) : (d.setQ q x).quota = d.quota := rfl
@[simp] theorem Dev.setQ_seqCtr (d : Dev) (q : Nat) (x : Queue) : (d.setQ q x).seqCtr = d.seqCtr := rfl
@[simp] theorem Dev.setQ_hdm (d : Dev) (q : Nat) (x : Queue) : (d.setQ q x).hdm = d.hdm := rfl
@[simp] theorem Dev.setQ_activeLds (d : Dev) (q : Nat) (x : Queue) : (d.setQ q x).activeLds = d.activeLds := rfl
@[simp] theorem Dev.setQ_enabledFns (d : Dev) (q : Nat) (x : Queue) : (d.setQ q x).enabledFns = d.enabledFns := rfl
@[simp] theorem Dev.setQ_dir (d : Dev) (q : Nat) (x : Queue) : (d.setQ q x).dir = d.dir := rfl
@[simp] theorem Dev.setQ_dirRot (d : Dev) (q : Nat) (x : Queue) : (d.setQ q x).dirRot = d.dirRot := rfl
@[simp] theorem Dev.setQ_dirCache (d : Dev) (q : Nat) (x : Queue) : (d.setQ q x).dirCache = d.dirCache := rfl
@[simp] theorem Dev.setQ_refused (d : Dev) (q : Nat) (x : Queue) : (d.setQ q x).refused = d.refused := rfl
@[simp] theorem Dev.setQ_markCtr (d : Dev) (q : Nat) (x : Queue) : (d.setQ q x).markCtr = d.markCtr := rfl
@[simp] theorem Dev.setQ_waiting (d : Dev) (q : Nat) (x : Queue) : (d.setQ q x).waiting = d.waiting := rfl
@[simp] theorem Dev.setQ_unresp (d : Dev) (q : Nat) (x : Queue) : (d.setQ q x).unresp = d.unresp := rfl
@[simp] theorem Dev.setQ_sweep (d : Dev) (q : Nat) (x : Queue) : (d.setQ q x).sweep = d.sweep := rfl
@[simp] theorem Dev.setQ_timedOut (d : Dev) (q : Nat) (x : Queue) : (d.setQ q x).timedOut = d.timedOut := rfl
@[simp] theorem Dev.setQ_revs (d : Dev) (q : Nat) (x : Queue) : (d.setQ q x).revs = d.revs := rfl
@[simp] theorem Dev.setQ_raised (d : Dev) (q : Nat) (x : Queue) : (d.setQ q x).raised = d.raised := rfl
@[simp] theorem Dev.setQ_snoopDue (d : Dev) (q : Nat) (x : Queue) : (d.setQ q x).snoopDue = d.snoopDue := rfl
@[simp] theorem Dev.setQ_coWatch (d : Dev) (q : Nat) (x : Queue) : (d.setQ q x).coWatch = d.coWatch := rfl
@[simp] theorem Dev.setQ_polledLines (d : Dev) (q : Nat) (x : Queue) : (d.setQ q x).polledLines = d.polledLines := rfl
@[simp] theorem Dev.setQ_tlb (d : Dev) (q : Nat) (x : Queue) : (d.setQ q x).tlb = d.tlb := rfl
@[simp] theorem Dev.setQ_tptr (d : Dev) (q : Nat) (x : Queue) : (d.setQ q x).tptr = d.tptr := rfl
@[simp] theorem Dev.setQ_tlbSec (d : Dev) (q : Nat) (x : Queue) : (d.setQ q x).tlbSec = d.tlbSec := rfl
@[simp] theorem Dev.setQ_arb (d : Dev) (q : Nat) (x : Queue) : (d.setQ q x).arb = d.arb := rfl
@[simp] theorem Dev.setQ_bayTurn (d : Dev) (q : Nat) (x : Queue) : (d.setQ q x).bayTurn = d.bayTurn := rfl
@[simp] theorem Dev.setQ_ringOwed (d : Dev) (q : Nat) (x : Queue) : (d.setQ q x).ringOwed = d.ringOwed := rfl
@[simp] theorem Dev.setQ_invs (d : Dev) (q : Nat) (x : Queue) : (d.setQ q x).invs = d.invs := rfl
@[simp] theorem Dev.setQ_faults (d : Dev) (q : Nat) (x : Queue) : (d.setQ q x).faults = d.faults := rfl
@[simp] theorem Dev.setQ_areas (d : Dev) (q : Nat) (x : Queue) : (d.setQ q x).areas = d.areas := rfl
@[simp] theorem Dev.setQ_migrations (d : Dev) (q : Nat) (x : Queue) : (d.setQ q x).migrations = d.migrations := rfl
@[simp] theorem Dev.setQ_faultCtr (d : Dev) (q : Nat) (x : Queue) : (d.setQ q x).faultCtr = d.faultCtr := rfl
@[simp] theorem Dev.setQ_queues (d : Dev) (q : Nat) (x : Queue) : (d.setQ q x).queues = smSet q x d.queues := rfl
@[simp] theorem Dev.setQ_ports (d : Dev) (q : Nat) (x : Queue) : (d.setQ q x).ports = d.ports := rfl
@[simp] theorem Dev.setQ_inbox (d : Dev) (q : Nat) (x : Queue) : (d.setQ q x).inbox = d.inbox := rfl
@[simp] theorem Dev.setQ_flowsOut (d : Dev) (q : Nat) (x : Queue) : (d.setQ q x).flowsOut = d.flowsOut := rfl
@[simp] theorem Dev.setQ_flowsIn (d : Dev) (q : Nat) (x : Queue) : (d.setQ q x).flowsIn = d.flowsIn := rfl
@[simp] theorem Dev.setQ_fabOut (d : Dev) (q : Nat) (x : Queue) : (d.setQ q x).fabOut = d.fabOut := rfl
@[simp] theorem Dev.setQ_fabIn (d : Dev) (q : Nat) (x : Queue) : (d.setQ q x).fabIn = d.fabIn := rfl
@[simp] theorem Dev.setQ_subs (d : Dev) (q : Nat) (x : Queue) : (d.setQ q x).subs = d.subs := rfl
@[simp] theorem Dev.setQ_parity (d : Dev) (q : Nat) (x : Queue) : (d.setQ q x).parity = d.parity := rfl
@[simp] theorem Dev.setQ_bringup (d : Dev) (q : Nat) (x : Queue) : (d.setQ q x).bringup = d.bringup := rfl
@[simp] theorem Dev.setQ_span (d : Dev) (q : Nat) (x : Queue) : (d.setQ q x).span = d.span := rfl
@[simp] theorem Dev.setQ_tagCtr (d : Dev) (q : Nat) (x : Queue) : (d.setQ q x).tagCtr = d.tagCtr := rfl
@[simp] theorem Dev.setQ_extents (d : Dev) (q : Nat) (x : Queue) : (d.setQ q x).extents = d.extents := rfl
@[simp] theorem Dev.setQ_lapseOk (d : Dev) (q : Nat) (x : Queue) : (d.setQ q x).lapseOk = d.lapseOk := rfl
@[simp] theorem Dev.setQ_found (d : Dev) (q : Nat) (x : Queue) : (d.setQ q x).found = d.found := rfl
@[simp] theorem Dev.setQ_smpWin (d : Dev) (q : Nat) (x : Queue) : (d.setQ q x).smpWin = d.smpWin := rfl
@[simp] theorem Dev.setQ_leases (d : Dev) (q : Nat) (x : Queue) : (d.setQ q x).leases = d.leases := rfl
@[simp] theorem Dev.setQ_membs (d : Dev) (q : Nat) (x : Queue) : (d.setQ q x).membs = d.membs := rfl
@[simp] theorem Dev.setQ_egWords (d : Dev) (q : Nat) (x : Queue) : (d.setQ q x).egWords = d.egWords := rfl
@[simp] theorem Dev.setQ_egs (d : Dev) (q : Nat) (x : Queue) : (d.setQ q x).egs = d.egs := rfl
@[simp] theorem Dev.setQ_grants (d : Dev) (q : Nat) (x : Queue) : (d.setQ q x).grants = d.grants := rfl
@[simp] theorem Dev.setQ_xfers (d : Dev) (q : Nat) (x : Queue) : (d.setQ q x).xfers = d.xfers := rfl
@[simp] theorem Dev.setQ_slots (d : Dev) (q : Nat) (x : Queue) : (d.setQ q x).slots = d.slots := rfl
@[simp] theorem Dev.setQ_deny (d : Dev) (q : Nat) (x : Queue) : (d.setQ q x).deny = d.deny := rfl
@[simp] theorem Dev.setQ_impDone (d : Dev) (q : Nat) (x : Queue) : (d.setQ q x).impDone = d.impDone := rfl
@[simp] theorem Dev.setQ_impSkip (d : Dev) (q : Nat) (x : Queue) : (d.setQ q x).impSkip = d.impSkip := rfl
@[simp] theorem Dev.setQ_scores (d : Dev) (q : Nat) (x : Queue) : (d.setQ q x).scores = d.scores := rfl
@[simp] theorem Dev.setQ_fencedBays (d : Dev) (q : Nat) (x : Queue) : (d.setQ q x).fencedBays = d.fencedBays := rfl
@[simp] theorem Dev.setQ_fencedScan (d : Dev) (q : Nat) (x : Queue) : (d.setQ q x).fencedScan = d.fencedScan := rfl
@[simp] theorem Dev.setQ_fencedPorts (d : Dev) (q : Nat) (x : Queue) : (d.setQ q x).fencedPorts = d.fencedPorts := rfl
@[simp] theorem Dev.setQ_retiredCh (d : Dev) (q : Nat) (x : Queue) : (d.setQ q x).retiredCh = d.retiredCh := rfl
@[simp] theorem Dev.setQ_retiring (d : Dev) (q : Nat) (x : Queue) : (d.setQ q x).retiring = d.retiring := rfl
@[simp] theorem Dev.setQ_retiredDies (d : Dev) (q : Nat) (x : Queue) : (d.setQ q x).retiredDies = d.retiredDies := rfl
@[simp] theorem Dev.setQ_calNor (d : Dev) (q : Nat) (x : Queue) : (d.setQ q x).calNor = d.calNor := rfl
@[simp] theorem Dev.setQ_calPending (d : Dev) (q : Nat) (x : Queue) : (d.setQ q x).calPending = d.calPending := rfl
@[simp] theorem Dev.setQ_calSched (d : Dev) (q : Nat) (x : Queue) : (d.setQ q x).calSched = d.calSched := rfl
@[simp] theorem Dev.setQ_vloop (d : Dev) (q : Nat) (x : Queue) : (d.setQ q x).vloop = d.vloop := rfl
@[simp] theorem Dev.setQ_power (d : Dev) (q : Nat) (x : Queue) : (d.setQ q x).power = d.power := rfl
@[simp] theorem Dev.setQ_pins (d : Dev) (q : Nat) (x : Queue) : (d.setQ q x).pins = d.pins := rfl
@[simp] theorem Dev.setQ_fw (d : Dev) (q : Nat) (x : Queue) : (d.setQ q x).fw = d.fw := rfl
@[simp] theorem Dev.setQ_ticks (d : Dev) (q : Nat) (x : Queue) : (d.setQ q x).ticks = d.ticks := rfl
@[simp] theorem Dev.setQ_opTicks (d : Dev) (q : Nat) (x : Queue) : (d.setQ q x).opTicks = d.opTicks := rfl
@[simp] theorem Dev.setQ_pcc (d : Dev) (q : Nat) (x : Queue) : (d.setQ q x).pcc = d.pcc := rfl
@[simp] theorem Dev.setQ_recorder (d : Dev) (q : Nat) (x : Queue) : (d.setQ q x).recorder = d.recorder := rfl
@[simp] theorem Dev.setQ_meters (d : Dev) (q : Nat) (x : Queue) : (d.setQ q x).meters = d.meters := rfl
@[simp] theorem Dev.setQ_sampleRun (d : Dev) (q : Nat) (x : Queue) : (d.setQ q x).sampleRun = d.sampleRun := rfl
@[simp] theorem Dev.setQ_threadMode (d : Dev) (q : Nat) (x : Queue) : (d.setQ q x).threadMode = d.threadMode := rfl
@[simp] theorem Dev.setQ_modeBusy (d : Dev) (q : Nat) (x : Queue) : (d.setQ q x).modeBusy = d.modeBusy := rfl
@[simp] theorem Dev.setQ_training (d : Dev) (q : Nat) (x : Queue) : (d.setQ q x).training = d.training := rfl
@[simp] theorem Dev.setQ_rowCache (d : Dev) (q : Nat) (x : Queue) : (d.setQ q x).rowCache = d.rowCache := rfl
@[simp] theorem Dev.setQ_rowLocks (d : Dev) (q : Nat) (x : Queue) : (d.setQ q x).rowLocks = d.rowLocks := rfl
@[simp] theorem Dev.setQ_rowMoves (d : Dev) (q : Nat) (x : Queue) : (d.setQ q x).rowMoves = d.rowMoves := rfl
@[simp] theorem Dev.setQ_switchQ (d : Dev) (q : Nat) (x : Queue) : (d.setQ q x).switchQ = d.switchQ := rfl
@[simp] theorem Dev.setQ_embRound (d : Dev) (q : Nat) (x : Queue) : (d.setQ q x).embRound = d.embRound := rfl
@[simp] theorem Dev.setQ_timetables (d : Dev) (q : Nat) (x : Queue) : (d.setQ q x).timetables = d.timetables := rfl
@[simp] theorem Dev.setQ_searches (d : Dev) (q : Nat) (x : Queue) : (d.setQ q x).searches = d.searches := rfl
@[simp] theorem Dev.setQ_held (d : Dev) (q : Nat) (x : Queue) : (d.setQ q x).held = d.held := rfl
@[simp] theorem Dev.setQ_free (d : Dev) (q : Nat) (x : Queue) : (d.setQ q x).free = d.free := rfl
@[simp] theorem Dev.setQ_out (d : Dev) (q : Nat) (x : Queue) : (d.setQ q x).out = d.out := rfl

@[simp] theorem Dev.setPort_part (d : Dev) (p : Nat) (x : PortSt) : (d.setPort p x).part = d.part := rfl
@[simp] theorem Dev.setPort_regs (d : Dev) (p : Nat) (x : PortSt) : (d.setPort p x).regs = d.regs := rfl
@[simp] theorem Dev.setPort_sels (d : Dev) (p : Nat) (x : PortSt) : (d.setPort p x).sels = d.sels := rfl
@[simp] theorem Dev.setPort_latches (d : Dev) (p : Nat) (x : PortSt) : (d.setPort p x).latches = d.latches := rfl
@[simp] theorem Dev.setPort_msix (d : Dev) (p : Nat) (x : PortSt) : (d.setPort p x).msix = d.msix := rfl
@[simp] theorem Dev.setPort_pba (d : Dev) (p : Nat) (x : PortSt) : (d.setPort p x).pba = d.pba := rfl
@[simp] theorem Dev.setPort_mem (d : Dev) (p : Nat) (x : PortSt) : (d.setPort p x).mem = d.mem := rfl
@[simp] theorem Dev.setPort_pois (d : Dev) (p : Nat) (x : PortSt) : (d.setPort p x).pois = d.pois := rfl
@[simp] theorem Dev.setPort_roots (d : Dev) (p : Nat) (x : PortSt) : (d.setPort p x).roots = d.roots := rfl
@[simp] theorem Dev.setPort_rootBusy (d : Dev) (p : Nat) (x : PortSt) : (d.setPort p x).rootBusy = d.rootBusy := rfl
@[simp] theorem Dev.setPort_mapLaid (d : Dev) (p : Nat) (x : PortSt) : (d.setPort p x).mapLaid = d.mapLaid := rfl
@[simp] theorem Dev.setPort_tmap (d : Dev) (p : Nat) (x : PortSt) : (d.setPort p x).tmap = d.tmap := rfl
@[simp] theorem Dev.setPort_remotes (d : Dev) (p : Nat) (x : PortSt) : (d.setPort p x).remotes = d.remotes := rfl
@[simp] theorem Dev.setPort_precs (d : Dev) (p : Nat) (x : PortSt) : (d.setPort p x).precs = d.precs := rfl
@[simp] theorem Dev.setPort_moves (d : Dev) (p : Nat) (x : PortSt) : (d.setPort p x).moves = d.moves := rfl
@[simp] theorem Dev.setPort_openPend (d : Dev) (p : Nat) (x : PortSt) : (d.setPort p x).openPend = d.openPend := rfl
@[simp] theorem Dev.setPort_demand (d : Dev) (p : Nat) (x : PortSt) : (d.setPort p x).demand = d.demand := rfl
@[simp] theorem Dev.setPort_ageWindow (d : Dev) (p : Nat) (x : PortSt) : (d.setPort p x).ageWindow = d.ageWindow := rfl
@[simp] theorem Dev.setPort_ageMs (d : Dev) (p : Nat) (x : PortSt) : (d.setPort p x).ageMs = d.ageMs := rfl
@[simp] theorem Dev.setPort_victimStart (d : Dev) (p : Nat) (x : PortSt) : (d.setPort p x).victimStart = d.victimStart := rfl
@[simp] theorem Dev.setPort_tierFull (d : Dev) (p : Nat) (x : PortSt) : (d.setPort p x).tierFull = d.tierFull := rfl
@[simp] theorem Dev.setPort_leafAt (d : Dev) (p : Nat) (x : PortSt) : (d.setPort p x).leafAt = d.leafAt := rfl
@[simp] theorem Dev.setPort_lostLeaves (d : Dev) (p : Nat) (x : PortSt) : (d.setPort p x).lostLeaves = d.lostLeaves := rfl
@[simp] theorem Dev.setPort_leafWritten (d : Dev) (p : Nat) (x : PortSt) : (d.setPort p x).leafWritten = d.leafWritten := rfl
@[simp] theorem Dev.setPort_wantRebuild (d : Dev) (p : Nat) (x : PortSt) : (d.setPort p x).wantRebuild = d.wantRebuild := rfl
@[simp] theorem Dev.setPort_rootNew (d : Dev) (p : Nat) (x : PortSt) : (d.setPort p x).rootNew = d.rootNew := rfl
@[simp] theorem Dev.setPort_evicting (d : Dev) (p : Nat) (x : PortSt) : (d.setPort p x).evicting = d.evicting := rfl
@[simp] theorem Dev.setPort_wantPromo (d : Dev) (p : Nat) (x : PortSt) : (d.setPort p x).wantPromo = d.wantPromo := rfl
@[simp] theorem Dev.setPort_wantDemote (d : Dev) (p : Nat) (x : PortSt) : (d.setPort p x).wantDemote = d.wantDemote := rfl
@[simp] theorem Dev.setPort_promoWait (d : Dev) (p : Nat) (x : PortSt) : (d.setPort p x).promoWait = d.promoWait := rfl
@[simp] theorem Dev.setPort_quota (d : Dev) (p : Nat) (x : PortSt) : (d.setPort p x).quota = d.quota := rfl
@[simp] theorem Dev.setPort_seqCtr (d : Dev) (p : Nat) (x : PortSt) : (d.setPort p x).seqCtr = d.seqCtr := rfl
@[simp] theorem Dev.setPort_hdm (d : Dev) (p : Nat) (x : PortSt) : (d.setPort p x).hdm = d.hdm := rfl
@[simp] theorem Dev.setPort_activeLds (d : Dev) (p : Nat) (x : PortSt) : (d.setPort p x).activeLds = d.activeLds := rfl
@[simp] theorem Dev.setPort_enabledFns (d : Dev) (p : Nat) (x : PortSt) : (d.setPort p x).enabledFns = d.enabledFns := rfl
@[simp] theorem Dev.setPort_dir (d : Dev) (p : Nat) (x : PortSt) : (d.setPort p x).dir = d.dir := rfl
@[simp] theorem Dev.setPort_dirRot (d : Dev) (p : Nat) (x : PortSt) : (d.setPort p x).dirRot = d.dirRot := rfl
@[simp] theorem Dev.setPort_dirCache (d : Dev) (p : Nat) (x : PortSt) : (d.setPort p x).dirCache = d.dirCache := rfl
@[simp] theorem Dev.setPort_refused (d : Dev) (p : Nat) (x : PortSt) : (d.setPort p x).refused = d.refused := rfl
@[simp] theorem Dev.setPort_markCtr (d : Dev) (p : Nat) (x : PortSt) : (d.setPort p x).markCtr = d.markCtr := rfl
@[simp] theorem Dev.setPort_waiting (d : Dev) (p : Nat) (x : PortSt) : (d.setPort p x).waiting = d.waiting := rfl
@[simp] theorem Dev.setPort_unresp (d : Dev) (p : Nat) (x : PortSt) : (d.setPort p x).unresp = d.unresp := rfl
@[simp] theorem Dev.setPort_sweep (d : Dev) (p : Nat) (x : PortSt) : (d.setPort p x).sweep = d.sweep := rfl
@[simp] theorem Dev.setPort_timedOut (d : Dev) (p : Nat) (x : PortSt) : (d.setPort p x).timedOut = d.timedOut := rfl
@[simp] theorem Dev.setPort_revs (d : Dev) (p : Nat) (x : PortSt) : (d.setPort p x).revs = d.revs := rfl
@[simp] theorem Dev.setPort_raised (d : Dev) (p : Nat) (x : PortSt) : (d.setPort p x).raised = d.raised := rfl
@[simp] theorem Dev.setPort_snoopDue (d : Dev) (p : Nat) (x : PortSt) : (d.setPort p x).snoopDue = d.snoopDue := rfl
@[simp] theorem Dev.setPort_coWatch (d : Dev) (p : Nat) (x : PortSt) : (d.setPort p x).coWatch = d.coWatch := rfl
@[simp] theorem Dev.setPort_polledLines (d : Dev) (p : Nat) (x : PortSt) : (d.setPort p x).polledLines = d.polledLines := rfl
@[simp] theorem Dev.setPort_tlb (d : Dev) (p : Nat) (x : PortSt) : (d.setPort p x).tlb = d.tlb := rfl
@[simp] theorem Dev.setPort_tptr (d : Dev) (p : Nat) (x : PortSt) : (d.setPort p x).tptr = d.tptr := rfl
@[simp] theorem Dev.setPort_tlbSec (d : Dev) (p : Nat) (x : PortSt) : (d.setPort p x).tlbSec = d.tlbSec := rfl
@[simp] theorem Dev.setPort_arb (d : Dev) (p : Nat) (x : PortSt) : (d.setPort p x).arb = d.arb := rfl
@[simp] theorem Dev.setPort_bayTurn (d : Dev) (p : Nat) (x : PortSt) : (d.setPort p x).bayTurn = d.bayTurn := rfl
@[simp] theorem Dev.setPort_ringOwed (d : Dev) (p : Nat) (x : PortSt) : (d.setPort p x).ringOwed = d.ringOwed := rfl
@[simp] theorem Dev.setPort_invs (d : Dev) (p : Nat) (x : PortSt) : (d.setPort p x).invs = d.invs := rfl
@[simp] theorem Dev.setPort_faults (d : Dev) (p : Nat) (x : PortSt) : (d.setPort p x).faults = d.faults := rfl
@[simp] theorem Dev.setPort_areas (d : Dev) (p : Nat) (x : PortSt) : (d.setPort p x).areas = d.areas := rfl
@[simp] theorem Dev.setPort_migrations (d : Dev) (p : Nat) (x : PortSt) : (d.setPort p x).migrations = d.migrations := rfl
@[simp] theorem Dev.setPort_faultCtr (d : Dev) (p : Nat) (x : PortSt) : (d.setPort p x).faultCtr = d.faultCtr := rfl
@[simp] theorem Dev.setPort_queues (d : Dev) (p : Nat) (x : PortSt) : (d.setPort p x).queues = d.queues := rfl
@[simp] theorem Dev.setPort_ports (d : Dev) (p : Nat) (x : PortSt) : (d.setPort p x).ports = smPut PortSt.empty p x d.ports := rfl
@[simp] theorem Dev.setPort_inbox (d : Dev) (p : Nat) (x : PortSt) : (d.setPort p x).inbox = d.inbox := rfl
@[simp] theorem Dev.setPort_flowsOut (d : Dev) (p : Nat) (x : PortSt) : (d.setPort p x).flowsOut = d.flowsOut := rfl
@[simp] theorem Dev.setPort_flowsIn (d : Dev) (p : Nat) (x : PortSt) : (d.setPort p x).flowsIn = d.flowsIn := rfl
@[simp] theorem Dev.setPort_fabOut (d : Dev) (p : Nat) (x : PortSt) : (d.setPort p x).fabOut = d.fabOut := rfl
@[simp] theorem Dev.setPort_fabIn (d : Dev) (p : Nat) (x : PortSt) : (d.setPort p x).fabIn = d.fabIn := rfl
@[simp] theorem Dev.setPort_subs (d : Dev) (p : Nat) (x : PortSt) : (d.setPort p x).subs = d.subs := rfl
@[simp] theorem Dev.setPort_parity (d : Dev) (p : Nat) (x : PortSt) : (d.setPort p x).parity = d.parity := rfl
@[simp] theorem Dev.setPort_bringup (d : Dev) (p : Nat) (x : PortSt) : (d.setPort p x).bringup = d.bringup := rfl
@[simp] theorem Dev.setPort_span (d : Dev) (p : Nat) (x : PortSt) : (d.setPort p x).span = d.span := rfl
@[simp] theorem Dev.setPort_tagCtr (d : Dev) (p : Nat) (x : PortSt) : (d.setPort p x).tagCtr = d.tagCtr := rfl
@[simp] theorem Dev.setPort_extents (d : Dev) (p : Nat) (x : PortSt) : (d.setPort p x).extents = d.extents := rfl
@[simp] theorem Dev.setPort_lapseOk (d : Dev) (p : Nat) (x : PortSt) : (d.setPort p x).lapseOk = d.lapseOk := rfl
@[simp] theorem Dev.setPort_found (d : Dev) (p : Nat) (x : PortSt) : (d.setPort p x).found = d.found := rfl
@[simp] theorem Dev.setPort_smpWin (d : Dev) (p : Nat) (x : PortSt) : (d.setPort p x).smpWin = d.smpWin := rfl
@[simp] theorem Dev.setPort_leases (d : Dev) (p : Nat) (x : PortSt) : (d.setPort p x).leases = d.leases := rfl
@[simp] theorem Dev.setPort_membs (d : Dev) (p : Nat) (x : PortSt) : (d.setPort p x).membs = d.membs := rfl
@[simp] theorem Dev.setPort_egWords (d : Dev) (p : Nat) (x : PortSt) : (d.setPort p x).egWords = d.egWords := rfl
@[simp] theorem Dev.setPort_egs (d : Dev) (p : Nat) (x : PortSt) : (d.setPort p x).egs = d.egs := rfl
@[simp] theorem Dev.setPort_grants (d : Dev) (p : Nat) (x : PortSt) : (d.setPort p x).grants = d.grants := rfl
@[simp] theorem Dev.setPort_xfers (d : Dev) (p : Nat) (x : PortSt) : (d.setPort p x).xfers = d.xfers := rfl
@[simp] theorem Dev.setPort_slots (d : Dev) (p : Nat) (x : PortSt) : (d.setPort p x).slots = d.slots := rfl
@[simp] theorem Dev.setPort_deny (d : Dev) (p : Nat) (x : PortSt) : (d.setPort p x).deny = d.deny := rfl
@[simp] theorem Dev.setPort_impDone (d : Dev) (p : Nat) (x : PortSt) : (d.setPort p x).impDone = d.impDone := rfl
@[simp] theorem Dev.setPort_impSkip (d : Dev) (p : Nat) (x : PortSt) : (d.setPort p x).impSkip = d.impSkip := rfl
@[simp] theorem Dev.setPort_scores (d : Dev) (p : Nat) (x : PortSt) : (d.setPort p x).scores = d.scores := rfl
@[simp] theorem Dev.setPort_fencedBays (d : Dev) (p : Nat) (x : PortSt) : (d.setPort p x).fencedBays = d.fencedBays := rfl
@[simp] theorem Dev.setPort_fencedScan (d : Dev) (p : Nat) (x : PortSt) : (d.setPort p x).fencedScan = d.fencedScan := rfl
@[simp] theorem Dev.setPort_fencedPorts (d : Dev) (p : Nat) (x : PortSt) : (d.setPort p x).fencedPorts = d.fencedPorts := rfl
@[simp] theorem Dev.setPort_retiredCh (d : Dev) (p : Nat) (x : PortSt) : (d.setPort p x).retiredCh = d.retiredCh := rfl
@[simp] theorem Dev.setPort_retiring (d : Dev) (p : Nat) (x : PortSt) : (d.setPort p x).retiring = d.retiring := rfl
@[simp] theorem Dev.setPort_retiredDies (d : Dev) (p : Nat) (x : PortSt) : (d.setPort p x).retiredDies = d.retiredDies := rfl
@[simp] theorem Dev.setPort_calNor (d : Dev) (p : Nat) (x : PortSt) : (d.setPort p x).calNor = d.calNor := rfl
@[simp] theorem Dev.setPort_calPending (d : Dev) (p : Nat) (x : PortSt) : (d.setPort p x).calPending = d.calPending := rfl
@[simp] theorem Dev.setPort_calSched (d : Dev) (p : Nat) (x : PortSt) : (d.setPort p x).calSched = d.calSched := rfl
@[simp] theorem Dev.setPort_vloop (d : Dev) (p : Nat) (x : PortSt) : (d.setPort p x).vloop = d.vloop := rfl
@[simp] theorem Dev.setPort_power (d : Dev) (p : Nat) (x : PortSt) : (d.setPort p x).power = d.power := rfl
@[simp] theorem Dev.setPort_pins (d : Dev) (p : Nat) (x : PortSt) : (d.setPort p x).pins = d.pins := rfl
@[simp] theorem Dev.setPort_fw (d : Dev) (p : Nat) (x : PortSt) : (d.setPort p x).fw = d.fw := rfl
@[simp] theorem Dev.setPort_ticks (d : Dev) (p : Nat) (x : PortSt) : (d.setPort p x).ticks = d.ticks := rfl
@[simp] theorem Dev.setPort_opTicks (d : Dev) (p : Nat) (x : PortSt) : (d.setPort p x).opTicks = d.opTicks := rfl
@[simp] theorem Dev.setPort_pcc (d : Dev) (p : Nat) (x : PortSt) : (d.setPort p x).pcc = d.pcc := rfl
@[simp] theorem Dev.setPort_recorder (d : Dev) (p : Nat) (x : PortSt) : (d.setPort p x).recorder = d.recorder := rfl
@[simp] theorem Dev.setPort_meters (d : Dev) (p : Nat) (x : PortSt) : (d.setPort p x).meters = d.meters := rfl
@[simp] theorem Dev.setPort_sampleRun (d : Dev) (p : Nat) (x : PortSt) : (d.setPort p x).sampleRun = d.sampleRun := rfl
@[simp] theorem Dev.setPort_threadMode (d : Dev) (p : Nat) (x : PortSt) : (d.setPort p x).threadMode = d.threadMode := rfl
@[simp] theorem Dev.setPort_modeBusy (d : Dev) (p : Nat) (x : PortSt) : (d.setPort p x).modeBusy = d.modeBusy := rfl
@[simp] theorem Dev.setPort_training (d : Dev) (p : Nat) (x : PortSt) : (d.setPort p x).training = d.training := rfl
@[simp] theorem Dev.setPort_rowCache (d : Dev) (p : Nat) (x : PortSt) : (d.setPort p x).rowCache = d.rowCache := rfl
@[simp] theorem Dev.setPort_rowLocks (d : Dev) (p : Nat) (x : PortSt) : (d.setPort p x).rowLocks = d.rowLocks := rfl
@[simp] theorem Dev.setPort_rowMoves (d : Dev) (p : Nat) (x : PortSt) : (d.setPort p x).rowMoves = d.rowMoves := rfl
@[simp] theorem Dev.setPort_switchQ (d : Dev) (p : Nat) (x : PortSt) : (d.setPort p x).switchQ = d.switchQ := rfl
@[simp] theorem Dev.setPort_embRound (d : Dev) (p : Nat) (x : PortSt) : (d.setPort p x).embRound = d.embRound := rfl
@[simp] theorem Dev.setPort_timetables (d : Dev) (p : Nat) (x : PortSt) : (d.setPort p x).timetables = d.timetables := rfl
@[simp] theorem Dev.setPort_searches (d : Dev) (p : Nat) (x : PortSt) : (d.setPort p x).searches = d.searches := rfl
@[simp] theorem Dev.setPort_held (d : Dev) (p : Nat) (x : PortSt) : (d.setPort p x).held = d.held := rfl
@[simp] theorem Dev.setPort_free (d : Dev) (p : Nat) (x : PortSt) : (d.setPort p x).free = d.free := rfl
@[simp] theorem Dev.setPort_out (d : Dev) (p : Nat) (x : PortSt) : (d.setPort p x).out = d.out := rfl

@[simp] theorem Dev.setSlot_part (d : Dev) (n : Nat) (x : SlotSt) : (d.setSlot n x).part = d.part := rfl
@[simp] theorem Dev.setSlot_regs (d : Dev) (n : Nat) (x : SlotSt) : (d.setSlot n x).regs = d.regs := rfl
@[simp] theorem Dev.setSlot_sels (d : Dev) (n : Nat) (x : SlotSt) : (d.setSlot n x).sels = d.sels := rfl
@[simp] theorem Dev.setSlot_latches (d : Dev) (n : Nat) (x : SlotSt) : (d.setSlot n x).latches = d.latches := rfl
@[simp] theorem Dev.setSlot_msix (d : Dev) (n : Nat) (x : SlotSt) : (d.setSlot n x).msix = d.msix := rfl
@[simp] theorem Dev.setSlot_pba (d : Dev) (n : Nat) (x : SlotSt) : (d.setSlot n x).pba = d.pba := rfl
@[simp] theorem Dev.setSlot_mem (d : Dev) (n : Nat) (x : SlotSt) : (d.setSlot n x).mem = d.mem := rfl
@[simp] theorem Dev.setSlot_pois (d : Dev) (n : Nat) (x : SlotSt) : (d.setSlot n x).pois = d.pois := rfl
@[simp] theorem Dev.setSlot_roots (d : Dev) (n : Nat) (x : SlotSt) : (d.setSlot n x).roots = d.roots := rfl
@[simp] theorem Dev.setSlot_rootBusy (d : Dev) (n : Nat) (x : SlotSt) : (d.setSlot n x).rootBusy = d.rootBusy := rfl
@[simp] theorem Dev.setSlot_mapLaid (d : Dev) (n : Nat) (x : SlotSt) : (d.setSlot n x).mapLaid = d.mapLaid := rfl
@[simp] theorem Dev.setSlot_tmap (d : Dev) (n : Nat) (x : SlotSt) : (d.setSlot n x).tmap = d.tmap := rfl
@[simp] theorem Dev.setSlot_remotes (d : Dev) (n : Nat) (x : SlotSt) : (d.setSlot n x).remotes = d.remotes := rfl
@[simp] theorem Dev.setSlot_precs (d : Dev) (n : Nat) (x : SlotSt) : (d.setSlot n x).precs = d.precs := rfl
@[simp] theorem Dev.setSlot_moves (d : Dev) (n : Nat) (x : SlotSt) : (d.setSlot n x).moves = d.moves := rfl
@[simp] theorem Dev.setSlot_openPend (d : Dev) (n : Nat) (x : SlotSt) : (d.setSlot n x).openPend = d.openPend := rfl
@[simp] theorem Dev.setSlot_demand (d : Dev) (n : Nat) (x : SlotSt) : (d.setSlot n x).demand = d.demand := rfl
@[simp] theorem Dev.setSlot_ageWindow (d : Dev) (n : Nat) (x : SlotSt) : (d.setSlot n x).ageWindow = d.ageWindow := rfl
@[simp] theorem Dev.setSlot_ageMs (d : Dev) (n : Nat) (x : SlotSt) : (d.setSlot n x).ageMs = d.ageMs := rfl
@[simp] theorem Dev.setSlot_victimStart (d : Dev) (n : Nat) (x : SlotSt) : (d.setSlot n x).victimStart = d.victimStart := rfl
@[simp] theorem Dev.setSlot_tierFull (d : Dev) (n : Nat) (x : SlotSt) : (d.setSlot n x).tierFull = d.tierFull := rfl
@[simp] theorem Dev.setSlot_leafAt (d : Dev) (n : Nat) (x : SlotSt) : (d.setSlot n x).leafAt = d.leafAt := rfl
@[simp] theorem Dev.setSlot_lostLeaves (d : Dev) (n : Nat) (x : SlotSt) : (d.setSlot n x).lostLeaves = d.lostLeaves := rfl
@[simp] theorem Dev.setSlot_leafWritten (d : Dev) (n : Nat) (x : SlotSt) : (d.setSlot n x).leafWritten = d.leafWritten := rfl
@[simp] theorem Dev.setSlot_wantRebuild (d : Dev) (n : Nat) (x : SlotSt) : (d.setSlot n x).wantRebuild = d.wantRebuild := rfl
@[simp] theorem Dev.setSlot_rootNew (d : Dev) (n : Nat) (x : SlotSt) : (d.setSlot n x).rootNew = d.rootNew := rfl
@[simp] theorem Dev.setSlot_evicting (d : Dev) (n : Nat) (x : SlotSt) : (d.setSlot n x).evicting = d.evicting := rfl
@[simp] theorem Dev.setSlot_wantPromo (d : Dev) (n : Nat) (x : SlotSt) : (d.setSlot n x).wantPromo = d.wantPromo := rfl
@[simp] theorem Dev.setSlot_wantDemote (d : Dev) (n : Nat) (x : SlotSt) : (d.setSlot n x).wantDemote = d.wantDemote := rfl
@[simp] theorem Dev.setSlot_promoWait (d : Dev) (n : Nat) (x : SlotSt) : (d.setSlot n x).promoWait = d.promoWait := rfl
@[simp] theorem Dev.setSlot_quota (d : Dev) (n : Nat) (x : SlotSt) : (d.setSlot n x).quota = d.quota := rfl
@[simp] theorem Dev.setSlot_seqCtr (d : Dev) (n : Nat) (x : SlotSt) : (d.setSlot n x).seqCtr = d.seqCtr := rfl
@[simp] theorem Dev.setSlot_hdm (d : Dev) (n : Nat) (x : SlotSt) : (d.setSlot n x).hdm = d.hdm := rfl
@[simp] theorem Dev.setSlot_activeLds (d : Dev) (n : Nat) (x : SlotSt) : (d.setSlot n x).activeLds = d.activeLds := rfl
@[simp] theorem Dev.setSlot_enabledFns (d : Dev) (n : Nat) (x : SlotSt) : (d.setSlot n x).enabledFns = d.enabledFns := rfl
@[simp] theorem Dev.setSlot_dir (d : Dev) (n : Nat) (x : SlotSt) : (d.setSlot n x).dir = d.dir := rfl
@[simp] theorem Dev.setSlot_dirRot (d : Dev) (n : Nat) (x : SlotSt) : (d.setSlot n x).dirRot = d.dirRot := rfl
@[simp] theorem Dev.setSlot_dirCache (d : Dev) (n : Nat) (x : SlotSt) : (d.setSlot n x).dirCache = d.dirCache := rfl
@[simp] theorem Dev.setSlot_refused (d : Dev) (n : Nat) (x : SlotSt) : (d.setSlot n x).refused = d.refused := rfl
@[simp] theorem Dev.setSlot_markCtr (d : Dev) (n : Nat) (x : SlotSt) : (d.setSlot n x).markCtr = d.markCtr := rfl
@[simp] theorem Dev.setSlot_waiting (d : Dev) (n : Nat) (x : SlotSt) : (d.setSlot n x).waiting = d.waiting := rfl
@[simp] theorem Dev.setSlot_unresp (d : Dev) (n : Nat) (x : SlotSt) : (d.setSlot n x).unresp = d.unresp := rfl
@[simp] theorem Dev.setSlot_sweep (d : Dev) (n : Nat) (x : SlotSt) : (d.setSlot n x).sweep = d.sweep := rfl
@[simp] theorem Dev.setSlot_timedOut (d : Dev) (n : Nat) (x : SlotSt) : (d.setSlot n x).timedOut = d.timedOut := rfl
@[simp] theorem Dev.setSlot_revs (d : Dev) (n : Nat) (x : SlotSt) : (d.setSlot n x).revs = d.revs := rfl
@[simp] theorem Dev.setSlot_raised (d : Dev) (n : Nat) (x : SlotSt) : (d.setSlot n x).raised = d.raised := rfl
@[simp] theorem Dev.setSlot_snoopDue (d : Dev) (n : Nat) (x : SlotSt) : (d.setSlot n x).snoopDue = d.snoopDue := rfl
@[simp] theorem Dev.setSlot_coWatch (d : Dev) (n : Nat) (x : SlotSt) : (d.setSlot n x).coWatch = d.coWatch := rfl
@[simp] theorem Dev.setSlot_polledLines (d : Dev) (n : Nat) (x : SlotSt) : (d.setSlot n x).polledLines = d.polledLines := rfl
@[simp] theorem Dev.setSlot_tlb (d : Dev) (n : Nat) (x : SlotSt) : (d.setSlot n x).tlb = d.tlb := rfl
@[simp] theorem Dev.setSlot_tptr (d : Dev) (n : Nat) (x : SlotSt) : (d.setSlot n x).tptr = d.tptr := rfl
@[simp] theorem Dev.setSlot_tlbSec (d : Dev) (n : Nat) (x : SlotSt) : (d.setSlot n x).tlbSec = d.tlbSec := rfl
@[simp] theorem Dev.setSlot_arb (d : Dev) (n : Nat) (x : SlotSt) : (d.setSlot n x).arb = d.arb := rfl
@[simp] theorem Dev.setSlot_bayTurn (d : Dev) (n : Nat) (x : SlotSt) : (d.setSlot n x).bayTurn = d.bayTurn := rfl
@[simp] theorem Dev.setSlot_ringOwed (d : Dev) (n : Nat) (x : SlotSt) : (d.setSlot n x).ringOwed = d.ringOwed := rfl
@[simp] theorem Dev.setSlot_invs (d : Dev) (n : Nat) (x : SlotSt) : (d.setSlot n x).invs = d.invs := rfl
@[simp] theorem Dev.setSlot_faults (d : Dev) (n : Nat) (x : SlotSt) : (d.setSlot n x).faults = d.faults := rfl
@[simp] theorem Dev.setSlot_areas (d : Dev) (n : Nat) (x : SlotSt) : (d.setSlot n x).areas = d.areas := rfl
@[simp] theorem Dev.setSlot_migrations (d : Dev) (n : Nat) (x : SlotSt) : (d.setSlot n x).migrations = d.migrations := rfl
@[simp] theorem Dev.setSlot_faultCtr (d : Dev) (n : Nat) (x : SlotSt) : (d.setSlot n x).faultCtr = d.faultCtr := rfl
@[simp] theorem Dev.setSlot_queues (d : Dev) (n : Nat) (x : SlotSt) : (d.setSlot n x).queues = d.queues := rfl
@[simp] theorem Dev.setSlot_ports (d : Dev) (n : Nat) (x : SlotSt) : (d.setSlot n x).ports = d.ports := rfl
@[simp] theorem Dev.setSlot_inbox (d : Dev) (n : Nat) (x : SlotSt) : (d.setSlot n x).inbox = d.inbox := rfl
@[simp] theorem Dev.setSlot_flowsOut (d : Dev) (n : Nat) (x : SlotSt) : (d.setSlot n x).flowsOut = d.flowsOut := rfl
@[simp] theorem Dev.setSlot_flowsIn (d : Dev) (n : Nat) (x : SlotSt) : (d.setSlot n x).flowsIn = d.flowsIn := rfl
@[simp] theorem Dev.setSlot_fabOut (d : Dev) (n : Nat) (x : SlotSt) : (d.setSlot n x).fabOut = d.fabOut := rfl
@[simp] theorem Dev.setSlot_fabIn (d : Dev) (n : Nat) (x : SlotSt) : (d.setSlot n x).fabIn = d.fabIn := rfl
@[simp] theorem Dev.setSlot_subs (d : Dev) (n : Nat) (x : SlotSt) : (d.setSlot n x).subs = d.subs := rfl
@[simp] theorem Dev.setSlot_parity (d : Dev) (n : Nat) (x : SlotSt) : (d.setSlot n x).parity = d.parity := rfl
@[simp] theorem Dev.setSlot_bringup (d : Dev) (n : Nat) (x : SlotSt) : (d.setSlot n x).bringup = d.bringup := rfl
@[simp] theorem Dev.setSlot_span (d : Dev) (n : Nat) (x : SlotSt) : (d.setSlot n x).span = d.span := rfl
@[simp] theorem Dev.setSlot_tagCtr (d : Dev) (n : Nat) (x : SlotSt) : (d.setSlot n x).tagCtr = d.tagCtr := rfl
@[simp] theorem Dev.setSlot_extents (d : Dev) (n : Nat) (x : SlotSt) : (d.setSlot n x).extents = d.extents := rfl
@[simp] theorem Dev.setSlot_lapseOk (d : Dev) (n : Nat) (x : SlotSt) : (d.setSlot n x).lapseOk = d.lapseOk := rfl
@[simp] theorem Dev.setSlot_found (d : Dev) (n : Nat) (x : SlotSt) : (d.setSlot n x).found = d.found := rfl
@[simp] theorem Dev.setSlot_smpWin (d : Dev) (n : Nat) (x : SlotSt) : (d.setSlot n x).smpWin = d.smpWin := rfl
@[simp] theorem Dev.setSlot_leases (d : Dev) (n : Nat) (x : SlotSt) : (d.setSlot n x).leases = d.leases := rfl
@[simp] theorem Dev.setSlot_membs (d : Dev) (n : Nat) (x : SlotSt) : (d.setSlot n x).membs = d.membs := rfl
@[simp] theorem Dev.setSlot_egWords (d : Dev) (n : Nat) (x : SlotSt) : (d.setSlot n x).egWords = d.egWords := rfl
@[simp] theorem Dev.setSlot_egs (d : Dev) (n : Nat) (x : SlotSt) : (d.setSlot n x).egs = d.egs := rfl
@[simp] theorem Dev.setSlot_grants (d : Dev) (n : Nat) (x : SlotSt) : (d.setSlot n x).grants = d.grants := rfl
@[simp] theorem Dev.setSlot_xfers (d : Dev) (n : Nat) (x : SlotSt) : (d.setSlot n x).xfers = d.xfers := rfl
@[simp] theorem Dev.setSlot_slots (d : Dev) (n : Nat) (x : SlotSt) : (d.setSlot n x).slots = smPut SlotSt.empty n x d.slots := rfl
@[simp] theorem Dev.setSlot_deny (d : Dev) (n : Nat) (x : SlotSt) : (d.setSlot n x).deny = d.deny := rfl
@[simp] theorem Dev.setSlot_impDone (d : Dev) (n : Nat) (x : SlotSt) : (d.setSlot n x).impDone = d.impDone := rfl
@[simp] theorem Dev.setSlot_impSkip (d : Dev) (n : Nat) (x : SlotSt) : (d.setSlot n x).impSkip = d.impSkip := rfl
@[simp] theorem Dev.setSlot_scores (d : Dev) (n : Nat) (x : SlotSt) : (d.setSlot n x).scores = d.scores := rfl
@[simp] theorem Dev.setSlot_fencedBays (d : Dev) (n : Nat) (x : SlotSt) : (d.setSlot n x).fencedBays = d.fencedBays := rfl
@[simp] theorem Dev.setSlot_fencedScan (d : Dev) (n : Nat) (x : SlotSt) : (d.setSlot n x).fencedScan = d.fencedScan := rfl
@[simp] theorem Dev.setSlot_fencedPorts (d : Dev) (n : Nat) (x : SlotSt) : (d.setSlot n x).fencedPorts = d.fencedPorts := rfl
@[simp] theorem Dev.setSlot_retiredCh (d : Dev) (n : Nat) (x : SlotSt) : (d.setSlot n x).retiredCh = d.retiredCh := rfl
@[simp] theorem Dev.setSlot_retiring (d : Dev) (n : Nat) (x : SlotSt) : (d.setSlot n x).retiring = d.retiring := rfl
@[simp] theorem Dev.setSlot_retiredDies (d : Dev) (n : Nat) (x : SlotSt) : (d.setSlot n x).retiredDies = d.retiredDies := rfl
@[simp] theorem Dev.setSlot_calNor (d : Dev) (n : Nat) (x : SlotSt) : (d.setSlot n x).calNor = d.calNor := rfl
@[simp] theorem Dev.setSlot_calPending (d : Dev) (n : Nat) (x : SlotSt) : (d.setSlot n x).calPending = d.calPending := rfl
@[simp] theorem Dev.setSlot_calSched (d : Dev) (n : Nat) (x : SlotSt) : (d.setSlot n x).calSched = d.calSched := rfl
@[simp] theorem Dev.setSlot_vloop (d : Dev) (n : Nat) (x : SlotSt) : (d.setSlot n x).vloop = d.vloop := rfl
@[simp] theorem Dev.setSlot_power (d : Dev) (n : Nat) (x : SlotSt) : (d.setSlot n x).power = d.power := rfl
@[simp] theorem Dev.setSlot_pins (d : Dev) (n : Nat) (x : SlotSt) : (d.setSlot n x).pins = d.pins := rfl
@[simp] theorem Dev.setSlot_fw (d : Dev) (n : Nat) (x : SlotSt) : (d.setSlot n x).fw = d.fw := rfl
@[simp] theorem Dev.setSlot_ticks (d : Dev) (n : Nat) (x : SlotSt) : (d.setSlot n x).ticks = d.ticks := rfl
@[simp] theorem Dev.setSlot_opTicks (d : Dev) (n : Nat) (x : SlotSt) : (d.setSlot n x).opTicks = d.opTicks := rfl
@[simp] theorem Dev.setSlot_pcc (d : Dev) (n : Nat) (x : SlotSt) : (d.setSlot n x).pcc = d.pcc := rfl
@[simp] theorem Dev.setSlot_recorder (d : Dev) (n : Nat) (x : SlotSt) : (d.setSlot n x).recorder = d.recorder := rfl
@[simp] theorem Dev.setSlot_meters (d : Dev) (n : Nat) (x : SlotSt) : (d.setSlot n x).meters = d.meters := rfl
@[simp] theorem Dev.setSlot_sampleRun (d : Dev) (n : Nat) (x : SlotSt) : (d.setSlot n x).sampleRun = d.sampleRun := rfl
@[simp] theorem Dev.setSlot_threadMode (d : Dev) (n : Nat) (x : SlotSt) : (d.setSlot n x).threadMode = d.threadMode := rfl
@[simp] theorem Dev.setSlot_modeBusy (d : Dev) (n : Nat) (x : SlotSt) : (d.setSlot n x).modeBusy = d.modeBusy := rfl
@[simp] theorem Dev.setSlot_training (d : Dev) (n : Nat) (x : SlotSt) : (d.setSlot n x).training = d.training := rfl
@[simp] theorem Dev.setSlot_rowCache (d : Dev) (n : Nat) (x : SlotSt) : (d.setSlot n x).rowCache = d.rowCache := rfl
@[simp] theorem Dev.setSlot_rowLocks (d : Dev) (n : Nat) (x : SlotSt) : (d.setSlot n x).rowLocks = d.rowLocks := rfl
@[simp] theorem Dev.setSlot_rowMoves (d : Dev) (n : Nat) (x : SlotSt) : (d.setSlot n x).rowMoves = d.rowMoves := rfl
@[simp] theorem Dev.setSlot_switchQ (d : Dev) (n : Nat) (x : SlotSt) : (d.setSlot n x).switchQ = d.switchQ := rfl
@[simp] theorem Dev.setSlot_embRound (d : Dev) (n : Nat) (x : SlotSt) : (d.setSlot n x).embRound = d.embRound := rfl
@[simp] theorem Dev.setSlot_timetables (d : Dev) (n : Nat) (x : SlotSt) : (d.setSlot n x).timetables = d.timetables := rfl
@[simp] theorem Dev.setSlot_searches (d : Dev) (n : Nat) (x : SlotSt) : (d.setSlot n x).searches = d.searches := rfl
@[simp] theorem Dev.setSlot_held (d : Dev) (n : Nat) (x : SlotSt) : (d.setSlot n x).held = d.held := rfl
@[simp] theorem Dev.setSlot_free (d : Dev) (n : Nat) (x : SlotSt) : (d.setSlot n x).free = d.free := rfl
@[simp] theorem Dev.setSlot_out (d : Dev) (n : Nat) (x : SlotSt) : (d.setSlot n x).out = d.out := rfl

@[simp] theorem Dev.send_part (d : Dev) (o : Out) : (d.send o).part = d.part := rfl
@[simp] theorem Dev.send_regs (d : Dev) (o : Out) : (d.send o).regs = d.regs := rfl
@[simp] theorem Dev.send_sels (d : Dev) (o : Out) : (d.send o).sels = d.sels := rfl
@[simp] theorem Dev.send_latches (d : Dev) (o : Out) : (d.send o).latches = d.latches := rfl
@[simp] theorem Dev.send_msix (d : Dev) (o : Out) : (d.send o).msix = d.msix := rfl
@[simp] theorem Dev.send_pba (d : Dev) (o : Out) : (d.send o).pba = d.pba := rfl
@[simp] theorem Dev.send_mem (d : Dev) (o : Out) : (d.send o).mem = d.mem := rfl
@[simp] theorem Dev.send_pois (d : Dev) (o : Out) : (d.send o).pois = d.pois := rfl
@[simp] theorem Dev.send_roots (d : Dev) (o : Out) : (d.send o).roots = d.roots := rfl
@[simp] theorem Dev.send_rootBusy (d : Dev) (o : Out) : (d.send o).rootBusy = d.rootBusy := rfl
@[simp] theorem Dev.send_mapLaid (d : Dev) (o : Out) : (d.send o).mapLaid = d.mapLaid := rfl
@[simp] theorem Dev.send_tmap (d : Dev) (o : Out) : (d.send o).tmap = d.tmap := rfl
@[simp] theorem Dev.send_remotes (d : Dev) (o : Out) : (d.send o).remotes = d.remotes := rfl
@[simp] theorem Dev.send_precs (d : Dev) (o : Out) : (d.send o).precs = d.precs := rfl
@[simp] theorem Dev.send_moves (d : Dev) (o : Out) : (d.send o).moves = d.moves := rfl
@[simp] theorem Dev.send_openPend (d : Dev) (o : Out) : (d.send o).openPend = d.openPend := rfl
@[simp] theorem Dev.send_demand (d : Dev) (o : Out) : (d.send o).demand = d.demand := rfl
@[simp] theorem Dev.send_ageWindow (d : Dev) (o : Out) : (d.send o).ageWindow = d.ageWindow := rfl
@[simp] theorem Dev.send_ageMs (d : Dev) (o : Out) : (d.send o).ageMs = d.ageMs := rfl
@[simp] theorem Dev.send_victimStart (d : Dev) (o : Out) : (d.send o).victimStart = d.victimStart := rfl
@[simp] theorem Dev.send_tierFull (d : Dev) (o : Out) : (d.send o).tierFull = d.tierFull := rfl
@[simp] theorem Dev.send_leafAt (d : Dev) (o : Out) : (d.send o).leafAt = d.leafAt := rfl
@[simp] theorem Dev.send_lostLeaves (d : Dev) (o : Out) : (d.send o).lostLeaves = d.lostLeaves := rfl
@[simp] theorem Dev.send_leafWritten (d : Dev) (o : Out) : (d.send o).leafWritten = d.leafWritten := rfl
@[simp] theorem Dev.send_wantRebuild (d : Dev) (o : Out) : (d.send o).wantRebuild = d.wantRebuild := rfl
@[simp] theorem Dev.send_rootNew (d : Dev) (o : Out) : (d.send o).rootNew = d.rootNew := rfl
@[simp] theorem Dev.send_evicting (d : Dev) (o : Out) : (d.send o).evicting = d.evicting := rfl
@[simp] theorem Dev.send_wantPromo (d : Dev) (o : Out) : (d.send o).wantPromo = d.wantPromo := rfl
@[simp] theorem Dev.send_wantDemote (d : Dev) (o : Out) : (d.send o).wantDemote = d.wantDemote := rfl
@[simp] theorem Dev.send_promoWait (d : Dev) (o : Out) : (d.send o).promoWait = d.promoWait := rfl
@[simp] theorem Dev.send_quota (d : Dev) (o : Out) : (d.send o).quota = d.quota := rfl
@[simp] theorem Dev.send_seqCtr (d : Dev) (o : Out) : (d.send o).seqCtr = d.seqCtr := rfl
@[simp] theorem Dev.send_hdm (d : Dev) (o : Out) : (d.send o).hdm = d.hdm := rfl
@[simp] theorem Dev.send_activeLds (d : Dev) (o : Out) : (d.send o).activeLds = d.activeLds := rfl
@[simp] theorem Dev.send_enabledFns (d : Dev) (o : Out) : (d.send o).enabledFns = d.enabledFns := rfl
@[simp] theorem Dev.send_dir (d : Dev) (o : Out) : (d.send o).dir = d.dir := rfl
@[simp] theorem Dev.send_dirRot (d : Dev) (o : Out) : (d.send o).dirRot = d.dirRot := rfl
@[simp] theorem Dev.send_dirCache (d : Dev) (o : Out) : (d.send o).dirCache = d.dirCache := rfl
@[simp] theorem Dev.send_refused (d : Dev) (o : Out) : (d.send o).refused = d.refused := rfl
@[simp] theorem Dev.send_markCtr (d : Dev) (o : Out) : (d.send o).markCtr = d.markCtr := rfl
@[simp] theorem Dev.send_waiting (d : Dev) (o : Out) : (d.send o).waiting = d.waiting := rfl
@[simp] theorem Dev.send_unresp (d : Dev) (o : Out) : (d.send o).unresp = d.unresp := rfl
@[simp] theorem Dev.send_sweep (d : Dev) (o : Out) : (d.send o).sweep = d.sweep := rfl
@[simp] theorem Dev.send_timedOut (d : Dev) (o : Out) : (d.send o).timedOut = d.timedOut := rfl
@[simp] theorem Dev.send_revs (d : Dev) (o : Out) : (d.send o).revs = d.revs := rfl
@[simp] theorem Dev.send_raised (d : Dev) (o : Out) : (d.send o).raised = d.raised := rfl
@[simp] theorem Dev.send_snoopDue (d : Dev) (o : Out) : (d.send o).snoopDue = d.snoopDue := rfl
@[simp] theorem Dev.send_coWatch (d : Dev) (o : Out) : (d.send o).coWatch = d.coWatch := rfl
@[simp] theorem Dev.send_polledLines (d : Dev) (o : Out) : (d.send o).polledLines = d.polledLines := rfl
@[simp] theorem Dev.send_tlb (d : Dev) (o : Out) : (d.send o).tlb = d.tlb := rfl
@[simp] theorem Dev.send_tptr (d : Dev) (o : Out) : (d.send o).tptr = d.tptr := rfl
@[simp] theorem Dev.send_tlbSec (d : Dev) (o : Out) : (d.send o).tlbSec = d.tlbSec := rfl
@[simp] theorem Dev.send_arb (d : Dev) (o : Out) : (d.send o).arb = d.arb := rfl
@[simp] theorem Dev.send_bayTurn (d : Dev) (o : Out) : (d.send o).bayTurn = d.bayTurn := rfl
@[simp] theorem Dev.send_ringOwed (d : Dev) (o : Out) : (d.send o).ringOwed = d.ringOwed := rfl
@[simp] theorem Dev.send_invs (d : Dev) (o : Out) : (d.send o).invs = d.invs := rfl
@[simp] theorem Dev.send_faults (d : Dev) (o : Out) : (d.send o).faults = d.faults := rfl
@[simp] theorem Dev.send_areas (d : Dev) (o : Out) : (d.send o).areas = d.areas := rfl
@[simp] theorem Dev.send_migrations (d : Dev) (o : Out) : (d.send o).migrations = d.migrations := rfl
@[simp] theorem Dev.send_faultCtr (d : Dev) (o : Out) : (d.send o).faultCtr = d.faultCtr := rfl
@[simp] theorem Dev.send_queues (d : Dev) (o : Out) : (d.send o).queues = d.queues := rfl
@[simp] theorem Dev.send_ports (d : Dev) (o : Out) : (d.send o).ports = d.ports := rfl
@[simp] theorem Dev.send_inbox (d : Dev) (o : Out) : (d.send o).inbox = d.inbox := rfl
@[simp] theorem Dev.send_flowsOut (d : Dev) (o : Out) : (d.send o).flowsOut = d.flowsOut := rfl
@[simp] theorem Dev.send_flowsIn (d : Dev) (o : Out) : (d.send o).flowsIn = d.flowsIn := rfl
@[simp] theorem Dev.send_fabOut (d : Dev) (o : Out) : (d.send o).fabOut = d.fabOut := rfl
@[simp] theorem Dev.send_fabIn (d : Dev) (o : Out) : (d.send o).fabIn = d.fabIn := rfl
@[simp] theorem Dev.send_subs (d : Dev) (o : Out) : (d.send o).subs = d.subs := rfl
@[simp] theorem Dev.send_parity (d : Dev) (o : Out) : (d.send o).parity = d.parity := rfl
@[simp] theorem Dev.send_bringup (d : Dev) (o : Out) : (d.send o).bringup = d.bringup := rfl
@[simp] theorem Dev.send_span (d : Dev) (o : Out) : (d.send o).span = d.span := rfl
@[simp] theorem Dev.send_tagCtr (d : Dev) (o : Out) : (d.send o).tagCtr = d.tagCtr := rfl
@[simp] theorem Dev.send_extents (d : Dev) (o : Out) : (d.send o).extents = d.extents := rfl
@[simp] theorem Dev.send_lapseOk (d : Dev) (o : Out) : (d.send o).lapseOk = d.lapseOk := rfl
@[simp] theorem Dev.send_found (d : Dev) (o : Out) : (d.send o).found = d.found := rfl
@[simp] theorem Dev.send_smpWin (d : Dev) (o : Out) : (d.send o).smpWin = d.smpWin := rfl
@[simp] theorem Dev.send_leases (d : Dev) (o : Out) : (d.send o).leases = d.leases := rfl
@[simp] theorem Dev.send_membs (d : Dev) (o : Out) : (d.send o).membs = d.membs := rfl
@[simp] theorem Dev.send_egWords (d : Dev) (o : Out) : (d.send o).egWords = d.egWords := rfl
@[simp] theorem Dev.send_egs (d : Dev) (o : Out) : (d.send o).egs = d.egs := rfl
@[simp] theorem Dev.send_grants (d : Dev) (o : Out) : (d.send o).grants = d.grants := rfl
@[simp] theorem Dev.send_xfers (d : Dev) (o : Out) : (d.send o).xfers = d.xfers := rfl
@[simp] theorem Dev.send_slots (d : Dev) (o : Out) : (d.send o).slots = d.slots := rfl
@[simp] theorem Dev.send_deny (d : Dev) (o : Out) : (d.send o).deny = d.deny := rfl
@[simp] theorem Dev.send_impDone (d : Dev) (o : Out) : (d.send o).impDone = d.impDone := rfl
@[simp] theorem Dev.send_impSkip (d : Dev) (o : Out) : (d.send o).impSkip = d.impSkip := rfl
@[simp] theorem Dev.send_scores (d : Dev) (o : Out) : (d.send o).scores = d.scores := rfl
@[simp] theorem Dev.send_fencedBays (d : Dev) (o : Out) : (d.send o).fencedBays = d.fencedBays := rfl
@[simp] theorem Dev.send_fencedScan (d : Dev) (o : Out) : (d.send o).fencedScan = d.fencedScan := rfl
@[simp] theorem Dev.send_fencedPorts (d : Dev) (o : Out) : (d.send o).fencedPorts = d.fencedPorts := rfl
@[simp] theorem Dev.send_retiredCh (d : Dev) (o : Out) : (d.send o).retiredCh = d.retiredCh := rfl
@[simp] theorem Dev.send_retiring (d : Dev) (o : Out) : (d.send o).retiring = d.retiring := rfl
@[simp] theorem Dev.send_retiredDies (d : Dev) (o : Out) : (d.send o).retiredDies = d.retiredDies := rfl
@[simp] theorem Dev.send_calNor (d : Dev) (o : Out) : (d.send o).calNor = d.calNor := rfl
@[simp] theorem Dev.send_calPending (d : Dev) (o : Out) : (d.send o).calPending = d.calPending := rfl
@[simp] theorem Dev.send_calSched (d : Dev) (o : Out) : (d.send o).calSched = d.calSched := rfl
@[simp] theorem Dev.send_vloop (d : Dev) (o : Out) : (d.send o).vloop = d.vloop := rfl
@[simp] theorem Dev.send_power (d : Dev) (o : Out) : (d.send o).power = d.power := rfl
@[simp] theorem Dev.send_pins (d : Dev) (o : Out) : (d.send o).pins = d.pins := rfl
@[simp] theorem Dev.send_fw (d : Dev) (o : Out) : (d.send o).fw = d.fw := rfl
@[simp] theorem Dev.send_ticks (d : Dev) (o : Out) : (d.send o).ticks = d.ticks := rfl
@[simp] theorem Dev.send_opTicks (d : Dev) (o : Out) : (d.send o).opTicks = d.opTicks := rfl
@[simp] theorem Dev.send_pcc (d : Dev) (o : Out) : (d.send o).pcc = d.pcc := rfl
@[simp] theorem Dev.send_recorder (d : Dev) (o : Out) : (d.send o).recorder = d.recorder := rfl
@[simp] theorem Dev.send_meters (d : Dev) (o : Out) : (d.send o).meters = d.meters := rfl
@[simp] theorem Dev.send_sampleRun (d : Dev) (o : Out) : (d.send o).sampleRun = d.sampleRun := rfl
@[simp] theorem Dev.send_threadMode (d : Dev) (o : Out) : (d.send o).threadMode = d.threadMode := rfl
@[simp] theorem Dev.send_modeBusy (d : Dev) (o : Out) : (d.send o).modeBusy = d.modeBusy := rfl
@[simp] theorem Dev.send_training (d : Dev) (o : Out) : (d.send o).training = d.training := rfl
@[simp] theorem Dev.send_rowCache (d : Dev) (o : Out) : (d.send o).rowCache = d.rowCache := rfl
@[simp] theorem Dev.send_rowLocks (d : Dev) (o : Out) : (d.send o).rowLocks = d.rowLocks := rfl
@[simp] theorem Dev.send_rowMoves (d : Dev) (o : Out) : (d.send o).rowMoves = d.rowMoves := rfl
@[simp] theorem Dev.send_switchQ (d : Dev) (o : Out) : (d.send o).switchQ = d.switchQ := rfl
@[simp] theorem Dev.send_embRound (d : Dev) (o : Out) : (d.send o).embRound = d.embRound := rfl
@[simp] theorem Dev.send_timetables (d : Dev) (o : Out) : (d.send o).timetables = d.timetables := rfl
@[simp] theorem Dev.send_searches (d : Dev) (o : Out) : (d.send o).searches = d.searches := rfl
@[simp] theorem Dev.send_held (d : Dev) (o : Out) : (d.send o).held = d.held := rfl
@[simp] theorem Dev.send_free (d : Dev) (o : Out) : (d.send o).free = d.free := rfl
@[simp] theorem Dev.send_out (d : Dev) (o : Out) : (d.send o).out = o :: d.out := rfl

@[simp] theorem Dev.modFw_part (d : Dev) (g : FwState → FwState) : (d.modFw g).part = d.part := rfl
@[simp] theorem Dev.modFw_regs (d : Dev) (g : FwState → FwState) : (d.modFw g).regs = d.regs := rfl
@[simp] theorem Dev.modFw_sels (d : Dev) (g : FwState → FwState) : (d.modFw g).sels = d.sels := rfl
@[simp] theorem Dev.modFw_latches (d : Dev) (g : FwState → FwState) : (d.modFw g).latches = d.latches := rfl
@[simp] theorem Dev.modFw_msix (d : Dev) (g : FwState → FwState) : (d.modFw g).msix = d.msix := rfl
@[simp] theorem Dev.modFw_pba (d : Dev) (g : FwState → FwState) : (d.modFw g).pba = d.pba := rfl
@[simp] theorem Dev.modFw_mem (d : Dev) (g : FwState → FwState) : (d.modFw g).mem = d.mem := rfl
@[simp] theorem Dev.modFw_pois (d : Dev) (g : FwState → FwState) : (d.modFw g).pois = d.pois := rfl
@[simp] theorem Dev.modFw_roots (d : Dev) (g : FwState → FwState) : (d.modFw g).roots = d.roots := rfl
@[simp] theorem Dev.modFw_rootBusy (d : Dev) (g : FwState → FwState) : (d.modFw g).rootBusy = d.rootBusy := rfl
@[simp] theorem Dev.modFw_mapLaid (d : Dev) (g : FwState → FwState) : (d.modFw g).mapLaid = d.mapLaid := rfl
@[simp] theorem Dev.modFw_tmap (d : Dev) (g : FwState → FwState) : (d.modFw g).tmap = d.tmap := rfl
@[simp] theorem Dev.modFw_remotes (d : Dev) (g : FwState → FwState) : (d.modFw g).remotes = d.remotes := rfl
@[simp] theorem Dev.modFw_precs (d : Dev) (g : FwState → FwState) : (d.modFw g).precs = d.precs := rfl
@[simp] theorem Dev.modFw_moves (d : Dev) (g : FwState → FwState) : (d.modFw g).moves = d.moves := rfl
@[simp] theorem Dev.modFw_openPend (d : Dev) (g : FwState → FwState) : (d.modFw g).openPend = d.openPend := rfl
@[simp] theorem Dev.modFw_demand (d : Dev) (g : FwState → FwState) : (d.modFw g).demand = d.demand := rfl
@[simp] theorem Dev.modFw_ageWindow (d : Dev) (g : FwState → FwState) : (d.modFw g).ageWindow = d.ageWindow := rfl
@[simp] theorem Dev.modFw_ageMs (d : Dev) (g : FwState → FwState) : (d.modFw g).ageMs = d.ageMs := rfl
@[simp] theorem Dev.modFw_victimStart (d : Dev) (g : FwState → FwState) : (d.modFw g).victimStart = d.victimStart := rfl
@[simp] theorem Dev.modFw_tierFull (d : Dev) (g : FwState → FwState) : (d.modFw g).tierFull = d.tierFull := rfl
@[simp] theorem Dev.modFw_leafAt (d : Dev) (g : FwState → FwState) : (d.modFw g).leafAt = d.leafAt := rfl
@[simp] theorem Dev.modFw_lostLeaves (d : Dev) (g : FwState → FwState) : (d.modFw g).lostLeaves = d.lostLeaves := rfl
@[simp] theorem Dev.modFw_leafWritten (d : Dev) (g : FwState → FwState) : (d.modFw g).leafWritten = d.leafWritten := rfl
@[simp] theorem Dev.modFw_wantRebuild (d : Dev) (g : FwState → FwState) : (d.modFw g).wantRebuild = d.wantRebuild := rfl
@[simp] theorem Dev.modFw_rootNew (d : Dev) (g : FwState → FwState) : (d.modFw g).rootNew = d.rootNew := rfl
@[simp] theorem Dev.modFw_evicting (d : Dev) (g : FwState → FwState) : (d.modFw g).evicting = d.evicting := rfl
@[simp] theorem Dev.modFw_wantPromo (d : Dev) (g : FwState → FwState) : (d.modFw g).wantPromo = d.wantPromo := rfl
@[simp] theorem Dev.modFw_wantDemote (d : Dev) (g : FwState → FwState) : (d.modFw g).wantDemote = d.wantDemote := rfl
@[simp] theorem Dev.modFw_promoWait (d : Dev) (g : FwState → FwState) : (d.modFw g).promoWait = d.promoWait := rfl
@[simp] theorem Dev.modFw_quota (d : Dev) (g : FwState → FwState) : (d.modFw g).quota = d.quota := rfl
@[simp] theorem Dev.modFw_seqCtr (d : Dev) (g : FwState → FwState) : (d.modFw g).seqCtr = d.seqCtr := rfl
@[simp] theorem Dev.modFw_hdm (d : Dev) (g : FwState → FwState) : (d.modFw g).hdm = d.hdm := rfl
@[simp] theorem Dev.modFw_activeLds (d : Dev) (g : FwState → FwState) : (d.modFw g).activeLds = d.activeLds := rfl
@[simp] theorem Dev.modFw_enabledFns (d : Dev) (g : FwState → FwState) : (d.modFw g).enabledFns = d.enabledFns := rfl
@[simp] theorem Dev.modFw_dir (d : Dev) (g : FwState → FwState) : (d.modFw g).dir = d.dir := rfl
@[simp] theorem Dev.modFw_dirRot (d : Dev) (g : FwState → FwState) : (d.modFw g).dirRot = d.dirRot := rfl
@[simp] theorem Dev.modFw_dirCache (d : Dev) (g : FwState → FwState) : (d.modFw g).dirCache = d.dirCache := rfl
@[simp] theorem Dev.modFw_refused (d : Dev) (g : FwState → FwState) : (d.modFw g).refused = d.refused := rfl
@[simp] theorem Dev.modFw_markCtr (d : Dev) (g : FwState → FwState) : (d.modFw g).markCtr = d.markCtr := rfl
@[simp] theorem Dev.modFw_waiting (d : Dev) (g : FwState → FwState) : (d.modFw g).waiting = d.waiting := rfl
@[simp] theorem Dev.modFw_unresp (d : Dev) (g : FwState → FwState) : (d.modFw g).unresp = d.unresp := rfl
@[simp] theorem Dev.modFw_sweep (d : Dev) (g : FwState → FwState) : (d.modFw g).sweep = d.sweep := rfl
@[simp] theorem Dev.modFw_timedOut (d : Dev) (g : FwState → FwState) : (d.modFw g).timedOut = d.timedOut := rfl
@[simp] theorem Dev.modFw_revs (d : Dev) (g : FwState → FwState) : (d.modFw g).revs = d.revs := rfl
@[simp] theorem Dev.modFw_raised (d : Dev) (g : FwState → FwState) : (d.modFw g).raised = d.raised := rfl
@[simp] theorem Dev.modFw_snoopDue (d : Dev) (g : FwState → FwState) : (d.modFw g).snoopDue = d.snoopDue := rfl
@[simp] theorem Dev.modFw_coWatch (d : Dev) (g : FwState → FwState) : (d.modFw g).coWatch = d.coWatch := rfl
@[simp] theorem Dev.modFw_polledLines (d : Dev) (g : FwState → FwState) : (d.modFw g).polledLines = d.polledLines := rfl
@[simp] theorem Dev.modFw_tlb (d : Dev) (g : FwState → FwState) : (d.modFw g).tlb = d.tlb := rfl
@[simp] theorem Dev.modFw_tptr (d : Dev) (g : FwState → FwState) : (d.modFw g).tptr = d.tptr := rfl
@[simp] theorem Dev.modFw_tlbSec (d : Dev) (g : FwState → FwState) : (d.modFw g).tlbSec = d.tlbSec := rfl
@[simp] theorem Dev.modFw_arb (d : Dev) (g : FwState → FwState) : (d.modFw g).arb = d.arb := rfl
@[simp] theorem Dev.modFw_bayTurn (d : Dev) (g : FwState → FwState) : (d.modFw g).bayTurn = d.bayTurn := rfl
@[simp] theorem Dev.modFw_ringOwed (d : Dev) (g : FwState → FwState) : (d.modFw g).ringOwed = d.ringOwed := rfl
@[simp] theorem Dev.modFw_invs (d : Dev) (g : FwState → FwState) : (d.modFw g).invs = d.invs := rfl
@[simp] theorem Dev.modFw_faults (d : Dev) (g : FwState → FwState) : (d.modFw g).faults = d.faults := rfl
@[simp] theorem Dev.modFw_areas (d : Dev) (g : FwState → FwState) : (d.modFw g).areas = d.areas := rfl
@[simp] theorem Dev.modFw_migrations (d : Dev) (g : FwState → FwState) : (d.modFw g).migrations = d.migrations := rfl
@[simp] theorem Dev.modFw_faultCtr (d : Dev) (g : FwState → FwState) : (d.modFw g).faultCtr = d.faultCtr := rfl
@[simp] theorem Dev.modFw_queues (d : Dev) (g : FwState → FwState) : (d.modFw g).queues = d.queues := rfl
@[simp] theorem Dev.modFw_ports (d : Dev) (g : FwState → FwState) : (d.modFw g).ports = d.ports := rfl
@[simp] theorem Dev.modFw_inbox (d : Dev) (g : FwState → FwState) : (d.modFw g).inbox = d.inbox := rfl
@[simp] theorem Dev.modFw_flowsOut (d : Dev) (g : FwState → FwState) : (d.modFw g).flowsOut = d.flowsOut := rfl
@[simp] theorem Dev.modFw_flowsIn (d : Dev) (g : FwState → FwState) : (d.modFw g).flowsIn = d.flowsIn := rfl
@[simp] theorem Dev.modFw_fabOut (d : Dev) (g : FwState → FwState) : (d.modFw g).fabOut = d.fabOut := rfl
@[simp] theorem Dev.modFw_fabIn (d : Dev) (g : FwState → FwState) : (d.modFw g).fabIn = d.fabIn := rfl
@[simp] theorem Dev.modFw_subs (d : Dev) (g : FwState → FwState) : (d.modFw g).subs = d.subs := rfl
@[simp] theorem Dev.modFw_parity (d : Dev) (g : FwState → FwState) : (d.modFw g).parity = d.parity := rfl
@[simp] theorem Dev.modFw_bringup (d : Dev) (g : FwState → FwState) : (d.modFw g).bringup = d.bringup := rfl
@[simp] theorem Dev.modFw_span (d : Dev) (g : FwState → FwState) : (d.modFw g).span = d.span := rfl
@[simp] theorem Dev.modFw_tagCtr (d : Dev) (g : FwState → FwState) : (d.modFw g).tagCtr = d.tagCtr := rfl
@[simp] theorem Dev.modFw_extents (d : Dev) (g : FwState → FwState) : (d.modFw g).extents = d.extents := rfl
@[simp] theorem Dev.modFw_lapseOk (d : Dev) (g : FwState → FwState) : (d.modFw g).lapseOk = d.lapseOk := rfl
@[simp] theorem Dev.modFw_found (d : Dev) (g : FwState → FwState) : (d.modFw g).found = d.found := rfl
@[simp] theorem Dev.modFw_smpWin (d : Dev) (g : FwState → FwState) : (d.modFw g).smpWin = d.smpWin := rfl
@[simp] theorem Dev.modFw_leases (d : Dev) (g : FwState → FwState) : (d.modFw g).leases = d.leases := rfl
@[simp] theorem Dev.modFw_membs (d : Dev) (g : FwState → FwState) : (d.modFw g).membs = d.membs := rfl
@[simp] theorem Dev.modFw_egWords (d : Dev) (g : FwState → FwState) : (d.modFw g).egWords = d.egWords := rfl
@[simp] theorem Dev.modFw_egs (d : Dev) (g : FwState → FwState) : (d.modFw g).egs = d.egs := rfl
@[simp] theorem Dev.modFw_grants (d : Dev) (g : FwState → FwState) : (d.modFw g).grants = d.grants := rfl
@[simp] theorem Dev.modFw_xfers (d : Dev) (g : FwState → FwState) : (d.modFw g).xfers = d.xfers := rfl
@[simp] theorem Dev.modFw_slots (d : Dev) (g : FwState → FwState) : (d.modFw g).slots = d.slots := rfl
@[simp] theorem Dev.modFw_deny (d : Dev) (g : FwState → FwState) : (d.modFw g).deny = d.deny := rfl
@[simp] theorem Dev.modFw_impDone (d : Dev) (g : FwState → FwState) : (d.modFw g).impDone = d.impDone := rfl
@[simp] theorem Dev.modFw_impSkip (d : Dev) (g : FwState → FwState) : (d.modFw g).impSkip = d.impSkip := rfl
@[simp] theorem Dev.modFw_scores (d : Dev) (g : FwState → FwState) : (d.modFw g).scores = d.scores := rfl
@[simp] theorem Dev.modFw_fencedBays (d : Dev) (g : FwState → FwState) : (d.modFw g).fencedBays = d.fencedBays := rfl
@[simp] theorem Dev.modFw_fencedScan (d : Dev) (g : FwState → FwState) : (d.modFw g).fencedScan = d.fencedScan := rfl
@[simp] theorem Dev.modFw_fencedPorts (d : Dev) (g : FwState → FwState) : (d.modFw g).fencedPorts = d.fencedPorts := rfl
@[simp] theorem Dev.modFw_retiredCh (d : Dev) (g : FwState → FwState) : (d.modFw g).retiredCh = d.retiredCh := rfl
@[simp] theorem Dev.modFw_retiring (d : Dev) (g : FwState → FwState) : (d.modFw g).retiring = d.retiring := rfl
@[simp] theorem Dev.modFw_retiredDies (d : Dev) (g : FwState → FwState) : (d.modFw g).retiredDies = d.retiredDies := rfl
@[simp] theorem Dev.modFw_calNor (d : Dev) (g : FwState → FwState) : (d.modFw g).calNor = d.calNor := rfl
@[simp] theorem Dev.modFw_calPending (d : Dev) (g : FwState → FwState) : (d.modFw g).calPending = d.calPending := rfl
@[simp] theorem Dev.modFw_calSched (d : Dev) (g : FwState → FwState) : (d.modFw g).calSched = d.calSched := rfl
@[simp] theorem Dev.modFw_vloop (d : Dev) (g : FwState → FwState) : (d.modFw g).vloop = d.vloop := rfl
@[simp] theorem Dev.modFw_power (d : Dev) (g : FwState → FwState) : (d.modFw g).power = d.power := rfl
@[simp] theorem Dev.modFw_pins (d : Dev) (g : FwState → FwState) : (d.modFw g).pins = d.pins := rfl
@[simp] theorem Dev.modFw_fw (d : Dev) (g : FwState → FwState) : (d.modFw g).fw = g d.fw := rfl
@[simp] theorem Dev.modFw_ticks (d : Dev) (g : FwState → FwState) : (d.modFw g).ticks = d.ticks := rfl
@[simp] theorem Dev.modFw_opTicks (d : Dev) (g : FwState → FwState) : (d.modFw g).opTicks = d.opTicks := rfl
@[simp] theorem Dev.modFw_pcc (d : Dev) (g : FwState → FwState) : (d.modFw g).pcc = d.pcc := rfl
@[simp] theorem Dev.modFw_recorder (d : Dev) (g : FwState → FwState) : (d.modFw g).recorder = d.recorder := rfl
@[simp] theorem Dev.modFw_meters (d : Dev) (g : FwState → FwState) : (d.modFw g).meters = d.meters := rfl
@[simp] theorem Dev.modFw_sampleRun (d : Dev) (g : FwState → FwState) : (d.modFw g).sampleRun = d.sampleRun := rfl
@[simp] theorem Dev.modFw_threadMode (d : Dev) (g : FwState → FwState) : (d.modFw g).threadMode = d.threadMode := rfl
@[simp] theorem Dev.modFw_modeBusy (d : Dev) (g : FwState → FwState) : (d.modFw g).modeBusy = d.modeBusy := rfl
@[simp] theorem Dev.modFw_training (d : Dev) (g : FwState → FwState) : (d.modFw g).training = d.training := rfl
@[simp] theorem Dev.modFw_rowCache (d : Dev) (g : FwState → FwState) : (d.modFw g).rowCache = d.rowCache := rfl
@[simp] theorem Dev.modFw_rowLocks (d : Dev) (g : FwState → FwState) : (d.modFw g).rowLocks = d.rowLocks := rfl
@[simp] theorem Dev.modFw_rowMoves (d : Dev) (g : FwState → FwState) : (d.modFw g).rowMoves = d.rowMoves := rfl
@[simp] theorem Dev.modFw_switchQ (d : Dev) (g : FwState → FwState) : (d.modFw g).switchQ = d.switchQ := rfl
@[simp] theorem Dev.modFw_embRound (d : Dev) (g : FwState → FwState) : (d.modFw g).embRound = d.embRound := rfl
@[simp] theorem Dev.modFw_timetables (d : Dev) (g : FwState → FwState) : (d.modFw g).timetables = d.timetables := rfl
@[simp] theorem Dev.modFw_searches (d : Dev) (g : FwState → FwState) : (d.modFw g).searches = d.searches := rfl
@[simp] theorem Dev.modFw_held (d : Dev) (g : FwState → FwState) : (d.modFw g).held = d.held := rfl
@[simp] theorem Dev.modFw_free (d : Dev) (g : FwState → FwState) : (d.modFw g).free = d.free := rfl
@[simp] theorem Dev.modFw_out (d : Dev) (g : FwState → FwState) : (d.modFw g).out = d.out := rfl

@[simp] theorem Dev.modEntry_part (d : Dev) (f : Nat) (g : TEntry → TEntry) : (d.modEntry f g).part = d.part := rfl
@[simp] theorem Dev.modEntry_regs (d : Dev) (f : Nat) (g : TEntry → TEntry) : (d.modEntry f g).regs = d.regs := rfl
@[simp] theorem Dev.modEntry_sels (d : Dev) (f : Nat) (g : TEntry → TEntry) : (d.modEntry f g).sels = d.sels := rfl
@[simp] theorem Dev.modEntry_latches (d : Dev) (f : Nat) (g : TEntry → TEntry) : (d.modEntry f g).latches = d.latches := rfl
@[simp] theorem Dev.modEntry_msix (d : Dev) (f : Nat) (g : TEntry → TEntry) : (d.modEntry f g).msix = d.msix := rfl
@[simp] theorem Dev.modEntry_pba (d : Dev) (f : Nat) (g : TEntry → TEntry) : (d.modEntry f g).pba = d.pba := rfl
@[simp] theorem Dev.modEntry_mem (d : Dev) (f : Nat) (g : TEntry → TEntry) : (d.modEntry f g).mem = d.mem := rfl
@[simp] theorem Dev.modEntry_pois (d : Dev) (f : Nat) (g : TEntry → TEntry) : (d.modEntry f g).pois = d.pois := rfl
@[simp] theorem Dev.modEntry_roots (d : Dev) (f : Nat) (g : TEntry → TEntry) : (d.modEntry f g).roots = d.roots := rfl
@[simp] theorem Dev.modEntry_rootBusy (d : Dev) (f : Nat) (g : TEntry → TEntry) : (d.modEntry f g).rootBusy = d.rootBusy := rfl
@[simp] theorem Dev.modEntry_mapLaid (d : Dev) (f : Nat) (g : TEntry → TEntry) : (d.modEntry f g).mapLaid = d.mapLaid := rfl
@[simp] theorem Dev.modEntry_tmap (d : Dev) (f : Nat) (g : TEntry → TEntry) : (d.modEntry f g).tmap = smMod f g d.tmap := rfl
@[simp] theorem Dev.modEntry_remotes (d : Dev) (f : Nat) (g : TEntry → TEntry) : (d.modEntry f g).remotes = d.remotes := rfl
@[simp] theorem Dev.modEntry_precs (d : Dev) (f : Nat) (g : TEntry → TEntry) : (d.modEntry f g).precs = d.precs := rfl
@[simp] theorem Dev.modEntry_moves (d : Dev) (f : Nat) (g : TEntry → TEntry) : (d.modEntry f g).moves = d.moves := rfl
@[simp] theorem Dev.modEntry_openPend (d : Dev) (f : Nat) (g : TEntry → TEntry) : (d.modEntry f g).openPend = d.openPend := rfl
@[simp] theorem Dev.modEntry_demand (d : Dev) (f : Nat) (g : TEntry → TEntry) : (d.modEntry f g).demand = d.demand := rfl
@[simp] theorem Dev.modEntry_ageWindow (d : Dev) (f : Nat) (g : TEntry → TEntry) : (d.modEntry f g).ageWindow = d.ageWindow := rfl
@[simp] theorem Dev.modEntry_ageMs (d : Dev) (f : Nat) (g : TEntry → TEntry) : (d.modEntry f g).ageMs = d.ageMs := rfl
@[simp] theorem Dev.modEntry_victimStart (d : Dev) (f : Nat) (g : TEntry → TEntry) : (d.modEntry f g).victimStart = d.victimStart := rfl
@[simp] theorem Dev.modEntry_tierFull (d : Dev) (f : Nat) (g : TEntry → TEntry) : (d.modEntry f g).tierFull = d.tierFull := rfl
@[simp] theorem Dev.modEntry_leafAt (d : Dev) (f : Nat) (g : TEntry → TEntry) : (d.modEntry f g).leafAt = d.leafAt := rfl
@[simp] theorem Dev.modEntry_lostLeaves (d : Dev) (f : Nat) (g : TEntry → TEntry) : (d.modEntry f g).lostLeaves = d.lostLeaves := rfl
@[simp] theorem Dev.modEntry_leafWritten (d : Dev) (f : Nat) (g : TEntry → TEntry) : (d.modEntry f g).leafWritten = d.leafWritten := rfl
@[simp] theorem Dev.modEntry_wantRebuild (d : Dev) (f : Nat) (g : TEntry → TEntry) : (d.modEntry f g).wantRebuild = d.wantRebuild := rfl
@[simp] theorem Dev.modEntry_rootNew (d : Dev) (f : Nat) (g : TEntry → TEntry) : (d.modEntry f g).rootNew = d.rootNew := rfl
@[simp] theorem Dev.modEntry_evicting (d : Dev) (f : Nat) (g : TEntry → TEntry) : (d.modEntry f g).evicting = d.evicting := rfl
@[simp] theorem Dev.modEntry_wantPromo (d : Dev) (f : Nat) (g : TEntry → TEntry) : (d.modEntry f g).wantPromo = d.wantPromo := rfl
@[simp] theorem Dev.modEntry_wantDemote (d : Dev) (f : Nat) (g : TEntry → TEntry) : (d.modEntry f g).wantDemote = d.wantDemote := rfl
@[simp] theorem Dev.modEntry_promoWait (d : Dev) (f : Nat) (g : TEntry → TEntry) : (d.modEntry f g).promoWait = d.promoWait := rfl
@[simp] theorem Dev.modEntry_quota (d : Dev) (f : Nat) (g : TEntry → TEntry) : (d.modEntry f g).quota = d.quota := rfl
@[simp] theorem Dev.modEntry_seqCtr (d : Dev) (f : Nat) (g : TEntry → TEntry) : (d.modEntry f g).seqCtr = d.seqCtr := rfl
@[simp] theorem Dev.modEntry_hdm (d : Dev) (f : Nat) (g : TEntry → TEntry) : (d.modEntry f g).hdm = d.hdm := rfl
@[simp] theorem Dev.modEntry_activeLds (d : Dev) (f : Nat) (g : TEntry → TEntry) : (d.modEntry f g).activeLds = d.activeLds := rfl
@[simp] theorem Dev.modEntry_enabledFns (d : Dev) (f : Nat) (g : TEntry → TEntry) : (d.modEntry f g).enabledFns = d.enabledFns := rfl
@[simp] theorem Dev.modEntry_dir (d : Dev) (f : Nat) (g : TEntry → TEntry) : (d.modEntry f g).dir = d.dir := rfl
@[simp] theorem Dev.modEntry_dirRot (d : Dev) (f : Nat) (g : TEntry → TEntry) : (d.modEntry f g).dirRot = d.dirRot := rfl
@[simp] theorem Dev.modEntry_dirCache (d : Dev) (f : Nat) (g : TEntry → TEntry) : (d.modEntry f g).dirCache = d.dirCache := rfl
@[simp] theorem Dev.modEntry_refused (d : Dev) (f : Nat) (g : TEntry → TEntry) : (d.modEntry f g).refused = d.refused := rfl
@[simp] theorem Dev.modEntry_markCtr (d : Dev) (f : Nat) (g : TEntry → TEntry) : (d.modEntry f g).markCtr = d.markCtr := rfl
@[simp] theorem Dev.modEntry_waiting (d : Dev) (f : Nat) (g : TEntry → TEntry) : (d.modEntry f g).waiting = d.waiting := rfl
@[simp] theorem Dev.modEntry_unresp (d : Dev) (f : Nat) (g : TEntry → TEntry) : (d.modEntry f g).unresp = d.unresp := rfl
@[simp] theorem Dev.modEntry_sweep (d : Dev) (f : Nat) (g : TEntry → TEntry) : (d.modEntry f g).sweep = d.sweep := rfl
@[simp] theorem Dev.modEntry_timedOut (d : Dev) (f : Nat) (g : TEntry → TEntry) : (d.modEntry f g).timedOut = d.timedOut := rfl
@[simp] theorem Dev.modEntry_revs (d : Dev) (f : Nat) (g : TEntry → TEntry) : (d.modEntry f g).revs = d.revs := rfl
@[simp] theorem Dev.modEntry_raised (d : Dev) (f : Nat) (g : TEntry → TEntry) : (d.modEntry f g).raised = d.raised := rfl
@[simp] theorem Dev.modEntry_snoopDue (d : Dev) (f : Nat) (g : TEntry → TEntry) : (d.modEntry f g).snoopDue = d.snoopDue := rfl
@[simp] theorem Dev.modEntry_coWatch (d : Dev) (f : Nat) (g : TEntry → TEntry) : (d.modEntry f g).coWatch = d.coWatch := rfl
@[simp] theorem Dev.modEntry_polledLines (d : Dev) (f : Nat) (g : TEntry → TEntry) : (d.modEntry f g).polledLines = d.polledLines := rfl
@[simp] theorem Dev.modEntry_tlb (d : Dev) (f : Nat) (g : TEntry → TEntry) : (d.modEntry f g).tlb = d.tlb := rfl
@[simp] theorem Dev.modEntry_tptr (d : Dev) (f : Nat) (g : TEntry → TEntry) : (d.modEntry f g).tptr = d.tptr := rfl
@[simp] theorem Dev.modEntry_tlbSec (d : Dev) (f : Nat) (g : TEntry → TEntry) : (d.modEntry f g).tlbSec = d.tlbSec := rfl
@[simp] theorem Dev.modEntry_arb (d : Dev) (f : Nat) (g : TEntry → TEntry) : (d.modEntry f g).arb = d.arb := rfl
@[simp] theorem Dev.modEntry_bayTurn (d : Dev) (f : Nat) (g : TEntry → TEntry) : (d.modEntry f g).bayTurn = d.bayTurn := rfl
@[simp] theorem Dev.modEntry_ringOwed (d : Dev) (f : Nat) (g : TEntry → TEntry) : (d.modEntry f g).ringOwed = d.ringOwed := rfl
@[simp] theorem Dev.modEntry_invs (d : Dev) (f : Nat) (g : TEntry → TEntry) : (d.modEntry f g).invs = d.invs := rfl
@[simp] theorem Dev.modEntry_faults (d : Dev) (f : Nat) (g : TEntry → TEntry) : (d.modEntry f g).faults = d.faults := rfl
@[simp] theorem Dev.modEntry_areas (d : Dev) (f : Nat) (g : TEntry → TEntry) : (d.modEntry f g).areas = d.areas := rfl
@[simp] theorem Dev.modEntry_migrations (d : Dev) (f : Nat) (g : TEntry → TEntry) : (d.modEntry f g).migrations = d.migrations := rfl
@[simp] theorem Dev.modEntry_faultCtr (d : Dev) (f : Nat) (g : TEntry → TEntry) : (d.modEntry f g).faultCtr = d.faultCtr := rfl
@[simp] theorem Dev.modEntry_queues (d : Dev) (f : Nat) (g : TEntry → TEntry) : (d.modEntry f g).queues = d.queues := rfl
@[simp] theorem Dev.modEntry_ports (d : Dev) (f : Nat) (g : TEntry → TEntry) : (d.modEntry f g).ports = d.ports := rfl
@[simp] theorem Dev.modEntry_inbox (d : Dev) (f : Nat) (g : TEntry → TEntry) : (d.modEntry f g).inbox = d.inbox := rfl
@[simp] theorem Dev.modEntry_flowsOut (d : Dev) (f : Nat) (g : TEntry → TEntry) : (d.modEntry f g).flowsOut = d.flowsOut := rfl
@[simp] theorem Dev.modEntry_flowsIn (d : Dev) (f : Nat) (g : TEntry → TEntry) : (d.modEntry f g).flowsIn = d.flowsIn := rfl
@[simp] theorem Dev.modEntry_fabOut (d : Dev) (f : Nat) (g : TEntry → TEntry) : (d.modEntry f g).fabOut = d.fabOut := rfl
@[simp] theorem Dev.modEntry_fabIn (d : Dev) (f : Nat) (g : TEntry → TEntry) : (d.modEntry f g).fabIn = d.fabIn := rfl
@[simp] theorem Dev.modEntry_subs (d : Dev) (f : Nat) (g : TEntry → TEntry) : (d.modEntry f g).subs = d.subs := rfl
@[simp] theorem Dev.modEntry_parity (d : Dev) (f : Nat) (g : TEntry → TEntry) : (d.modEntry f g).parity = d.parity := rfl
@[simp] theorem Dev.modEntry_bringup (d : Dev) (f : Nat) (g : TEntry → TEntry) : (d.modEntry f g).bringup = d.bringup := rfl
@[simp] theorem Dev.modEntry_span (d : Dev) (f : Nat) (g : TEntry → TEntry) : (d.modEntry f g).span = d.span := rfl
@[simp] theorem Dev.modEntry_tagCtr (d : Dev) (f : Nat) (g : TEntry → TEntry) : (d.modEntry f g).tagCtr = d.tagCtr := rfl
@[simp] theorem Dev.modEntry_extents (d : Dev) (f : Nat) (g : TEntry → TEntry) : (d.modEntry f g).extents = d.extents := rfl
@[simp] theorem Dev.modEntry_lapseOk (d : Dev) (f : Nat) (g : TEntry → TEntry) : (d.modEntry f g).lapseOk = d.lapseOk := rfl
@[simp] theorem Dev.modEntry_found (d : Dev) (f : Nat) (g : TEntry → TEntry) : (d.modEntry f g).found = d.found := rfl
@[simp] theorem Dev.modEntry_smpWin (d : Dev) (f : Nat) (g : TEntry → TEntry) : (d.modEntry f g).smpWin = d.smpWin := rfl
@[simp] theorem Dev.modEntry_leases (d : Dev) (f : Nat) (g : TEntry → TEntry) : (d.modEntry f g).leases = d.leases := rfl
@[simp] theorem Dev.modEntry_membs (d : Dev) (f : Nat) (g : TEntry → TEntry) : (d.modEntry f g).membs = d.membs := rfl
@[simp] theorem Dev.modEntry_egWords (d : Dev) (f : Nat) (g : TEntry → TEntry) : (d.modEntry f g).egWords = d.egWords := rfl
@[simp] theorem Dev.modEntry_egs (d : Dev) (f : Nat) (g : TEntry → TEntry) : (d.modEntry f g).egs = d.egs := rfl
@[simp] theorem Dev.modEntry_grants (d : Dev) (f : Nat) (g : TEntry → TEntry) : (d.modEntry f g).grants = d.grants := rfl
@[simp] theorem Dev.modEntry_xfers (d : Dev) (f : Nat) (g : TEntry → TEntry) : (d.modEntry f g).xfers = d.xfers := rfl
@[simp] theorem Dev.modEntry_slots (d : Dev) (f : Nat) (g : TEntry → TEntry) : (d.modEntry f g).slots = d.slots := rfl
@[simp] theorem Dev.modEntry_deny (d : Dev) (f : Nat) (g : TEntry → TEntry) : (d.modEntry f g).deny = d.deny := rfl
@[simp] theorem Dev.modEntry_impDone (d : Dev) (f : Nat) (g : TEntry → TEntry) : (d.modEntry f g).impDone = d.impDone := rfl
@[simp] theorem Dev.modEntry_impSkip (d : Dev) (f : Nat) (g : TEntry → TEntry) : (d.modEntry f g).impSkip = d.impSkip := rfl
@[simp] theorem Dev.modEntry_scores (d : Dev) (f : Nat) (g : TEntry → TEntry) : (d.modEntry f g).scores = d.scores := rfl
@[simp] theorem Dev.modEntry_fencedBays (d : Dev) (f : Nat) (g : TEntry → TEntry) : (d.modEntry f g).fencedBays = d.fencedBays := rfl
@[simp] theorem Dev.modEntry_fencedScan (d : Dev) (f : Nat) (g : TEntry → TEntry) : (d.modEntry f g).fencedScan = d.fencedScan := rfl
@[simp] theorem Dev.modEntry_fencedPorts (d : Dev) (f : Nat) (g : TEntry → TEntry) : (d.modEntry f g).fencedPorts = d.fencedPorts := rfl
@[simp] theorem Dev.modEntry_retiredCh (d : Dev) (f : Nat) (g : TEntry → TEntry) : (d.modEntry f g).retiredCh = d.retiredCh := rfl
@[simp] theorem Dev.modEntry_retiring (d : Dev) (f : Nat) (g : TEntry → TEntry) : (d.modEntry f g).retiring = d.retiring := rfl
@[simp] theorem Dev.modEntry_retiredDies (d : Dev) (f : Nat) (g : TEntry → TEntry) : (d.modEntry f g).retiredDies = d.retiredDies := rfl
@[simp] theorem Dev.modEntry_calNor (d : Dev) (f : Nat) (g : TEntry → TEntry) : (d.modEntry f g).calNor = d.calNor := rfl
@[simp] theorem Dev.modEntry_calPending (d : Dev) (f : Nat) (g : TEntry → TEntry) : (d.modEntry f g).calPending = d.calPending := rfl
@[simp] theorem Dev.modEntry_calSched (d : Dev) (f : Nat) (g : TEntry → TEntry) : (d.modEntry f g).calSched = d.calSched := rfl
@[simp] theorem Dev.modEntry_vloop (d : Dev) (f : Nat) (g : TEntry → TEntry) : (d.modEntry f g).vloop = d.vloop := rfl
@[simp] theorem Dev.modEntry_power (d : Dev) (f : Nat) (g : TEntry → TEntry) : (d.modEntry f g).power = d.power := rfl
@[simp] theorem Dev.modEntry_pins (d : Dev) (f : Nat) (g : TEntry → TEntry) : (d.modEntry f g).pins = d.pins := rfl
@[simp] theorem Dev.modEntry_fw (d : Dev) (f : Nat) (g : TEntry → TEntry) : (d.modEntry f g).fw = d.fw := rfl
@[simp] theorem Dev.modEntry_ticks (d : Dev) (f : Nat) (g : TEntry → TEntry) : (d.modEntry f g).ticks = d.ticks := rfl
@[simp] theorem Dev.modEntry_opTicks (d : Dev) (f : Nat) (g : TEntry → TEntry) : (d.modEntry f g).opTicks = d.opTicks := rfl
@[simp] theorem Dev.modEntry_pcc (d : Dev) (f : Nat) (g : TEntry → TEntry) : (d.modEntry f g).pcc = d.pcc := rfl
@[simp] theorem Dev.modEntry_recorder (d : Dev) (f : Nat) (g : TEntry → TEntry) : (d.modEntry f g).recorder = d.recorder := rfl
@[simp] theorem Dev.modEntry_meters (d : Dev) (f : Nat) (g : TEntry → TEntry) : (d.modEntry f g).meters = d.meters := rfl
@[simp] theorem Dev.modEntry_sampleRun (d : Dev) (f : Nat) (g : TEntry → TEntry) : (d.modEntry f g).sampleRun = d.sampleRun := rfl
@[simp] theorem Dev.modEntry_threadMode (d : Dev) (f : Nat) (g : TEntry → TEntry) : (d.modEntry f g).threadMode = d.threadMode := rfl
@[simp] theorem Dev.modEntry_modeBusy (d : Dev) (f : Nat) (g : TEntry → TEntry) : (d.modEntry f g).modeBusy = d.modeBusy := rfl
@[simp] theorem Dev.modEntry_training (d : Dev) (f : Nat) (g : TEntry → TEntry) : (d.modEntry f g).training = d.training := rfl
@[simp] theorem Dev.modEntry_rowCache (d : Dev) (f : Nat) (g : TEntry → TEntry) : (d.modEntry f g).rowCache = d.rowCache := rfl
@[simp] theorem Dev.modEntry_rowLocks (d : Dev) (f : Nat) (g : TEntry → TEntry) : (d.modEntry f g).rowLocks = d.rowLocks := rfl
@[simp] theorem Dev.modEntry_rowMoves (d : Dev) (f : Nat) (g : TEntry → TEntry) : (d.modEntry f g).rowMoves = d.rowMoves := rfl
@[simp] theorem Dev.modEntry_switchQ (d : Dev) (f : Nat) (g : TEntry → TEntry) : (d.modEntry f g).switchQ = d.switchQ := rfl
@[simp] theorem Dev.modEntry_embRound (d : Dev) (f : Nat) (g : TEntry → TEntry) : (d.modEntry f g).embRound = d.embRound := rfl
@[simp] theorem Dev.modEntry_timetables (d : Dev) (f : Nat) (g : TEntry → TEntry) : (d.modEntry f g).timetables = d.timetables := rfl
@[simp] theorem Dev.modEntry_searches (d : Dev) (f : Nat) (g : TEntry → TEntry) : (d.modEntry f g).searches = d.searches := rfl
@[simp] theorem Dev.modEntry_held (d : Dev) (f : Nat) (g : TEntry → TEntry) : (d.modEntry f g).held = d.held := rfl
@[simp] theorem Dev.modEntry_free (d : Dev) (f : Nat) (g : TEntry → TEntry) : (d.modEntry f g).free = d.free := rfl
@[simp] theorem Dev.modEntry_out (d : Dev) (f : Nat) (g : TEntry → TEntry) : (d.modEntry f g).out = d.out := rfl

/-! A change of the block alone. -/

@[simp] theorem State.onDev_eq (s : State) (f : Dev → Dev) : s.onDev f = .next { s with dev := f s.dev } := rfl
@[simp] theorem State.setDev_dev (s : State) (d : Dev) : ({ s with dev := d } : State).dev = d := rfl
@[simp] theorem State.setDev_lock (s : State) (d : Dev) : ({ s with dev := d } : State).lock = s.lock := rfl
@[simp] theorem State.setDev_fuses (s : State) (d : Dev) : ({ s with dev := d } : State).fuses = s.fuses := rfl
@[simp] theorem State.setDev_pending (s : State) (d : Dev) : ({ s with dev := d } : State).pending = s.pending := rfl

end Sys2Proof.Machine
end

