-- ==== Sys2Proof/Laws/Run.lean ====
section
/-! SUPPORT. What the steps of a run answer, one equation each, so that a meaning is evaluated without unfolding its monad; and what
ending a descriptor leaves of its record and of the queues. -/

namespace Sys2Proof.Machine

open Sys2Proof

/-- A run of two parts: the second goes on where the first ends without a halt. -/
@[simp] theorem M.bind_apply {α β : Type} (x : M α) (f : α → M β) (c : Ctx) (s : RunSt) :
    (x >>= f) c s = (match x c s with | (.ok a, t) => f a c t | (.error e, t) => (.error e, t)) := by
  show (ExceptT.bind (x c) (fun a => f a c)) s = _
  unfold ExceptT.bind ExceptT.mk
  show (StateT.bind (x c) _) s = _
  unfold StateT.bind
  show (match x c s with | (a, t) => _) = _
  generalize x c s = r
  obtain ⟨a, t⟩ := r
  cases a <;> rfl

/-- A run whose answer is mapped. -/
@[simp] theorem M.map_apply {α β : Type} (x : M α) (f : α → β) (c : Ctx) (s : RunSt) :
    (f <$> x) c s = (match x c s with | (.ok a, t) => (.ok (f a), t) | (.error e, t) => (.error e, t)) :=
  M.bind_apply x (fun a => pure (f a)) c s

@[simp] theorem M.pure_apply {α : Type} (a : α) (c : Ctx) (s : RunSt) : (pure a : M α) c s = (.ok a, s) := rfl
@[simp] theorem M.getDev_apply (c : Ctx) (s : RunSt) : getDev c s = (.ok s.d, s) := rfl
@[simp] theorem M.modDev_apply (f : Dev → Dev) (c : Ctx) (s : RunSt) : modDev f c s = (.ok (), { s with d := f s.d }) := rfl
@[simp] theorem M.halt_apply {α : Type} (st : Nat) (c : Ctx) (s : RunSt) : (halt st : M α) c s = (.error (.done st), s) := rfl
@[simp] theorem M.need_apply {α : Type} (c : Ctx) (s : RunSt) : (need : M α) c s = (.error .need, s) := rfl
@[simp] theorem M.atStage_apply {α : Type} (n : Nat) (m : M α) (c : Ctx) (s : RunSt) : atStage n m c s = m { c with stage := n } s := rfl
@[simp] theorem M.read_apply (c : Ctx) (s : RunSt) : (read : M Ctx) c s = (.ok c, s) := rfl
@[simp] theorem M.ensure_apply (b : Bool) (st : Nat) (c : Ctx) (s : RunSt) :
    ensure b st c s = if b then (.ok (), s) else (.error (.done st), s) := by unfold ensure; cases b <;> rfl
theorem Dev.runM_eq {α : Type} (d : Dev) (c : Ctx) (m : M α) : d.runM c m = m c ⟨d, [], 0, [], [], []⟩ := rfl

/-- A changed value is found under its key, and the others as they were. -/
theorem smGet?_smMod {α : Type} (k j : Nat) (f : α → α) (m : SMap α) :
    smGet? j (smMod k f m) = if j = k then (smGet? j m).map f else smGet? j m := by
  induction m with
  | nil => simp [smMod, smGet?]
  | cons p m ih =>
    obtain ⟨i, w⟩ := p
    by_cases h : i = k
    · subst h
      by_cases hj : i = j
      · subst hj; simp [smMod, smGet?]
      · simp [smMod, smGet?, hj, Ne.symm hj]
    · by_cases hk : k < i
      · by_cases hj : j = k
        · subst hj; simp [smMod, smGet?, h, hk]
        · simp [smMod, h, hk, hj]
      · by_cases hi : i = j
        · subst hi; simp [smMod, smGet?, h, hk]
        · simp only [smMod, h, hk, if_false, smGet?, hi]
          split
          · split <;> simp_all
          · exact ih

/-- Changing a started descriptor changes that one alone. -/
theorem Dev.startedOf_modStarted (d : Dev) (q n : Nat) (g : Started → Started) (hg : ∀ r, (g r).seq = r.seq) :
    (d.modStarted q n g).startedOf q n = (d.startedOf q n).map g := by
  simp only [Dev.modStarted, Dev.startedOf, smGet?_smMod, if_true]
  cases smGet? q d.queues with
  | none => rfl
  | some x =>
    simp only [Option.map_some, Option.bind_some]
    generalize x.running = l
    induction l with
    | nil => rfl
    | cons a l ih =>
      simp only [List.map_cons, List.find?_cons]
      by_cases h : a.seq = n
      · simp [h, hg]
      · rw [if_neg h, beq_eq_false_iff_ne.mpr h]; exact ih

/-- Ending a descriptor's run finishes its record with the status, DETAIL and results. -/
theorem Dev.startedOf_finish (d : Dev) (q n st r0 r1 : Nat) :
    (d.finish q n st r0 r1).startedOf q n = (d.startedOf q n).map (fun r => { r with
      phase := .finished, res0 := r0, res1 := r1, status := worse r.status st
      detail := if st = 0 then r.detail else r.detail ||| 2 ^ (st % 16) }) := by
  have key (d : Dev) (rf : List Refused) (fd : List (MemReq × Nat)) :
      (({ d with refused := rf, found := fd } : Dev).modStarted q n (fun r => { r with phase := .finished, res0 := r0, res1 := r1 })).startedOf q n
        = (d.startedOf q n).map (fun r => { r with phase := .finished, res0 := r0, res1 := r1 }) :=
    Dev.startedOf_modStarted _ _ _ _ (fun _ => rfl)
  refine (key _ _ _).trans ?_
  unfold Dev.noteStatus
  by_cases h : st = 0
  · subst h
    rw [if_pos rfl]
    cases d.startedOf q n with
    | none => rfl
    | some r => by_cases hr : r.status = 0 <;> simp [worse, hr]
  · rw [if_neg h, Dev.startedOf_modStarted d q n
      (fun r => { r with status := worse r.status st, detail := r.detail ||| 2 ^ (st % 16) }) (fun _ => rfl)]
    cases d.startedOf q n <;> simp [h]

/-- A bumped counter changes registers only. -/
theorem Dev.bump_only (d : Dev) (set i n : Nat) : d.bump set i n = { d with regs := (d.bump set i n).regs } := by
  unfold Dev.bump; dsimp only; split <;> rfl

/-- Counting changes registers only. -/
theorem Dev.count_only (d : Dev) (set code n : Nat) : d.count set code n = { d with regs := (d.count set code n).regs } := by
  unfold Dev.count
  split
  · rfl
  · generalize List.range 8 = l
    induction l generalizing d with
    | nil => rfl
    | cons x l ih =>
      rw [List.foldl_cons, ih]
      split
      · rw [Dev.bump_only]
      · rfl

/-- A statistic, or a field of a register, changes registers only. -/
theorem Dev.setRf_only (d : Dev) (key hi lo v : Nat) : d.setRf key hi lo v = { d with regs := (d.setRf key hi lo v).regs } := rfl
theorem Dev.stat_only (d : Dev) (key hi lo k : Nat) : d.stat key hi lo k = { d with regs := (d.stat key hi lo k).regs } := rfl

/-- Charging time and waits of a run counts, and changes registers only. -/
theorem Dev.countRun_only (d : Dev) (c : Ctx) (code n : Nat) :
    d.countRun c code n = { d with regs := (d.countRun c code n).regs } := by
  unfold Dev.countRun Dev.countDesc
  split
  · split
    · rfl
    · exact Dev.count_only _ _ _ _
  · rfl

/-- A run without accesses is charged in registers, the meters and the count of free values only. -/
theorem Dev.chargeRun_nil (d : Dev) (c : Ctx) : d.chargeRun c [] =
    { d with regs := (d.chargeRun c []).regs, meters := (d.chargeRun c []).meters, free := d.free + 2 } := by
  have h : d.chargeAcc c [] = d := by
    unfold Dev.chargeAcc; split
    · split <;> rfl
    · rfl
  unfold Dev.chargeRun
  rw [h]
  simp only [Dev.takeFree, Dev.meter]
  rw [Dev.countRun_only, Dev.countRun_only]

/-- Recording an event changes the recorder only. -/
theorem Dev.event_only (d : Dev) (k : Ev) (b : List EvField) : d.event k b = { d with recorder := (d.event k b).recorder } := by
  unfold Dev.event; dsimp only; split <;> rfl
theorem Dev.eventWindow_only (d : Dev) (k : Ev) (key : Nat) (b : List EvField) :
    d.eventWindow k key b = { d with recorder := (d.eventWindow k key b).recorder } := by
  unfold Dev.eventWindow; split
  · rfl
  · dsimp only; rw [Dev.event_only]
theorem Dev.eventSecond_only (d : Dev) (k : Ev) (key : Nat) (b : List EvField) :
    d.eventSecond k key b = { d with recorder := (d.eventSecond k key b).recorder } := by
  unfold Dev.eventSecond; split
  · rfl
  · dsimp only; rw [Dev.event_only]
theorem Dev.eventCounted_only (d : Dev) (k : Ev) (key : Nat) (b : List EvField) :
    d.eventCounted k key b = { d with recorder := (d.eventCounted k key b).recorder } := by
  unfold Dev.eventCounted; dsimp only; split <;> rfl

/-- A port's state and its pins change nothing else. -/
theorem Dev.setPortSt_only (d : Dev) (p : Nat) (st : PortState) : d.setPortSt p st =
    { d with ports := (d.setPortSt p st).ports, pins := (d.setPortSt p st).pins } := rfl
theorem Dev.train_only (d : Dev) (p : Nat) : d.train p =
    { d with ports := (d.train p).ports, pins := (d.train p).pins, regs := (d.train p).regs } := rfl

end Sys2Proof.Machine
end

