-- ==== Sys2Proof/Safety.lean ====
section
/-! DEFINITION. What a safe run is: a run in which no step ends in a fault or a refusal. -/

namespace Sys2Proof.Machine

/-- A step from this state answers a next state. -/
def Safe (s : State) : Prop := ∃ t, step s = .next t

/-- `k` steps from this state all answer a next state. -/
def SafeFor : Nat → State → Prop
  | 0, _ => True
  | k + 1, s => ∃ t, step s = .next t ∧ SafeFor k t

end Sys2Proof.Machine
end

