-- ==== Sys2Proof/Tests/Slice0.lean ====
section
/-! SUPPORT. Tests: ill-formed commands, small runs of single commands, and for each statement states and operands that meet its hypotheses.
The expected values are worked out from the rules that the comments name. -/

namespace Sys2Proof.Tests

open Sys2Proof Sys2Proof.Machine Sys2Proof.Claims

set_option maxRecDepth 20000
set_option Elab.async false

/-- The block after a boot that found a link: it runs. -/
def ran : Dev := { Dev.reset with power := { Dev.reset.power with pwrgd := true, ready := true, linkUp := true, st := .run } }

/-- A descriptor from its fields: offset, bytes, value. -/
def descr (fs : List (Nat × Nat × Nat)) : Line := BitVec.ofNat 512 (fs.foldl (fun a f => a + 2 ^ (8 * f.1) * (f.2.2 % 2 ^ (8 * f.2.1))) 0)

/-- A placement record of composition 9 that pins its frames in T0. -/
def pinRec : Line := descr [(0, 2, 9), (2, 1, 1), (3, 1, 0x81), (4, 1, 0x1F)]

/-- A store of four frames of T0 under root 0, frames 2 and 3 pinned, in a window of LD 0 from 2^28 on. PASID 0 of function 0 and composition 9 has its
directory at 0x1000, its context at 0x2000, and tables at 0x3000 and 0x4000, whose one leaf of 1 GiB maps each DVA to the same offset. -/
def stored : Dev := { ran with
  regs := [(0x6000, 0x1001), (0x7000, 5)]
  roots := [(0, 0)]
  mapLaid := true
  hdm := [(0, ⟨0x10000000, 0x10000000⟩)]
  tmap := [(0, newEntry 0 40 3 false), (1, newEntry 0 41 3 false), (2, newEntry 1 42 3 true), (3, newEntry 1 43 3 true)]
  precs := [(1, pinRec)]
  ageWindow := 6
  mem := [(0x1000, 0x01), (0x1001, 0x20), (0x2001, 0x30), (0x2009, 0x40), (0x201A, 0x09), (0x201E, 0x01), (0x3000, 0x01), (0x3001, 0x40),
    (0x4000, 0x0F)] }

/-- Bytes written into the store, from the lowest place on. -/
def poked (ps : List (Nat × List Byte)) (d : Dev) : Dev := ps.foldl (fun d p => d.setBytes p.2 p.1) d

/-- A started descriptor of composition 9 that runs, with number 0. -/
def begun (l : Line) : Started := ⟨0, l, false, false, 9, .running, 0, 0, 0, 0, [], [], 0, 0, [], [], 0, []⟩

/-- Queue `q` of function 0 with that descriptor. -/
def lined (q : Nat) (l : Line) : Queue := ⟨0, q, 0, .active, 0, 0, 0, 0, true, 0, 0, false, 1, [], [begun l], none⟩

/-- The block with that queue alone. -/
def withDesc (q : Nat) (l : Line) (d : Dev) : Dev := { d with queues := [(q, lined q l)] }

/-- The same with what the descriptor has noted at its start. -/
def noted (q : Nat) (l : Line) (ns : List Nat) : Queue := { lined q l with running := [{ begun l with note := ns }] }

/-- The block with that queue alone. -/
def withNote (q : Nat) (l : Line) (ns : List Nat) (d : Dev) : Dev := { d with queues := [(q, noted q l ns)] }

/-- The state whose block is `d`. -/
def inState (d : Dev) : State := { State.reset with dev := d }

/-- The block after a command. -/
def after (c : Instr) (d : Dev) : Dev := match exec c (inState d) with | .next t => t.dev | _ => d

/-- A part of a descriptor's work as one step of a chain, which ends where the part does not go through. -/
abbrev Chain (α : Type) := StateT RunSt Option α

/-- The part `m` under the context `c`. -/
def goes (c : Ctx) (m : M α) : Chain α := fun k => match m c k with | (.ok a, k') => some (a, k') | _ => none

/-- A condition of the chain. -/
def given (b : Bool) : Chain Unit := fun k => if b then some ((), k) else none

/-- A chain's part goes through exactly where `Does` says so. -/
theorem goes_does (c : Ctx) (m : M α) (k k' : RunSt) (a : α) : goes c m k = some (a, k') ↔ Does c m k a k' := by
  unfold goes Does
  rcases m c k with ⟨r, k2⟩
  cases r with
  | error e => exact ⟨fun h => (by cases h), fun h => (by cases h)⟩
  | ok b => exact ⟨fun h => (by cases h; rfl), fun h => (by cases h; rfl)⟩

/-- Whether a chain goes through from a block. -/
def through (d : Dev) (x : Chain Unit) : Bool := (x ⟨d, [], 0, [], [], []⟩).isSome

/-- The context of descriptor 0 of queue `q`. -/
def ctxAt (q : Nat) (l : Line) : Ctx := descCtx q (lined q l) (begun l)

/-- Whether a computation of a unit ends well. -/
def endsOk (r : Except Halt α × Dev) : Bool := match r.1 with | .ok _ => true | _ => false

/-- The parts of `Running` for the only descriptor of queue 1. -/
theorem run_of {d : Dev} {l : Line} {op : Nat} (h : lf l 0 1 = op) : Running (withDesc 1 l d) 1 0 op (lined 1 l) (begun l) :=
  ⟨rfl, rfl, rfl, h⟩


/-! Ill-formed commands are told from well-formed ones: one pair for each check. -/

theorem test_wf_queue : (Instr.nop 16384 0).wf = false ∧ (Instr.nop 16383 0).wf = true := by decide
theorem test_wf_node : (Instr.wrdoneTimer 4096 0).wf = false ∧ (Instr.wrdoneTimer 4095 0).wf = true := by decide
theorem test_wf_sidx : (Instr.wrdoneTimer 0 0x100000).wf = false ∧ (Instr.wrdoneTimer 0 0xFFFFF).wf = true := by decide
theorem test_wf_tag : (Instr.e2eResend 0 0 65536).wf = false ∧ (Instr.e2eResend 0 0 65535).wf = true := by decide
theorem test_wf_ld : (Instr.ldReset 16).wf = false ∧ (Instr.ldReset 15).wf = true := by decide
theorem test_wf_hpa : (Instr.biconflict 0 (2 ^ 52)).wf = false ∧ (Instr.biconflict 0 (2 ^ 52 - 1)).wf = true := by decide
theorem test_wf_slot : (Instr.caskPull 4).wf = false ∧ (Instr.caskPull 3).wf = true := by decide
theorem test_wf_port : (Instr.moduleInsert 16).wf = false ∧ (Instr.moduleInsert 15).wf = true := by decide
theorem test_wf_host_function : (Instr.functionLevelReset 1024).wf = false ∧ (Instr.functionLevelReset 1023).wf = true := by decide
theorem test_wf_function : (Instr.qctRangeWrite .fm 2048 0).wf = false ∧ (Instr.qctRangeWrite .fm 2047 0).wf = true := by decide
theorem test_wf_line : (Instr.watchSnoop 32).wf = false ∧ (Instr.watchSnoop (2 ^ 48)).wf = false ∧ (Instr.watchSnoop 64).wf = true := by decide
theorem test_wf_path : (Instr.bringup (.mctp (some (2 ^ 32)))).wf = false ∧ (Instr.bringup (.fn 1024)).wf = false ∧
    (Instr.bringup (.mctp none)).wf = true := by decide
theorem test_wf_armer : (Instr.watchEvent (.queue 16384)).wf = false ∧ (Instr.watchEvent (.faultArea (2 ^ 20))).wf = false ∧
    (Instr.watchEvent (.semaphore 16383 0)).wf = true := by decide
theorem test_wf_engine : (Instr.deviceAccess (.bay 128) 0 false ⟨0, []⟩ 0 false 0).wf = false ∧
    (Instr.deviceAccess (.scanner 32) 0 false ⟨0, []⟩ 0 false 0).wf = false ∧ (Instr.deviceAccess .kiln 0 false ⟨0, [⟨15, false, List.replicate 36 0⟩]⟩ 0 false 0).wf = true ∧
    (Instr.deviceAccess .kiln 0 false ⟨0, [⟨16, true, List.replicate 36 0⟩]⟩ 0 false 0).wf = false := by decide
theorem test_wf_decoder : (Instr.hdmDecoderUncommit 0 8).wf = false ∧ (Instr.hdmDecoderUncommit 0 7).wf = true := by decide
theorem test_wf_extent : (Instr.leaseRenew (2 ^ 32)).wf = false ∧ (Instr.leaseRenew (2 ^ 32 - 1)).wf = true := by decide
theorem test_wf_pasid : (Instr.faultHeadPoll (2 ^ 20)).wf = false ∧ (Instr.faultHeadPoll (2 ^ 20 - 1)).wf = true := by decide
theorem test_wf_frame : (Instr.demotionCommit (2 ^ 32)).wf = false ∧ (Instr.promotionSubblockLand 0 16 []).wf = false ∧
    (Instr.promotionSubblockLand 0 15 []).wf = true := by decide
theorem test_wf_stack : (Instr.tierMapCopyLoss 8).wf = false ∧ (Instr.leafBuildDone 65536).wf = false ∧ (Instr.tierMapCopyLoss 7).wf = true := by decide
theorem test_wf_location : (Instr.checkFailure ⟨4096, true⟩ 0 0).wf = false ∧ (Instr.checkFailure ⟨4095, true⟩ 0 0).wf = true := by decide
theorem test_wf_value : (Instr.modeSwitch .fm (2 ^ 32)).wf = false ∧ (Instr.modeSwitch .fm (2 ^ 32 - 1)).wf = true := by decide
theorem test_wf_composition : (Instr.define .fm false 1024).wf = false ∧ (Instr.define .fm false 1023).wf = true := by decide
theorem test_wf_die : (Instr.caskDieFail 0 128).wf = false ∧ (Instr.caskDieFail 0 127).wf = true := by decide
theorem test_wf_symbols : (Instr.stackScrub (.stack 0) []).wf = false ∧ (Instr.stackScrub (.sram 6) (List.replicate 36 0)).wf = false ∧
    (Instr.stackScrub (.sram 5) (List.replicate 36 0)).wf = true := by decide
theorem test_wf_bands : (Instr.marginSample [(4096, .red)] false).wf = false ∧ (Instr.marginSample [(4095, .red)] false).wf = true := by decide
theorem test_wf_channel : (Instr.channelLoss 256).wf = false ∧ (Instr.channelLoss 255).wf = true := by decide
theorem test_wf_unit : (Instr.calRun .fm 4096 none).wf = false ∧ (Instr.calRun .fm 4095 none).wf = true := by decide
theorem test_wf_abort : (Instr.stopAbort 0).wf = false ∧ (Instr.stopAbort 11).wf = false ∧ (Instr.stopAbort 10).wf = true := by decide
theorem test_wf_wake : (Instr.wakeUp 6 0).wf = false ∧ (Instr.wakeUp 2 16).wf = false ∧ (Instr.wakeUp 5 15).wf = true := by decide
theorem test_wf_step : (Instr.wakeStepTimeout 0).wf = false ∧ (Instr.wakeStepTimeout 5).wf = false ∧ (Instr.wakeStepTimeout 4).wf = true := by decide
theorem test_wf_bay : (Instr.microcodeRollout 128).wf = false ∧ (Instr.microcodeRollout 127).wf = true := by decide
theorem test_wf_alert : (Instr.thermalAlert 3 0).wf = false ∧ (Instr.thermalAlert 2 0).wf = true := by decide

/-- A neighbour and a training's operands: eight or four wavelengths, seven credit counts. -/
def aNbr : Neighbour := ⟨7, 2, false, 1, false, 3, false, 8, false⟩
theorem test_wf_wavelengths : (Instr.portTrainSuccess 0 0x7F aNbr [0, 0, 0, 0, 0, 0, 0]).wf = false ∧
    (Instr.portTrainSuccess 0 0x0F aNbr [0, 0, 0, 0, 0, 0, 0]).wf = true ∧ (Instr.portTrainSuccess 0 0xFF aNbr [0]).wf = false := by decide
theorem test_wf_neighbour : (Instr.portTrainSuccess 0 0xFF { aNbr with node := 4096 } [0, 0, 0, 0, 0, 0, 0]).wf = false := by decide
theorem test_wf_flit : (Instr.flitReceive 0 []).wf = false ∧ (Instr.flitReceive 0 (List.replicate 8 (List.replicate 36 0))).wf = true := by decide

/-- A message from node 2 to node 1. -/
def aMsg (type : Nat) (body : List Byte) : FabMsg := ⟨1, 2, false, 5, type, false, false, false, false, 0, 6, 0, 3, 0, 0, body⟩
theorem test_wf_message : (Instr.rd 0 (aMsg 256 [])).wf = false ∧ (Instr.rd 0 (aMsg 1 [0])).wf = false ∧
    (Instr.rd 0 { aMsg 1 [] with ord := 1024 }).wf = false ∧ (Instr.rd 0 (aMsg 1 (List.replicate 8 0))).wf = true := by decide

/-- A new cask module. -/
def aCask : Cask := ⟨11, true, true, 0, 1, 0, 0, 0, 100, 10, 0, 0, [], [], 1000000000⟩
theorem test_wf_cask : (Instr.caskInsert 0 { aCask with failedDies := [128] }).wf = false ∧ (Instr.caskInsert 0 aCask).wf = true ∧
    (Instr.caskInsert 0 { aCask with recs := [⟨256, 0, 0, false, 0, 0, 0, 0, 0, [], 0, ⟨0, 0⟩, [], [], [], 0⟩] }).wf = false := by decide

/-- R422: the table gives no command bits, so no word spells one, and the queue stays as it is. -/
theorem test_no_word_spells_a_command : decodeTableWord 8 0x7F = none ∧ State.reset.withFetchWord 8 0x7F = State.reset := by
  exact ⟨rfl, rfl⟩

/-- An idle step on a stopped block changes nothing; a command in front is taken. -/
theorem test_step_takes_the_front : (match step { State.reset with pending := [.thermalAlert 0 20, .sweepEnd] } with
    | .next t => t.pending | _ => []) = [.sweepEnd] := by decide +kernel

/-! Queues and descriptors. -/

/-- NOP, and FENCE at scope 4. -/
def nopD : Line := descr [(0, 1, 0x7F)]
def fenceD : Line := descr [(0, 1, 0x05), (8, 1, 4)]

theorem witness_DescriptorEndsWithItsResults : descOf (.nop 1 0) = some (0x7F, 1, 0, fun _ => okRun) ∧
    Running (withDesc 1 nopD ran) 1 0 0x7F (lined 1 nopD) (begun nopD) ∧
    through (withDesc 1 nopD ran) (do let a ← goes (ctxAt 1 nopD) okRun; given (a == (0, 0, 0))) = true ∧ ran.startedOf 1 0 = none := by
  refine ⟨rfl, ⟨?_, ?_, ?_, ?_⟩, ?_, ?_⟩ <;> decide +kernel

theorem witness_EndingRecordsLowestStatus : (withDesc 1 nopD ran).startedOf 1 0 = some (begun nopD) ∧
    ((withDesc 1 nopD ran).finish 1 0 2 0 0).startedOf 1 0 = some { begun nopD with phase := .finished, status := 2, detail := 4 } := by
  decide +kernel

theorem witness_QueuesTakeTheirOpcodes_nop : Running (withDesc 1 nopD ran) 1 0 0x7F (lined 1 nopD) (begun nopD) ∧ (begun nopD).status = 0 := by
  refine ⟨⟨?_, ?_, ?_, ?_⟩, ?_⟩ <;> decide +kernel
theorem witness_QueuesTakeTheirOpcodes_fence : Running (withDesc 1 fenceD ran) 1 0 0x05 (lined 1 fenceD) (begun fenceD) ∧
    (begun fenceD).status = 0 ∧ lf fenceD 8 1 % 8 ≤ 4 ∧ ∀ y ∈ (lined 1 fenceD).running, 0 ≤ y.seq := by
  refine ⟨⟨?_, ?_, ?_, ?_⟩, ?_⟩ <;> decide +kernel
/-- A NOP with number 0 ahead of a FENCE with number 1. -/
def behindNop : Queue := { lined 1 nopD with running := [begun nopD, { begun fenceD with seq := 1 }] }
theorem witness_QueuesTakeTheirOpcodes_fence_waits :
    Running { ran with queues := [(1, behindNop)] } 1 1 0x05 behindNop { begun fenceD with seq := 1 } ∧ lf fenceD 8 1 % 8 ≤ 4 ∧
    (begun nopD) ∈ behindNop.running ∧ (begun nopD).seq < 1 := by
  refine ⟨⟨?_, ?_, ?_, ?_⟩, ?_⟩ <;> decide +kernel

/-- The block of an invalidation of frame 1 of PASID 0, at DVA 0x10000, and the descriptor that names it. -/
def invD : Line := descr [(0, 1, 0x82), (8, 8, 0x10000)]
def invDev : Dev := poked [(0x1000A, [1]), (0x10010, [1])] stored
theorem witness_InvalidationsAndDeletionsRun_invalidate : Running (withDesc 0 invD invDev) 0 0 0x82 (lined 0 invD) (begun invD) ∧
    invDev.invs = [] ∧ through (withDesc 0 invD invDev) (do
      let bs ← goes (ctxAt 0 invD) (rdV 0x10000 32)
      let i := invOf ⟨0, 0⟩ bs
      given (invOk i && i.mode == 0 && ! i.all && i.frames == 1)
      let f ← goes (ctxAt 0 invD) (otherFns i.pasid)
      given (! f)
      let k ← get
      given (decide (k.d.invs.length < 64))) = true := by
  refine ⟨⟨?_, ?_, ?_, ?_⟩, ?_, ?_⟩ <;> decide +kernel
/-- Queue 0 deletes queue 1 of a function with two queues. -/
def delD (abort : Nat) : Line := descr [(0, 1, 0x81), (8, 2, 1), (10, 1, abort)]
def delDev (abort : Nat) : Dev := { ran.setReg (qctKey 0 0) (2 ^ 17) with queues := [(0, lined 0 (delD abort)), (1, lined 1 nopD)] }
theorem witness_InvalidationsAndDeletionsRun_delete : ∀ abort ∈ [false, true],
    Running (delDev (b2n abort)) 0 0 0x81 (lined 0 (delD (b2n abort))) (begun (delD (b2n abort))) ∧
    1 ≤ lf (delD (b2n abort)) 8 2 ∧ lf (delD (b2n abort)) 8 2 < (delDev (b2n abort)).qCount 0 ∧ lf (delD (b2n abort)) 10 1 = b2n abort ∧
    smGet? ((delDev (b2n abort)).qBase 0 + 1) (delDev (b2n abort)).queues = some (lined 1 nopD) ∧ (lined 1 nopD).del = none := by
  intro abort h
  simp only [List.mem_cons, List.not_mem_nil, or_false] at h
  rcases h with rfl | rfl <;> (refine ⟨⟨?_, ?_, ?_, ?_⟩, ?_⟩ <;> decide +kernel)
/-- A request of a descriptor to node 2 that an invalidation was marked behind, and one that it was not. -/
def anInv (fs : List FabMsg) : Invalidation := ⟨0, 0, 0, false, 0, 0x10000, 1, false, fs⟩
def aReq : FabOut := ⟨aMsg 1 [], .desc ⟨1, 0⟩ 5, []⟩
theorem witness_InvalidationsAndDeletionsRun_ends :
    let d : Dev := { ran with invs := [anInv []], fabOut := [aReq] }
    d.invs.find? (fun i => i.queue == 0 && i.seq == 0) = some (anInv []) ∧ (∀ o ∈ d.fabOut, o.msg ∉ (anInv []).inflight) ∧
    d.issuedWaits (anInv []) = false ∧ ∃ o ∈ d.fabOut, o.msg ∈ (anInv [aMsg 1 []]).inflight := by decide +kernel

/-- Queue 1 with one slot read ahead and rings of 16 entries, whose completions lie at 0x10000 without a signal. -/
def ringCtx (coalN ien : Nat) : Line := descr [(8, 8, 0x10000), (32, 1, 4), (33, 1, 4), (36, 2, 16), (38, 2, coalN), (44, 4, ien)]
def ahead (s : Staged) : Queue := { lined 1 nopD with ctx := ringCtx 0 0, running := [], staged := [s] }
theorem witness_FrontDescriptorStarts :
    let d : Dev := { stored with queues := [(1, ahead ⟨0, nopD, false, false⟩)] }
    d.power.st = .run ∧ smGet? 1 d.queues = some (ahead ⟨0, nopD, false, false⟩) ∧ (ahead ⟨0, nopD, false, false⟩).del = none ∧
    (ahead ⟨0, nopD, false, false⟩).mayStart ⟨0, nopD, false, false⟩ = true ∧
    (match d.turnOf 1 with
      | some a => (match Dev.unitTry { d with arb := a } (startChecks { d with arb := a } (ahead ⟨0, nopD, false, false⟩) nopD) with
        | (.ok (0, 9, []), _) => true | _ => false)
      | none => false) = true ∧
    (ahead ⟨0, nopD, false, true⟩).mayStart ⟨0, nopD, false, true⟩ = true ∧ lf nopD 0 1 = 0x7F := by
  decide +kernel

/-- An admin queue that may start: it has its turn, the other one has not. -/
theorem witness_FrontDescriptorStarts_turn :
    let u : Staged := ⟨0, nopD, false, false⟩
    let d : Dev := { stored with queues := [(0, { ahead u with lq := 0 }), (1, ahead u)] }
    d.power.st = .run ∧ smGet? 1 d.queues = some (ahead u) ∧ (ahead u).mayStart u = true ∧ (d.turnOf 0).isSome = true ∧ d.turnOf 1 = none ∧
    (0, { ahead u with lq := 0 }) ∈ d.queues ∧ { ahead u with lq := 0 }.startable = true ∧ 0 ∉ d.arb.stuck := by
  decide +kernel

/-- Queue 1 with an ended NOP. -/
def endedNop : Started := { begun nopD with phase := .finished }
def posting (coalN ien : Nat) : Queue := { lined 1 nopD with ctx := ringCtx coalN ien, running := [endedNop] }
theorem witness_CompletionIsPosted : ∀ ien ∈ [0, 1],
    let x := posting 0 ien
    let d : Dev := { stored with queues := [(1, x)] }
    x.running.find? (fun r => r.seq == 0) = some endedNop ∧ x.del = none ∧ lf nopD 0 1 ≠ 0x20 ∧ d.outstanding ⟨1, 0⟩ = false ∧
    d.writePending (.eng .queueFront) none = false ∧ endsOk (d.unitTry (postM x (completionBytes 1 x endedNop))) = true ∧
    x.ien = decide (ien = 1) ∧ bit (lf nopD 1 1) 1 = false ∧ x.coalN = 0 ∧ x.fn < 1024 := by
  decide +kernel
theorem witness_CompletionIsPosted_coalesced :
    let x : Queue := { posting 4 1 with unsignalled := 1, coalWait := true }
    smGet? 1 { ran with queues := [(1, x)] }.queues = some x ∧ x.coalWait = true ∧ 0 < x.unsignalled ∧ x.fn < 1024 := by decide +kernel

theorem witness_CompletionRecord : (posting 0 0).cqNext < (posting 0 0).cqN ∧ (posting 0 0).cqNext + 1 < (posting 0 0).cqN ∧
    { posting 0 0 with cqNext := 15 }.cqNext + 1 = { posting 0 0 with cqNext := 15 }.cqN ∧
    { endedNop with detail := 4 }.pois0 = false ∧ { endedNop with detail := 4 }.detail ≠ 0 := by decide +kernel

/-- A range of queues free of every other, and one that overlaps function 1's. -/
theorem witness_FunctionRegistersAct_range :
    let d := ran.setReg (qctKey 1 0) (2 ^ 17 + 2)
    ran.pathAns .fm none false false = .pass ∧ ran.rf (qctKey 5 16) 0 0 = 0 ∧ ran.rangeTaken 5 0 2 = false ∧ d.rangeTaken 5 3 2 = true := by
  decide +kernel
theorem witness_FunctionRegistersAct_enable :
    let d := (stored.setReg (qctKey 5 0) (2 ^ 17)).setReg (qctKey 5 8) 0x10000
    let d := poked [(0x10000, [0, 0, 2, 0, 0, 0, 0, 0, 0, 0x10, 2, 0, 0, 0, 0, 0, 0, 0, 3]), (0x10020, [4, 4, 1])] d
    d.pathAns (.fn 5) (some 5) false false = .pass ∧ d.rf (qctKey 5 16) 0 0 = 0 ∧ d.qCount 5 ≠ 0 ∧
    (((d.setLatch (.fn 5) ⟨none, none⟩).setRf (qctKey 5 16) 0 0 1).createQueue 5 0).1 = some 0 ∧
    (d.setReg (qctKey 5 16) 1).rf (qctKey 5 16) 0 0 = 1 ∧ (∀ p ∈ d.queues, p.2.fn ≠ 5) ∧
    ∃ p ∈ { d with queues := [(1, { lined 1 nopD with fn := 5 })] }.queues, p.2.fn = 5 := by
  decide +kernel
theorem witness_FunctionRegistersAct_vectors : ran.pathAns (.fn 1023) (some 1023) false false = .pass ∧
    ({ ran with pba := [2048 * 1023 + 2047] }.pba.contains (2048 * 1023 + 2047)) = true ∧ ran.pba.contains (2048 * 1023 + 2047) = false := by
  decide +kernel

/-! Faults, migration, timetables, searches. -/

/-- A fault area whose window runs, and a fault. -/
def anArea (pending : Bool) : FaultArea := ⟨0x4000, 0, true, true, pending, false, false⟩
def aFault : FaultEntry := ⟨1, 0, 5, 1, 1, 1, 0, 0, 0x50000, 3, [⟨1, 0⟩], true⟩
theorem witness_FaultTimersAndMigrationsEnd_area : smGet? 0 { stored with areas := [(0, anArea false)] }.areas = some (anArea false) ∧
    (anArea false).window = true ∧ (anArea false).pendingSignal = false ∧ (anArea true).pendingSignal = true ∧
    (match stored.unitRun (pasidCtx 0) with | (some (.ok _), _) => true | _ => false) = true ∧
    Armer.faultArea 0 ∈ { stored with polledLines := [.faultArea 0] }.polledLines := by
  decide +kernel
theorem witness_FaultTimersAndMigrationsEnd_tmo :
    { stored with faults := [aFault] }.faults.find? (fun g => g.id == aFault.id && g.kind != 4) = some aFault ∧ stored.rf 0x6008 13 0 ≠ 0 := by
  decide +kernel

/-- A migration of page 1 whose leaf stands at 0x4000. -/
def aMig (leaf : Nat) : Migration := ⟨0, 1, 0x4000, leaf, 1, [⟨1, 0⟩], false, 2, 0x10000, 0⟩
theorem witness_FaultTimersAndMigrationsEnd_dma :
    let d : Dev := { stored with migrations := [aMig 0x0F] }
    d.migrations.find? (fun m => m.pasid == 0 && m.page == 1) = some (aMig 0x0F) ∧
    (match d.unitRun (pasidCtx 0) with | (some (.ok _), _) => true | _ => false) = true := by
  decide +kernel

/-- A timetable of one entry at 0x10000, which copies nothing after no other. -/
def ttD : Line := descr [(0, 1, 0x03), (8, 8, 0x10000), (16, 4, 1)]
def ttBytes : List Byte := List.replicate 24 0 ++ List.replicate 8 0xFF ++ List.replicate 32 0
def ttDev : Dev := withDesc 1 ttD (poked [(0x10000, ttBytes)] stored)
theorem witness_TimetablesRun_taken : Running ttDev 1 0 0x03 (lined 1 ttD) (begun ttD) ∧ ttDev.table ⟨1, 0⟩ = none ∧
    lf ttD 8 8 % 64 = 0 ∧ lf ttD 16 4 = 1 ∧ ttTmo ttD ≤ 10000000 ∧ ttInflight ttD ≤ 256 ∧
    through ttDev (do
      let (bs, ps) ← goes (ctxAt 1 ttD) (rdRawV 0x10000 64)
      given (! ps.any id && (ttEntry (fld bs 0 64)).ok 0)) = true := by
  refine ⟨⟨?_, ?_, ?_, ?_⟩, ?_⟩ <;> decide +kernel
/-- The timetable taken up, with its entry in a state; and one whose entry waits on the semaphore at 0x10000. -/
def taken (st : Nat) : Timetable := ⟨⟨1, 0⟩, [leNat ttBytes], [st], [], [], [], []⟩
def waiting : Timetable := { taken 0 with entries := [leNat ttBytes + 2 ^ 256 * 0x10000] }
theorem witness_TimetablesRun_entries :
    let d (t : Timetable) : Dev := { ttDev with timetables := [t] }
    (d (taken 0)).table ⟨1, 0⟩ = some (taken 0) ∧ (d (taken 0)).startedOf 1 0 = some (begun ttD) ∧ (taken 0).starts 1 0 = true ∧
    (match (d (taken 0)).tableRun ⟨1, 0⟩ 0 ((taken 0).entry 0).eng (startEntryM ((taken 0).entry 0)) with | (some (.ok ()), _) => true | _ => false) = true ∧
    (taken 1).st 0 = 1 ∧
    (match (d (taken 1)).tableRun ⟨1, 0⟩ 0 ((taken 1).entry 0).eng (workEntryM ((taken 1).entry 0)) with | (some (.ok 0), _) => true | _ => false) = true ∧
    waiting.waits 0 = true ∧ Armer.semaphore 1 0 ∈ { d waiting with polledLines := [.semaphore 1 0] }.polledLines := by
  decide +kernel

/-- Lines that blocks have armed. -/
def watched (w : Armer) : DirEntry := ⟨.owned, false, [3], [3], some w, none⟩
theorem witness_WatchEventIsDelivered_queue :
    let x : Queue := { lined 1 nopD with ctx := descr [(16, 8, 0x30000), (32, 1, 4), (33, 1, 4)] }
    let d : Dev := { stored with queues := [(1, x)], raised := [.queue 1] }
    Armer.queue 1 ∈ d.raised ∧ (d.readDoorbell 1).1 = true := by decide +kernel
theorem witness_WatchEventIsDelivered_area :
    let d : Dev := { stored with raised := [.faultArea 0, .semaphore 1 0] }
    Armer.faultArea 0 ∈ d.raised ∧ ((d.flushFaults 0).faults.any (fun f => f.pasid == 0 && ! f.written)) = false ∧
    Armer.semaphore 1 0 ∈ d.raised := by decide +kernel
theorem witness_WatchEventIsDelivered_snoop :
    let pl := plineOf 42 0x20000
    let d : Dev := { stored with dir := [(pl, watched (.queue 1))], snoopDue := [pl] }
    d.pline 0x20000 = some pl ∧ pl ∈ d.snoopDue ∧ d.unresp = [] ∧ smGet? pl d.dir = some (watched (.queue 1)) := by decide +kernel

/-- An index of one centroid, which is tombstoned, at 0x11000; a search of it, and its operands at 0x10000. -/
def searchD : Line := descr [(0, 1, 0x20), (8, 8, 0x10000), (16, 8, 0x18000)]
def searchOb : List Byte := leBytes 8 0x13000 ++ leBytes 8 0 ++ leBytes 2 1 ++ leBytes 2 1 ++ leBytes 2 0 ++ leBytes 2 0 ++ leBytes 2 1
def indexBs : List Byte := leBytes 8 0x14000 ++ leBytes 8 0x14000 ++ leBytes 8 0 ++ leBytes 8 0x14000 ++ leBytes 8 0x12000 ++ leBytes 8 0x14000
  ++ leBytes 8 0x20000 ++ leBytes 8 0x20000 ++ leBytes 8 0x14000 ++ leBytes 8 0x14000 ++ leBytes 8 0 ++ leBytes 8 1 ++ leBytes 4 1 ++ leBytes 4 0
  ++ leBytes 2 32 ++ leBytes 2 16 ++ [8, 1, 0, 0, 1, 1] ++ leBytes 2 9
def searchDev : Dev := withNote 1 searchD [0, leNat indexBs] ((poked [(0x10000, searchOb), (0x11000, indexBs), (0x12000, [1])] stored).setReg 0xC000 0x11001)
/-- A search with no lists left, and one with a part that has ended. -/
def aSearch (ps : List SearchPart) : Search := ⟨⟨1, 0⟩, leNat indexBs, leNat searchOb, [], [], 0, 0, ps, [], 0, []⟩
theorem witness_SearchGoesOnInRounds : Running searchDev 1 0 0x20 (noted 1 searchD [0, leNat indexBs]) { begun searchD with note := [0, leNat indexBs] } ∧
    (searchDev.searches.any (fun y => y.desc == ⟨1, 0⟩)) = false ∧ through searchDev (goes (ctxAt 1 searchD) (startSearch searchD)) = true ∧
    through { searchDev with searches := [aSearch [⟨0, 0, 1, true⟩]] } (goes (ctxAt 1 searchD) (endPart 0)) = true := by
  refine ⟨⟨?_, ?_, ?_, ?_⟩, ?_, ?_, ?_⟩ <;> decide +kernel

/-! Hosts: accesses, the directory, timeouts, decoders, revocations. -/

/-- The last line of frame 3 in the last window byte's place, and a line of frame 2. -/
theorem home_free : HomeFree stored 0x3FFC0 (newEntry 1 43 3 true) := by
  refine ⟨?_, ?_, ?_, ?_, ?_, ?_, ?_, ?_, ?_, ?_, ?_, ?_, ?_, ?_⟩ <;> decide +kernel
theorem host_free : HostFree stored 0 0x1003FFFF 0x3FFC0 := by
  refine ⟨?_, ?_, ⟨0x3FFFF, ?_, ?_⟩, ?_, ?_, ?_, ?_⟩ <;> decide +kernel
theorem witness_HostReadIsServedFromHome : HomeFree stored 0x3FFC0 (newEntry 1 43 3 true) ∧ HostFree stored 0 0x1003FFFF 0x3FFC0 ∧
    smGet? (plineOf 43 0x3FFC0) stored.dir = none ∧ (stored.setEntries (dirSet (plineOf 43 0x3FFC0))).length < 8 :=
  ⟨home_free, host_free, by decide +kernel⟩
theorem witness_HostWriteIsAppliedAtHome : HomeFree stored 0x3FFC0 (newEntry 1 43 3 true) ∧ HostFree stored 0 0x1003FFFF 0x3FFC0 ∧
    pEgroup (stored.precOf (newEntry 1 43 3 true)) = 0 ∧ smGet? (plineOf 43 0x3FFC0) stored.dir = none ∧ Memory.wf stored.mem = true :=
  ⟨home_free, host_free, by decide +kernel⟩
theorem witness_DeviceAccessIsServedFromHome : (0x3FFC0 : Nat) % 64 = 0 ∧ HomeFree stored 0x3FFC0 (newEntry 1 43 3 true) ∧
    smGet? (plineOf 43 0x3FFC0) stored.dir = none ∧ pEgroup (stored.precOf (newEntry 1 43 3 true)) = 0 ∧ Memory.wf stored.mem = true :=
  ⟨rfl, home_free, by decide +kernel⟩

/-- R36 at the first and last byte of the window, and one byte beyond it. -/
theorem witness_WindowsTranslate : smGet? 0 stored.hdm = some ⟨0x10000000, 0x10000000⟩ ∧ (∀ k < 8, k ≠ 0 → smGet? k stored.hdm = none) ∧
    stored.hpaOff 0 0x10000000 = some 0 ∧ stored.hpaOff 0 0x1FFFFFFF = some 0xFFFFFFF ∧ stored.hpaOff 0 0x20000000 = none ∧
    stored.power.linkUp = true ∧ 0 ∈ stored.activeLds := by decide +kernel
theorem test_windows_translate_miss : ((after (.hostRead 0 0x20000000 .s 5) stored).out.head?) = some (.hostUnsupported 0 5) := by decide +kernel

theorem witness_DecodersCommit : stored.power.linkUp = true ∧ 0 ∈ stored.activeLds ∧
    smGet? 7 stored.hdm = none ∧ (stored.setReg 0x6438 0x10000000).winOrigin 0 7 = 2 ^ 28 ∧
    stored.winOrigin 0 0 + 0x10000000 ≤ (stored.setReg 0x6438 0x10000000).winOrigin 0 7 ∧ smGet? 0 stored.hdm = some ⟨0x10000000, 0x10000000⟩ ∧ stored.revs = [] := by
  decide +kernel

/-- Entries that list one and two hosts. -/
def sharedBy (ls : List Nat) : DirEntry := ⟨.shared, false, ls, ls, none, none⟩
def ownedBy (l : Nat) : DirEntry := ⟨.owned, false, [l], [l], none, none⟩
def listed (x : DirEntry) : Dev := { stored with dir := [(plineOf 43 0x3FFC0, x)] }
theorem witness_DirectoryTransitions : ∀ x ∈ [sharedBy [0], sharedBy [0, 1], ownedBy 15], (listed x).unresp = [] ∧
    smGet? (plineOf 43 0x3FFC0) (listed x).dir = some x ∧ x.bi = none ∧ x.ovf = false ∧ x.watch = none ∧ x.ptrs ≠ [] ∧
    (listed x).trackerFree (plineStack (plineOf 43 0x3FFC0)) (.hostRead 2 0x3FFC0 .a 5) = true := by decide +kernel
theorem witness_DirectoryTransitions_asks : (sharedBy [0]).ptrs.filter (· ≠ 0) = [] ∧ (sharedBy [0, 1]).ptrs.filter (· ≠ 0) ≠ [] ∧
    (ownedBy 15).ptrs = [15] ∧ (2 : Nat) ≠ 15 := by decide

/-- A line in BI_WAIT for host 0. -/
def asked : DirEntry := { ownedBy 0 with bi := some ⟨[0], true, none, false, false⟩ }
theorem witness_SnoopsAreAnsweredAndLinesGivenBack_answer : (listed asked).power.linkUp = true ∧ 0 ∈ (listed asked).activeLds ∧
    (listed asked).hpaOff 0 0x1003FFC0 = some 0x3FFC0 ∧ (listed asked).pline 0x3FFC0 = some (plineOf 43 0x3FFC0) ∧
    (0, plineOf 43 0x3FFC0) ∉ (listed asked).timedOut ∧ smGet? (plineOf 43 0x3FFC0) (listed asked).dir = some asked ∧
    0 ∉ (listed asked).unresp ∧ (∀ x ∈ (listed (ownedBy 0)).dir, x.2.bi = none) := by decide +kernel
theorem witness_SnoopsAreAnsweredAndLinesGivenBack_back :
    HostFree (listed (ownedBy 0)) 0 0x1003FFC0 (64 * (0x3FFC0 / 64)) ∧ HomeFree (listed (ownedBy 0)) 0x3FFC0 (newEntry 1 43 3 true) ∧
    (listed (ownedBy 0)).pline 0x3FFC0 = some (plineOf 43 0x3FFC0) ∧ pEgroup ((listed (ownedBy 0)).precOf (newEntry 1 43 3 true)) = 0 ∧
    (ownedBy 0).ptrs = [0] ∧ 0 ∈ (sharedBy [0, 1]).ptrs ∧ (sharedBy [0, 1]).ptrs.filter (· ≠ 0) ≠ [] := by
  refine ⟨⟨?_, ?_, ⟨0x3FFC0, ?_, ?_⟩, ?_, ?_, ?_, ?_⟩, ⟨?_, ?_, ?_, ?_, ?_, ?_, ?_, ?_, ?_, ?_, ?_, ?_, ?_, ?_⟩, ?_⟩ <;> decide +kernel

theorem witness_SilentHostsAreSwept : (listed asked).pline 0x3FFC0 = some (plineOf 43 0x3FFC0) ∧
    smGet? (plineOf 43 0x3FFC0) (listed asked).dir = some asked ∧ asked.bi = some ⟨[0], true, none, false, false⟩ ∧
    { stored with unresp := [0], sweep := some [0] }.sweep = some [0] ∧ stored.dir = [] := by decide +kernel

/-- A host's read, refused twice, that holds a ticket or nothing. -/
def aRead : MemReq := .hostRead 0 0x3FFC0 .a 5
def refusedWith (t : Option Nat) : Dev := { stored with refused := [⟨aRead, 0x3FFC0 / 64, 2, none, t⟩] }
theorem witness_RefusedRequestsGoOn : (refusedWith none).refused[0]? = some ⟨aRead, 0x3FFC0 / 64, 2, none, none⟩ ∧
    (refusedWith none).holdsTracker aRead = false ∧ ((refusedWith none).waiting.any (fun w => w.req == aRead)) = false ∧
    (refusedWith (some 3)).nextTicket (0x3FFC0 / 64) = some ⟨aRead, 0x3FFC0 / 64, 2, none, some 3⟩ ∧
    ((refusedWith (some 3)).marks (0x3FFC0 / 64)).length < 14 ∧
    (refusedWith (some 3)).reservedFree ((refusedWith (some 3)).lineNode (0x3FFC0 / 64)) aRead = true := by decide +kernel

/-- An extent of frames 2 and 3, and EXTENT_REVOKE of it by its composition. -/
def anExt (st : ExtState) : Extent := ⟨0, 7, 5, 2, 2, 9, st, true, none⟩
def revD (lds mode : Nat) : Line := descr [(0, 1, 0x41), (8, 4, 7), (12, 4, 5), (16, 2, lds), (18, 1, mode)]
def extDev : Dev := { stored.setReg 0xD000 1 with extents := [anExt .active] }
theorem witness_RevocationsAreInstalledAndDrain_install : ∀ m ∈ [1, 2, 3],
    let d := withDesc 1 (revD 0x8001 m) extDev
    d.extOn = true ∧ d.extBy (lf (revD 0x8001 m) 8 4) = some (anExt .active) ∧ (anExt .active).comp = (begun (revD 0x8001 m)).comp ∧
    lf (revD 0x8001 m) 12 4 = (anExt .active).epoch ∧ d.revs.length < 256 ∧ lf (revD 0x8001 m) 18 1 % 4 = m ∧ lf (revD 0x8001 m) 16 2 ≠ 0 ∧
    smGet? 1 d.queues = some (lined 1 (revD 0x8001 m)) ∧ lf (revD 0x8001 m) 0 1 = 0x41 := by decide +kernel
theorem witness_RevocationsAreInstalledAndDrain_drain :
    let r : Revocation := ⟨7, 5, 0x8001, 2, 2, some ⟨1, 0⟩, true, 0, [], []⟩
    let d : Dev := { extDev with revs := [r] }
    d.revs.find? (fun r => r.extent == 7 && r.draining) = some r ∧ d.linesTracked 2 2 = [] ∧ d.heldIn 0x8001 2 2 = [] ∧ d.movesIn 2 2 = false ∧
    d.earlyFab 7 = false ∧ d.parityIn 2 2 = false := by decide +kernel

/-! The turntable and the tier map. -/

/-- Frame 1 being promoted from T1, where its record is a ZERO record, and from a peer; being demoted; being relocated. -/
def aMove (kind : MoveKind) (tier : Nat) : Move := ⟨kind, 41, 50, 0, false, tier, 0, ⟨0, 0⟩, false, 0, 0, 0, [], []⟩
def movedEntry (tier : Nat) : TEntry := { newEntry 0 41 3 false with tier := tier, mov := true }
def moving (kind : MoveKind) (tier : Nat) (e : TEntry) : Dev :=
  { stored with moves := [(1, aMove kind tier)], tmap := smSet 1 e stored.tmap }
theorem witness_PromotionsLand : ∀ t ∈ [2, 3],
    let d := moving .promote t (movedEntry t)
    smGet? 1 d.moves = some (aMove .promote t) ∧ smGet? 1 d.tmap = some (movedEntry t) ∧ (movedEntry t).psn = false ∧ d.sourceHere 1 = true ∧
    (aMove .promote t).landed.testBit 15 = false ∧ (aMove .promote t).queued = 0 ∧ d.moveContent 1 (aMove .promote t) (movedEntry t) = some ([], []) := by decide +kernel
/-- A cask bound to slot 0 that serves. -/
def serving (state : Nat) (recs : List CaskRec) : SlotSt := { SlotSt.empty with
  cask := some { aCask with bind := ownerId, state := state, recs := recs }
  detect := true
  rail := true
  checked := true
  serving := true }
def caskDev : Dev := { stored with slots := [(0, serving 2 [])] }
theorem witness_PromotionsLand_open :
    let d : Dev := { caskDev with openPend := [(1, 0)] }
    smGet? 1 d.openPend = some 0 ∧ openLost ≠ 0 ∧ smGet? 1 d.tmap = some (newEntry 0 41 3 false) ∧ d.openSlot 0 = some 0 := by decide +kernel

theorem witness_DemotionsBeginAndCommit_start : stored.mapOn = true ∧ stored.power.st = .run ∧ stored.wantDemote = [] ∧
    max 1 stored.waterHigh ≤ stored.poolFree := by decide +kernel
theorem witness_DemotionsBeginAndCommit_commit :
    let d : Dev := { caskDev with moves := [(1, aMove .demote 1)], tmap := smSet 1 (movedEntry 0) stored.tmap }
    smGet? 1 d.moves = some (aMove .demote 1) ∧ smGet? 1 d.tmap = some (movedEntry 0) ∧ d.linesOfLoc 41 = [] ∧
    d.frameLines (movedEntry 0) = [] ∧ (aMove .demote 1).destTier = 1 ∧
    (d.slot 0).canTake = true ∧ (d.parity.any (fun p => p.frame == 1 && p.durable)) = false ∧ (aMove .relocate 0).kind = .relocate := by
  decide +kernel

theorem witness_MapRootsAndLeavesComeAndGo_loss : 0 < stored.stacks ∧ stored.roots = [(0, 0)] ∧ stored.leafStack 0 0 = some 0 ∧
    stored.leafStack 0 1 = some (stored.stacks / 2) ∧ { stored with leafAt := [(1, 0)] }.leafStack 0 1 = none := by decide +kernel
theorem witness_MapRootsAndLeavesComeAndGo_rebuild :
    let d : Dev := { stored with lostLeaves := [0], leafWritten := [0], rootBusy := [0] }
    d.roots.find? (fun p => p.2 == 0) = some (0, 0) ∧ 0 ∈ d.lostLeaves ∧ d.casksLoad = false ∧ 0 ∈ d.leafWritten ∧ d.fabOut = [] ∧
    0 ∈ d.rootBusy ∧ d.wantRebuild = [] := by decide +kernel
theorem witness_MapRootsAndLeavesComeAndGo_write :
    let d := { stored.setReg 0x7000 0x20001 with sels := [(pathKey .fm * 0x40000 + 0x7024, 5)] }
    Passes d .fm ∧ bits (d.sel .fm 0x7024) 15 0 = 5 ∧ smGet? 5 d.roots = none ∧ 65535 < d.leaves ∧ 65535 ∉ d.leafSlots ∧ d.rootBusy = [] ∧
    bits (2 * 65535 + 1) 16 1 = 65535 ∧ 0 ∈ d.leafSlots ∧ (2 * 65535 + 1).testBit 62 = false := by
  refine ⟨?_, ?_⟩ <;> (try unfold Passes) <;> decide +kernel
theorem witness_MapRootsAndLeavesComeAndGo_clear : smGet? 0 stored.roots ≠ none ∧ stored.rootFrames 0 ≠ [] ∧
    { stored with tmap := [] }.rootFrames 0 = [] := by decide +kernel

theorem witness_AgeWindowsAndTierRegistersAct : stored.rf 0x7004 15 0 = 50 ∧ Passes ran .fm ∧ State.reset.lock.testBit 1 = false ∧
    ran.mapLaid = false ∧ ran.mapOn = false ∧ (2 : Nat).testBit 1 = true ∧ 16 * (0 + 15) ≤ 15 * stored.pool ∧
    15 * stored.pool < 16 * (0 + stored.pool) := by
  refine ⟨?_, ?_, ?_⟩ <;> (try unfold Passes) <;> decide +kernel

/-! Copies, administration, placements and KV blocks. -/

/-- FILL of 8 bytes, COPY of a line with its second code word poisoned, and WRITE_ACK of 24 bytes at the end of a line. -/
def fillD : Line := descr [(0, 1, 0x02), (8, 8, 0x1FFFC), (16, 8, 8), (24, 8, 0xAB), (32, 1, 2)]
def copyD : Line := descr [(0, 1, 0x01), (8, 8, 0x10000), (16, 8, 0x20000), (24, 8, 64)]
def ackD (scope : Nat) : Line := descr [(0, 1, 0x04), (8, 8, 0x10028), (16, 1, 24), (17, 1, scope), (40, 8, 7)]
theorem witness_MovesAndAdminComplete_fill : Running (withDesc 1 fillD stored) 1 0 0x02 (lined 1 fillD) (begun fillD) ∧ 1 ≤ lf fillD 16 8 ∧
    lf fillD 32 1 ∈ [1, 2, 4, 8] ∧ dvaFits (lf fillD 8 8) (lf fillD 16 8) = true ∧ stored.noBay = false ∧
    through (withDesc 1 fillD stored) (goes (ctxAt 1 fillD)
      (atStage 1 (wrV (lf fillD 8 8) (repeated (leBytes (lf fillD 32 1) (lf fillD 24 8)) (lf fillD 16 8))))) = true := by
  refine ⟨run_of ?_, ?_⟩ <;> decide +kernel
theorem witness_MovesAndAdminComplete_copy :
    let d := withDesc 1 copyD { stored with pois := [0x801] }
    Running d 1 0 0x01 (lined 1 copyD) (begun copyD) ∧ dvaFits (lf copyD 8 8) (lf copyD 24 8) = true ∧
    lf copyD 8 8 + lf copyD 24 8 ≤ lf copyD 16 8 ∧ dvaFits (lf copyD 16 8) (lf copyD 24 8) = true ∧ d.noBay = false ∧
    through d (do
      let (bs, ps) ← goes (ctxAt 1 copyD) (atStage 0 (rdRawV (lf copyD 8 8) (lf copyD 24 8)))
      given (ps.any id && ! ps.all id)
      let ds ← goes (ctxAt 1 copyD) (xlateAll 2 (pagesOf (lf copyD 16 8) (lf copyD 24 8)))
      goes (ctxAt 1 copyD) (atStage 1 (wrPiecesMixed ds (bs.zip ps)))) = true := by
  refine ⟨run_of ?_, ?_⟩ <;> decide +kernel
/-- A fabric with one port, on which node 2 of the same partition can be reached. -/
def meshed (d : Dev) : Dev :=
  let r := 2 ^ 31 + 31 * 2 ^ 7 + 31 * 2 ^ 14 + 31 * 2 ^ 21
  let d := ((d.setReg 0x10000 (1 + 2 ^ 23 + 2 ^ 30 + 2 ^ 24 * 3)).setReg 0x10004 1).setReg 0x10440 0x1FFFF
  ((d.setReg 0x14008 r).setReg 0x1400C r).setPort 0 { PortSt.empty with
    st := .up
    module := true
    credits := [1000, 1000, 1000, 1000, 1000, 1000, 1000]
    owed := [0, 0, 0, 0, 0, 0, 0] }
theorem witness_MovesAndAdminComplete_ack_local : ∀ scope ∈ [0, 4], let l := ackD scope
    Running (withDesc 1 l stored) 1 0 0x04 (lined 1 l) (begun l) ∧ lf l 16 1 ≤ 24 ∧ lf l 8 8 % 64 + lf l 16 1 ≤ 64 ∧ lf l 17 1 % 8 = scope ∧
    through (withDesc 1 l stored) (do
      let fa ← goes (ctxAt 1 l) (xlate (lf l 8 8) 2)
      let k ← get
      given (k.d.isOwn fa)
      goes (ctxAt 1 l) (wr fa (leBytes (lf l 16 1) (lf l 40 24)))) = true := by
  intro scope h
  simp only [List.mem_cons, List.not_mem_nil, or_false] at h
  rcases h with rfl | rfl <;> (refine ⟨run_of ?_, ?_⟩ <;> decide +kernel)
/-- The leaf names node 2, which is reached. -/
theorem witness_MovesAndAdminComplete_ack_remote : let l := ackD 4
    let d := withDesc 1 l (meshed (poked [(0x4006, [2])] stored))
    Running d 1 0 0x04 (lined 1 l) (begun l) ∧ lf l 16 1 ≤ 24 ∧ lf l 8 8 % 64 + lf l 16 1 ≤ 64 ∧ lf l 17 1 % 8 = 4 ∧
    through d (do
      let fa ← goes (ctxAt 1 l) (xlate (lf l 8 8) 2)
      let k ← get
      given (fa / 2 ^ 48 == 2 && ! k.d.isOwn fa && k.d.issueStatus (fa / 2 ^ 48) == none)
      goes (ctxAt 1 l) (noteAcc fa true false false)) = true := by
  refine ⟨run_of ?_, ?_⟩ <;> decide +kernel
def infoD : Line := descr [(0, 1, 0x84), (8, 8, 0x10000)]
theorem witness_MovesAndAdminComplete_info : Running (withDesc 1 infoD stored) 1 0 0x84 (lined 1 infoD) (begun infoD) ∧
    through (withDesc 1 infoD stored) (goes (ctxAt 1 infoD) (wrV (lf infoD 8 8) (infoBytes (withDesc 1 infoD stored) 0))) = true := by
  refine ⟨run_of ?_, ?_⟩ <;> decide +kernel
/-- Queue 0 makes queue 1 of a function with two queues, whose contexts lie at 0x10000: rings of 16 entries at 0x20000 and 0x21000, doorbell
line at 0x30000. -/
def makeD : Line := descr [(0, 1, 0x80), (8, 2, 1)]
def makeDev : Dev := { poked [(0x10040, leBytes 8 0x20000 ++ leBytes 8 0x21000 ++ leBytes 8 0x30000 ++ leBytes 8 0 ++ [4, 4, 0, 0] ++ leBytes 4 16)]
  ((stored.setReg (qctKey 0 0) (2 ^ 17)).setReg (qctKey 0 8) 0x10000) with queues := [(0, lined 0 makeD)] }
theorem witness_MovesAndAdminComplete_create : Running makeDev 0 0 0x80 (lined 0 makeD) (begun makeD) ∧ lf makeD 8 2 = 1 ∧
    makeDev.qCount 0 = 2 ∧ (makeDev.createQueue 0 1).1 = some 0 := by
  refine ⟨⟨rfl, rfl, rfl, ?_⟩, ?_⟩ <;> decide +kernel
/-- An outstanding fault of PASID 0 with number 6, on which descriptor 0 of queue 2 waits. -/
def theFault : FaultEntry := ⟨6, 0, 1, 0, 1, 2, 0, 0, 0x10000, 1, [⟨2, 0⟩], true⟩
def resumeD (fail : Nat) : Line := descr [(0, 1, 0x83), (8, 4, 0), (12, 4, 6), (16, 1, fail)]
theorem witness_MovesAndAdminComplete_resume : ∀ fail ∈ [0, 1], let l := resumeD fail
    let d := withDesc 1 l { stored with faults := [theFault] }
    Running d 1 0 0x83 (lined 1 l) (begun l) ∧ lf l 16 1 = fail ∧ through d (do
      let b ← goes (ctxAt 1 l) (otherFns (lf l 8 4 % 2 ^ 20))
      let k ← get
      given (! b && k.d.faults.find? (fun f => f.pasid == lf l 8 4 % 2 ^ 20 && f.id == lf l 12 4 && f.written && f.kind != 4) == some theFault)) = true := by
  intro fail h
  simp only [List.mem_cons, List.not_mem_nil, or_false] at h
  rcases h with rfl | rfl <;> (refine ⟨run_of ?_, ?_⟩ <;> decide +kernel)

/-- PLACE with its operand block at 0x10000: record 2 is that of frames 0 and 1, and composition 9 may pin four frames. -/
def placeD : Line := descr [(0, 1, 0x08), (8, 8, 0x10000)]
def placeBs (act : Nat) (frames : Nat) : List Byte := leBytes 4 act ++ leBytes 4 2 ++ leBytes 8 0 ++ leBytes 4 frames ++ leBytes 12 0 ++ lineBytes pinRec
def placeDev (act : Nat) : Dev := withDesc 1 placeD { poked [(0x10000, placeBs act 1)] stored with
  quota := [(9, 4)]
  tmap := [(0, newEntry 2 40 3 false), (1, newEntry 2 41 3 false), (2, newEntry 1 42 3 true), (3, newEntry 1 43 3 true)]
  precs := [(1, pinRec), (2, pinRec)] }
theorem witness_PlacementsComplete_record : Running (placeDev 0) 1 0 0x08 (lined 1 placeD) (begun placeD) ∧
    through (placeDev 0) (do
      let p ← goes (ctxAt 1 placeD) (placeOp placeD)
      let k ← get
      given (p.action == 0 && p.prec == 2 && k.d.precOk p.record && pValid (k.d.precRaw p.prec) && pComp (k.d.precRaw p.prec) == 9 &&
        pComp p.record == 9 && pPin p.record && ! k.d.overQuota 9 0)) = true := by
  refine ⟨run_of ?_, ?_⟩ <;> decide +kernel
theorem witness_PlacementsComplete_range : ∀ act ∈ [1, 2, 3], Running (placeDev act) 1 0 0x08 (lined 1 placeD) (begun placeD) ∧
    through (placeDev act) (do
      let p ← goes (ctxAt 1 placeD) (placeOp placeD)
      let fs ← goes (ctxAt 1 placeD) (placeFrames p)
      let k ← get
      given (p.action == act && k.d.mapOn && fs.all k.d.rooted && fs == [0] && pPin (k.d.prec p.prec) && ! k.d.overQuota 9 2 &&
        k.d.rootBusy.isEmpty && k.d.lostLeaves.isEmpty && (k.d.bindAll p.prec 0 fs).2.1 == none)) = true := by
  intro act h
  simp only [List.mem_cons, List.not_mem_nil, or_false] at h
  rcases h with rfl | rfl | rfl <;> (refine ⟨run_of ?_, ?_⟩ <;> decide +kernel)

/-- KV_APPEND of one row of 64 elements of FP16 at position `pos` of the block at 0x20000, from rows at 0x10000. -/
def appendD (pos fl : Nat) : Line := descr [(0, 1, 0x11), (8, 8, 0x10000), (16, 8, 0x20000), (40, 2, 64), (42, 1, pos), (43, 1, 1), (44, 1, 1),
  (45, 1, 0x02), (47, 1, fl)]
theorem witness_KvBlocksComplete_append : ∀ pos ∈ [0, 63], let l := appendD pos 0
    let d := withDesc 1 l stored
    Running d 1 0 0x11 (lined 1 l) (begun l) ∧ lf l 46 1 = 0 ∧ okDim (lf l 40 2) = true ∧ lf l 42 1 = pos ∧ lf l 43 1 = 1 ∧ lf l 47 1 ≤ 1 ∧
    lf l 48 16 = 0 ∧ okKvFmt (lf l 45 1) = true ∧ lf l 44 1 ∈ [0x00, 0x01, 0x02] ∧ dimFits (lf l 40 2) (lf l 45 1) = true ∧
    through d (do
      let fa ← goes (ctxAt 1 l) (xlate (lf l 16 8) 2)
      let k ← get
      given (blockOk fa (kvBlockBytes 0x02 64) && k.d.isOwn fa && ! k.d.noBay && (match k.d.entry (faOff fa / 65536) with
        | some e => ! pLossy (k.d.precOf e) | none => false))
      let src ← goes (ctxAt 1 l) (atStage 0 (rdV (lf l 8 8) (2 * lf l 43 1 * 128)))
      match convertRows 1 0x02 64 ((List.range 2).map (fun i => slice src (i * 128) 128)) with
      | none => given false
      | some rows =>
        goes (ctxAt 1 l) (atStage 2 (wr (fa + lf l 42 1 * kvRowBytes 0x02 64) (rows.take 1).flatten))
        goes (ctxAt 1 l) (atStage 2 (wr (fa + (64 + lf l 42 1) * kvRowBytes 0x02 64) (rows.drop 1).flatten))
        if pos = 63 then
          let _ ← goes (ctxAt 1 l) (sealBlock l fa (kvBlockBytes 0x02 64))
          given true
        else given true) = true := by
  intro pos h
  simp only [List.mem_cons, List.not_mem_nil, or_false] at h
  rcases h with rfl | rfl <;> (refine ⟨run_of ?_, ?_⟩ <;> decide +kernel)
/-- KV_RELEASE of the block at 0x20000 with fingerprint 5, whose bucket at 0x30500 holds its entry with `refs` references. -/
def releaseD : Line := descr [(0, 1, 0x11), (8, 8, 0x10000), (16, 8, 0x20000), (46, 1, 1)]
def releaseDev (refs : Nat) : Dev := withDesc 1 releaseD ((poked [(0x10000, leBytes 16 5),
  (0x30500, regEntryBytes ⟨leBytes 16 5, 2 ^ 48 * stored.node + 0x20000, refs, 9, true⟩)] stored).setReg 0xA000 (0x30000 + 1))
theorem witness_KvBlocksComplete_release : ∀ refs ∈ [1, 2], Running (releaseDev refs) 1 0 0x11 (lined 1 releaseD) (begun releaseD) ∧
    lf releaseD 46 1 = 1 ∧ (releaseDev refs).regOn = true ∧ through (releaseDev refs) (do
      let fp ← goes (ctxAt 1 releaseD) (rdV (lf releaseD 8 8) 16)
      let fa ← goes (ctxAt 1 releaseD) (xlate (lf releaseD 16 8) 1)
      let es ← goes (ctxAt 1 releaseD) (bucketOf fp)
      let e := nth es 0 ⟨[], 0, 0, 0, false⟩
      given (matching es fp 9 == some 0 && e.block == fa && e.refs == refs)
      modify (fun k => { k with d := k.d.takeFree.2 })
      goes (ctxAt 1 releaseD) (wrEntry fp 0 (if refs = 1 then List.replicate 32 0 else regEntryBytes { e with refs := e.refs - 1 }))) = true := by
  intro refs h
  simp only [List.mem_cons, List.not_mem_nil, or_false] at h
  rcases h with rfl | rfl <;> (refine ⟨run_of ?_, ?_⟩ <;> decide +kernel)

/-! Tables, updates and streams. -/

/-- A table of two rows of eight FP32 elements at 0x20000, in version 5, whose record lies at 0x30000 as handle 0. -/
def tableBs : List Byte := leBytes 8 (2 ^ 48 * stored.node + 0x20000) ++ leBytes 8 2 ++ leBytes 8 0 ++ leBytes 8 0 ++ leBytes 4 32 ++ leBytes 2 8 ++
  [0x00, 0x1F] ++ leBytes 4 5 ++ leBytes 2 9 ++ [0, 1] ++ List.replicate 16 0
def tabled (l : Line) (ps : List (Nat × List Byte)) : Dev :=
  withNote 1 l [0, leNat tableBs] ((poked ((0x30000, tableBs) :: ps) { stored with ageWindow := 3 }).setReg 0xB000 (0x30000 + 1))
/-- Such a descriptor, which has bound the record as it started. -/
def bound (l : Line) : Started := { begun l with note := [0, leNat tableBs] }
def boundQ (l : Line) : Queue := noted 1 l [0, leNat tableBs]
/-- GATHER_POOL with SUM of one bag of an index of INT32 into 0x20100, its operands at 0x10000. -/
def gatherD : Line := descr [(0, 1, 0x18), (8, 8, 0x10000), (16, 8, 0x20100), (24, 4, 0), (28, 4, 5), (32, 4, 1), (36, 4, 1), (43, 1, 0x1F), (44, 1, 2)]
def gatherDev (i : Nat) : Dev := tabled gatherD
  [(0x10000, leBytes 8 0x10100 ++ leBytes 8 0x10110), (0x10100, leBytes 4 i), (0x10118, [1]), (0x20020, List.replicate 3 0x3F)]
theorem witness_TablesComplete_gather : let l := gatherD
    let i := 1
    Running (gatherDev i) 1 0 0x18 (boundQ l) (bound l) ∧ (gatherDev i).embOn = true ∧ lf l 32 4 = 1 ∧ lf l 36 4 = 1 ∧ lf l 40 1 ≤ 2 ∧
    lf l 8 8 % 32 = 0 ∧ (gatherDev i).noBay = false ∧ through (gatherDev i) (do
      let c := descCtx 1 (boundQ l) (bound l)
      let ob ← goes c (rdV (lf l 8 8) 32)
      let t ← goes c (bindTable 5 true true)
      let obs ← goes c (atStage 2 (rdV (fld ob 8 8) 16))
      given (offsetsOk ((List.range 2).map (fun i => indexAt 1 obs i)) 1)
      let ib ← goes c (atStage 0 (rdRawV (fld ob 0 8) 4))
      let os ← goes c (occurrences t 0 1 true ib.1 ib.2)
      let places ← goes c (placeRows t (distinct (os.filterMap (·.row))))
      goes c (askRows t places)
      let items := List.zipWith (fun (o : Occ) w => (o.row, (o.poison, w))) os (weightsOf 0x1F 1 [] [])
      let k ← get
      let (a, y) ← goes c (poolRounds 0 (k.d.rowSets 0 t) t ⟨0, 0, false, false, lf l 16 8, 32⟩
        (roundsOf (k.d.roundCap (64 * ceilDiv t.used 64) t.dim) places (cutAt ((List.range 2).map (fun i => indexAt 1 obs i)) items))
        ⟨k.d.rowCache, 0, 0, [], []⟩ ⟨0, 0, ⟨[], 0, false⟩, none⟩)
      given (y.unwritten == 0 && y.pooled == 1 && y.stop == none)
      goes c (batchEnds a)) = true := by
  refine ⟨⟨rfl, rfl, rfl, ?_⟩, ?_⟩ <;> decide +kernel
/-- SCATTER_ADD with 1.0 as its factor of one update of FP32 to row 1. -/
def scatterD : Line := descr [(0, 1, 0x19), (8, 8, 0x10100), (16, 8, 0x10200), (24, 4, 0), (28, 4, 5), (32, 4, 1), (36, 4, 0x3F800000)]
def scatterDev : Dev := tabled scatterD [(0x10100, [1]), (0x10202, [0x80, 0x3F])]
theorem witness_TablesComplete_scatter : let l := scatterD
    Running scatterDev 1 0 0x19 (boundQ l) (bound l) ∧ scatterDev.noBay = false ∧ through scatterDev (do
      let c := descCtx 1 (boundQ l) (bound l)
      let t ← goes c (bindTable 5 (! (v32 (lf l 36 4)).special) true)
      let ib ← goes c (atStage 2 (rdRawV (lf l 8 8) 4))
      let os ← goes c (occurrences t 0 1 false ib.1 ib.2)
      let ub ← goes c (atStage 0 (rdRawV (lf l 16 8) 32))
      let places ← goes c (placeRows t (distinct (os.filterMap (·.row))))
      goes c (askRows t places)
      let items := ((List.range 1).zip os).map (fun (x : Nat × Occ) => [(x.2.row, x.1)])
      let k ← get
      let (a, y) ← goes c (addRounds ⟨0, t, v32 (lf l 36 4), 0, ub.1, ub.2⟩ (k.d.rowSets 0 t)
        (roundsOf (k.d.roundCap (64 * ceilDiv (4 * t.dim) 64) 0) places items) ⟨k.d.rowCache, 0, 0, [], []⟩ ⟨[], 0, [], []⟩)
      given (y.rows.length == 1)
      goes c (do lockRows y.locks; batchEnds a)) = true := by
  refine ⟨⟨rfl, rfl, rfl, ?_⟩, ?_⟩ <;> decide +kernel
/-- TABLE_SWITCH of the handle to the record at 0x10000. -/
def switchD : Line := descr [(0, 1, 0x1A), (8, 8, 0x10000), (20, 4, 5)]
def switchDev : Dev := { tabled switchD [(0x10000, tableBs)] with queues := [(1, lined 1 switchD)] }
theorem witness_TablesComplete_switch : let l := switchD
    Running switchDev 1 0 0x1A (lined 1 l) (begun l) ∧ (begun l).step = 0 ∧ switchDev.embOn = true ∧ lf l 16 4 < switchDev.handles ∧
    lf l 24 1 = 0 ∧ switchDev.switchTurn 0 (ctxAt 1 l).did = true ∧ bit (lf l 25 1) 0 = false ∧ through switchDev (do
      let c := ctxAt 1 l
      let bs ← goes c (rdV (lf l 8 8) 64)
      given (tableRec bs).ok
      let old ← goes c (handleRec 0)
      given ((tableRec bs).comp == 9 && old.valid && old.comp == 9 && lf l 20 4 == old.current)
      goes c (wrOwn (switchDev.handleAt 0) (splice bs 40 (leBytes 4 (nextVersion old.current))))) = true := by
  refine ⟨run_of ?_, ?_⟩ <;> decide +kernel
/-- TABLE_MOVE whose one row has moved. -/
def moveD : Line := descr [(0, 1, 0x1A), (24, 1, 1), (28, 4, 1)]
def movedRows : Started := { begun moveD with step := 2, note := [1, 0x20040] }
def moveDev : Dev := { tabled moveD [] with
  queues := [(1, { lined 1 moveD with running := [movedRows] })]
  switchQ := [(0, ⟨1, 0⟩)]
  dirCache := [44032] }
theorem witness_TablesComplete_move : Running moveDev 1 0 0x1A { lined 1 moveD with running := [movedRows] } movedRows ∧ moveDev.embOn = true ∧
    0 < moveDev.handles ∧ lf moveD 24 1 = 1 ∧ movedRows.step = (movePairs movedRows.note).length + 1 ∧ moveDev.rowMoves = [] ∧
    moveDev.switchTurn 0 ⟨1, 0⟩ = true ∧
    through moveDev (do
      let _ ← goes (ctxAt 1 moveD) (handleRec 0)
      let k ← get
      given (k.d == moveDev)) = true := by
  refine ⟨⟨rfl, rfl, rfl, ?_⟩, ?_⟩ <;> decide +kernel
/-- OPT_STEP with SGD of row 0 of one element: hyperparameters at 0x10000, state block at 0x10040, gradient at 0x10080, weights at 0x20000. -/
def optD : Line := descr [(0, 1, 0x28), (8, 8, 0x10080), (16, 8, 0x10000), (24, 8, 0x10040), (40, 4, 1), (44, 1, 2), (45, 1, 0x02)]
def optDev : Dev := withDesc 1 optD (poked [(0x10002, [0x80, 0x3F]), (0x1000E, [0x80, 0x3F]), (0x1001E, [0x80, 0x3F]), (0x10040, leBytes 8 0x20000 ++
  leBytes 8 0x20100), (0x10068, [1]), (0x10070, [1, 0, 0, 0, 0, 0, 0x1F]), (0x10081, [0x3F])] stored)
theorem witness_UpdatesAndStreamsComplete_opt : let l := optD
    Running optDev 1 0 0x28 (lined 1 l) (begun l) ∧ lf l 40 4 = 1 ∧ lf l 44 1 ≤ 2 ∧ lf l 16 8 % 64 = 0 ∧ lf l 24 8 % 64 = 0 ∧ lf l 32 8 = 0 ∧
    through optDev (do
      let c := ctxAt 1 l
      let hb ← goes c (rdV (lf l 16 8) 64)
      let ob ← goes c (rdV (lf l 24 8) 64)
      let h := optHyp hb
      let o := optState ob
      let k ← get
      given (hypOk (lf l 44 1) h && o.inRange (lf l 44 1) && decide (1 ≤ o.rows) && ! isMx (lf l 45 1) && gradFmts.contains (lf l 45 1) &&
        decide (lf l 46 1 ≤ 1) && o.fmtsOk (lf l 44 1) && ! k.d.noBay)
      let gb ← goes c (atStage 0 (rdRawV (lf l 8 8) (1 * (vecBytes (lf l 45 1) o.rowLen).getD 0)))
      let t ← goes c (atStage 2 (optAll o (lf l 44 1) h (lf l 48 4) (bit (lf l 47 1) 0) (optJobs o h (lf l 45 1) gb.1 gb.2 (groupRows [(0, 0)])) []))
      given (t.upd == 1)) = true := by
  refine ⟨run_of ?_, ?_⟩ <;> decide +kernel
/-- STREAM of two vectors of eight FP16 elements, from 0x10100 on to 0x20000 on, its stage records at 0x10000. -/
def streamD : Line := descr [(0, 1, 0x30), (8, 8, 0x10000), (16, 1, 2), (20, 4, 8), (24, 8, 2)]
def stageBs (code at_ : Nat) : List Byte := BitVec.ofNat 8 code :: 1 :: 1 :: List.replicate 13 0 ++ leBytes 8 at_ ++ List.replicate 8 0
def streamDev : Dev := withDesc 1 streamD (poked [(0x10000, stageBs 0x10 0x10100 ++ stageBs 0x50 0x20000)] stored)
theorem witness_UpdatesAndStreamsComplete_stream : let l := streamD
    Running streamDev 1 0 0x30 (lined 1 l) (begun l) ∧ lf l 8 8 % 32 = 0 ∧ lf l 16 1 = 2 ∧ lf l 20 4 = 8 ∧ lf l 24 8 = 2 ∧
    streamDev.noBay = false ∧ through streamDev (do
      let c := ctxAt 1 l
      let bs ← goes c (rdV (lf l 8 8) (32 * lf l 16 1))
      let stages := (List.range (lf l 16 1)).map (fun i => { stageOf (slice bs (32 * i) 32) with pos := i })
      match streamChecks (lf l 20 4) stages with
      | .ok [e0, e1] =>
        let src := nth stages 0 (stageOf [])
        let sink := nth stages 1 (stageOf [])
        let mid := ([sink].zip [e1]).dropLast
        let os ← goes c (operands mid)
        let vs ← goes c (atStage 0 (sourceVecs src (sink.code == scKiln) (lf l 20 4) (lf l 24 8) e0.bytes))
        let out ← goes c (runStages e0 ((mid.zip os).map (fun x => (x.1.1, x.1.2, x.2))) vs)
        let ends ← goes c (atStage sink.pos (sinkVecs sink e1 out.1))
        given (out.1.length == 2 && ends.isEmpty)
      | _ => given false) = true := by
  refine ⟨run_of ?_, ?_⟩ <;> decide +kernel
/-- STREAM of one vector of one FP32 element at 0x10080 through OPT_UPDATE with SGD, whose operands are those of the OPT_STEP above, and WRITE to
0x20200; its stage records lie at 0x10100. -/
def updStreamD : Line := descr [(0, 1, 0x30), (8, 8, 0x10100), (16, 1, 3), (20, 4, 1), (24, 8, 1)]
def stageOp (code fin fout op a b : Nat) : List Byte := BitVec.ofNat 8 code :: BitVec.ofNat 8 fin :: BitVec.ofNat 8 fout :: BitVec.ofNat 8 op :: List.replicate 12 0 ++ leBytes 8 a ++ leBytes 8 b
def updStreamDev : Dev := withDesc 1 updStreamD (poked [(0x10002, [0x80, 0x3F]), (0x1000E, [0x80, 0x3F]), (0x1001E, [0x80, 0x3F]),
  (0x10040, leBytes 8 0x20000 ++ leBytes 8 0x20100), (0x10068, [1]), (0x10070, [1, 0, 0, 0, 0, 0, 0x1F]), (0x10082, [0x80, 0x3F]),
  (0x10100, stageOp 0x10 0 0 0 0x10080 0 ++ stageOp 0x34 0 2 2 0x10000 0x10040 ++ stageOp 0x50 2 2 0 0x20200 0)] stored)
theorem witness_UpdatesAndStreamsComplete_update : let l := updStreamD
    Running updStreamDev 1 0 0x30 (lined 1 l) (begun l) ∧ lf l 8 8 % 32 = 0 ∧ lf l 16 1 = 3 ∧ lf l 20 4 = 1 ∧ lf l 24 8 = 1 ∧
    updStreamDev.noBay = false ∧ through updStreamDev (do
      let c := ctxAt 1 l
      let bs ← goes c (rdV (lf l 8 8) (32 * lf l 16 1))
      let stages := (List.range (lf l 16 1)).map (fun i => { stageOf (slice bs (32 * i) 32) with pos := i })
      match streamChecks (lf l 20 4) stages with
      | .ok [e0, e1, e2] =>
        let src := nth stages 0 (stageOf [])
        let u := nth stages 1 (stageOf [])
        let sink := nth stages 2 (stageOf [])
        let os ← goes c (operands [(u, e1)])
        let vs ← goes c (atStage 0 (sourceVecs src (u.code == scKiln) (lf l 20 4) (lf l 24 8) e0.bytes))
        let out ← goes c (runStages e0 [] vs)
        let (st, a, b) ← goes c (updateStream u sink e1.len e1.span e2.bytes (nth os 0 ⟨[], [], false⟩) out.1 out.2 vs.length)
        given (u.code == scOpt && st == 0 && a == 1 && b == 1)
      | _ => given false) = true := by
  refine ⟨run_of ?_, ?_⟩ <;> decide +kernel

/-! Attention, searches, rebuilds and transfers. -/

/-- ATTN_PARTIAL of one query of 64 FP16 elements on the block at 0x20000, of which no row counts, into 0x30000; operands at 0x10000. -/
def attnD : Line := descr [(0, 1, 0x10), (8, 8, 0x10000), (16, 8, 0x30000), (24, 4, 1)]
def attnDev : Dev := withDesc 1 attnD (poked [(0x10000, leBytes 8 0x10100 ++ leBytes 8 0x10080 ++ leBytes 8 0x10088 ++ leBytes 4 0x3F800000 ++
  leBytes 2 64 ++ [1, 2, 1, 0]), (0x10080, leBytes 8 (2 ^ 48 * stored.node + 0x20000))] stored)
theorem witness_AttentionAndSearchComplete_attention : let l := attnD
    Running attnDev 1 0 0x10 (lined 1 l) (begun l) ∧ lf l 24 4 = 1 ∧ lf l 8 8 % 64 = 0 ∧ through attnDev (do
      let c := ctxAt 1 l
      let ob ← goes c (rdV (lf l 8 8) 64)
      let sh : AttnShape := ⟨fld ob 30 1, fld ob 28 2, fld ob 31 1, fld ob 32 1, fld ob 24 4⟩
      let k ← get
      given (attnShapeStatus sh (fld ob 33 1) == 0 && ! k.d.noBay)
      let qb ← goes c (atStage 1 (rdV (fld ob 0 8) (sh.g * (vecBytes sh.qfmt sh.dim).getD 0)))
      let bb ← goes c (atStage 0 (rdV (fld ob 8 8) 8))
      let lb ← goes c (if fld ob 16 8 != 0 then atStage 0 (rdV (fld ob 16 8) 4) else pure [])
      let blocks := [(fld bb 0 8, fld lb 0 4)]
      match queries sh qb with
      | none => given false
      | some qs =>
        let own ← goes c (splitOnce sh qb true false blocks)
        let cs ← goes c (attnChunks sh false own.1)
        let parts ← goes c partsOf
        given (parts.2.isEmpty && parts.1.isEmpty && (own.2.1 ++ (chunkParts cs).flatMap partEnds).all (· == 0))
        let heads ← goes c (attnHeads sh (chunkParts cs) (fun g => parts.1.map (fun p => recordPart sh.dim (slice p.recs (g * 264) 264))) 0 qs)
        goes c (atStage 4 (writeRecords (lf l 16 8) (fld ob 33 1) (8 + sh.dim * (elemBits (fld ob 33 1) / 8)) 0 heads))) = true := by
  refine ⟨run_of ?_, ?_⟩ <;> decide +kernel
/-- The last round of a search that has found nothing. -/
def endedDev : Dev := { searchDev with searches := [aSearch []] }
theorem witness_AttentionAndSearchComplete_search : let l := searchD
    Running endedDev 1 0 0x20 (noted 1 l [0, leNat indexBs]) { begun l with note := [0, leNat indexBs] } ∧ endedDev.searches.find? (fun v => v.desc == ⟨1, 0⟩) = some (aSearch []) ∧
    through endedDev (do
      let c := ctxAt 1 l
      let order ← goes c (arrivals (List.range 0))
      goes c (atStage 0 (endParts (order.flatMap id)))
      let k ← get
      let z := aSearch []
      let o := searchOps (leBytes 64 z.ops)
      given (k.d.searches.find? (fun v => v.desc == ⟨1, 0⟩) == some z && z.sts.isEmpty && ! o.widen && o.rerank == 0)
      goes c (atStage 3 (wrV (lf l 16 8) (((mergeCands o.keep z.heap).take o.k).flatMap candBytes)))) = true := by
  refine ⟨⟨rfl, rfl, rfl, ?_⟩, ?_⟩ <;> decide +kernel
/-- VINSERT of a vector into list 1, which the index lacks, and VDELETE of ID 0. -/
def insertD : Line := descr [(0, 1, 0x21), (8, 8, 0x10100), (16, 8, 0x10110), (24, 8, 0x10200), (32, 4, 1)]
def insertDev : Dev := { poked [(0x10110, [1])] searchDev with queues := [(1, noted 1 insertD [0, leNat indexBs])], ageWindow := 3 }
def deleteD : Line := descr [(0, 1, 0x22), (8, 8, 0x10100), (16, 4, 1)]
def deleteDev : Dev := { searchDev with queues := [(1, noted 1 deleteD [0, leNat indexBs])] }
theorem witness_AttentionAndSearchComplete_delete : let l := deleteD
    Running deleteDev 1 0 0x22 (noted 1 l [0, leNat indexBs]) { begun l with note := [0, leNat indexBs] } ∧ lf l 16 4 = 1 ∧ through deleteDev (do
      let c := ctxAt 1 l
      let g := indexRec (← goes c boundIndex)
      let k ← get
      given (g.comp == 9 && ! k.d.noBay)
      let ib ← goes c (atStage 0 (rdV (lf l 8 8) 8))
      let y ← goes c (atStage 1 (deleteAllIds g [fld ib 0 8 % 2 ^ 34] (0, 0, [])))
      given (y.1 == 1 && y.2.2.isEmpty)) = true := by
  refine ⟨⟨rfl, rfl, rfl, ?_⟩, ?_⟩ <;> decide +kernel
/-- A block in which nothing is under way at home, and frame 2 is in T0 as `e` says. -/
abbrev Quiet (e : TEntry) (d : Dev) : Prop := d.dir = [] ∧ d.refused = [] ∧ d.rootBusy = [] ∧ d.lostLeaves = [] ∧ d.moves = [] ∧ d.openPend = [] ∧
  d.extOn = false ∧ d.revs = [] ∧ (d.mapOn = true ∧ d.rooted 2 = true ∧ smGet? 2 d.tmap = some e ∧ d.pois = []) ∧ e.psn = false ∧ e.tier = 0 ∧
  d.ageWindow = e.last ∧ d.node = 0

theorem cacheSet_only (d : Dev) (n : Nat) : d.cacheSet n = { d with dirCache := (d.cacheSet n).dirCache, free := (d.cacheSet n).free } := by
  unfold Dev.cacheSet
  split
  · rfl
  · dsimp only
    split <;> rfl

theorem quiet_ready (c : Ctx) (e : TEntry) (off : Nat) (h : off / 65536 = 2) (k : RunSt) (hq : Quiet e k.d) :
    ∃ k', readyLine off false c k = (.ok (), k') ∧ Quiet e k'.d ∧ k'.log = k.log := by
  obtain ⟨h1, h2, h3, h4, h5, h6, h7, h8, ⟨hon, hrt, ht, hps⟩, h10, h11, h12, h13⟩ := hq
  have h9 : k.d.entry 2 = some e := by simp [Dev.entry, hon, hrt, ht]
  have hgm : ∀ src, k.d.gateMap off src = (.go, k.d) := by intro src; simp [Dev.gateMap, h, h3, h4, h9]
  have hx : k.d.extCheck c off false = (0, k.d) := by
    unfold Dev.extCheck Dev.inExtTab Dev.extAt Dev.revFor
    simp only [h7, h8, h]
    cases c.checked <;> cases c.ld <;> simp
  have hgf : k.d.gateFrame off false = (.go, k.d.touch 2 false) := by
    simp [Dev.gateFrame, h, h9, h10, h11, Dev.gateT0, h5, h6, smGet?]
  have hc : ∀ (d : Dev) (code : Nat), d.countRun c code 0 = d := by
    intro d code; unfold Dev.countRun
    split
    · unfold Dev.countDesc; split
      · rfl
      · simp [Dev.count]
    · rfl
  have hm : (k.d.touch 2 false).moves = [] := h5
  have ht2 : smGet? 2 (k.d.touch 2 false).tmap = some e := by
    simp only [Dev.touch, Dev.modEntry, smGet?_smMod, ht, Option.map_some, if_true, h12]
    cases e; simp
  have hp : (k.d.touch 2 false).pline off = some (plineOf e.loc off) := by simp [Dev.pline, h, ht2, h10, h11]
  have hst : reqStores (c.req off false) = false := by
    unfold Ctx.req; split <;> rfl
  have hg : (k.d.touch 2 false).dirGate off (c.req off false) = (none, k.d.touch 2 false) := by
    have e1 : (k.d.touch 2 false).dir = [] := h1
    have e2 : (k.d.touch 2 false).refused = [] := h2
    simp [Dev.dirGate, Dev.holdsTracker, Dev.marks, e1, e2, firstMark, Dev.trackerFree, Dev.trackers, Dev.egFree, hst]
  obtain ⟨d2, hd, hf⟩ : ∃ d2, (k.d.touch 2 false).dirTry off (plineOf e.loc off) none .i (c.req off false) = (.serve, d2) ∧
      d2 = { k.d.touch 2 false with dirCache := d2.dirCache, free := d2.free, found := d2.found, lapseOk := d2.lapseOk, refused := d2.refused } ∧
      d2.refused = [] ∧ d2.out = (k.d.touch 2 false).out := by
    have e1 : (k.d.touch 2 false).dir = [] := h1
    have e2 : (k.d.touch 2 false).refused = [] := h2
    have ed : ((k.d.touch 2 false).cacheSet (dirSet (plineOf e.loc off))).dir = [] := by rw [cacheSet_only]; exact e1
    have es : ((k.d.touch 2 false).cacheSet (dirSet (plineOf e.loc off))).settleLine (plineOf e.loc off) off =
        (k.d.touch 2 false).cacheSet (dirSet (plineOf e.loc off)) := by
      unfold Dev.settleLine; rw [ed]; rfl
    refine ⟨((k.d.touch 2 false).cacheSet (dirSet (plineOf e.loc off))).unrefuse (c.req off false), ?_, ?_, ?_, ?_⟩
    · have hs : (k.d.touch 2 false).dirStage off (plineOf e.loc off) none .i (c.req off false) =
          (.serve, (k.d.touch 2 false).cacheSet (dirSet (plineOf e.loc off))) := by
        simp only [Dev.dirStage, es, ed]
        rfl
      simp only [Dev.dirTry, hg, hs]
    · rw [cacheSet_only]; rfl
    · show ((k.d.touch 2 false).cacheSet _).refused.filter _ = []
      rw [cacheSet_only]; show (k.d.touch 2 false).refused.filter _ = []; rw [e2]; rfl
    · show ((k.d.touch 2 false).cacheSet _).out = _
      rw [cacheSet_only]
  have hq2 : Quiet e d2 := by
    obtain ⟨f1, f2, f3⟩ := hf
    rw [f1]
    exact ⟨h1, f2, h3, h4, h5, h6, h7, h8, ⟨hon, hrt, ht2, hps⟩, h10, h11, h12, h13⟩
  have ho : d2.out.length - (k.d.touch 2 false).out.length = 0 := by rw [hf.2.2]; omega
  have hn : ∀ (b : Bool), Quiet e (if bit (k.d.foundBits off (c.req (64 * (off / 64)) false)) 4 then
      (match c.run with
        | .desc .. => d2.noteFound (c.req (64 * (off / 64)) false) (k.d.foundBits off (c.req (64 * (off / 64)) false)) b
        | _ => d2) else d2) := by
    intro b
    split
    · split
      · exact hq2
      · exact hq2
    · exact hq2
  refine ⟨{ k with d := _ }, ?_, hn false, rfl⟩
  unfold readyLine
  simp only [M.bind_apply, M.read_apply, M.getDev_apply, M.modDev_apply, hgm, hx, hgf, Dev.promos, h5, hm, List.filter_nil, List.length_nil,
    Nat.sub_zero, hc, hp, hd, ho, ne_eq, not_true_eq_false, if_false, M.pure_apply, Bool.false_eq_true, reduceCtorEq]
  rfl

theorem quiet_clean (e : TEntry) (d : Dev) (off : Nat) (h : off / 65536 = 2) (hq : Quiet e d) : d.poisonAt off = false := by
  obtain ⟨-, -, -, -, -, -, -, -, ⟨-, -, ht, hps⟩, hp, -⟩ := hq
  simp [Dev.poisonAt, Dev.psnAt, h, ht, hps, hp]

theorem quiet_rdLine (c : Ctx) (e : TEntry) (off : Nat) (h : off / 65536 = 2) (k : RunSt) (hq : Quiet e k.d) :
    ∃ v k', Does c (rdLine off) k v k' ∧ Quiet e k'.d ∧ (k.log = [] → k'.log = [] ∧ v.p0 = false ∧ v.p1 = false) := by
  obtain ⟨k', hr, hq', hl⟩ := quiet_ready c e off h k hq
  have ho : k.d.isOwn off = true := by
    have := hq.2.2.2.2.2.2.2.2.2.2.2.2
    simp [Dev.isOwn, this]; omega
  have hf : faOff off = off := by unfold faOff; omega
  have hg : (get : M RunSt) c k = (.ok k, k) := rfl
  have hg' : (get : M RunSt) c k' = (.ok k', k') := rfl
  obtain ⟨k2, hn, hd, hl2⟩ : ∃ k2, noteAcc off false false ((overlay k'.log off (k'.d.lineVal off)).p0 || (overlay k'.log off (k'.d.lineVal off)).p1) c k'
      = (.ok (), k2) ∧ k2.d = k'.d ∧ k2.log = k'.log := ⟨_, rfl, rfl, rfl⟩
  refine ⟨overlay k'.log off (k'.d.lineVal off), k2, ?_, hd ▸ hq', fun hk => ?_⟩
  · unfold Does
    simp only [rdLine, M.bind_apply, M.read_apply, hg, ho, if_true, hf, hr, hg', hn, M.pure_apply]
  · rw [hl] at hl2
    rw [hl, hk]
    exact ⟨hl2.trans hk, quiet_clean e _ _ (by omega) hq', quiet_clean e _ _ (by omega) hq'⟩

theorem quiet_rdLines (c : Ctx) (e : TEntry) (ls : List Nat) (h : ∀ l ∈ ls, 64 * l / 65536 = 2) (k : RunSt) (hq : Quiet e k.d) :
    ∃ vs k', Does c (rdLines ls) k vs k' ∧ Quiet e k'.d ∧ (k.log = [] → k'.log = [] ∧ ∀ v ∈ vs, v.p0 = false ∧ v.p1 = false) := by
  induction ls generalizing k with
  | nil => exact ⟨_, _, rfl, hq, fun hk => ⟨hk, by simp⟩⟩
  | cons l ls ih =>
    obtain ⟨v, k1, h1, q1, l1⟩ := quiet_rdLine c e (64 * l) (h l (by simp)) k hq
    obtain ⟨vs, k2, h2, q2, l2⟩ := ih (fun x hx => h x (by simp [hx])) k1 q1
    refine ⟨v :: vs, k2, ?_, q2, fun hk => ⟨(l2 (l1 hk).1).1, fun x hx => ?_⟩⟩
    · unfold Does at *
      simp only [rdLines, M.bind_apply, h1, h2, M.pure_apply]
    · rcases List.mem_cons.1 hx with rfl | hx
      · exact (l1 hk).2
      · exact (l2 (l1 hk).1).2 x hx

theorem quiet_fetch (c : Ctx) (e : TEntry) (ls : List Nat) (h : ∀ l ∈ ls, 64 * l / 65536 = 2) (k : RunSt) (hq : Quiet e k.d) :
    Does c (fetchLines ls) k () k := by
  have hn := hq.2.2.2.2.2.2.2.2.2.2.2.2
  have : ls.filter (fun l => ! k.d.isOwn (64 * l) && ! (k.d.remoteOf c).any (fun r => r.line == l)) = [] := by
    rw [List.filter_eq_nil_iff]
    intro l hl
    have := h l hl
    have : k.d.isOwn (64 * l) = true := by simp [Dev.isOwn, hn]; omega
    simp [this]
  unfold Does
  simp only [fetchLines, M.bind_apply, M.read_apply, M.getDev_apply, this, List.isEmpty_nil, if_true, M.pure_apply]
theorem quiet_rdRaw (c : Ctx) (e : TEntry) (fa n : Nat) (h : ∀ l ∈ (linesOf fa n).map (· / 64), 64 * l / 65536 = 2) (k : RunSt) (hq : Quiet e k.d) :
    ∃ v k', Does c (rdRaw fa n) k v k' ∧ Quiet e k'.d ∧ (k.log = [] → v.2.any id = false) := by
  have h1 := quiet_fetch c e _ h k hq
  obtain ⟨vs, k2, h2, q2, l2⟩ := quiet_rdLines c e _ h k hq
  unfold Does at h1 h2
  refine ⟨((((vs.flatMap (fun v => lineBytes v.data)).drop (fa % 64)).take n),
    (((vs.flatMap (fun v => List.replicate 32 v.p0 ++ List.replicate 32 v.p1)).drop (fa % 64)).take n)), k2, ?_, q2, fun hk => ?_⟩
  · unfold Does
    simp only [rdRaw, M.bind_apply, h1, h2]
    rfl
  · rw [List.any_eq_false]
    intro x hx
    have hx := List.mem_of_mem_drop (List.mem_of_mem_take hx)
    obtain ⟨v, hv, hx⟩ := List.mem_flatMap.1 hx
    have := (l2 hk).2 v hv
    rw [this.1, this.2] at hx
    simp at hx
    simp [hx]
theorem quiet_lines (n : Nat) (hn : n ≤ 65536) : ∀ l ∈ (linesOf (65536 * 2) n).map (· / 64), 64 * l / 65536 = 2 := by
  intro l hl
  simp only [linesOf, List.mem_map] at hl
  split at hl
  · simp at hl
  · simp only [List.mem_map, List.mem_range] at hl
    obtain ⟨x, ⟨i, hi, rfl⟩, rfl⟩ := hl
    omega

/-- The operands of the insertion, as far as the vectors that it inserts. -/
def insertOps : Chain (List Byte × List Byte × List Byte × List Byte) := do
  let c := descCtx 1 (noted 1 insertD [0, leNat indexBs]) { begun insertD with note := [0, leNat indexBs] }
  let rec_ ← goes c boundIndex
  let ib ← goes c (atStage 0 (rdV (lf insertD 8 8) 8))
  let lb ← goes c (atStage 0 (rdV (lf insertD 16 8) 4))
  let bs ← goes c (atStage 0 (rdV (lf insertD 24 8) 128))
  return (rec_, ib, lb, bs)
theorem insertOps_comes : (match insertOps (begins (inState insertDev)) with
    | some ((rec_, _, lb, _), k) => decide ((indexRec rec_).comp = 9 ∧ (indexRec rec_).nc = 1 ∧ (indexRec rec_).book = 0x20000 ∧
        (indexRec rec_).dim = 32 ∧ fld lb 0 4 = 1 ∧ k.d.noBay = false ∧ k.log = [] ∧ Quiet (newEntry 1 42 3 true) k.d)
    | none => false) = true := by decide +kernel
theorem witness_AttentionAndSearchComplete_insert : let l := insertD
    Running insertDev 1 0 0x21 (noted 1 l [0, leNat indexBs]) { begun l with note := [0, leNat indexBs] } ∧ lf l 32 4 = 1 ∧
    lf l 40 1 ∈ [0x00, 0x01, 0x02] ∧ ∃ rec_ ib lb bs k4, insertOps (begins (inState insertDev)) = some ((rec_, ib, lb, bs), k4) ∧
      (indexRec rec_).comp = 9 ∧ k4.d.noBay = false ∧ ∃ book k5 y k6,
        let c := descCtx 1 (noted 1 l [0, leNat indexBs]) { begun l with note := [0, leNat indexBs] }
        Does c (atStage 1 (codebook (indexRec rec_))) k4 book k5 ∧ Does c (atStage 2 (insertAll (indexRec rec_) book
          [(fld ib 0 8, fld lb 0 4, (decVec (lf l 40 1) (indexRec rec_).dim bs).getD [])] ⟨0, 0, false, false, false, none⟩)) k5 y k6 ∧
        y.skipped = 1 ∧ y.stop = none := by
  intro l
  refine ⟨⟨?_, ?_, ?_, ?_⟩, ?_, ?_, ?_⟩
  all_goals try decide +kernel
  have h := insertOps_comes
  rcases hk : insertOps (begins (inState insertDev)) with _ | ⟨⟨rec_, ib, lb, bs⟩, k4⟩
  · rw [hk] at h; cases h
  · rw [hk] at h
    obtain ⟨h1, h2, h3, h4, h5, h6, h7, h8⟩ := of_decide_eq_true h
    obtain ⟨v, k5, hr, -, hp⟩ := quiet_rdRaw { descCtx 1 (noted 1 l [0, leNat indexBs]) { begun l with note := [0, leNat indexBs] } with stage := 1 } _
      (65536 * 2) (512 * 32) (quiet_lines _ (by decide)) k4 (h8)
    refine ⟨rec_, ib, lb, bs, k4, rfl, h1, h6, v.1, k5, { InsTally.mk 0 0 false false false none with skipped := 1, range := true }, k5, ?_, ?_, rfl, rfl⟩
    · unfold Does codebook rd at *
      rw [h3, h4]
      simp only [M.atStage_apply, M.bind_apply, hr, hp h7, Bool.false_eq_true, if_false, M.pure_apply]
    · unfold Does insertAll insertOne caught insertAll
      simp only [h5, h2, ge_iff_le, Nat.le_refl, or_true, if_true]
      rfl

/-- A group of one data member, in frame 2, with P and Q on node 3, and EC_REBUILD_PARITY of its only stripe with neither member written. -/
def aGroup : List Nat := [1 + 2 ^ 16 + 2 ^ 39, 1, 0, 0, 2, 2 ^ 32 * 3, 2 ^ 32 * 3]
def rebuildD : Line := descr [(0, 1, 0x38), (8, 2, 1), (10, 1, 1), (20, 4, 1)]
def rebuildDev : Dev := withDesc 1 rebuildD { stored with egs := [(0, aGroup)], ageWindow := 3 }
theorem quiet_rebuildDev : Quiet (newEntry 1 42 3 true) rebuildDev := by
  refine ⟨?_, ?_, ?_, ?_, ?_, ?_, ?_, ?_, ⟨?_, ?_, ?_, ?_⟩, ?_, ?_, ?_, ?_⟩ <;> decide +kernel
theorem aGroup_unit : readUnit aGroup 0 0 = rdRaw (65536 * 2) 65536 :=
  congrArg (fun a => rdRaw a 65536) (by decide : egNode aGroup 0 * 2 ^ 48 + 65536 * (egBase aGroup 0 + 0) = 65536 * 2)
theorem aGroup_rebuild (c : Ctx) (k k2 : RunSt) (v) (h2 : rdRaw (65536 * 2) 65536 { c with stage := 0 } k = (.ok v, k2)) :
    rebuildStripes aGroup [1, 2] [] 0 1 c k = (.ok (0, 0), k2) := by
  have e2 : ecSources (egK aGroup) [1, 2] = [0] := by decide
  simp only [rebuildStripes, M.bind_apply, M.pure_apply, Nat.zero_add, e2, M.atStage_apply, readUnits, aGroup_unit, h2, rebuildStripes.write, List.length_nil]
theorem witness_RebuildsAndTransfersComplete_rebuild : let l := rebuildD
    let k : RunSt := begins (inState rebuildDev)
    (Running rebuildDev 1 0 0x38 (lined 1 l) (begun l) ∧ lf l 10 1 = 1 ∧ rebuildDev.eg (lf l 8 2) = some aGroup ∧ lf l 20 4 = 1 ∧
      lf l 16 4 + lf l 20 4 ≤ egStripes aGroup ∧ ecSources 1 [1, 2] = [0] ∧ egLost aGroup 0 = false ∧ lf l 24 8 = 0 ∧ lf l 32 8 = 0) ∧
    Does (ctxAt 1 l) (fetchLines ((linesOf (65536 * 2) 65536).map (· / 64))) k () k ∧
    ∃ y k', Does (ctxAt 1 l) (rebuildStripes aGroup [1, 2] [] 0 1) k y k' := by
  intro l k
  obtain ⟨v, k2, h2, -, -⟩ := quiet_rdRaw { ctxAt 1 l with stage := 0 } _ (65536 * 2) 65536 (quiet_lines _ (by decide)) k quiet_rebuildDev
  refine ⟨⟨⟨rfl, rfl, rfl, ?_⟩, ?_⟩, quiet_fetch _ _ _ (quiet_lines _ (by decide)) k quiet_rebuildDev, _, _, aGroup_rebuild _ _ _ _ h2⟩ <;> decide +kernel

/-- EXTENT_XFER of extent 7 at EPOCH 5 from this node to node 2, its ledger on node 3: the steps up to `step` are done, and the answers to the
operations have come in. -/
def xferD (mode : Nat) : Line := descr [(0, 1, 0x40), (8, 4, 7), (12, 4, 5), (16, 2, 0), (18, 2, 2), (20, 4, 32), (24, 4, 16), (28, 1, mode)]
def answerRec (phase : Nat) (peer : Option Nat) : List Byte := leaseBytes ⟨1, 0, phase, 7, 5, 0, peer, 0, 9, 1, 32, 2⟩
def answered (mode step : Nat) (r0 : List Byte) (ks : List Nat) : Started := { begun (xferD mode) with
  step := step
  note := [2]
  remote := ⟨2 ^ 65, bytesLine r0, false, 0⟩ :: ks.map (fun k => ⟨2 ^ 65 + k, bytesLine (answerRec 0 none), false, 0⟩) }
def xferQueue (r : Started) : Queue := { lined 1 r.bytes with running := [r] }
def xferDev (r : Started) (st : ExtState) (peer : Option Nat) : Dev := { extDev.setReg 0xD01C (2 ^ 31 + 3) with
  extents := [{ anExt st with peer := peer }]
  leases := [⟨7, true, false, false⟩]
  queues := [(1, xferQueue r)] }
def xferCtx (r : Started) : Ctx := descCtx 1 (xferQueue r) r
theorem witness_RebuildsAndTransfersComplete_move : let r := answered 0 7 (answerRec 0 none) [1, 3, 6, 9, 10]
    let d := xferDev r .moved (some 2)
    let o := xferOp r.bytes
    Running d 1 0 0x40 (xferQueue r) r ∧ lf r.bytes 28 1 = 0 ∧ through d (do
      let c := xferCtx r
      goes c (xferChecks o)
      let y ← goes c (readLedger o)
      goes c (revokeFree o)
      given (y.epoch == o.epoch && y.phase == 0 && y.owner == o.src)
      goes c (ledgerStep 1 2 1 o.epoch o.src (some o.dst) o y.comp)
      goes c (once 2 (stepPrepare o y))
      goes c (ledgerStep 3 2 2 o.epoch o.src (some o.dst) o y.comp)
      goes c (once 4 (stepCopy o y))
      let m ← goes c (copiedFrames o)
      goes c (ledgerStep 6 2 3 o.epoch o.src (some o.dst) o y.comp)
      goes c (once 7 (stepCommit o y.comp))
      goes c (stepRelease o y.comp)
      given (m == 2)) = true := by
  refine ⟨⟨rfl, rfl, rfl, ?_⟩, ?_⟩ <;> decide +kernel
theorem witness_RebuildsAndTransfersComplete_abort : let r := answered 1 0 (answerRec 1 (some 2)) [1, 2]
    let d := xferDev r .source (some 2)
    let o := xferOp r.bytes
    Running d 1 0 0x40 (xferQueue r) r ∧ lf r.bytes 28 1 = 1 ∧ through d (do
      let c := xferCtx r
      goes c (xferChecks o)
      let y ← goes c (readLedger o)
      goes c (revokeFree o)
      given (y.epoch == o.epoch && y.phase == 1 && y.peer == some o.dst)
      goes c (ledgerStep 1 2 0 o.epoch o.src none o y.comp)
      let _ ← goes c (copiedFrames o)
      modify (fun k => { k with d := k.d.abortSource { anExt .source with peer := some 2 } })
      let _ ← goes c (peerStep 2 o.dst 9 0 o 0 y.comp)
      given true) = true := by
  refine ⟨⟨rfl, rfl, rfl, ?_⟩, ?_⟩ <;> decide +kernel

/-! Meunol. -/

theorem witness_MessagesRoundTrip : msgOk (aMsg 0x81 (List.replicate 64 7)) = true ∧ (aMsg 0x81 []).noId = false ∧
    msgOk { aMsg 0x0B [] with noId := true, src := 0 } = true := by decide

/-- A message that waits in the receive buffer of port 0, and the block that takes it. -/
def arrived (m : FabMsg) (d : Dev) : Dev := { d with inbox := [(0, m)] }
theorem arrived_comes (m : FabMsg) (d : Dev) : Comes (arrived m d) 0 m ((arrived m d).takeUp 0 m) := Or.inl ⟨by simp [arrived], rfl⟩
/-- The other way: the message comes whole through an UP port and is for this node. -/
theorem witness_Comes_whole : Comes (meshed stored) 0 (aMsg 9 (List.replicate 8 0))
    (((meshed stored).freeBuf 0 (aMsg 9 (List.replicate 8 0))).abortEntry 5) := by
  refine Or.inr ⟨?_, ?_, ?_, ?_, Or.inr ⟨?_, ?_, ?_, rfl⟩⟩ <;> decide +kernel

/-- Port 15 in a state, with its module. -/
def ported (st : PortState) : Dev := ran.setPort 15 { PortSt.empty with st := st, module := true }
theorem witness_PortsLeaveTheirStates : (ran.port 15).module = false ∧ (ran.port 15).txq = [] ∧
    (∀ st ∈ [PortState.up, .training, .disabled, .fenced, .doze], ((ported st).port 15).module = true ∧ ((ported st).port 15).txq = [] ∧
      ((ported st).port 15).st = st ∧ ((ported st).port 15).fails < 2 ∧ (ported st).power.st = .run ∧ (ported st).portFence 15 = false) ∧
    2 ≤ ((ran.setPort 15 { PortSt.empty with st := .training, fails := 2 }).port 15).fails := by decide +kernel
theorem witness_PortsLeaveTheirStates_writes : Passes (ported .fenced) .fm ∧
    ((ported .fenced).setReg (portCfg 15) 3).portFence 15 = true ∧ ((ported .fenced).setReg (portCfg 15) 3).portEn 15 = true := by
  refine ⟨?_, ?_⟩ <;> (try unfold Passes) <;> decide +kernel

/-- A code word that no one or two symbol errors explain: its syndromes are 0, 0, 0 and 1. -/
def badWord : List Byte := List.replicate 32 0 ++ [0xA2, 0x49, 0x92, 0x79]
theorem gfMulAux_zero (k b : Nat) : gfMulAux k 0 b 0 = 0 := by
  induction k generalizing b with
  | zero => rfl
  | succ k ih => simp [gfMulAux, ih]
theorem gfMul_zero (b : Nat) : gfMul 0 b = 0 := gfMulAux_zero 8 _
theorem badWord_syns : v36Syns ((slice badWord 0 36).map (·.toNat)) = [0, 0, 0, 1] := by decide +kernel
theorem badWord_masked : v36Syns (v36Masked ((slice badWord 0 36).map (·.toNat))) ≠ [0, 0, 0, 0] ∧
    oneError (v36Syns (v36Masked ((slice badWord 0 36).map (·.toNat)))) = none := by decide +kernel
theorem badWord_two : twoErrors [0, 0, 0, 1] = none := by
  unfold twoErrors
  rw [List.findSome?_eq_none_iff]
  intro i _
  rw [List.findSome?_eq_none_iff]
  intro j _
  have : (pairValues [0, 0, 0, 1] i j).1 = 0 := by
    simp [pairValues, nth, gfMul_zero]
  simp [this]
theorem badWord_isBad (w : List Byte) (r : List Nat) (hr : (slice w 0 36).map (·.toNat) = r) (h1 : v36Syns r ≠ [0, 0, 0, 0]) (h2 : v36Syns (v36Masked r) ≠ [0, 0, 0, 0])
    (h3 : oneError (v36Syns (v36Masked r)) = none) (h4 : oneError (v36Syns r) = none) (h5 : twoErrors (v36Syns r) = none) :
    (v36Decode w).bad = true := by
  unfold v36Decode
  rw [hr]
  simp only [h1, h2, h3, h4, h5, if_false]
theorem badWord_bad : (v36Decode badWord).bad = true :=
  badWord_isBad badWord _ rfl (by decide +kernel) badWord_masked.1 badWord_masked.2 (by decide +kernel) (by rw [badWord_syns]; exact badWord_two)
/-- A code word that arrives uncorrectable at the hub (R20). -/
theorem witness_DeviceAccessIsServedFromHome_hop : (⟨15, true, badWord⟩ : Hop).node < 16 ∧ (v36Decode (⟨15, true, badWord⟩ : Hop).symbols).bad = true :=
  ⟨by decide, badWord_bad⟩

/-- Eight code words of zeros, which are flit 0 of no messages; and eight that cannot be read. -/
def zeroFlit : List (List Byte) := List.replicate 8 (List.replicate 36 0)
def badFlit : List (List Byte) := List.replicate 8 badWord
theorem witness_PortsComeUpAndReceive_bad : ((List.range 8).map (fun i => v36Decode (nth badFlit i []))).any (·.bad) = true := by
  have e : nth badFlit 0 [] = badWord := by decide +kernel
  have h : (v36Decode (nth badFlit 0 [])).bad = true := by rw [e]; exact badWord_bad
  exact List.any_eq_true.2 ⟨v36Decode (nth badFlit 0 []), List.mem_map.2 ⟨0, List.mem_range.2 (by decide), rfl⟩, h⟩
theorem witness_PortsComeUpAndReceive_awaited : awaitedFlit { PortSt.empty with rxGood := 4095 } (v36Decode (List.replicate 36 0)) = true ∧
    awaitedFlit { PortSt.empty with rxGood := 7 } (v36Decode (List.replicate 36 0)) = false ∧ ((meshed stored).port 0).nakSent = false ∧
    ((meshed stored).port 0).retry.length < 1024 := by decide +kernel
theorem witness_PortsComeUpAndReceive_flit : (meshed stored).portUp 0 = true ∧
    ((List.range 8).map (fun i => v36Decode (nth zeroFlit i []))).any (·.bad) = false ∧
    (let f := flitOf (((List.range 8).map (fun i => v36Decode (nth zeroFlit i []))).flatMap (·.data))
     f.nak = false ∧ f.seq = 0 ∧ f.seq = ({ PortSt.empty with rxGood := 4095 }.rxGood + 1) % 4096 ∧ f.seq ≠ (PortSt.empty.rxGood + 2) % 4096 ∧
     (ackRetry ((meshed stored).port 0) f.ack).st = .up) := by decide +kernel
def aNeighbour (stopping : Bool) : Neighbour := { aNbr with stopping := stopping }
theorem witness_PortsComeUpAndReceive_port : ((ported .training).port 15).st = .training ∧ lambdas 0xFF = 8 ∧ lambdas 0x0F = 4 ∧
    ((ported .training).port 15).txq = [] ∧ (aNeighbour false).stopping = false ∧ ((ported .up).port 15).st = .up ∧
    ((arrived (aMsg 0x0B []) (meshed stored)).takeUp 0 (aMsg 0x0B [])).portUp 0 = true ∧ (aMsg 0x0B []).type = 0x0B ∧
    ((ran.setPort 15 { PortSt.empty with st := .up, nbr := some (aNeighbour true) }).port 15).nbr = some (aNeighbour true) ∧
    ((ported .doze).port 15).st = .doze ∧ ((ported .doze).setReg (portCfg 15) 1).portWakeEn 15 = false ∧
    ((ran.setPort 15 { PortSt.empty with st := .doze, txq := [⟨16, 0, 0, aMsg 1 []⟩] }).port 15).txq ≠ [] := by decide +kernel

/-- A request of node 2 that lands here, and its run at home. -/
def landed (m : FabMsg) (d : Dev) : Dev := (arrived m d).takeUp 0 m
def served (m : FabMsg) (d : Dev) (x : Ctx → Chain Unit) : Bool :=
  let r : FabIn := ⟨0, m, false, []⟩
  through { d with fabIn := [r] } (do
    x (fabCtx r)
    let k ← get
    given (! (Dev.commit (fabCtx r) k.d k.log).parityPending 0))
def rdMsg : FabMsg := aMsg 1 (leBytes 8 0x20040)
def bulkMsg : FabMsg := aMsg 5 (leBytes 8 0x2FFC0 ++ leBytes 8 128)
theorem witness_RequestsAreServedAtHome_reads : (landed rdMsg stored).fabIn = [] ∧ rdMsg.type = 1 ∧ (landed rdMsg stored).isOwn 0x20040 = true ∧
    (landed rdMsg stored).isOwn (2 ^ 48 * (stored.node + 1) + 0x20040) = false ∧
    served rdMsg (landed rdMsg stored) (fun c => do let _ ← goes c (rdLine 0x20040); given true) = true ∧
    fld bulkMsg.body 0 8 % 64 = 0 ∧ fld bulkMsg.body 8 4 = 128 ∧
    served bulkMsg (landed bulkMsg stored) (fun c => do let _ ← goes c (rdRaw 0x2FFC0 128); given true) = true := by decide +kernel
/-- Write-class messages that begin their flows. -/
def firstMsg (type : Nat) (body : List Byte) : FabMsg := { aMsg type body with first := true }
def wrMsg : FabMsg := firstMsg 2 (leBytes 8 0x20040 ++ leBytes 8 0x81 ++ List.replicate 64 7)
def wrnMsg : FabMsg := firstMsg 3 (leBytes 8 0x2FFC0 ++ leBytes 8 2 ++ List.replicate 128 7)
def atomMsg : FabMsg := firstMsg 4 (leBytes 8 0x20048 ++ leBytes 8 0 ++ leBytes 8 5 ++ leBytes 8 0)
theorem firstMsg_inTurn (type : Nat) (body : List Byte) (d : Dev) (h : d.flowsIn = []) :
    InTurn d (firstMsg type body) ⟨2, 5, 0, 0, none, false, false⟩ := by
  refine Or.inr ⟨?_, rfl, ?_, rfl⟩
  · simp [Dev.flowIn, h]
  · simp [h]
theorem witness_RequestsAreServedAtHome_writes : (landed wrMsg stored).flowsIn = [] ∧
    (let begun (m : FabMsg) : Dev := (landed m stored).setFlowIn ⟨2, 5, 1, 0, none, false, false⟩
     served wrMsg (begun wrMsg) (fun c => goes c (wrRuns false
      ((maskRuns (slice wrMsg.body 16 64) (slice wrMsg.body 8 8)).map (fun r => (0x20040 + r.1, r.2))))) = true ∧
     served wrnMsg (begun wrnMsg) (fun c => goes c (wr 0x2FFC0 (slice wrnMsg.body 16 128))) = true ∧
     served atomMsg (begun atomMsg) (fun c => do let _ ← goes c (atom 0x20048 0 5 0); given true) = true) := by decide +kernel
/-- PARITY for this node, which holds P of group 1 in frame 3. -/
def pGroup : List Nat := [1 + 2 ^ 16 + 2 ^ 24 + 2 ^ 39, 1, 0, 0, 2 ^ 32 * 3, 3, 2 ^ 32 * 3]
def parMsg (poison : Bool) : FabMsg := { firstMsg 7 (leBytes 2 1 ++ [0, 0] ++ leBytes 4 0 ++ leBytes 8 1 ++ List.replicate 64 7) with poison := poison }
def parDev : Dev := { stored with egs := [(0, pGroup)] }
theorem witness_RequestsAreServedAtHome_parity : parDev.parityHolder (parMsg false) = some pGroup ∧
    (let begun (m : FabMsg) : Dev := (landed m parDev).setFlowIn ⟨2, 5, 1, 0, none, false, false⟩
     let unit := parDev.ownFa (65536 * (egBase pGroup 1 + 0) + 64)
     served (parMsg true) (begun (parMsg true)) (fun c => goes { c with checked := false } (wr unit (List.replicate 64 0) true)) = true ∧
     served (parMsg false) (begun (parMsg false)) (fun c => do
       let v ← goes { c with checked := false } (rdLine unit)
       given (! v.p0 && ! v.p1)
       goes { c with checked := false } (wr unit (xorBytes (lineBytes v.data) ((slice (parMsg false).body 16 64).map (fun b =>
         BitVec.ofNat 8 (gfMul 1 b.toNat)))) false)) = true) := by decide +kernel
theorem witness_RequestsAreServedAtHome_unknown : (landed (aMsg 2 []) stored).flowIn 2 5 = none ∧ (aMsg 2 []).first = false := by decide +kernel

/-- A SUBDESC of one fragment with one query and the block at 0x20000, of which no row counts. -/
def subHead (last : Nat) : List Byte := leBytes 2 (2 ^ 15 * last) ++ [1, 1] ++ leBytes 2 64 ++ [2, 1] ++ leBytes 2 9 ++ leBytes 2 0 ++ leBytes 4 0x3F800000 ++
  List.replicate 16 0
def subMsg (last : Nat) : FabMsg := firstMsg 6 (subHead last ++ List.replicate 128 0)
theorem witness_PartsAndLeasesAreAnswered_parts : (landed (subMsg 1) stored).subs = [] ∧ fld (subMsg 1).body 8 2 % 1024 = 9 ∧ (landed (subMsg 1) stored).flowsIn = [] ∧
    fld (subMsg 0).body 0 2 = 0 ∧ fld (subMsg 1).body 0 2 = 2 ^ 15 ∧
    (let m := subMsg 1
     let x : SubCtx := ⟨m.src, m.sidx, m.tag, slice m.body 0 32, m.body.drop 32, 1, true⟩
     let c : Ctx := ⟨.fab (subId x), fld x.head 8 2 % 1024, x.src, true, bit (fld x.head 10 2) 2, none, 0, 0, true, .agent, 0, 255⟩
     through (((Dev.meter { landed m stored with subs := [x] } 9 3 (msgLen m)).setFlowIn ⟨2, 5, 1, 0, none, false, false⟩).ackWrite m 0)
       (do let _ ← goes c (runSub x.head x.payload); given true) = true) := by decide +kernel
/-- LEASE operations on extent 7 at EPOCH 5, from its owner, node 2. -/
def leaseMsg (op phase owner : Nat) (peer : Option Nat) : FabMsg := aMsg 8 (leaseBytes ⟨op, 0, phase, 7, 5, owner, peer, 0, 9, 1, 32, 1⟩)
def destDev : Dev := { stored.setReg 0xD000 1 with precs := [(1, pinRec), (16, descr [(0, 2, 9), (2, 1, 1), (3, 1, 0x80)])] }
theorem witness_PartsAndLeasesAreAnswered_leases : extDev.extOn = true ∧ (leaseMsg 8 3 0 (some 2)).src = 2 ∧
    (let b := leaseOf (leaseMsg 8 3 0 (some 2)).body
     b.op = 8 ∧ b.phase = 3 ∧ some 2 = b.peer ∧ ({ extDev with extents := [anExt .doubt] }).asSource b = some (anExt .doubt)) ∧
    (let b := leaseOf (leaseMsg 8 1 2 (some 0)).body
     b.phase = 1 ∧ 2 = b.owner ∧ b.peer = some destDev.node ∧ (destDev.prepareDest b b.owner).1 = 0) ∧
    (let b := leaseOf (leaseMsg 9 0 2 (some 0)).body
     b.op = 9 ∧ destDev.asSource b = none ∧ destDev.asDest b = none) ∧
    (let b := leaseOf (leaseMsg 2 1 3 none).body
     b.op ≠ 8 ∧ b.op ≠ 9 ∧ 2 ≠ b.owner ∧ some 2 ≠ b.peer) := by decide +kernel

/-- An outstanding request to node 2, and its answer. -/
def asked2 (type : Nat) (body : List Byte) (who : ReqFor) : Dev :=
  { stored with fabOut := [⟨{ aMsg type body with dst := 2, src := 0 }, who, []⟩] }
def answer (type : Nat) (body : List Byte) : FabMsg := { aMsg type body with ord := 3 }
def isAsked (d : Dev) (m : FabMsg) (type : Nat) : Bool :=
  match (landed m d).fabReq m.src m.sidx m.tag with | some o => o.msg.type == type | none => false
theorem witness_AnswersReachTheirRequests :
    isAsked (asked2 1 (leBytes 8 0) (.desc ⟨1, 0⟩ 5)) (answer 0x81 (List.replicate 64 1)) 1 = true ∧ (answer 0x81 []).status = 0 ∧
    isAsked (asked2 5 (leBytes 8 0 ++ leBytes 8 128) (.desc ⟨1, 0⟩ 5)) (answer 0x85 (List.replicate 72 0)) 5 = true ∧
    (none ∈ (List.range 2).map (gotLine [(0, List.replicate 64 (0 : Byte), false)])) ∧
    (∃ ks : List (List Byte × Bool), (List.range 2).map (gotLine [(0, List.replicate 128 (0 : Byte), false)]) = ks.map some) ∧
    isAsked (asked2 4 [] (.desc ⟨1, 0⟩ 5)) (answer 0x84 (leBytes 8 7)) 4 = true ∧ isAsked (asked2 6 [] (.subdesc ⟨1, 0⟩)) (answer 0x86 []) 6 = true ∧
    isAsked (asked2 8 [] (.lease 7)) (answer 0x87 []) 8 = true ∧ isAsked (asked2 9 [] (.echo 2)) (answer 0x88 []) 9 = true ∧
    (let b : Bringup := ⟨[2], [], [(2, 6, 0)]⟩
     b.sentAt.find? (fun x => x.1 == 2 && x.2.1 == 6) = some (2, 6, 0)) := by
  refine ⟨?_, ?_, ?_, ?_, ⟨[(List.replicate 64 0, false), (List.replicate 64 0, false)], ?_⟩, ?_⟩ <;> decide +kernel
/-- A flow to node 2 with one message not acknowledged. -/
def aFlow : FlowOut := ⟨5, 2, 4, false, [{ aMsg 2 [] with ord := 3, dst := 2 }]⟩
theorem witness_AnswersReachTheirRequests_flows :
    let d : Dev := { asked2 2 [] (.desc ⟨1, 0⟩ 5) with flowsOut := [aFlow] }
    let m := { answer 0x83 [] with status := 2 }
    let flow := ((landed m d).chargeIn m).ackFlow m.src m.sidx m.ord
    (landed m d).flowOut 2 5 = some aFlow ∧ ordAt aFlow 3 = some 0 ∧ m.status ≠ 0 ∧ flow.1.getLast? = some { aMsg 2 [] with ord := 3, dst := 2 } ∧
    ((flow.2.acked flow.1.dropLast).fabReq 2 5 6).isSome = true ∧ fld (leBytes 8 0) 0 1 = 0 ∧ fld (leBytes 8 1) 0 1 = 1 ∧ fld (leBytes 8 2) 0 1 = 2 := by
  decide +kernel

theorem witness_FabricTimersAct :
    let f : FlowIn := ⟨2, 5, 1, 0, none, false, true⟩
    let d : Dev := { asked2 1 [] (.desc ⟨1, 0⟩ 5) with flowsIn := [f] }
    let e : Dev := { asked2 2 [] (.desc ⟨1, 0⟩ 5) with flowsOut := [{ aFlow with unacked := [{ aMsg 2 [] with dst := 2, src := 0 }] }] }
    d.flowIn 2 5 = some f ∧ f.timer = true ∧ d.flowPending 2 5 = none ∧ (d.fabReq 2 5 6).isSome = true ∧ writeClass 1 = false ∧
    (e.fabReq 2 5 6).map (·.msg) = some { aMsg 2 [] with dst := 2, src := 0 } ∧ writeClass 2 = true ∧
    (e.flowOut 2 5).map (·.unacked) = some [{ aMsg 2 [] with dst := 2, src := 0 }] ∧
    (let q : Queued := ⟨16, 0, 0, aMsg 0x0A []⟩
     let w : Queued := ⟨16, 0, 0, { aMsg 1 [] with age := 250 }⟩
     let t := ran.setPort 15 { PortSt.empty with txq := [q, w] }
     (t.port 15).txq.find? (fun q => q.msg == aMsg 0x0A []) = some q ∧
     (t.port 15).txq.find? (fun q => q.msg == w.msg && decide ((t.aged q).age ≥ 250)) = some w) := by
  decide +kernel

/-- A MGMT packet of one hop to this node or on its way. -/
def mgMsg (ptr op addr : Nat) (rsp : Bool) : FabMsg := aMsg 0x0A (List.replicate 16 0 ++ [1] ++ leBytes 1 (ptr + 128 * b2n rsp) ++ leBytes 2 op ++ leBytes 4 addr ++
  List.replicate 48 0)
theorem mgMsg_comes (ptr op addr : Nat) (rsp : Bool) (d : Dev) :
    MgmtComes (arrived (mgMsg ptr op addr rsp) d) 0 (mgMsg ptr op addr rsp)
      { arrived (mgMsg ptr op addr rsp) d with inbox := (arrived (mgMsg ptr op addr rsp) d).inbox.erase (0, mgMsg ptr op addr rsp) } :=
  ⟨rfl, Or.inl ⟨by simp [arrived], rfl⟩⟩
theorem witness_ManagementActs : mgRsp (mgMsg 0 0 0 false).body = false ∧ mgPtr (mgMsg 0 0 0 false).body = 0 ∧ mgHops (mgMsg 0 0 0 false).body = 1 ∧
    mgRsp (mgMsg 1 0 0 true).body = true ∧ mgPtr (mgMsg 1 0 0 true).body = 1 ∧
    (∀ op < 4, mgPtr (mgMsg 1 op 15 false).body = mgHops (mgMsg 1 op 15 false).body ∧ mgOp (mgMsg 1 op 15 false).body = op ∧
      mgAddr (mgMsg 1 op 15 false).body = 15 ∧ mgAddr (mgMsg 1 op 16 false).body = 16) ∧
    ran.fmUid = 0 ∧ fld (mgMsg 1 2 0 false).body 0 16 = 0 ∧ (ran.setReg 0x10018 1).fmUid ≠ 0 := by decide +kernel
/-- A register read and a register write that a MGMT packet asks for. -/
theorem witness_ManagementActs_registers :
    (State.readReg (inState (landed (mgMsg 1 1 0x2040 false) ran)) .mgmt 0x2040 (State.mgWidth (inState ran) 0x2040)).1.isSome = true ∧
    (let m := mgMsg 1 2 0x13C84 false
     let e := landed m ran
     let n := State.mgWidth (inState e) 0x13C84
     let r := State.access (inState e) .mgmt 0x13C84 n (fld m.body 40 n)
     r.1 = 0 ∧ r.2.dev.power.ready = true) := by decide +kernel
theorem witness_ManagementActs_bringup : Passes ran .fm ∧
    (let b : Bringup := ⟨[2], [(2, 100)], []⟩
     ({ stored with bringup := some b }).bringup = some b ∧ (stored.setReg 0x200C 2).svc ≠ 1 ∧ stored.fabOut = [] ∧ ∀ n ∈ b.nodes, ∃ x ∈ b.rtts, x.1 = n) := by
  refine ⟨?_, ?_⟩ <;> (try unfold Passes) <;> decide +kernel

/-! Extents and casks. -/

/-- An extent with a lease, and none. -/
def leasedDev (st : ExtState) : Dev := { extDev with extents := [anExt st], leases := [⟨7, true, true, false⟩] }
theorem witness_ExtentsLiveByTheirLeases_leases : ∀ st ∈ [ExtState.active, .source, .lapsed, .doubt, .dest], (leasedDev st).extBy 7 = some (anExt st) ∧
    (anExt st).leased = true ∧ ((leasedDev st).lease 7).held = true ∧ (anExt st).st = st ∧ (∃ l ∈ (leasedDev st).leases, l.waiting = true) := by
  decide +kernel
/-- Extent 7 of frames 0 and 1 is named to EXT_DEF. -/
def defDev (es : List Extent) : Dev := { (((stored.setReg 0xD000 1).setReg 0xD008 7).setReg 0xD010 (2 * 2 ^ 32)) with extents := es }
theorem witness_ExtentsLiveByTheirLeases_define : PassesGo (defDev []) .fm ∧
    (let e := defCtrl (defDev []) .fm (defValue 1 true 9)
     e.extOn = true ∧ e.extBy (e.reg 0xD008) = none ∧ e.overlapsExt (e.rf 0xD010 31 0) (e.rf 0xD010 63 32) = false ∧ e.rf 0xD010 63 32 = 2 ∧
     e.rf 0xD010 31 0 = 0 ∧ e.extents.length < 65536) ∧
    (let e := defCtrl (defDev []) .fm (defValue 1 true 0)
     ¬ 1 ≤ 0 ∧ e.extOn = true) ∧
    (let e := defCtrl (defDev [anExt .revoked]) .fm (defValue 3 true 9)
     e.extOn = true ∧ e.extBy (e.reg 0xD008) = some (anExt .revoked)) ∧
    (let e := defCtrl stored .fm (defValue 3 true 9)
     e.extOn = false) := by
  refine ⟨?_, ?_, ?_, ?_, ?_⟩ <;> (try unfold PassesGo) <;> decide +kernel
theorem witness_ExtentsLiveByTheirLeases_undefine : ∀ st ∈ [ExtState.revoked, .lapsed],
    (let e := defCtrl (defDev [anExt st]) .fm (defValue 2 false ((defDev [anExt st]).rf 0xD00C 9 0))
     e.extOn = true ∧ e.extBy (e.reg 0xD008) = some (anExt st) ∧ (anExt st).st = st) := by decide +kernel
def selDev (v : Nat) : Dev := { ran with sels := [(pathKey .fm * 0x40000 + 0xD038, v)] }
theorem witness_ExtentsLiveByTheirLeases_records : Passes (selDev 19) .fm ∧ bits ((selDev 19).sel .fm 0xD038) 4 0 = 19 ∧
    bits ((selDev 20).sel .fm 0xD038) 4 0 = 20 ∧ State.reset.lock.testBit 6 = false ∧ (1 : Nat) % 2 = 1 := by
  refine ⟨?_, ?_⟩ <;> (try unfold Passes) <;> decide +kernel

/-- A slot whose cask has a state and is powered. -/
def slotted (st busy : Nat) : Dev := { ran with slots := [(3, { serving st [] with busy := busy })] }
theorem witness_CaskCommandsAct : (∀ n < 4, ((cskOp ran .fm n 1).slot n).cask = none) ∧
    (∀ st ∈ [1, 2, 3, 4], let d := slotted st 0
      (d.slot 3).cask.isSome = true ∧ (d.slot 3).rail = true ∧ (d.slot 3).code = st ∧ (d.slot 3).busy = 0 ∧ d.caskFrames 3 = [] ∧
      ((d.slot 3).readable = true ↔ st = 2 ∨ st = 3) ∧ d.deny.length < 256) ∧
    (∀ r ∈ [3, 4], let x : SlotSt := { serving 2 [] with foreign := true, reason := r }
      x.code = 5 ∧ x.reason = r ∧ x.busy = 0) ∧
    ((cskOp (ran.setReg 0xE000 1) .fm 3 6).rf 0xE000 0 0 = 1) := by decide +kernel
theorem witness_CaskCommandsAct_passes : PassesGo (slotted 1 0) .fm := by unfold PassesGo; decide +kernel

/-- The cask that is bound to slot 3, and its slot as it loads, fails and wears. -/
def boundCask : Cask := { aCask with bind := ownerId, state := 2, homeSlot := 3 }
def loadingDev : Dev := { ran with slots := [(3, { serving 2 [] with loading := true, serving := false })] }
theorem witness_CasksComeWearAndGo : (ran.slot 3).detect = false ∧ 3 ∉ ran.power.removed ∧
    ran.caskReason boundCask = 0 ∧ boundCask.state = 2 ∧ boundCask.homeSlot = 3 ∧
    (loadingDev.slot 3).loading = true ∧ (loadingDev.slot 3).rail = true ∧ (loadingDev.slot 3).detect = true ∧ loadingDev.power.st = .run ∧
    ((slotted 2 0).slot 3).code = 2 ∧ (127 : Nat) < 128 ∧ (aCask.failedDies = []) ∧
    (let e := ((((slotted 2 0).setRf 0xE000 2 2 0).modCask 3 (fun c => { c with state := 3 })).stopDemotions 3).rebuildDie 3
     e.rf 0xE000 2 2 = 0) ∧ ((slotted 2 0).slot 3).checked = true ∧ ((slotted 2 0).slot 3).life = false := by decide +kernel
/-- A cask that has written 135 PB. -/
theorem witness_CasksComeWearAndGo_life : 250000 ≤ fcwOf { aCask with bytesWritten := 250000 * 540000000000 } := by decide +kernel

/-! Errors, margins and calibration. -/

/-- A word of frame 3 as it lies, with one symbol wrong, poisoned, and unreadable. -/
theorem witness_LocationsAreWarnedFencedAndRetired_scrub : stored.entry (0x1FFF / 2048) = some (newEntry 1 43 3 true) ∧
    (newEntry 1 43 3 true).tier = 0 ∧ (newEntry 1 43 3 true).psn = false ∧ badWord.length = 36 ∧
    (let a := v36Decode (List.replicate 36 0)
     a.bad = false ∧ a.poison = false ∧ a.fixed = 0) ∧
    (let a := v36Decode (5 :: List.replicate 35 0)
     a.bad = false ∧ a.poison = false ∧ a.fixed ≠ 0) ∧
    (let a := v36Decode (v36Encode (List.replicate 32 0) true)
     a.bad = false ∧ a.poison = true) := by decide +kernel
/-- A location with a score. -/
def scored (loc score : Nat) (warned : Bool) : Dev := stored.setScore loc ⟨3, 4, score, warned⟩
theorem witness_LocationsAreWarnedFencedAndRetired_scores : ∀ kind < 5, let loc := locId kind 3
    locKind loc = kind ∧ locIndex loc = 3 ∧ stored.locExists loc = true ∧ ((scored loc 2 true).score loc).warned = true ∧
    (0 < stored.thrWarn kind) ∧ ((scored loc 1 false).score loc).score < 65536 * stored.thrWarn kind ∧
    (let d := scored loc (65536 * 2000000) false
     (d.score loc).warned = false ∧ 65536 * d.thrWarn kind ≤ (d.score loc).score ∧
     (0 < d.thrLimit kind → 65536 * d.thrLimit kind ≤ (d.score loc).score) ∧ 3 ∉ d.retiredCh ∧ 3 ∉ d.retiring ∧ 3 ∉ d.fencedBays ∧
     3 ∉ d.fencedScan ∧ 3 ∉ d.fencedPorts ∧ 3 ∉ d.retiredDies) := by decide +kernel
theorem witness_LocationsAreWarnedFencedAndRetired_unfence : PassesGo stored .fm ∧ stored.locExists (locId 5 0) = true ∧
    locKind (locId 5 0) = 5 ∧ ({ ported .disabled with fencedPorts := [15] }).fencedPorts = [15] ∧ ((ported .disabled).port 15).st = .disabled := by
  refine ⟨?_, ?_⟩ <;> (try unfold PassesGo) <;> decide +kernel
theorem witness_LocationsAreWarnedFencedAndRetired_channels : (∀ l ∈ stored.usedLocs, locChannel l ≠ 255) ∧ 255 < 32 * stored.stacks ∧
    ¬ 256 < 32 * stored.stacks ∧ (∃ l ∈ stored.usedLocs, locChannel l = locChannel 42) ∧ stored.framesOfCh (locChannel 42) ≠ [] ∧ stored.moves = [] := by
  decide +kernel

/-- The voltage loop as it runs. -/
def looped (f : VLoop → VLoop) : Dev := { ran with vloop := f { ran.vloop with running := true } }
theorem witness_MarginsAndCalibrationAct_loop : (looped id).vloop.running = true ∧ (looped id).power.st = .run ∧ (looped id).fw.restarting = false ∧
    (looped id).vloop.set < 880 ∧ (looped id).overCap = false ∧ (((looped id).setRf 0x2008 15 0 5).setReg 0x2028 6000).overCap = true ∧
    (looped (fun v => { v with greenRun := 15, hold := false })).vloop.greenRun + 1 = 16 ∧
    max 620 (min 880 ((looped id).rf 0x2020 25 16)) < (looped id).vloop.set ∧ ran.vloop.capMissed = false := by decide +kernel
theorem witness_MarginsAndCalibrationAct_check : ran.locExists (locId 1 127) = true ∧ locKind (locId 2 31) = 2 ∧ ran.startedOf 1 0 = none ∧
    (withDesc 1 nopD ran).startedOf 1 0 = some (begun nopD) ∧ (begun nopD).failures = 0 ∧ lf nopD 0 1 ≠ 0x03 := by decide +kernel
theorem witness_MarginsAndCalibrationAct_runs : PassesGo ran .fm ∧
    (((ran.setRf 0x4000 30 28 1).setRf 0x4000 11 0 0x27F).unitExists 0x27F = false) ∧
    (((ran.setRf 0x4000 30 28 1).setRf 0x4000 11 0 0x7F).unitExists 0x7F = true) ∧ 0x7F / 256 ≤ 1 ∧ ({ ran with calSched := [0x7F] }).calSched = [0x7F] := by
  refine ⟨?_, ?_⟩ <;> (try unfold PassesGo) <;> decide +kernel
/-- A record, and its buffer in the pinned frame 2. -/
def aCal : CalRec := ⟨1, 3, 0, [5], false⟩
def bufDev : Dev := { poked [(0x20000, calBytes aCal)] ((stored.setReg 0x4008 0x20000).setRf 0x4004 23 0 (calBytes aCal).length) with
  calNor := [aCal]
  calPending := [aCal] }
theorem witness_MarginsAndCalibrationAct_buffers :
    (let e := (fresh bufDev .fm).setRf 0x4000 30 28 2
     let bs := bufDev.calNor.flatMap calBytes
     let buf := bits (e.reg 0x4008) 47 16 * 65536
     bs.length ≤ 8388608 ∧ e.pinnedRange buf bs.length = true ∧ endsOk (e.unitTry (wr (e.ownFa buf) bs)) = true) ∧
    (let e := (fresh bufDev .fm).setRf 0x4000 30 28 3
     let n := e.rf 0x4004 23 0
     let buf := bits (e.reg 0x4008) 47 16 * 65536
     n ≤ 8388608 ∧ e.pinnedRange buf n = true ∧ (match e.unitTry (rd (e.ownFa buf) n) with
       | (.ok bs, t) => (match calParse bs.length bs with | some rs => rs.all (fun r => t.unitExists r.unit) && rs == [aCal] | none => false)
       | _ => false) = true) ∧ calParse 1 [0] = none ∧ bufDev.calPending = [aCal] := by decide +kernel

/-! Power, resets, firmware and identity. -/

/-- A step from reset with a command in front answers a next state, so the premises of the statements over every step are met; the fuses are at 0
and memory is in canonical form there. -/
theorem witness_LocksFallOnlyWithReset : (match step { State.reset with pending := [.secLockWrite .fm 5] } with | .next _ => true | _ => false) = true ∧
    ran.pathAns .fm none false false = .pass ∧ State.reset.lock < 2 ^ 32 ∧ State.reset.fuses = 0 ∧ Memory.wf State.reset.dev.mem = true ∧
    Memory.wf stored.mem = true := by decide +kernel
theorem test_lock_writes_add : ∀ v ∈ [0, 5, 2 ^ 11 - 1, 2 ^ 12], (match exec (.secLockWrite .fm v) { inState ran with lock := 2 } with
    | .next t => t.lock | _ => 0) = 2 ||| v % 2 ^ 11 := by decide +kernel

def powered (f : PowerSt → PowerSt) : Dev := { stored with power := f stored.power }
theorem witness_StopIsEnteredAndLeft : PassesPwr stored .mgmt ∧ stored.power.st = .run ∧ (withDesc 1 nopD stored).queuesBusy = true ∧
    stored.queuesBusy = false ∧ stored.turntableBusy = false ∧ stored.signalBoxBusy = false ∧ stored.translationBusy = false ∧
    stored.fabricBusy = false ∧ stored.leaseBusy = false ∧ stored.casksBusy = false ∧ stored.calibrationBusy = false ∧ stored.managementBusy = false ∧
    ({ stored with fw := { stored.fw with rollout := [0] } }).managementBusy = true := by
  refine ⟨?_, ?_⟩ <;> (try unfold PassesPwr) <;> decide +kernel
theorem witness_StopIsEnteredAndLeft_entering :
    let d := powered (fun p => { p with st := .entering, step := 7, linkL1 := false })
    PassesPwr d .mgmt ∧ d.power.st = .entering ∧ 7 ≤ d.power.step ∧ (powered (fun p => { p with st := .entering, step := 6 })).power.step = 6 ∧
    d.portWakeEn 15 = true ∧ d.rf 0x2000 1 1 = 1 ∧ d.power.ready = true ∧ d.held = [] ∧ (inState d).pending = [] := by
  refine ⟨?_, ?_⟩ <;> (try unfold PassesPwr) <;> decide +kernel
theorem witness_StopIsEnteredAndLeft_stopped : ∀ st ∈ [PwrState.stop, .waking],
    let d := powered (fun p => { p with st := st, wakeStep := 3, linkUp := false })
    PassesPwr d .mgmt ∧ d.power.st = st ∧ d.power.aonLost = false ∧ ((d.setReg (portCfg 15) 1).portWakeEn 15 = false) ∧
    (d.setRf 0x2000 1 1 0).rf 0x2000 1 1 ≠ 1 := by
  intro st h
  simp only [List.mem_cons, List.not_mem_nil, or_false] at h
  rcases h with rfl | rfl <;> (refine ⟨?_, ?_⟩ <;> (try unfold PassesPwr) <;> decide +kernel)
theorem witness_StopIsEnteredAndLeft_mode : Passes ran .fm ∧ State.reset.lock.testBit 9 = false ∧ (2 ^ 9).testBit 9 = true ∧ ran.rf 0x200C 1 0 ≠ 3 ∧
    (ran.setRf 0x200C 1 0 3).rf 0x200C 1 0 = 3 ∧ { ran with power := { ran.power with linkUp := false } }.power.ready = true := by
  refine ⟨?_, ?_⟩ <;> (try unfold Passes) <;> decide +kernel

/-- Every command that resets meets a block with its power up, and one without. -/
theorem witness_ResetsKeepWhatTheyMust : stored.power.pwrgd = true ∧ (powered (fun p => { p with pwrgd := false })).power.pwrgd = false ∧ stored.pins.thermtrip = false ∧
    stored.power.ready = true ∧ (0 ∈ stored.activeLds) ∧ (∀ p ∈ stored.queues, p.2.fn / 64 ≠ 0) := by decide +kernel
/-- A boot with the ACTIVE image, with the other one alone, and with neither. -/
def unbooted (a b : Bool) : Dev := { ran with
  power := { ran.power with ready := false, linkUp := false }
  pins := { ran.pins with corePower := true }
  fw := { ran.fw with
    slotA := { ran.fw.slotA with valid := a }
    slotB := { ran.fw.slotB with valid := b }
    activeB := false } }
theorem witness_ResetsKeepWhatTheyMust_boot : ∀ a ∈ [true, false], ∀ b ∈ [true, false], let d := unbooted a b
    d.power.pwrgd = true ∧ d.power.ready = false ∧ d.power.stuck = false ∧ d.pins.corePower = true ∧ d.power.st = .run ∧
    (d.fw.slot d.fw.activeB).runs 0 = a ∧ (d.fw.slot (! d.fw.activeB)).runs 0 = b := by decide +kernel
/-- The clock of the always-on part, there and missing (R407). -/
theorem witness_ResetsKeepWhatTheyMust_clock : stored.power.clock = true ∧ (powered (fun p => { p with clock := false })).power.clock = false ∧
    (match step (inState { unbooted true true with power := { (unbooted true true).power with clock := false } }) with
      | .next t => ! t.dev.power.ready && t.dev.power.stuck && t.dev.pins.tripRecord == some .noClock | _ => false) = true := by decide +kernel
theorem test_boot_recovers : (match step (inState (unbooted false true)) with
    | .next t => t.dev.power.ready && t.dev.fw.runningB && t.dev.rf 0x200C 1 0 == 3 | _ => false) = true := by decide +kernel

/-- Firmware that runs slot A, with images in both slots. -/
def firm (f : FwState → FwState) : Dev := { ran with fw := f { ran.fw with
  slotA := ⟨true, 1, 3, 64, 7, true, 0, 1⟩
  slotB := ⟨true, 2, 4, 64, 7, false, 0, 2⟩
  activeB := false
  runningB := false } }
theorem witness_FirmwareIsStagedActivatedAndConfirmed : Passes (firm id) .fm ∧ (firm id).fw.restarting = false ∧ (firm id).fwBusy = false ∧
    (firm id).calBusy = false ∧ (firm id).power.st = .run ∧ ((firm id).fw.slot true).valid = true ∧ 0 ≤ ((firm id).fw.slot true).svn ∧
    true ≠ (firm id).fw.runningB ∧ true ≠ (firm id).fw.activeB ∧ ((firm id).fw.slot false).svnCommit = true ∧ 0 < min 64 ((firm id).fw.slot false).svn ∧
    (firm (fun w => { w with runningB := true })).fw.runningB ≠ (firm (fun w => { w with runningB := true })).fw.activeB ∧
    (firm (fun w => { w with rollout := [127], heldMicrocode := false })).fw.rollout = [127] ∧
    (firm (fun w => { w with restarting := true, target := true })).fw.restarting = true ∧ (secOp (firm id) .fm 1 true).pinnedRange 0 16777216 = false := by
  refine ⟨?_, ?_⟩ <;> (try unfold Passes) <;> decide +kernel
/-- A staging buffer of zeros in 256 pinned frames: its header has no magic. What an image with good signatures gives rests on the free verification. -/
def stageDev : Dev := { firm id with
  regs := stored.regs
  roots := stored.roots
  mapLaid := true
  precs := stored.precs
  tmap := (List.range 256).map (fun i => (i, newEntry 1 (40 + i) 3 true)) }
theorem witness_FirmwareIsStagedActivatedAndConfirmed_stage : (secOp stageDev .fm 1 true).pinnedRange 0 16777216 = true ∧
    (match (secOp stageDev .fm 1 true).unitTry (readImage 0) with
      | (.ok (head, body), _) => body.isEmpty && (imageOf 0 head body).isNone | _ => false) = true := by decide +kernel

theorem witness_IdentityIsAnswered : ran.power.pwrgd = true ∧ ran.power.linkUp = true ∧ ran.power.st = .run ∧ ran.fw.restarting = false ∧
    (firm (fun w => { w with restarting := true })).fw.restarting = true ∧ (powered (fun p => { p with st := .stop })).power.st ≠ .run ∧
    ran.fw.sessions = [] ∧
    (let four := (List.range 4).map (fun i => Session.mk 16 i false 0 0)
     4 ≤ ((firm (fun w => { w with sessions := four })).fw.sessions.filter (fun x => x.transport == 16)).length ∧ ∀ x ∈ four, x.id ≠ 9) := by
  decide +kernel

/-! Records, meters and registers. -/

theorem witness_CountersWrapAndAreWritten : (∀ i < 8, ran.reg (pmcKey 5 (0x40 + 8 * i)) + (2 ^ 48 - 1) < 2 ^ 48 ∧
      2 ^ 48 ≤ (ran.setReg (pmcKey 5 (0x40 + 8 * i)) 1).reg (pmcKey 5 (0x40 + 8 * i)) + (2 ^ 48 - 1)) ∧
    ran.pathAns (.fn 1023) (some 1023) false false = .pass := by decide +kernel
theorem witness_CountersWrapAndAreWritten_management : Passes ran .fm ∧ Passes ran .mgmt ∧ Passes ran (.mctp none) := by
  refine ⟨?_, ?_, ?_⟩ <;> unfold Passes <;> decide +kernel
/-- R384: eight counters wrap, each into its own bit. -/
theorem test_counters_wrap : ∀ i < 8, (let d := (ran.setReg (pmcKey 5 (0x40 + 8 * i)) (2 ^ 48 - 1)).bump 5 i 3
    d.reg (pmcKey 5 (0x40 + 8 * i)) = 2 ∧ d.reg (pmcKey 5 0x80) = 2 ^ i) := by decide +kernel

/-- An event that waits for the NOR. -/
def anEvent : Event := ⟨.cleared, 0, 0, [.count 1]⟩
def recorded (full : Bool) : Dev := { stored with recorder := { stored.recorder with buf := [anEvent], full := full } }
theorem witness_RecordsAndMetersAct : (recorded false).recorder.buf = [anEvent] ∧ eventsLen (recorded false).recorder.log + anEvent.len ≤ 67108800 ∧
    (recorded true).recorder.full = true ∧ stored.recorder.buf = [] ∧ stored.fw.restarting = false ∧
    (let e := ((stored.setReg 0x5010 0x20000).setReg 0x5008 (64 * 2 ^ 32)).setRf 0x5004 1 0 1
     e.rf 0x5008 63 32 = 64 ∧ e.rf 0x5008 31 0 = 0 ∧ e.pinnedRange 0x20000 64 = true ∧
     endsOk (e.unitTry (wr (e.ownFa 0x20000) (e.logBytes 0 64))) = true) ∧
    stored.requester .fm = none ∧
    (firm (fun w => { w with sessions := [⟨16, 3, true, 77, 0⟩] })).requester (.mctp (some 3)) = some 77 := by decide +kernel
theorem witness_RecordsAndMetersAct_passes : Passes stored .fm := by unfold Passes; decide +kernel

theorem witness_RegistersAreWritten : Passes ran .mgmt ∧ Passes ran .fm ∧ Passes ran (.mctp none) ∧ (regRow 0x10018).isSome = true ∧
    (regRow 0x20000).isSome = true ∧ (regRow 0x5030).isSome = true ∧ regRow 0x1044 = none ∧
    (∀ off ∈ plainRegs, (regRow off).isSome = true) ∧ (ran.setRf 0x1004 0 0 1).rf 0x1004 0 0 = 1 ∧ ran.authenticated none = false := by
  refine ⟨?_, ?_, ?_, ?_⟩ <;> (try unfold Passes) <;> decide +kernel
theorem witness_RegistersAreWritten_high : ((ran.setLatch .fm ⟨some (0x10018, 5), none⟩).latch .fm).heldLow = some (0x10018, 5) ∧
    (∀ low, (ran.latch .fm).heldLow ≠ some (0x10018, low)) := by
  refine ⟨by decide +kernel, ?_⟩
  intro low
  rw [show (ran.latch .fm).heldLow = none by decide +kernel]
  exact fun h => by cases h
/-- Row 1 of handle 0 as it moves to its own place at a stage, with sums that wait for it. -/
def rowMove (st : Nat) (ws : List DescId) : RowMove :=
  ⟨⟨1, 0⟩, 0, 1, 2 ^ 48 * stored.node + 0x20020, 2 ^ 48 * stored.node + 0x20020, st, ws⟩
def rowDev (st : Nat) (ws : List DescId) : Dev := { moveDev with rowMoves := [rowMove st ws] }
/-- The list's first row has not switched yet, so the second one has no turn. -/
def rowsDev : Dev := { moveDev with rowMoves := [{ rowMove 1 [] with row := 0 }, rowMove 2 []] }
theorem witness_RegistersAreWritten_rows : (rowDev 1 []).rowMoves.find? (fun m => m.handle == 0 && m.row == 0) = none ∧
    ran.modeBusy = false ∧ ({ ran with modeBusy := true }).modeBusy = true ∧ State.reset.lock.testBit 2 = false ∧ State.reset.lock.testBit 3 = false ∧
    (∀ st ∈ [1, 2, 3], let d := rowDev st []
      d.rowMoves.find? (fun m => m.handle == 0 && m.row == 1) = some (rowMove st []) ∧ (rowMove st []).stage = st ∧
      smGet? 1 d.queues = some { lined 1 moveD with running := [movedRows] } ∧
      [movedRows].find? (fun r => r.seq == (rowMove st []).desc.seq) = some movedRows) := by decide +kernel
theorem witness_RegistersAreWritten_row_goes :
    (let c := descCtx 1 { lined 1 moveD with running := [movedRows] } movedRows
     through (rowDev 1 []) (goes c (copyRowM ((rowDev 1 []).tableAt 0) (rowMove 1 []))) = true ∧
     (rowDev 2 []).moveReady (rowMove 2 []) = true ∧ rowsDev.moveReady (rowMove 2 []) = false ∧
     through (rowDev 2 []) (goes c (remapRowM ((rowDev 2 []).tableAt 0) (rowMove 2 []))) = true) ∧
    (∀ w ∈ (rowMove 3 []).waiters, (rowDev 3 []).runs w = false) ∧ (∃ w ∈ (rowMove 3 [⟨1, 0⟩]).waiters, (rowDev 3 [⟨1, 0⟩]).runs w = true) := by
  decide +kernel

/-- The KVL4 group of chapter 07's example, as FP32 words. -/
def kvl4Example : List Val := [0x3E800000, 0xBE99999A, 0x3F100000, 0xBF600000, 0, 0x411C0000, 0x3E400000, 0x3D800000,
  0, 0, 0, 0, 0, 0, 0, 0, 0, 0, 0, 0, 0xC0C00000, 0, 0, 0, 0, 0, 0, 0, 0, 0, 0, 0].map (decElem 0x00)

/-- The 24 bytes that chapter 07 works out for it (R160). -/
theorem test_kvl4_example : encVec 0x12 kvl4Example = some [0xE2, 0x94, 0x00, 0x02, 0, 0, 0, 0, 0, 0, 0, 0, 0, 0, 0, 0,
    0x00, 0x3E, 0x05, 0x1C, 0x41, 0x14, 0xC0, 0xC0] := by decide +kernel

/-- P and Q of the four bytes of chapter 13's example (R311). -/
theorem test_parity_example : (0x12 ^^^ 0x34 ^^^ 0x56 ^^^ 0x78 = 0x08) ∧ gfMul 2 0x34 = 0x68 ∧ gfMul 4 0x56 = 0x45 ∧ gfMul 8 0x78 = 0xE7 ∧
    0x12 ^^^ gfMul 2 0x34 ^^^ gfMul 4 0x56 ^^^ gfMul 8 0x78 = 0xD8 := by decide +kernel

/-- The page walk of chapter 02's example (R44): the four indexes and the FA that the level 3 leaf gives. -/
theorem test_walk_example : (List.range 4).map (dvaIndex 0x7F3AC0123456) = [254, 235, 0, 18] ∧
    leafFa 3 0x002A30001234000F 0x7F3AC0123456 = 0x002A300012343456 := by decide +kernel

/-- The window of chapter 02's example (R36): window 2 of LD 5. -/
theorem test_window_example :
    let d := { ran with regs := [(0x6550, 0x300000000000)], hdm := [(42, ⟨2 ^ 41, 2 ^ 36⟩)] }
    d.hpaOff 5 0x020012345678 = some 0x300012345678 := by decide +kernel

/-- The route entry of node 0x3A0 that chapter 12's example writes (R288). -/
theorem test_route_example : ({ ran with regs := [(0x14E80, 0x83E7C482)] } : Dev).rtEntry 0x3A0 = 0x83E7C482 := by decide +kernel

/-- The check value of CRC-32C (R289). -/
theorem test_crc_example : crc32c ([0x31, 0x32, 0x33, 0x34, 0x35, 0x36, 0x37, 0x38, 0x39] : List Byte) = 0xE3069283 := by decide +kernel

/-- Its candidates are ports 2 and 9 (R288). -/
theorem test_candidates_example :
    let d := { ran with
      regs := [(0x14E80, 0x83E7C482)]
      ports := [(2, { PortSt.empty with st := .up }), (9, { PortSt.empty with st := .up })] }
    (d.candidates 0x83E7C482 16 (fun _ => true)).map Prod.fst = [2, 9] := by decide +kernel

/-- The byte planes of two and of four byte elements come back as they were (R79). -/
theorem test_planes_join : joinPlanes 16 (splitPlanes 16 [1, 2, 3, 4, 0x85, 0x96]) = [1, 2, 3, 4, 0x85, 0x96] ∧
    joinPlanes 32 (splitPlanes 32 [1, 2, 3, 0x84, 0x85, 0x96, 7, 8]) = [1, 2, 3, 0x84, 0x85, 0x96, 7, 8] := by decide +kernel

end Sys2Proof.Tests
end

section
/-! SUPPORT. What the windows of a logical device translate (R36), window by window, and what a host's request does where none of them
holds its HPA. -/

namespace Sys2Proof.Machine

open Sys2Proof

/-- The offset that window `n` alone gives an HPA: none where the window is not committed or does not hold the HPA (R36). -/
def Dev.windowOff (d : Dev) (ld hpa n : Nat) : Option Nat :=
  (smGet? (8 * ld + n) d.hdm).bind (fun h =>
    if h.base ≤ hpa ∧ hpa < h.base + h.size then some (hpa - h.base + d.winOrigin ld n) else none)

theorem Dev.windowOff_eq_some_iff (d : Dev) (ld hpa n off : Nat) : d.windowOff ld hpa n = some off ↔
    ∃ h, smGet? (8 * ld + n) d.hdm = some h ∧ h.base ≤ hpa ∧ hpa < h.base + h.size ∧ off = hpa - h.base + d.winOrigin ld n := by
  simp only [Dev.windowOff, Option.bind_eq_some_iff, Option.ite_none_right_eq_some, Option.some.injEq, and_assoc, eq_comm (b := off)]

theorem Dev.windowOff_eq_none_iff (d : Dev) (ld hpa n : Nat) : d.windowOff ld hpa n = none ↔
    ∀ h, smGet? (8 * ld + n) d.hdm = some h → ¬ (h.base ≤ hpa ∧ hpa < h.base + h.size) := by
  simp only [Dev.windowOff, Option.bind_eq_none_iff, ite_eq_right_iff, reduceCtorEq, imp_false]

/-- The translation takes the first window that gives an offset. -/
theorem Dev.hpaOff_eq_findSome? (d : Dev) (ld hpa : Nat) :
    d.hpaOff ld hpa = (List.range 8).findSome? (d.windowOff ld hpa) := by
  unfold Dev.hpaOff
  congr 1
  funext n
  unfold Dev.windowOff
  cases smGet? (8 * ld + n) d.hdm with
  | none => rfl
  | some h => simp only [Option.bind_some, decide_eq_true_eq]

/-- An HPA names no offset just where no window gives one. -/
theorem Dev.hpaOff_eq_none_iff (d : Dev) (ld hpa : Nat) :
    d.hpaOff ld hpa = none ↔ ∀ n < 8, d.windowOff ld hpa n = none := by
  simp only [Dev.hpaOff_eq_findSome?, List.findSome?_eq_none_iff, List.mem_range]

/-- The offset that an HPA names is one that a window gives. -/
theorem Dev.exists_windowOff_of_hpaOff {d : Dev} {ld hpa off : Nat} (h : d.hpaOff ld hpa = some off) :
    ∃ n < 8, d.windowOff ld hpa n = some off := by
  rw [Dev.hpaOff_eq_findSome?] at h
  obtain ⟨n, hn, hoff⟩ := List.exists_of_findSome?_eq_some h
  exact ⟨n, List.mem_range.mp hn, hoff⟩

/-- Where one window alone gives an offset, the HPA names that offset. -/
theorem Dev.hpaOff_of_only_window {d : Dev} {ld hpa n off : Nat} (hn : n < 8) (hoff : d.windowOff ld hpa n = some off)
    (honly : ∀ k < 8, k ≠ n → d.windowOff ld hpa k = none) : d.hpaOff ld hpa = some off := by
  cases h : d.hpaOff ld hpa with
  | none => exact absurd (hoff.symm.trans ((d.hpaOff_eq_none_iff ld hpa).mp h n hn)) (Option.some_ne_none off)
  | some off' =>
    obtain ⟨k, hk, hoff'⟩ := Dev.exists_windowOff_of_hpaOff h
    have hkn : k = n := Decidable.byContradiction (fun hne => Option.some_ne_none off' (hoff'.symm.trans (honly k hk hne)))
    rw [← hoff', hkn, hoff]

/-- The FA of an offset below 2^48 has the node ID in the bits above it (R32, R36). -/
theorem Dev.ownFa_eq_or (d : Dev) (off : Nat) (h : off < 2 ^ 48) : d.ownFa off = (d.rf 0x10000 11 0 <<< 48) ||| off := by
  rw [← Nat.shiftLeft_add_eq_or_of_lt h, Nat.shiftLeft_eq]
  rfl

theorem Dev.hostUp_iff (d : Dev) (ld : Nat) : d.hostUp ld = true ↔ d.power.linkUp = true ∧ ld ∈ d.activeLds := by
  simp [Dev.hostUp]

/-- A host request that no committed window takes is a miss. -/
theorem Dev.hostReq_of_hpaOff_none {d : Dev} {ld hpa : Nat} (tag : Nat) (r : Nat → MemReq) (hup : d.hostUp ld = true)
    (hoff : d.hpaOff ld hpa = none) : d.hostReq ld hpa tag r = d.hostMiss ld hpa tag := by
  simp [Dev.hostReq, hup, hoff]

/-! The four host commands each take their request to the line that the HPA names. -/

theorem exec_hostRead (ld hpa : Nat) (ask : Ask) (tag : Nat) (s : State) : exec (.hostRead ld hpa ask tag) s =
    .next { s with dev := s.dev.hostReq ld hpa tag (fun off => .hostRead ld off ask tag) } := rfl

theorem exec_hostWrite (ld hpa : Nat) (data : Line) (mask : LineMask) (poison : Bool) (tag : Nat) (s : State) :
    exec (.hostWrite ld hpa data mask poison tag) s =
      .next { s with dev := s.dev.hostReq ld hpa tag (fun off => .hostWrite ld off data mask poison tag) } := rfl

theorem exec_hostWriteBack (ld hpa : Nat) (data : Line) (poison keepS : Bool) (tag : Nat) (s : State) :
    exec (.hostWriteBack ld hpa data poison keepS tag) s =
      .next { s with dev := s.dev.hostReq ld hpa tag (fun off => .hostWb ld off data poison keepS tag) } := rfl

theorem exec_cleanEvictionNotice (ld hpa : Nat) (s : State) : exec (.cleanEvictionNotice ld hpa) s =
    .next { s with dev := s.dev.hostReq ld hpa 0 (fun off => .evict ld off) } := rfl

end Sys2Proof.Machine
end

section
/-! Address spaces (chapter 02): the obligation about the windows of a logical device. -/

namespace Sys2Proof.Proofs

open Sys2Proof Sys2Proof.Machine Sys2Proof.Claims

/-- Each of the host's four commands that takes a request to an HPA is answered as a miss where no committed window holds it. -/
theorem gives_hostMiss {s : State} {ld hpa tag : Nat} {c : Instr} (hup : s.dev.hostUp ld = true) (hoff : s.dev.hpaOff ld hpa = none)
    (hc : (∃ ask, c = .hostRead ld hpa ask tag) ∨ (∃ data mask poison, c = .hostWrite ld hpa data mask poison tag) ∨
      (∃ data poison keepS, c = .hostWriteBack ld hpa data poison keepS tag) ∨ (c = .cleanEvictionNotice ld hpa ∧ tag = 0)) :
    Gives c s (s.dev.hostMiss ld hpa tag) := by
  have hmiss := fun r => Dev.hostReq_of_hpaOff_none (d := s.dev) tag r hup hoff
  unfold Gives
  obtain ⟨ask, rfl⟩ | ⟨data, mask, poison, rfl⟩ | ⟨data, poison, keepS, rfl⟩ | ⟨rfl, rfl⟩ := hc
  · rw [exec_hostRead, hmiss]
  · rw [exec_hostWrite, hmiss]
  · rw [exec_hostWriteBack, hmiss]
  · rw [exec_cleanEvictionNotice, hmiss]

/-- Settles O23: an HPA's offset is that of the one window which gives one, and a request that no window takes is a miss. -/
theorem windowsTranslate : Obligations.WindowsTranslate := by
  unfold Obligations.WindowsTranslate
  refine ⟨?_, Dev.ownFa_eq_or, ?_, ?_⟩
  · intro d ld hpa n h hn hget hlo hhi hothers
    exact Dev.hpaOff_of_only_window hn ((d.windowOff_eq_some_iff ld hpa n _).mpr ⟨h, hget, hlo, hhi, rfl⟩)
      (fun k hk hne => (d.windowOff_eq_none_iff ld hpa k).mpr (fun g hg => hothers k hk g hne hg))
  · intro d ld hpa off hoff
    obtain ⟨n, hn, hwin⟩ := Dev.exists_windowOff_of_hpaOff hoff
    obtain ⟨h, hget, hlo, hhi, heq⟩ := (d.windowOff_eq_some_iff ld hpa n off).mp hwin
    exact ⟨n, h, hn, hget, hlo, hhi, heq, by omega⟩
  · intro s ld hpa tag c hlink hact hnone hc
    exact gives_hostMiss ((s.dev.hostUp_iff ld).mpr ⟨hlink, hact⟩)
      ((s.dev.hpaOff_eq_none_iff ld hpa).mpr (fun n hn => (s.dev.windowOff_eq_none_iff ld hpa n).mpr (hnone n hn))) hc

end Sys2Proof.Proofs
end

section
/-! SUPPORT. Little-endian fields: a field at the front of a byte string reads back the number written there (R13, R14). -/

namespace Sys2Proof.Machine

open Sys2Proof

@[simp] theorem length_leBytes (n x : Nat) : (leBytes n x).length = n := by
  induction n generalizing x with
  | zero => rfl
  | succ n ih => simp only [leBytes, List.length_cons, ih]

theorem leNat_leBytes (n x : Nat) : leNat (leBytes n x) = x % 256 ^ n := by
  induction n generalizing x with
  | zero => simp only [leBytes, leNat, Nat.pow_zero, Nat.mod_one]
  | succ n ih =>
    rw [leBytes, leNat, ih, BitVec.toNat_ofNat, Nat.pow_succ' (m := 256) (n := n)]
    exact Nat.mod_mul.symm

theorem fld_zero_leBytes_append (n x : Nat) (rest : List Byte) : fld (leBytes n x ++ rest) 0 n = x % 256 ^ n := by
  have htake : (leBytes n x ++ rest).take n = leBytes n x := List.take_left' (length_leBytes n x)
  simp only [fld, slice, List.drop_zero, htake, length_leBytes, Nat.sub_self, List.replicate_zero, List.append_nil, leNat_leBytes]

end Sys2Proof.Machine
end

section
/-! SUPPORT. The locks of SEC_LOCK (R377, R381): what a write of SEC_LOCK sets, and that every command and every idle step either keeps
each lock that is set or resets the part. -/

namespace Sys2Proof.Machine

open Sys2Proof

theorem testBit_lockSet (lock value b : Nat) :
    (lockSet lock value).testBit b = (lock.testBit b || (decide (b < 11) && value.testBit b)) := by
  simp only [lockSet, bits, Nat.pow_zero, Nat.div_one, Nat.testBit_or, Nat.testBit_mod_two_pow]

/-- From `s` to `t` each lock that is set stays set, or the part is reset: no lock is set and it is not yet ready. -/
def LocksKept (s t : State) : Prop :=
  (∀ b, s.lock.testBit b = true → t.lock.testBit b = true) ∨ (t.lock = 0 ∧ t.dev.power.ready = false)

theorem LocksKept.of_lock_eq {s t : State} (h : t.lock = s.lock) : LocksKept s t := .inl (fun _ hb => h ▸ hb)

theorem LocksKept.refl (s : State) : LocksKept s s := .of_lock_eq rfl

theorem LocksKept.setDev (s : State) (d : Dev) : LocksKept s { s with dev := d } := .of_lock_eq rfl

theorem LocksKept.writeLock (s : State) (value : Nat) : LocksKept s (s.writeLock value) :=
  .inl (fun b hb => by simp only [State.writeLock, testBit_lockSet, hb, Bool.true_or])

theorem LocksKept.deviceReset (s : State) : LocksKept s s.deviceReset := .inr ⟨rfl, rfl⟩

theorem LocksKept.coldReset (s : State) (found : PowerOn) : LocksKept s (s.coldReset found) := .inr ⟨rfl, rfl⟩

theorem LocksKept.wakeFails (s : State) (step : Nat) : LocksKept s (s.wakeFails step) := .inr ⟨rfl, rfl⟩

/-- The relation looks at the locks alone before the step. -/
theorem LocksKept.of_start {s u t : State} (hlock : u.lock = s.lock) (h : LocksKept u t) : LocksKept s t := by
  unfold LocksKept at h ⊢
  rwa [← hlock]

/-- The relation looks at the locks and at readiness alone after the step. -/
theorem LocksKept.of_end {s u t : State} (hlock : t.lock = u.lock) (hready : t.dev.power.ready = u.dev.power.ready)
    (h : LocksKept s u) : LocksKept s t := by
  unfold LocksKept at h ⊢
  rwa [hlock, hready]

/-- Where the part is ready afterwards the locks are kept, whatever then becomes of the block. -/
theorem LocksKept.setDev_of_ready {s u : State} (d : Dev) (hready : u.dev.power.ready = true) (h : LocksKept s u) :
    LocksKept s { u with dev := d } := by
  obtain hkeep | ⟨-, hnot⟩ := h
  · exact .inl hkeep
  · exact absurd (hready.symm.trans hnot) Bool.noConfusion

theorem LocksKept.ite {s t u : State} {c : Prop} [Decidable c] (ht : LocksKept s t) (hu : LocksKept s u) :
    LocksKept s (if c then t else u) := by
  split
  · exact ht
  · exact hu

/-! Accesses to registers. -/

/-- What a register access on a path comes to: its effect, on a block whose latches it has set, or a change of the block alone. -/
theorem State.onPath_cases (s : State) (p : Path) (own : Option Nat) (go pwr : Bool) (off : Nat) (c : Instr) (f : State → State) :
    (∃ d, s.onPath p own go pwr off c f = f { s with dev := d }) ∨ (∃ d, s.onPath p own go pwr off c f = { s with dev := d }) := by
  unfold State.onPath
  split
  · exact .inl ⟨_, rfl⟩
  · exact .inr ⟨_, rfl⟩
  · exact .inr ⟨_, rfl⟩
  · exact .inr ⟨s.dev, rfl⟩

theorem State.onPath_of_pass {s : State} {p : Path} {own : Option Nat} {go pwr : Bool} (off : Nat) (c : Instr) (f : State → State)
    (hpass : s.dev.pathAns p own go pwr = .pass) :
    s.onPath p own go pwr off c f = f { s with dev := s.dev.setLatch p ⟨none, none⟩ } := by
  unfold State.onPath
  split
  · rfl
  all_goals next hans => cases hpass.symm.trans hans

theorem LocksKept.onPath (s : State) (p : Path) (own : Option Nat) (go pwr : Bool) (off : Nat) (c : Instr) {f : State → State}
    (hf : ∀ u, LocksKept u (f u)) : LocksKept s (s.onPath p own go pwr off c f) := by
  obtain ⟨d, h⟩ | ⟨d, h⟩ := s.onPath_cases p own go pwr off c f <;> rw [h]
  · exact .of_start (u := { s with dev := d }) rfl (hf _)
  · exact .setDev s d

theorem LocksKept.onPathDev (s : State) (p : Path) (own : Option Nat) (go pwr : Bool) (off : Nat) (c : Instr) (f : Dev → Dev) :
    LocksKept s (s.onPathDev p own go pwr off c f) := .onPath s p own go pwr off c (fun u => .setDev u _)

@[simp] theorem State.readReg_lock (s : State) (p : Path) (off width : Nat) : (s.readReg p off width).2.lock = s.lock := by
  unfold State.readReg
  dsimp only
  repeat' split
  all_goals rfl

/-! Writes of registers that leave the locks alone. -/

@[simp] theorem State.storeReg_lock (s : State) (key m v : Nat) : (s.storeReg key m v).lock = s.lock := by
  unfold State.storeReg
  split <;> rfl

@[simp] theorem State.writeBase_lock (s : State) (key lock m v : Nat) (f : Dev → Nat → Dev) :
    (s.writeBase key lock m v f).lock = s.lock := by
  unfold State.writeBase
  split
  · rfl
  · split
    · exact s.storeReg_lock key m v
    · rfl

@[simp] theorem State.pmcStore_lock (s : State) (set o m v : Nat) : (s.pmcStore set o m v).lock = s.lock := by
  unfold State.pmcStore
  split
  · rfl
  · exact s.storeReg_lock _ m v

@[simp] theorem State.arrayStore_lock (s : State) (off m v : Nat) : (s.arrayStore off m v).lock = s.lock := by
  unfold State.arrayStore
  dsimp only
  repeat' split
  all_goals simp only [State.storeReg_lock]

@[simp] theorem State.fnStore_lock (s : State) (f key m v : Nat) : (s.fnStore f key m v).lock = s.lock := by
  unfold State.fnStore
  repeat' split
  all_goals simp only [State.pmcStore_lock, State.storeReg_lock]

@[simp] theorem State.msixWrite_lock (s : State) (f off width v : Nat) : (s.msixWrite f off width v).lock = s.lock := by
  unfold State.msixWrite
  split <;> rfl

/-! Firmware commands (R374, R375, R378): a live update leaves the locks alone. -/

@[simp] theorem State.stage_lock (s : State) (slot : Bool) (c : Instr) : (s.stage slot c).lock = s.lock := by
  unfold State.stage
  dsimp only
  repeat' split
  all_goals rfl

@[simp] theorem State.activateSlot_lock (s : State) (slot : Bool) : (s.activateSlot slot).lock = s.lock := by
  unfold State.activateSlot
  dsimp only
  repeat' split
  all_goals rfl

@[simp] theorem State.confirmSlot_lock (s : State) : s.confirmSlot.lock = s.lock := by
  unfold State.confirmSlot
  dsimp only
  repeat' split
  all_goals rfl

@[simp] theorem State.revertSlot_lock (s : State) : s.revertSlot.lock = s.lock := by
  unfold State.revertSlot
  dsimp only
  repeat' split
  all_goals rfl

@[simp] theorem State.fwGo_lock (s : State) (op : Nat) (slot : Bool) (c : Instr) : (s.fwGo op slot c).lock = s.lock := by
  unfold State.fwGo
  dsimp only
  split
  · rw [State.stage_lock]
  · rw [State.activateSlot_lock]
  · rw [State.confirmSlot_lock]
  · rw [State.revertSlot_lock]
  · rfl

@[simp] theorem State.writeFwCmd_lock (s : State) (p : Path) (v : Nat) : (s.writeFwCmd p v).lock = s.lock := by
  unfold State.writeFwCmd
  dsimp only
  split
  · exact s.fwGo_lock _ _ _
  · rfl

@[simp] theorem State.endRestart_lock (s : State) : s.endRestart.lock = s.lock := by
  unfold State.endRestart
  dsimp only
  repeat' split
  all_goals rfl

/-! Register writes of any path. -/

/-- A write of the management space sets locks at SEC_LOCK, resets the part at its reset register, and leaves the locks alone elsewhere. -/
theorem LocksKept.mgmtStore (s : State) (p : Path) (off m v : Nat) : LocksKept s (s.mgmtStore p off m v) := by
  unfold State.mgmtStore
  dsimp only
  split
  · exact .setDev s _
  split
  · exact .of_lock_eq (s.pmcStore_lock _ _ m v)
  split
  case h_1 => exact .writeLock s v
  case h_2 => exact .of_lock_eq (s.writeFwCmd_lock p v)
  case h_5 => exact .ite (.deviceReset s) (.refl s)
  all_goals
    apply LocksKept.of_lock_eq
    repeat' split
  all_goals simp only [State.storeReg_lock, State.writeBase_lock, State.arrayStore_lock]

/-- A write of a function's space leaves the locks alone: SEC_LOCK is not in it. -/
theorem LocksKept.storeAt (s : State) (p : Path) (o m v : Nat) : LocksKept s (s.storeAt p o m v) := by
  unfold State.storeAt
  split
  · split
    · exact .of_lock_eq (s.fnStore_lock _ _ m v)
    · exact .refl s
  · exact .mgmtStore s p o m v

theorem LocksKept.writeReg (s : State) (p : Path) (lt : Latch) (off width v : Nat) :
    LocksKept s (s.writeReg p lt off width v).2 := by
  have hstore := LocksKept.storeAt s p
  unfold State.writeReg
  dsimp only
  split
  · split
    · exact .of_lock_eq (s.msixWrite_lock _ off width v)
    · exact .refl s
  split
  · exact .refl s
  split
  · exact .refl s
  split
  · exact hstore _ _ _
  split
  · exact hstore _ _ _
  split
  · exact .setDev s _
  split
  · split
    · exact hstore _ _ _
    · exact hstore _ _ _
  · exact hstore _ _ _

theorem LocksKept.access (s : State) (p : Path) (off width v : Nat) : LocksKept s (s.access p off width v).2 := by
  unfold State.access
  dsimp only
  split
  · exact .of_start rfl (.writeReg { s with dev := s.dev.setLatch p ⟨none, none⟩ } p _ off width v)
  · exact .setDev s _
  · exact .onPath s p _ _ _ off _ .refl
  · exact .refl s

/-! Commands. -/

theorem execReadReg_keepsLocks (port : Nat) (m : FabMsg) (s : State) : ∃ t, execReadReg port m s = .next t ∧ LocksKept s t := by
  refine ⟨_, rfl, .ite (.refl s) ?_⟩
  split
  · exact .setDev s _
  next d _ =>
    have hread := State.readReg_lock { s with dev := d } .mgmt (mgAddr m.body) (State.mgWidth { s with dev := d } (mgAddr m.body))
    dsimp only
    split
    all_goals next hval =>
      rw [hval] at hread
      exact .of_lock_eq hread

/-- A write from the fabric answers only where the part is ready after it, so its answer follows no reset (R286). -/
theorem execWriteReg_keepsLocks (port : Nat) (m : FabMsg) (s : State) : ∃ t, execWriteReg port m s = .next t ∧ LocksKept s t := by
  refine ⟨_, rfl, .ite (.refl s) ?_⟩
  split
  · exact .setDev s _
  next d _ =>
    have haccess : LocksKept s (State.access { s with dev := d } .mgmt (mgAddr m.body) (State.mgWidth { s with dev := d } (mgAddr m.body))
        (fld m.body 40 (State.mgWidth { s with dev := d } (mgAddr m.body)))).2 := .of_start (u := { s with dev := d }) rfl (.access _ _ _ _ _)
    refine .ite (.setDev s _) ?_
    dsimp only
    split
    · exact haccess
    next hready => exact .setDev_of_ready _ (by simpa using hready) haccess

/-- A register write that is refused sends its refusal, which tells nothing of the locks and of readiness. -/
theorem execRegisterWrite_keepsLocks (p : Path) (off width v : Nat) (s : State) :
    ∃ t, execRegisterWrite p off width v s = .next t ∧ LocksKept s t := by
  have haccess := LocksKept.access s p off width v
  exact ⟨_, rfl, .ite haccess (haccess.of_end rfl rfl)⟩

/-- Every command keeps the locks that are set or resets the part. Those named here reset it, or reach the locks, the fuses or a register's
path; every other one changes the block alone. -/
theorem exec_keepsLocks (c : Instr) (s : State) : ∃ t, exec c s = .next t ∧ LocksKept s t := by
  cases c
  case secLockWrite => exact ⟨_, rfl, .onPath s _ none _ _ _ _ (fun u => .writeLock u _)⟩
  case coldReset found => exact ⟨_, rfl, .coldReset s found⟩
  case deviceReset | watchdogExpiry => exact ⟨_, rfl, .ite (.deviceReset s) (.refl s)⟩
  case wakeStepTimeout step => exact ⟨_, rfl, .ite (.wakeFails s step) (.refl s)⟩
  case registerWrite p off width v => exact execRegisterWrite_keepsLocks p off width v s
  case readReg port m => exact execReadReg_keepsLocks port m s
  case writeReg port m => exact execWriteReg_keepsLocks port m s
  case challenge | getMeasurements | getCertificate | keyExchange =>
    exact ⟨_, rfl, .ite (.refl s) (.ite (.setDev s _) (.ite (.setDev s _) (.setDev s _)))⟩
  case stageImage | activate | confirm | revert =>
    exact ⟨_, rfl, .onPath s _ none _ _ _ _ (fun u => .of_lock_eq (u.fwGo_lock _ _ _))⟩
  case tierMapEnable | embHtabEnable | atnRegEnable | extTabEnable | pwrModeTest =>
    exact ⟨_, rfl, .onPath s _ none _ _ _ _ (fun u => .ite (.refl u) (.setDev u _))⟩
  case modeSwitch | portEnWrite | portFenceWrite | bringup | define | undefine | reassign | egRecordWrite | adoptCask | evacuateCask |
      releaseCask | retireCask | eraseCask | importCask | forgetCask | calRun | calExport | calWrite | mgtUnfence | stopRequest |
      managementExit | pmcEvtWrite | recExport | recClear | tierRootWrite | pinQuotaWrite | qctRangeWrite | qctCtrlEn |
      msixVectorUnmask => exact ⟨_, rfl, .onPathDev s _ _ _ _ _ _ _⟩
  all_goals exact ⟨_, rfl, .setDev s _⟩

/-! Idle steps. -/

/-- An access that waited is carried out as its command; the latches put back tell nothing of the locks and of readiness. -/
theorem LocksKept.release (s : State) : LocksKept s s.release := by
  unfold State.release
  split
  · exact .refl s
  next c _ =>
    obtain ⟨t, hexec, hkept⟩ := exec_keepsLocks c { s with dev := { s.dev with held := s.dev.held.erase c } }
    rw [hexec]
    exact .of_end rfl rfl (.of_start rfl hkept)

@[simp] theorem State.boot_lock (s : State) : s.boot.lock = s.lock := by
  unfold State.boot
  dsimp only
  repeat' split
  all_goals rfl

@[simp] theorem State.entryStep_lock (s : State) : s.entryStep.lock = s.lock := by
  unfold State.entryStep
  dsimp only
  split
  all_goals rfl

theorem LocksKept.wakeStep (s : State) : LocksKept s s.wakeStep :=
  .ite (.setDev s _) (.ite (.wakeFails s 4) (.setDev s _))

theorem LocksKept.passes (s : State) : LocksKept s s.passes := by
  unfold State.passes
  split
  · exact .ite (.release s) (.of_lock_eq s.boot_lock)
  split
  · exact .of_start (u := State.endRestart { s with dev := s.dev.background }) (State.endRestart_lock _) (.release _)
  · exact .of_start s.entryStep_lock (.release _)
  · exact .release s
  · exact .wakeStep s

theorem LocksKept.idleStep (s : State) : LocksKept s (idleStep s) := .of_end rfl rfl (.passes s)

theorem LocksKept.step {s t : State} (h : step s = .next t) : LocksKept s t := by
  unfold Machine.step at h
  split at h
  · cases h
    exact .idleStep s
  next c cs _ =>
    obtain ⟨u, hexec, hkept⟩ := exec_keepsLocks c { s with pending := cs }
    cases hexec.symm.trans h
    exact hkept.of_start rfl

/-- A write of SEC_LOCK that passes on its path sets the bits written as 1 and changes no other (R377). -/
theorem exec_secLockWrite_of_pass {s : State} {p : Path} (v : Nat) (hpass : s.dev.pathAns p none false false = .pass) :
    exec (.secLockWrite p v) s = .next { s with dev := s.dev.setLatch p ⟨none, none⟩, lock := lockSet s.lock v } :=
  congrArg Host.Outcome.next (State.onPath_of_pass _ _ _ hpass)

/-- Measurement block 7 begins with SEC_LOCK (R371). -/
theorem State.fld_measurement_seven (s : State) : fld (s.measurement 7) 0 4 = s.lock % 256 ^ 4 := by
  simp only [State.measurement, List.append_assoc, fld_zero_leBytes_append]

end Sys2Proof.Machine
end

section
/-! Security and live update (chapter 17): the obligation about the locks. -/

namespace Sys2Proof.Proofs

open Sys2Proof Sys2Proof.Machine Sys2Proof.Claims

/-- Settles O4: a write of SEC_LOCK only adds locks, every step keeps them or resets the part, and measurement block 7 begins with them. -/
theorem locksFallOnlyWithReset : Obligations.LocksFallOnlyWithReset := by
  unfold Obligations.LocksFallOnlyWithReset
  refine ⟨?_, fun s t hstep => LocksKept.step hstep, ?_⟩
  · intro s p v hpass
    exact ⟨_, exec_secLockWrite_of_pass v hpass, testBit_lockSet s.lock v⟩
  · intro s hlt
    exact s.fld_measurement_seven.trans (Nat.mod_eq_of_lt hlt)

end Sys2Proof.Proofs
end

section
/-! SUPPORT. Counter sets (R382, R384): what a count and a write leave in a counter. -/

namespace Sys2Proof.Machine

open Sys2Proof Sys2Proof.Claims

/-- The key of counter `i` of a set (R397). -/
abbrev cntKey (set i : Nat) : Nat := pmcKey set (0x40 + 8 * i)

/-! Counting. -/

theorem Dev.bump_of_lt {d : Dev} {set i n : Nat} (h : d.reg (cntKey set i) + n < 2 ^ 48) :
    d.bump set i n = d.setReg (cntKey set i) (d.reg (cntKey set i) + n) := by
  unfold Dev.bump
  dsimp only
  rw [if_neg (Nat.not_le.mpr h), Nat.mod_eq_of_lt h]

/-- A count that passes the last value once goes on from 0 and shows in PMC_OVF (R384). -/
theorem Dev.bump_of_wrap {d : Dev} {set i n : Nat} (hlo : 2 ^ 48 ≤ d.reg (cntKey set i) + n)
    (hhi : d.reg (cntKey set i) + n < 2 ^ 48 + 2 ^ 48) :
    let e := d.setReg (cntKey set i) (d.reg (cntKey set i) + n - 2 ^ 48)
    d.bump set i n = e.setReg (pmcKey set 0x80) (e.reg (pmcKey set 0x80) ||| 2 ^ i) := by
  unfold Dev.bump
  dsimp only
  rw [if_pos hlo, Nat.mod_eq_sub_mod hlo, Nat.mod_eq_of_lt (by omega)]

/-! Writes of a counter. -/

/-- What a write of the 48-bit value `v` leaves in a counter that holds `old`: the bits above the counter's 48 are none of the
register's fields, and stay. -/
def cntWritten (old v : Nat) : Nat := 2 ^ 48 * (old / 2 ^ 48) + v

theorem cntWritten_of_lt {old : Nat} (v : Nat) (h : old < 2 ^ 48) : cntWritten old v = v := by
  rw [cntWritten, Nat.div_eq_of_lt h, Nat.mul_zero, Nat.zero_add]

/-- A write under a mask of the low bits replaces them and keeps what the register holds above them. -/
theorem mix_low (old v w : Nat) : mix old (2 ^ w - 1) v = 2 ^ w * (old / 2 ^ w) + v % 2 ^ w := by
  have hkeep : old ^^^ (old &&& (2 ^ w - 1)) = 2 ^ w * (old / 2 ^ w) := by
    refine Nat.eq_of_testBit_eq (fun b => ?_)
    by_cases hb : b < w
    · simp [hb, Nat.testBit_two_pow_mul, Nat.not_le.mpr hb]
    · simp [hb, Nat.testBit_two_pow_mul, Nat.not_lt.mp hb, Nat.testBit_div_two_pow]
  rw [mix, hkeep, Nat.and_two_pow_sub_one_eq_mod, Nat.two_pow_add_eq_or_of_lt (Nat.mod_lt _ (Nat.two_pow_pos w))]

/-- The row of a counter: 48 bits that can be written, and no lock (R397). -/
theorem regPmc_counter {i : Nat} (hi : i < 8) : regPmc (0x40 + 8 * i) = some ⟨0x40 + 8 * i, 64, 2 ^ 48 - 1, 0, 0, 0, 0⟩ := by
  unfold regPmc
  rw [if_neg (by omega), if_neg (by omega), if_pos (by omega)]
  rfl

theorem regRow_cntKey {set i : Nat} (hset : set < 2048) (hi : i < 8) :
    regRow (cntKey set i) = some ⟨0x40 + 8 * i, 64, 2 ^ 48 - 1, 0, 0, 0, 0⟩ := by
  have hoff : cntKey set i % 0x100 = 0x40 + 8 * i := by unfold cntKey pmcKey; omega
  have hlo : 0x1000000 ≤ cntKey set i := by unfold cntKey pmcKey; omega
  have hhi : cntKey set i < 0x2000000 := by unfold cntKey pmcKey; omega
  unfold regRow
  rw [if_neg (by omega), if_neg (by omega), if_pos hlo, hoff, regPmc_counter hi]

theorem writeFields_counter (o old v : Nat) (locked : Bool) (hv : v < 2 ^ 48) :
    writeFields ⟨o, 64, 2 ^ 48 - 1, 0, 0, 0, 0⟩ locked old wholeMask v = cntWritten old v := by
  have hmask : (2 ^ 48 - 1 ||| (if locked then 0 else 0)) &&& wholeMask = 2 ^ 48 - 1 := by cases locked <;> rfl
  simp only [writeFields, hmask, mix_low, Nat.and_zero, Nat.xor_zero, Nat.mod_eq_of_lt hv, cntWritten]

theorem State.pmcStore_counter (s : State) {set i v : Nat} (hset : set < 2048) (hi : i < 8) (hv : v < 2 ^ 48) :
    s.pmcStore set (0x40 + 8 * i) wholeMask v =
      { s with dev := s.dev.setReg (cntKey set i) (cntWritten (s.dev.reg (cntKey set i)) v) } := by
  unfold State.pmcStore State.storeReg
  rw [if_neg (by omega), regRow_cntKey hset hi]
  dsimp only
  rw [writeFields_counter _ _ _ _ hv]

/-- An 8-byte write of a 64-bit register at its own offset stores the whole value (R416). -/
theorem State.writeReg_whole {s : State} {p : Path} {off cur : Nat} (lt : Latch) (v : Nat) (hmsix : off < 0x8000 ∨ ∀ f, p ≠ .fn f)
    (halign : off % 8 = 0) (hreg : s.regAt p off = some (off, 64, cur)) :
    s.writeReg p lt off 8 v = (0, s.storeAt p off wholeMask (v % 2 ^ 64)) := by
  unfold State.writeReg
  dsimp only
  split
  next f hin =>
    obtain hlow | hfn := hmsix
    · have hbounds := of_decide_eq_true hin
      omega
    · exact absurd rfl (hfn f)
  · simp [hreg, accessOk, halign]

/-- The host function in whose own space an access to an offset lies: one in its registers or its MSI-X structures (R418). -/
def ownAt (p : Path) (off : Nat) : Option Nat :=
  match p with
  | .fn f => if isHostFn f && decide (off < 0x20000) then some f else none
  | _ => none

theorem exec_registerWrite_of_pass {s t : State} {p : Path} {off width v : Nat} (hgo : heldGo off v = false) (hstop : off ≠ 0x2000)
    (hpass : s.dev.pathAns p (ownAt p off) false false = .pass)
    (hwrite : State.writeReg { s with dev := fresh s.dev p } p (s.dev.latch p) off width v = (0, t)) :
    exec (.registerWrite p off width v) s = .next t := by
  have hans : s.dev.pathAns p (ownAt p off) (heldGo off v) (off == 0x2000) = .pass := by rw [hgo, beq_false_of_ne hstop, hpass]
  have haccess : s.access p off width v = (0, t) := by
    unfold State.access
    dsimp only
    split
    · exact hwrite
    all_goals next h => cases hans.symm.trans h
  show execRegisterWrite p off width v s = .next t
  unfold execRegisterWrite
  rw [haccess]
  rfl

/-- Where a path finds counter `i`: a host function in its own space, a management path among the registers of the set that it has
selected (R382, R418). -/
def cntOff (p : Path) (i : Nat) : Nat :=
  match p with
  | .fn _ => 0x1040 + 8 * i
  | _ => 0x20040 + 8 * i

theorem cntOff_cases (p : Path) (i : Nat) :
    (∃ f, p = .fn f ∧ cntOff p i = 0x1040 + 8 * i) ∨ ((∀ f, p ≠ .fn f) ∧ cntOff p i = 0x20040 + 8 * i) := by
  cases p with
  | fn f => exact .inl ⟨f, rfl, rfl⟩
  | _ => exact .inr ⟨fun _ => Path.noConfusion, rfl⟩

theorem heldGo_cntOff (p : Path) {i : Nat} (hi : i < 8) (v : Nat) : heldGo (cntOff p i) v = false := by
  obtain ⟨f, -, h⟩ | ⟨-, h⟩ := cntOff_cases p i <;> (rw [h]; simp [heldGo]; omega)

theorem ownAt_cntOff (p : Path) {i : Nat} (hi : i < 8) : ownAt p (cntOff p i) = ownFn p := by
  cases p with
  | fn f => simp [ownAt, ownFn, cntOff, show 0x1040 + 8 * i < 0x20000 by omega]
  | _ => rfl

theorem fnReg_counter (f : Nat) {i : Nat} (hi : i < 8) : fnReg f (0x1040 + 8 * i) = some (cntKey f i, 64) := by
  obtain rfl | rfl | rfl | rfl | rfl | rfl | rfl | rfl : i = 0 ∨ i = 1 ∨ i = 2 ∨ i = 3 ∨ i = 4 ∨ i = 5 ∨ i = 6 ∨ i = 7 := by omega
  all_goals rfl

theorem State.regAt_cntOff (s : State) (p : Path) {i : Nat} (hi : i < 8) :
    ∃ cur, s.regAt p (cntOff p i) = some (cntOff p i, 64, cur) := by
  have hoff : 0x20040 + 8 * i - 0x20000 = 0x40 + 8 * i := by omega
  have hspace : ¬ 0x20040 + 8 * i ≥ 0x40000 := by omega
  have hset : 0x20000 < 0x20040 + 8 * i ∧ 0x20040 + 8 * i < 0x30000 := by omega
  have hpmc : 0x20040 + 8 * i < 0x20100 := by omega
  cases p with
  | fn f => exact ⟨s.fnVal f (cntKey f i), by simp only [State.regAt, cntOff, fnReg_counter f hi, Option.map_some]⟩
  | _ => simp only [State.regAt, cntOff, if_neg hspace, if_pos hset, if_pos hpmc, hoff, regPmc_counter hi, Option.map_some, Option.some.injEq,
      Prod.mk.injEq, true_and, exists_eq']

theorem State.fnStore_counter (s : State) {f i v : Nat} (hf : f < 1024) (hi : i < 8) (hv : v < 2 ^ 48) :
    s.fnStore f (cntKey f i) wholeMask v =
      { s with dev := s.dev.setReg (cntKey f i) (cntWritten (s.dev.reg (cntKey f i)) v) } := by
  have hsub : cntKey f i - pmcKey f 0 = 0x40 + 8 * i := by unfold cntKey pmcKey; omega
  unfold State.fnStore
  rw [if_neg (by unfold cntKey pmcKey qctKey; omega), if_neg (by unfold cntKey pmcKey qctKey; omega),
    if_pos (by unfold cntKey pmcKey; omega), hsub, s.pmcStore_counter (by omega) hi hv]

theorem State.mgmtStore_counter (s : State) (p : Path) {i v : Nat} (hi : i < 8) :
    s.mgmtStore p (0x20040 + 8 * i) wholeMask v = s.pmcStore (s.dev.pmcSet p) (0x40 + 8 * i) wholeMask v := by
  have hsel : ∀ k < 8, selRegs.contains (0x20040 + 8 * k) = false := by decide
  have hpmc : 0x20000 ≤ 0x20040 + 8 * i ∧ 0x20040 + 8 * i < 0x20100 := by omega
  have hoff : 0x20040 + 8 * i - 0x20000 = 0x40 + 8 * i := by omega
  unfold State.mgmtStore
  dsimp only
  rw [hsel i hi, if_neg Bool.false_ne_true, if_pos hpmc, hoff]

theorem State.storeAt_cntOff (s : State) {p : Path} {i v : Nat} (hfn : ∀ f, p = .fn f → f < 1024) (hi : i < 8) (hv : v < 2 ^ 48) :
    s.storeAt p (cntOff p i) wholeMask v =
      { s with dev := s.dev.setReg (cntKey (s.dev.pmcSet p) i) (cntWritten (s.dev.reg (cntKey (s.dev.pmcSet p) i)) v) } := by
  cases p with
  | fn f =>
    simp only [State.storeAt, cntOff, fnReg_counter f hi]
    exact s.fnStore_counter (hfn f rfl) hi hv
  | _ => exact (s.mgmtStore_counter _ hi).trans (s.pmcStore_counter (Nat.mod_lt _ (by decide)) hi hv)

/-- A write of PMC_CNT_n that passes on its path (R384). -/
theorem gives_counterWrite {s : State} {p : Path} {i v : Nat} (hfn : ∀ f, p = .fn f → f < 1024) (hi : i < 8) (hv : v < 2 ^ 48)
    (hpass : s.dev.pathAns p (ownFn p) false false = .pass) :
    Gives (.registerWrite p (cntOff p i) 8 v) s
      ((fresh s.dev p).setReg (cntKey (s.dev.pmcSet p) i) (cntWritten (s.dev.reg (cntKey (s.dev.pmcSet p) i)) v)) := by
  have hset : (fresh s.dev p).pmcSet p = s.dev.pmcSet p := by cases p <;> rfl
  have hplace := cntOff_cases p i
  refine exec_registerWrite_of_pass (heldGo_cntOff p hi v) (by omega) (by rw [ownAt_cntOff p hi, hpass]) ?_
  obtain ⟨cur, hreg⟩ := State.regAt_cntOff { s with dev := fresh s.dev p } p hi
  rw [State.writeReg_whole _ v (hplace.imp (fun ⟨_, _, h⟩ => by omega) And.left) (by omega) hreg,
    Nat.mod_eq_of_lt (Nat.lt_trans hv (by decide : 2 ^ 48 < 2 ^ 64)), State.storeAt_cntOff _ hfn hi hv, hset]
  rfl

/-- A write of PMC_EVT_n that passes on its path clears the counter (R384). -/
theorem gives_pmcEvtWrite {s : State} {p : Path} {i : Nat} (ev : Nat) (hi : i < 8)
    (hpass : s.dev.pathAns p (ownFn p) false false = .pass) :
    Gives (.pmcEvtWrite p i ev) s ((fresh s.dev p).writeEvt (s.dev.pmcSet p) i ev) := by
  show execPmcEvtWrite p i ev s = _
  unfold execPmcEvtWrite State.onPathDev
  rw [State.onPath_of_pass _ _ _ hpass]
  simp only [if_pos hi]
  cases p <;> rfl

end Sys2Proof.Machine
end

section
/-! Counters (chapter 18): the obligation about their wrap and their writes. -/

namespace Sys2Proof.Proofs

open Sys2Proof Sys2Proof.Machine Sys2Proof.Claims

/-- A part that runs, where 2^48 is stored for counter 0 of function 0: more than the counter's 48 bits hold. -/
def overfullCounter : State :=
  { State.reset with dev := { Dev.reset with
    power := { Dev.reset.power with pwrgd := true, ready := true, st := .run }
    regs := [(cntKey 0 0, 2 ^ 48)] } }

/-- Refutes O58: the clause on writes does not ask what its clause on counting asks, that the stored counter be below 2^48. Where it is
2^48, a write of 0 by the function takes the register's 48 bits and leaves the one above them, so that the counter is not 0. -/
theorem not_countersWrapAndAreWritten : ¬ Obligations.CountersWrapAndAreWritten := by
  unfold Obligations.CountersWrapAndAreWritten
  rintro ⟨-, hwrites⟩
  have hpass : overfullCounter.dev.pathAns (.fn 0) (some 0) false false = .pass := by decide
  obtain ⟨hclaimed, -⟩ := (hwrites overfullCounter 0 0 (by decide) (by decide)).1 0 (by decide) hpass
  have hgiven : Gives (.registerWrite (.fn 0) 0x1040 8 0) overfullCounter
      ((fresh overfullCounter.dev (.fn 0)).setReg (cntKey 0 0) (cntWritten (2 ^ 48) 0)) :=
    gives_counterWrite (p := .fn 0) (i := 0) (fun f h => by cases h; decide) (by decide) (by decide) hpass
  have hregs := congrArg (fun t => t.dev.regs) (Host.Outcome.next.inj (hclaimed.symm.trans hgiven))
  revert hregs
  decide

/-- What the refutation leaves of the statement: of a counter that holds less than 2^48, all of it. -/
theorem counter_wraps_and_is_written_of_lt {s : State} {set i : Nat} (hi : i < 8) (hlt : s.dev.reg (cntKey set i) < 2 ^ 48) :
    (∀ n < 2 ^ 48,
      (s.dev.reg (cntKey set i) + n < 2 ^ 48 → s.dev.bump set i n = s.dev.setReg (cntKey set i) (s.dev.reg (cntKey set i) + n)) ∧
      (2 ^ 48 ≤ s.dev.reg (cntKey set i) + n →
        let e := s.dev.setReg (cntKey set i) (s.dev.reg (cntKey set i) + n - 2 ^ 48)
        s.dev.bump set i n = e.setReg (pmcKey set 0x80) (e.reg (pmcKey set 0x80) ||| 2 ^ i))) ∧
    (∀ p, s.dev.pmcSet p = set → (∀ f, p = .fn f → f < 1024) → s.dev.pathAns p (ownFn p) false false = .pass →
      (∀ v < 2 ^ 48, Gives (.registerWrite p (cntOff p i) 8 v) s ((fresh s.dev p).setReg (cntKey set i) v)) ∧
      ∀ ev, Gives (.pmcEvtWrite p i ev) s
        (((fresh s.dev p).setRf (pmcKey set (0x10 + 4 * i)) 7 0 ev).setReg (cntKey set i) 0)) := by
  refine ⟨fun n hn => ⟨Dev.bump_of_lt, fun hwrap => Dev.bump_of_wrap hwrap (by omega)⟩, ?_⟩
  rintro p rfl hfn hpass
  refine ⟨fun v hv => ?_, fun ev => gives_pmcEvtWrite ev hi hpass⟩
  have hgiven := gives_counterWrite hfn hi hv hpass
  rwa [cntWritten_of_lt v hlt] at hgiven

end Sys2Proof.Proofs
end

section
/-! SUPPORT. The queue of commands and the SVN fuses (R373, R374): every command and every idle step leaves the queue as it finds it and
lowers no count of fuses. -/

namespace Sys2Proof.Machine

open Sys2Proof

/-- From `s` to `t` the queue of commands stays as it is, and no fuse that is burned comes back. -/
def QueueKept (s t : State) : Prop := t.pending = s.pending ∧ s.fuses ≤ t.fuses

theorem QueueKept.refl (s : State) : QueueKept s s := ⟨rfl, Nat.le_refl _⟩

theorem QueueKept.trans {s t u : State} (h : QueueKept s t) (h' : QueueKept t u) : QueueKept s u :=
  ⟨h'.1.trans h.1, Nat.le_trans h.2 h'.2⟩

/-- Neither the block nor the locks are looked at. -/
theorem QueueKept.setDev (s : State) (d : Dev) : QueueKept s { s with dev := d } := .refl s

theorem QueueKept.setDevLock (s : State) (d : Dev) (lock : Nat) : QueueKept s { s with dev := d, lock := lock } := .refl s

theorem QueueKept.writeLock (s : State) (value : Nat) : QueueKept s (s.writeLock value) := .setDevLock s _ _

theorem QueueKept.deviceReset (s : State) : QueueKept s s.deviceReset := .setDevLock s _ _

theorem QueueKept.coldReset (s : State) (found : PowerOn) : QueueKept s (s.coldReset found) := .setDevLock s _ _

theorem QueueKept.wakeFails (s : State) (step : Nat) : QueueKept s (s.wakeFails step) := .setDevLock s _ _

theorem QueueKept.ite {s t u : State} {c : Prop} [Decidable c] (ht : QueueKept s t) (hu : QueueKept s u) :
    QueueKept s (if c then t else u) := by
  split
  · exact ht
  · exact hu

/-! Accesses to registers. -/

theorem QueueKept.onPath (s : State) (p : Path) (own : Option Nat) (go pwr : Bool) (off : Nat) (c : Instr) {f : State → State}
    (hf : ∀ u, QueueKept u (f u)) : QueueKept s (s.onPath p own go pwr off c f) := by
  obtain ⟨d, h⟩ | ⟨d, h⟩ := s.onPath_cases p own go pwr off c f <;> rw [h]
  · exact (QueueKept.setDev s d).trans (hf _)
  · exact .setDev s d

theorem QueueKept.onPathDev (s : State) (p : Path) (own : Option Nat) (go pwr : Bool) (off : Nat) (c : Instr) (f : Dev → Dev) :
    QueueKept s (s.onPathDev p own go pwr off c f) := .onPath s p own go pwr off c (fun u => .setDev u _)

theorem QueueKept.readReg (s : State) (p : Path) (off width : Nat) : QueueKept s (s.readReg p off width).2 := by
  unfold State.readReg
  dsimp only
  repeat' split
  all_goals exact .refl s

/-! Writes of registers. -/

theorem QueueKept.storeReg (s : State) (key m v : Nat) : QueueKept s (s.storeReg key m v) := by
  unfold State.storeReg
  split
  all_goals exact .refl s

theorem QueueKept.writeBase (s : State) (key lock m v : Nat) (f : Dev → Nat → Dev) : QueueKept s (s.writeBase key lock m v f) :=
  .ite (.refl s) (.ite (.storeReg s key m v) (.setDev s _))

theorem QueueKept.pmcStore (s : State) (set o m v : Nat) : QueueKept s (s.pmcStore set o m v) :=
  .ite (.setDev s _) (.storeReg s _ m v)

theorem QueueKept.arrayStore (s : State) (off m v : Nat) : QueueKept s (s.arrayStore off m v) := by
  have hstore := QueueKept.storeReg s off m v
  unfold State.arrayStore
  dsimp only
  repeat' split
  all_goals first | exact hstore | exact .refl s

theorem QueueKept.fnStore (s : State) (f key m v : Nat) : QueueKept s (s.fnStore f key m v) :=
  .ite (.refl s) (.ite (.setDev s _) (.ite (.pmcStore s f _ m v) (.storeReg s key m v)))

theorem QueueKept.msixWrite (s : State) (f off width v : Nat) : QueueKept s (s.msixWrite f off width v) :=
  .ite (.refl s) (.setDev s _)

/-! Firmware commands (R374, R375): CONFIRM alone burns fuses, up to the image's SVN where the count lies below it. -/

theorem QueueKept.stage (s : State) (slot : Bool) (c : Instr) : QueueKept s (s.stage slot c) := by
  unfold State.stage
  dsimp only
  repeat' split
  all_goals exact .setDev s _

theorem QueueKept.activateSlot (s : State) (slot : Bool) : QueueKept s (s.activateSlot slot) :=
  .ite (.setDev s _) (.ite (.setDev s _) (.setDev s _))

theorem QueueKept.confirmSlot (s : State) : QueueKept s s.confirmSlot := by
  refine .ite (.setDev s _) (.ite (.setDev s _) ⟨rfl, ?_⟩)
  dsimp only
  split
  · exact Nat.le_max_left _ _
  · exact Nat.le_refl _

theorem QueueKept.revertSlot (s : State) : QueueKept s s.revertSlot :=
  .ite (.setDev s _) (.ite (.setDev s _) (.setDev s _))

theorem QueueKept.fwGo (s : State) (op : Nat) (slot : Bool) (c : Instr) : QueueKept s (s.fwGo op slot c) := by
  unfold State.fwGo
  dsimp only
  split
  · exact (QueueKept.setDev s _).trans (.stage _ slot c)
  · exact (QueueKept.setDev s _).trans (.activateSlot _ slot)
  · exact (QueueKept.setDev s _).trans (.confirmSlot _)
  · exact (QueueKept.setDev s _).trans (.revertSlot _)
  · exact .setDev s _

theorem QueueKept.writeFwCmd (s : State) (p : Path) (v : Nat) : QueueKept s (s.writeFwCmd p v) :=
  .ite (.fwGo s _ _ _) (.setDev s _)

theorem QueueKept.endRestart (s : State) : QueueKept s s.endRestart :=
  .ite (.refl s) (.ite (.setDev s _) (.setDev s _))

/-! Register writes of any path. -/

theorem QueueKept.mgmtStore (s : State) (p : Path) (off m v : Nat) : QueueKept s (s.mgmtStore p off m v) := by
  unfold State.mgmtStore
  dsimp only
  split
  · exact .setDev s _
  split
  · exact .pmcStore s _ _ m v
  split
  case h_1 => exact .writeLock s v
  case h_2 => exact .writeFwCmd s p v
  case h_5 => exact .ite (.deviceReset s) (.refl s)
  case h_6 => exact .storeReg s _ m v
  case h_14 | h_15 | h_16 => exact .writeBase s _ _ m v _
  case h_22 => exact .arrayStore s off m v
  case h_4 | h_7 | h_10 | h_11 => exact .ite (.setDev s _) (.setDev s _)
  all_goals exact .setDev s _

theorem QueueKept.storeAt (s : State) (p : Path) (o m v : Nat) : QueueKept s (s.storeAt p o m v) := by
  unfold State.storeAt
  split
  · split
    · exact .fnStore s _ _ m v
    · exact .refl s
  · exact .mgmtStore s p o m v

theorem QueueKept.writeReg (s : State) (p : Path) (lt : Latch) (off width v : Nat) :
    QueueKept s (s.writeReg p lt off width v).2 := by
  have hstore := QueueKept.storeAt s p
  unfold State.writeReg
  dsimp only
  split
  · split
    · exact .msixWrite s _ off width v
    · exact .refl s
  split
  · exact .refl s
  split
  · exact .refl s
  split
  · exact hstore _ _ _
  split
  · exact hstore _ _ _
  split
  · exact .setDev s _
  split
  · split
    · exact hstore _ _ _
    · exact hstore _ _ _
  · exact hstore _ _ _

theorem QueueKept.access (s : State) (p : Path) (off width v : Nat) : QueueKept s (s.access p off width v).2 := by
  unfold State.access
  dsimp only
  split
  · exact (QueueKept.setDev s _).trans (.writeReg _ p _ off width v)
  · exact .setDev s _
  · exact .onPath s p _ _ _ off _ .refl
  · exact .refl s

/-! Commands. -/

theorem execReadReg_keepsQueue (port : Nat) (m : FabMsg) (s : State) : ∃ t, execReadReg port m s = .next t ∧ QueueKept s t := by
  refine ⟨_, rfl, .ite (.refl s) ?_⟩
  split
  · exact .setDev s _
  next d _ =>
    have hread := QueueKept.readReg { s with dev := d } .mgmt (mgAddr m.body) (State.mgWidth { s with dev := d } (mgAddr m.body))
    dsimp only
    split
    all_goals next hval =>
      rw [hval] at hread
      exact hread

theorem execWriteReg_keepsQueue (port : Nat) (m : FabMsg) (s : State) : ∃ t, execWriteReg port m s = .next t ∧ QueueKept s t := by
  refine ⟨_, rfl, .ite (.refl s) ?_⟩
  split
  · exact .setDev s _
  next d _ =>
    have haccess := QueueKept.access { s with dev := d } .mgmt (mgAddr m.body) (State.mgWidth { s with dev := d } (mgAddr m.body))
      (fld m.body 40 (State.mgWidth { s with dev := d } (mgAddr m.body)))
    exact .ite (.setDev s _) (.ite haccess (QueueKept.trans haccess (.setDev _ _)))

theorem execRegisterWrite_keepsQueue (p : Path) (off width v : Nat) (s : State) :
    ∃ t, execRegisterWrite p off width v s = .next t ∧ QueueKept s t :=
  ⟨_, rfl, .ite (.access s p off width v) (.access s p off width v)⟩

/-- Every command answers a next state with the queue as it was and no fuse fewer. -/
theorem exec_keepsQueue (c : Instr) (s : State) : ∃ t, exec c s = .next t ∧ QueueKept s t := by
  cases c
  case secLockWrite => exact ⟨_, rfl, .onPath s _ none _ _ _ _ (fun u => .writeLock u _)⟩
  case coldReset found => exact ⟨_, rfl, .coldReset s found⟩
  case deviceReset | watchdogExpiry => exact ⟨_, rfl, .ite (.deviceReset s) (.refl s)⟩
  case wakeStepTimeout step => exact ⟨_, rfl, .ite (.wakeFails s step) (.refl s)⟩
  case registerWrite p off width v => exact execRegisterWrite_keepsQueue p off width v s
  case readReg port m => exact execReadReg_keepsQueue port m s
  case writeReg port m => exact execWriteReg_keepsQueue port m s
  case challenge | getMeasurements | getCertificate | keyExchange =>
    exact ⟨_, rfl, .ite (.refl s) (.ite (.setDev s _) (.ite (.setDev s _) (.setDev s _)))⟩
  case stageImage | activate | confirm | revert => exact ⟨_, rfl, .onPath s _ none _ _ _ _ (fun u => .fwGo u _ _ _)⟩
  case tierMapEnable | embHtabEnable | atnRegEnable | extTabEnable | pwrModeTest =>
    exact ⟨_, rfl, .onPath s _ none _ _ _ _ (fun u => .ite (.refl u) (.setDev u _))⟩
  case modeSwitch | portEnWrite | portFenceWrite | bringup | define | undefine | reassign | egRecordWrite | adoptCask | evacuateCask |
      releaseCask | retireCask | eraseCask | importCask | forgetCask | calRun | calExport | calWrite | mgtUnfence | stopRequest |
      managementExit | pmcEvtWrite | recExport | recClear | tierRootWrite | pinQuotaWrite | qctRangeWrite | qctCtrlEn |
      msixVectorUnmask => exact ⟨_, rfl, .onPathDev s _ _ _ _ _ _ _⟩
  all_goals exact ⟨_, rfl, .setDev s _⟩

/-! Steps. -/

theorem QueueKept.release (s : State) : QueueKept s s.release := by
  unfold State.release
  split
  · exact .refl s
  next c _ =>
    obtain ⟨t, hexec, hkept⟩ := exec_keepsQueue c { s with dev := { s.dev with held := s.dev.held.erase c } }
    rw [hexec]
    exact (QueueKept.setDev s _).trans (hkept.trans (.setDev t _))

theorem QueueKept.boot (s : State) : QueueKept s s.boot := by
  unfold State.boot
  dsimp only
  refine .ite (.refl s) (.ite (.setDev s _) ?_)
  split
  · exact .setDev s _
  · exact .setDev s _

theorem QueueKept.entryStep (s : State) : QueueKept s s.entryStep := by
  unfold State.entryStep
  dsimp only
  split
  all_goals exact .setDev s _

theorem QueueKept.wakeStep (s : State) : QueueKept s s.wakeStep :=
  .ite (.setDev s _) (.ite (.wakeFails s 4) (.setDev s _))

theorem QueueKept.passes (s : State) : QueueKept s s.passes := by
  unfold State.passes
  split
  · exact .ite (.release s) (.boot s)
  split
  · exact (QueueKept.setDev s _).trans ((QueueKept.endRestart _).trans (.release _))
  · exact (QueueKept.entryStep s).trans (.release _)
  · exact .release s
  · exact .wakeStep s

theorem QueueKept.idleStep (s : State) : QueueKept s (idleStep s) := (QueueKept.passes s).trans (.setDev _ _)

/-- What a step can do: an idle step on an empty queue, or the command at the front on the state with the rest of the queue. -/
theorem step_cases {s t : State} (h : step s = .next t) :
    (s.pending = [] ∧ t = idleStep s) ∨ ∃ c cs, s.pending = c :: cs ∧ exec c { s with pending := cs } = .next t := by
  unfold step at h
  split at h
  next hnil => exact .inl ⟨hnil, (Host.Outcome.next.inj h).symm⟩
  next c cs hcons => exact .inr ⟨c, cs, hcons, h⟩

theorem step_keepsQueue {s t : State} (h : step s = .next t) : t.pending = s.pending.tail ∧ s.fuses ≤ t.fuses := by
  obtain ⟨hnil, rfl⟩ | ⟨c, cs, hcons, hexec⟩ := step_cases h
  · obtain ⟨hpending, hfuses⟩ := QueueKept.idleStep s
    exact ⟨by rw [hpending, hnil]; rfl, hfuses⟩
  · obtain ⟨u, hu, hkept⟩ := exec_keepsQueue c { s with pending := cs }
    cases hu.symm.trans hexec
    rw [hcons]
    exact hkept

end Sys2Proof.Machine
end

section
/-! The machine: the obligations about a step, the queue of commands, the fuses and the reset state. -/

namespace Sys2Proof.Proofs

open Sys2Proof Sys2Proof.Machine Sys2Proof.Claims

/-- Settles O5: CONFIRM alone burns fuses, and only up from the count that there is. -/
theorem fusesNeverFall : Obligations.FusesNeverFall := by
  unfold Obligations.FusesNeverFall
  exact fun s t h => (step_keepsQueue h).2

/-- Settles O3: the front command is taken off before it runs, and no command reaches the queue. -/
theorem stepTakesOnlyTheFront : Obligations.StepTakesOnlyTheFront := by
  unfold Obligations.StepTakesOnlyTheFront
  exact fun s t h => (step_keepsQueue h).1

/-- Settles O2: every arm of `exec` answers a next state. -/
theorem everyCommandAnswersNext : Obligations.EveryCommandAnswersNext := by
  unfold Obligations.EveryCommandAnswersNext
  intro c s
  obtain ⟨t, hexec, -⟩ := exec_keepsQueue c s
  exact ⟨t, hexec⟩

/-- Settles O1: a step is `exec` of the front command, or one idle step. -/
theorem stepRunsFrontCommand : Obligations.StepRunsFrontCommand := by
  unfold Obligations.StepRunsFrontCommand
  exact ⟨fun c s => rfl, fun s => rfl⟩

end Sys2Proof.Proofs
end

section
/-! SUPPORT. Byte strings written as one little-endian field after another (R13, R14): a field reads back what was written at its offset. -/

namespace Sys2Proof.Machine

open Sys2Proof

theorem slice_append_of_length_le (a b : List Byte) {off : Nat} (n : Nat) (h : a.length ≤ off) :
    slice (a ++ b) off n = slice b (off - a.length) n := by
  unfold slice
  rw [List.drop_append, List.drop_eq_nil_of_le h, List.nil_append]

/-- A field lies behind those written before it. -/
theorem fld_leBytes_append_of_le {k off : Nat} (x n : Nat) (rest : List Byte) (h : k ≤ off) :
    fld (leBytes k x ++ rest) off n = fld rest (off - k) n := by
  unfold fld
  rw [slice_append_of_length_le _ _ _ (by rwa [length_leBytes]), length_leBytes]

theorem fld_zero_leBytes (n x : Nat) : fld (leBytes n x) 0 n = x % 256 ^ n := by
  rw [← List.append_nil (leBytes n x), fld_zero_leBytes_append]

theorem replicate_zero_eq_leBytes (n : Nat) : List.replicate n (0 : Byte) = leBytes n 0 := by
  induction n with
  | zero => rfl
  | succ n ih => rw [List.replicate_succ, ih]; rfl

/-- The whole of a string, read from its start. -/
theorem slice_zero_length (bs : List Byte) : slice bs 0 bs.length = bs := by
  simp [slice]

theorem b2n_lt_two (b : Bool) : b2n b < 2 := by cases b <;> decide

theorem lf_lt (l : Line) (off n : Nat) : lf l off n < 2 ^ (8 * n) := Nat.mod_lt _ (Nat.two_pow_pos _)

end Sys2Proof.Machine
end

section
/-! SUPPORT. The bytes of a message and of a completion (R135, R276), field by field, and a message read back from its bytes. -/

namespace Sys2Proof.Machine

open Sys2Proof

/-- The header of a message: its first 16 bytes. -/
def msgHead (m : FabMsg) : List Byte :=
  leBytes 2 (m.dst % 4096) ++ leBytes 2 (if m.noId then 2 ^ 15 else m.src % 4096) ++ leBytes 3 (m.sidx % 2 ^ 20)
  ++ leBytes 1 m.type ++ leBytes 1 (msgFlags m) ++ leBytes 2 m.tag ++ leBytes 2 (m.ord % 1024 + 1024 * (m.part % 64))
  ++ leBytes 1 m.age ++ leBytes 2 (16 * (msgLen m / 8) + m.status % 16)

theorem length_msgHead (m : FabMsg) : (msgHead m).length = 16 := by
  simp only [msgHead, List.length_append, length_leBytes]

/-- What `msgOk` says of a message, field by field (R276). -/
theorem msgOk_iff (m : FabMsg) : msgOk m = true ↔
    m.dst < 4096 ∧ m.src < 4096 ∧ m.sidx < 2 ^ 20 ∧ m.type < 256 ∧ m.vc < 8 ∧ m.tag < 2 ^ 16 ∧ m.ord < 1024 ∧ m.part < 64 ∧
      m.age < 256 ∧ m.status < 16 ∧ m.body.length % 8 = 0 ∧ m.body.length ≤ 20464 := by
  simp only [msgOk, nodeOk, Bool.and_eq_true, decide_eq_true_eq, and_assoc, Nat.reducePow]

section
variable {m : FabMsg} (hok : msgOk m = true)
include hok

theorem msgLen_of_msgOk : msgLen m = 16 + m.body.length := by
  obtain ⟨-, -, -, -, -, -, -, -, -, -, hmod, -⟩ := (msgOk_iff m).mp hok
  simp only [msgLen, ceilDiv, if_neg (by decide : ¬ 8 = 0)]
  omega

theorem msgBytes_of_msgOk : msgBytes m = msgHead m ++ m.body := by
  unfold msgBytes
  rw [msgLen_of_msgOk hok, Nat.add_sub_cancel_left, slice_zero_length, ← msgLen_of_msgOk hok]
  rfl

end

/-- A field of the header, which lies before the body. -/
theorem fld_msgHead_append (m : FabMsg) (body : List Byte) :
    let bs := msgHead m ++ body
    fld bs 0 2 = m.dst % 4096 % 65536 ∧ fld bs 2 2 = (if m.noId then 2 ^ 15 else m.src % 4096) % 65536 ∧
    fld bs 4 3 = m.sidx % 2 ^ 20 % 2 ^ 24 ∧ fld bs 7 1 = m.type % 256 ∧ fld bs 8 1 = msgFlags m % 256 ∧ fld bs 9 2 = m.tag % 65536 ∧
    fld bs 11 2 = (m.ord % 1024 + 1024 * (m.part % 64)) % 65536 ∧ fld bs 13 1 = m.age % 256 ∧
    fld bs 14 2 = (16 * (msgLen m / 8) + m.status % 16) % 65536 := by
  simp only [msgHead, List.append_assoc]
  refine ⟨?_, ?_, ?_, ?_, ?_, ?_, ?_, ?_, ?_⟩ <;>
    simp [fld_leBytes_append_of_le, fld_zero_leBytes_append]

theorem msgFlags_of_vc_lt {m : FabMsg} (h : m.vc < 8) :
    msgFlags m = b2n m.first + 2 * b2n m.ackReq + 4 * b2n m.poison + 8 * b2n m.pin + 16 * m.vc := by
  rw [msgFlags, Nat.mod_eq_of_lt h]

/-- The flags of a message, taken apart again. -/
theorem msgFlags_apart (a b c e : Bool) {vc : Nat} (h : vc < 8) :
    let fl := b2n a + 2 * b2n b + 4 * b2n c + 8 * b2n e + 16 * vc
    fl < 256 ∧ bit fl 0 = a ∧ bit fl 1 = b ∧ bit fl 2 = c ∧ bit fl 3 = e ∧ bits fl 6 4 = vc := by
  decide +revert

end Sys2Proof.Machine
end

section
/-! The bytes of completions and messages: the obligations about their layout. -/

namespace Sys2Proof.Proofs

open Sys2Proof Sys2Proof.Machine Sys2Proof.Claims

/-- Settles O41: each header field is read back at its offset, and the body lies behind the 16 bytes of the header. -/
theorem messagesRoundTrip : Obligations.MessagesRoundTrip := by
  unfold Obligations.MessagesRoundTrip
  intro m hok hnoid
  obtain ⟨hdst, hsrc, hsidx, htype, hvc, htag, hord, hpart, hage, hstatus, hmod, hlen⟩ := (msgOk_iff m).mp hok
  have hml := msgLen_of_msgOk hok
  rw [msgBytes_of_msgOk hok]
  obtain ⟨f0, f2, f4, f7, f8, f9, f11, f13, f14⟩ := fld_msgHead_append m m.body
  obtain ⟨hfl, hb0, hb1, hb2, hb3, hb4⟩ := msgFlags_apart m.first m.ackReq m.poison m.pin hvc
  rw [msgFlags_of_vc_lt hvc, Nat.mod_eq_of_lt hfl] at f8
  have g0 : fld (msgHead m ++ m.body) 0 2 = m.dst := by omega
  have g2 : fld (msgHead m ++ m.body) 2 2 = if m.noId then 2 ^ 15 else m.src := by
    rw [f2]; split <;> omega
  have g4 : fld (msgHead m ++ m.body) 4 3 = m.sidx := by omega
  have g7 : fld (msgHead m ++ m.body) 7 1 = m.type := by omega
  have g9 : fld (msgHead m ++ m.body) 9 2 = m.tag := by omega
  have g11 : fld (msgHead m ++ m.body) 11 2 = m.ord + 1024 * m.part := by omega
  have g13 : fld (msgHead m ++ m.body) 13 1 = m.age := by omega
  have g14 : fld (msgHead m ++ m.body) 14 2 = 16 * (2 + m.body.length / 8) + m.status := by omega
  have hhead : headLen (msgHead m ++ m.body) = 16 + m.body.length := by
    rw [headLen, g14]; omega
  have hdrop : (msgHead m ++ m.body).drop 16 = m.body := List.drop_left' (length_msgHead m)
  have hwhole : (msgHead m ++ m.body).length = 16 + m.body.length := by rw [List.length_append, length_msgHead]
  refine ⟨hwhole.trans hml.symm, ?_, hhead, g0, g2, g4, g7, f8, g9, g11, g13, g14, hdrop⟩
  have hbody : ((msgHead m ++ m.body).take (headLen (msgHead m ++ m.body))).drop 16 = m.body := by
    rw [hhead, ← hwhole, List.take_length, hdrop]
  have hsrcId : (if m.noId then 2 ^ 15 else m.src) % 4096 = m.src ∧ bit (if m.noId then 2 ^ 15 else m.src) 15 = m.noId := by
    cases hn : m.noId with
    | true => rw [hnoid hn, if_pos rfl]; decide
    | false => exact ⟨Nat.mod_eq_of_lt hsrc, Nat.testBit_lt_two_pow (Nat.lt_trans hsrc (by decide))⟩
  have hordPart : (m.ord + 1024 * m.part) % 1024 = m.ord ∧ (m.ord + 1024 * m.part) / 1024 = m.part := by omega
  have hst : (16 * (2 + m.body.length / 8) + m.status) % 16 = m.status := by omega
  unfold msgOf
  simp only [hbody, g0, g2, g4, g7, f8, g9, g11, g13, g14, hb0, hb1, hb2, hb3, hb4, hsrcId, hordPart, hst,
    Nat.mod_eq_of_lt hdst, Nat.mod_eq_of_lt hsidx]

/-- Settles O14: the fields of a completion lie one after another, and its ring starts over where its last slot is taken. -/
theorem completionRecord : Obligations.CompletionRecord := by
  unfold Obligations.CompletionRecord
  refine ⟨?_, ?_⟩
  · intro q x r hpois hdetail
    have hphase : b2n x.phase % 256 = b2n x.phase := Nat.mod_eq_of_lt (Nat.lt_trans (b2n_lt_two _) (by decide))
    have htag : lf r.bytes 2 2 % 65536 = lf r.bytes 2 2 := Nat.mod_eq_of_lt (lf_lt _ _ _)
    have hop : lf r.bytes 0 1 % 256 = lf r.bytes 0 1 := Nat.mod_eq_of_lt (lf_lt _ _ _)
    have hq : q % 2 ^ 14 % 65536 = q % 2 ^ 14 := by omega
    have hzero : b2n false = 0 := rfl
    simp only [completionBytes, hpois, if_neg hdetail, List.append_assoc, replicate_zero_eq_leBytes]
    refine ⟨by simp, ?_, ?_, ?_, hq ▸ ?_, ?_, ?_, ?_, ?_, ?_, ?_⟩ <;>
      simp [fld_leBytes_append_of_le, fld_zero_leBytes_append, fld_zero_leBytes, htag, hop, hphase, hzero]
  · intro x n hlt
    simp only [Queue.advance]
    refine ⟨fun h => ?_, fun h => ?_, trivial, trivial, trivial, fun r => ?_⟩
    · rw [Nat.mod_eq_of_lt h]
      exact ⟨rfl, if_neg (Nat.succ_ne_zero _)⟩
    · rw [h, Nat.mod_self]
      exact ⟨rfl, if_pos rfl⟩
    · simp

end Sys2Proof.Proofs
end

section
/-! The reset state (R365, R427): the obligation about what the block holds after reset. -/

namespace Sys2Proof.Proofs

open Sys2Proof Sys2Proof.Machine Sys2Proof.Claims

/-- A register of a counter set has the row of its offset (R397). -/
theorem regRow_pmcKey {set o : Nat} (hset : set < 2048) (ho : o < 0x100) : regRow (pmcKey set o) = regPmc o := by
  have hoff : pmcKey set o % 0x100 = o := by unfold pmcKey; omega
  have hlo : 0x1000000 ≤ pmcKey set o := by unfold pmcKey; omega
  have hhi : pmcKey set o < 0x2000000 := by unfold pmcKey; omega
  unfold regRow
  rw [if_neg (by omega), if_neg (by omega), if_pos hlo, hoff]

/-- After reset no register is listed, so that each reads its reset value. -/
theorem reg_reset (key : Nat) : State.reset.dev.reg key = regReset key := rfl

/-- A counter set selects no event after reset, and its counters stand at 0. -/
theorem regReset_pmcKey {set : Nat} (hset : set < 2048) {i : Nat} (hi : i < 8) :
    regReset (pmcKey set (0x10 + 4 * i)) = 0 ∧ regReset (pmcKey set (0x40 + 8 * i)) = 0 := by
  have hzero : ∀ k < 8, ((regPmc (0x10 + 4 * k)).map (·.reset)).getD 0 = 0 ∧ ((regPmc (0x40 + 8 * k)).map (·.reset)).getD 0 = 0 := by
    decide
  unfold regReset
  rw [regRow_pmcKey hset (by omega), regRow_pmcKey hset (by omega)]
  exact hzero i hi

/-- Settles O7: the reset state is a closed one, and a register not listed reads its reset value. -/
theorem resetState : Obligations.ResetState := by
  unfold Obligations.ResetState
  refine ⟨rfl, rfl, rfl, rfl, rfl, rfl, rfl, rfl, rfl, fun n => rfl, rfl, rfl, ?_, ?_, ?_, ?_⟩
  · simp only [reg_reset]
    decide
  · simp only [reg_reset]
    decide
  · simp only [reg_reset]
    decide
  · intro set hset i hi
    simp only [reg_reset]
    exact regReset_pmcKey hset hi

end Sys2Proof.Proofs
end

section
/-! SUPPORT. How the meaning of a descriptor's row becomes the answer of its command: by how its run ends (R23, R134 to R137). -/

namespace Sys2Proof.Claims

open Sys2Proof Sys2Proof.Machine

section
variable {d : Dev} {q n op : Nat} {x : Queue} {r : Started}

theorem Running.seq_eq (h : Running d q n op x r) : r.seq = n := by
  obtain ⟨-, hfind, -, -⟩ := h
  simpa using List.find?_some hfind

theorem Running.queue_eq (h : Running d q n op x r) : smGet? q d.queues = some x := h.1

theorem Running.startedOf_eq (h : Running d q n op x r) : d.startedOf q n = some r := by
  obtain ⟨hq, hfind, -, -⟩ := h
  simp [Dev.startedOf, hq, hfind]

theorem Running.did_eq (h : Running d q n op x r) : (descCtx q x r).did = ⟨q, n⟩ := by
  rw [← h.seq_eq]
  rfl

theorem Running.run_eq (h : Running d q n op x r) : (descCtx q x r).run = .desc q n := by
  rw [← h.seq_eq]
  rfl

end

end Sys2Proof.Claims

namespace Sys2Proof.Machine

open Sys2Proof Sys2Proof.Claims

section
variable {d : Dev} {q n op : Nat} {x : Queue} {r : Started} {m : Line → M (Nat × Nat × Nat)}

/-- A run of a descriptor that runs and has the row's opcode, by how it ends. -/
theorem Dev.runDesc_of_running (h : Running d q n op x r) : d.runDesc op q n m =
    match d.runM (descCtx q x r) (m r.bytes) with
    | (.ok (st, r0, r1), k) => ((Dev.commit (descCtx q x r) k.d k.log).chargeRun (descCtx q x r) k.acc).finish q n st r0 r1
    | (.error (.done st), k) => ((Dev.commit (descCtx q x r) k.d k.log).chargeRun (descCtx q x r) k.acc).finishOpen op q n st
    | (.error .need, k) => (k.d.setIssued (descCtx q x r) k.iss).flushFaults (descPasid r.bytes) := by
  obtain ⟨hq, hfind, hphase, hop⟩ := h
  unfold Dev.runDesc
  simp only [hq, hfind, hphase, hop, ne_eq, not_true_eq_false, decide_false, Bool.or_self, Bool.false_eq_true, if_false]
  rfl

theorem Dev.runDesc_of_not_running (h : ∀ r, d.startedOf q n = some r → r.phase ≠ .running) : d.runDesc op q n m = d := by
  unfold Dev.runDesc
  unfold Dev.startedOf at h
  cases hq : smGet? q d.queues with
  | none => rfl
  | some x =>
    simp only [hq, Option.bind_some] at h
    dsimp only
    cases hfind : x.running.find? (fun r => r.seq == n) with
    | none => rfl
    | some r => simp [h r hfind]

end

section
variable {c : Instr} {s : State} {q n op : Nat} {x : Queue} {r : Started} {m : Line → M (Nat × Nat × Nat)}

/-- A run that ends with a status and results ends the descriptor with them. -/
theorem ends_of_run {k : RunSt} {st r0 r1 : Nat} (hexec : exec c s = s.desc op q n m) (hrun : Running s.dev q n op x r)
    (hend : m r.bytes (descCtx q x r) (begins s) = (.ok (st, r0, r1), k)) : Ends c s q n x r k st r0 r1 := by
  unfold Ends Gives
  rw [hexec, State.desc, State.onDev_eq, Dev.runDesc_of_running hrun, Dev.runM_eq]
  unfold begins at hend
  rw [hend]

/-- A run that needs what has not come leaves the descriptor waiting. -/
theorem waits_of_run {k : RunSt} (hexec : exec c s = s.desc op q n m) (hrun : Running s.dev q n op x r)
    (hneed : m r.bytes (descCtx q x r) (begins s) = (.error .need, k)) : Waits c s q x r k.iss k.d := by
  unfold Waits Gives
  rw [hexec, State.desc, State.onDev_eq, Dev.runDesc_of_running hrun, Dev.runM_eq]
  unfold begins at hneed
  rw [hneed]

end

/-- A part of a run that answers, and a check that holds, each let the run go on behind it. -/
theorem M.bind_of_ok {α β : Type} {m : M α} {f : α → M β} {c : Ctx} {k t : RunSt} {a : α} (h : m c k = (.ok a, t)) :
    (m >>= f) c k = f a c t := by
  rw [M.bind_apply, h]

theorem ensure_of {p : Prop} {inst : Decidable p} (h : p) (st : Nat) (c : Ctx) (k : RunSt) : ensure (decide p) st c k = (.ok (), k) := by
  rw [M.ensure_apply, decide_eq_true h, if_pos rfl]

theorem ensure_of_true {b : Bool} (h : b = true) (st : Nat) (c : Ctx) (k : RunSt) : ensure b st c k = (.ok (), k) := by
  rw [M.ensure_apply, h, if_pos rfl]

/-- Each row of `descOf` is the meaning of its command. -/
theorem exec_of_descOf {c : Instr} {op q n : Nat} {m : Line → M (Nat × Nat × Nat)} (h : descOf c = some (op, q, n, m)) (s : State) :
    exec c s = s.desc op q n m := by
  cases c <;> first | (cases h; rfl) | cases h

/-- A queue's record of a started descriptor is looked at in the queues alone. -/
theorem Dev.startedOf_congr {d e : Dev} (h : d.queues = e.queues) (q n : Nat) : d.startedOf q n = e.startedOf q n := by
  unfold Dev.startedOf
  rw [h]

/-- A descriptor of status OK so far whose run ends with OK, having written and read nothing, has ended with OK. -/
theorem ended_of_ends {c : Instr} {s : State} {q n st r0 r1 op : Nat} {x : Queue} {r : Started} (hrun : Running s.dev q n op x r)
    (hst : r.status = 0) (h : Ends c s q n x r (begins s) st r0 r1) : ∃ t, exec c s = .next t ∧ Ended t.dev q n st r0 r1 := by
  refine ⟨_, h, ?_⟩
  unfold Ended
  have hsame : ((Dev.commit (descCtx q x r) (begins s).d (begins s).log).chargeRun (descCtx q x r) (begins s).acc).startedOf q n = some r := by
    rw [← hrun.startedOf_eq]
    apply Dev.startedOf_congr
    show (s.dev.chargeRun (descCtx q x r) []).queues = s.dev.queues
    rw [Dev.chargeRun_nil]
  refine ⟨_, by rw [State.setDev_dev, Dev.startedOf_finish, hsame]; rfl, rfl, ?_, rfl, rfl⟩
  simp [hst, worse]

end Sys2Proof.Machine
end

section
/-! Queues and descriptors: the obligations about the ends of runs, the opcodes that queues take, and the commands of queue 0. -/

namespace Sys2Proof.Proofs

open Sys2Proof Sys2Proof.Machine Sys2Proof.Claims

/-- Settles O8: a descriptor command is the run of its row's meaning, which a descriptor that does not run never enters. -/
theorem descriptorEndsWithItsResults : Obligations.DescriptorEndsWithItsResults := by
  unfold Obligations.DescriptorEndsWithItsResults
  intro c op q n m hc
  refine ⟨fun s x r st r0 r1 k hrun hend => ends_of_run (exec_of_descOf hc s) hrun hend, fun s hnot => ?_⟩
  rw [exec_of_descOf hc, State.desc, State.onDev_eq, Dev.runDesc_of_not_running hnot]

theorem scopeM_of_le {b : Nat} (h : b % 8 ≤ 4) (c : Ctx) (k : RunSt) : scopeM b c k = (.ok (b % 8), k) := by
  simp [scopeM, h]

theorem opAllowed_iff (lq op : Nat) : opAllowed lq op = true ↔
    op = 0x05 ∨ op = 0x7F ∨ (lq = 0 ∧ 0x80 ≤ op ∧ op ≤ 0x84) ∨ (lq ≠ 0 ∧ op ∈ plainOps) := by
  unfold opAllowed isAdminOp
  by_cases h : lq = 0 <;> simp [h, or_assoc]

/-- Settles O10: FENCE looks for a lower number among the running descriptors of its queue, and the opcodes are those of R133. -/
theorem queuesTakeTheirOpcodes : Obligations.QueuesTakeTheirOpcodes := by
  unfold Obligations.QueuesTakeTheirOpcodes
  refine ⟨fun s q n x r => ⟨fun hrun hst => ?_, fun hrun hst hscope hfirst => ?_, fun y hy hrun hscope hlt => ?_⟩, fun lq op => ?_⟩
  · exact ended_of_ends hrun hst (ends_of_run (op := 0x7F) (m := fun _ => okRun) rfl hrun rfl)
  · refine ended_of_ends hrun hst (ends_of_run (op := 0x05) (m := fenceM) rfl hrun ?_)
    have hnone : x.running.any (fun y => decide (y.seq < n)) = false := by
      simpa [List.any_eq_false] using hfirst
    simp [fenceM, scopeM_of_le hscope, hrun.run_eq, begins, hrun.queue_eq, hnone, okRun, stOk]
  · have hsome : x.running.any (fun y => decide (y.seq < n)) = true := by
      simpa [List.any_eq_true] using ⟨y, hy, hlt⟩
    refine waits_of_run (op := 0x05) (m := fenceM) (k := begins s) rfl hrun ?_
    simp [fenceM, scopeM_of_le hscope, hrun.run_eq, begins, hrun.queue_eq, hsome]
  · rw [opAllowed_iff]
    simp [plainOps, or_assoc]

end Sys2Proof.Proofs
end

section
/-! SUPPORT. The commands of queue 0 that begin an invalidation or a deletion (R49, R50, R147 to R149). -/

namespace Sys2Proof.Machine

open Sys2Proof Sys2Proof.Claims

theorem runFn_of_queue {c : Ctx} {k : RunSt} {q n : Nat} {x : Queue} (hrun : c.run = .desc q n) (hq : smGet? q k.d.queues = some x) :
    runFn c k = (.ok x.fn, k) := by
  simp [runFn, hrun, hq]

theorem localQueue_of_queue {c : Ctx} {k : RunSt} {q n : Nat} {x : Queue} {l : Line} (hrun : c.run = .desc q n)
    (hq : smGet? q k.d.queues = some x) (hlo : 1 ≤ lf l 8 2) (hhi : lf l 8 2 < k.d.qCount x.fn) :
    localQueue l c k = (.ok (lf l 8 2), k) := by
  simp [localQueue, runFn_of_queue hrun hq, hlo, hhi]

/-- The invalidation that a valid operand block spells begins, where the submitter may withdraw its range, and waits (R49, R149). -/
theorem invalidateM_begins {d : Dev} {c : Ctx} {q n : Nat} {l : Line} {bs : List Byte} {k k' : RunSt} {y : Queue}
    (hdid : c.did = ⟨q, n⟩) (hrun : c.run = .desc q n) (hnew : (d.invs.any (fun i => i.queue == q && i.seq == n)) = false)
    (hread : d.runM c (rdV (lf l 8 8) 32) = (.ok bs, k)) (hok : invOk (invOf ⟨q, n⟩ bs) = true) (hq : smGet? q k.d.queues = some y)
    (hmay : if (invOf ⟨q, n⟩ bs).mode = 0 ∧ ! (invOf ⟨q, n⟩ bs).all then otherFns (invOf ⟨q, n⟩ bs).pasid c k = (.ok false, k')
      else k' = k ∧ d.qPriv y.fn = true) (hfew : k'.d.invs.length < 64) :
    invalidateM l c ⟨d, [], 0, [], [], []⟩ = (.error .need, { k' with d := k'.d.withdraw { invOf ⟨q, n⟩ bs with
      inflight := (k'.d.fabOut.filter (fun o => (ownerDesc o.owner).isSome)).map (·.msg) } }) := by
  rw [Dev.runM_eq] at hread
  have hfn := runFn_of_queue hrun hq
  have hroom : ¬ k'.d.invs.length ≥ 64 := Nat.not_le.mpr hfew
  have hvalid : fld bs 16 4 ≠ 0 ∧ fld bs 8 8 % 65536 = 0 ∧ fld bs 8 8 < 2 ^ (if fld bs 4 4 % 2 = 0 then 48 else 60) :=
    of_decide_eq_true hok
  split at hmay
  · next hone =>
    simp only [invOf] at hmay hone ⊢
    have hdeny : (! d.qPriv y.fn && (bit (fld bs 0 4) 31 || fld bs 4 4 % 2 == 1)) = false := by
      have hall : bit (fld bs 0 4) 31 = false := by simpa using hone.2
      rw [hall, hone.1]
      simp
    simp only [invalidateM, M.bind_apply, M.read_apply, M.getDev_apply, M.modDev_apply, M.need_apply, hdid, hnew, hread, ensure_of hvalid,
      hfn, hdeny, eq_true hone, hmay, hroom, Bool.false_eq_true, if_true, if_false]
  · next hall =>
    simp only [invOf] at hmay hall ⊢
    obtain ⟨rfl, hpriv⟩ := hmay
    simp only [invalidateM, M.bind_apply, M.read_apply, M.getDev_apply, M.modDev_apply, M.need_apply, hdid, hnew, hread, ensure_of hvalid,
      hfn, hpriv, hall, hroom, Bool.false_eq_true, Bool.not_true, Bool.false_and, if_false]

/-- The deletion of a queue of the submitter's function begins, and the descriptor waits (R148). -/
theorem queueDeleteM_begins {d : Dev} {c : Ctx} {q n : Nat} {abort : Bool} {l : Line} {x y : Queue} (hdid : c.did = ⟨q, n⟩)
    (hrun : c.run = .desc q n) (hq : smGet? q d.queues = some x) (hlo : 1 ≤ lf l 8 2) (hhi : lf l 8 2 < d.qCount x.fn)
    (hmode : lf l 10 1 = b2n abort) (hy : smGet? (d.qBase x.fn + lf l 8 2) d.queues = some y) (hdel : y.del = none) :
    queueDeleteM (b2n abort) l c ⟨d, [], 0, [], [], []⟩ =
      (.error .need, ⟨(d.beginDelete (d.qBase x.fn + lf l 8 2) abort (some ⟨q, n⟩)).2, [], 0, [], [], []⟩) := by
  have hlocal := localQueue_of_queue (k := ⟨d, [], 0, [], [], []⟩) hrun hq hlo hhi
  have hfn := runFn_of_queue (k := ⟨d, [], 0, [], [], []⟩) hrun hq
  have hle : b2n abort ≤ 1 := Nat.lt_succ_iff.mp (b2n_lt_two abort)
  have habort : (b2n abort == 1) = abort := by cases abort <;> rfl
  simp only [queueDeleteM, M.bind_apply, M.read_apply, M.getDev_apply, M.modDev_apply, M.need_apply, hlocal, hmode, ensure_of hle, hfn, hy,
    hdel, hdid, habort, ne_eq, not_true_eq_false, if_false]

/-- An invalidation ends once nothing that was outstanding when it began still is, and nothing waits under what it withdraws (R50). -/
theorem exec_invalidationAck {s : State} {q n : Nat} {i : Invalidation} (h : s.dev.invs.find? (fun i => i.queue == q && i.seq == n) = some i) :
    exec (.invalidationAck q n) s = .next { s with dev :=
      (if (s.dev.fabOut.any (fun o => i.inflight.contains o.msg) || s.dev.issuedWaits i) = true then s.dev
       else Dev.finish { s.dev with invs := s.dev.invs.filter (fun j => ! (j.queue == q && j.seq == n)) } q n stOk 0 0) } := by
  show execInvalidationAck q n s = _
  unfold execInvalidationAck
  rw [State.onDev_eq, h]

end Sys2Proof.Machine
end

section
/-! Invalidations and deletions of queues: the obligation about how they begin and end. -/

namespace Sys2Proof.Proofs

open Sys2Proof Sys2Proof.Machine Sys2Proof.Claims

/-- Settles O11: each admin command begins its work and needs more, and the acknowledgement looks at what is still outstanding. -/
theorem invalidationsAndDeletionsRun : Obligations.InvalidationsAndDeletionsRun := by
  unfold Obligations.InvalidationsAndDeletionsRun
  refine ⟨fun s q n x r => ⟨?_, ?_⟩, fun s q n i hfind => ⟨fun hfly hissued => ?_, fun hstill => ?_⟩⟩
  · intro bs k y hrun hnew hread hok hq i k' hmay hfew
    have hneed := invalidateM_begins hrun.did_eq hrun.run_eq hnew hread hok hq hmay hfew
    have hwaits := waits_of_run (op := 0x82) (c := .invalidateRange q n) (s := s) rfl hrun hneed
    exact hwaits
  · intro abort y hrun hlo hhi hmode hy hdel
    have hexec : exec (if abort then .queueDeleteAbort q n else .queueDeleteDrain q n) s = s.desc 0x81 q n (queueDeleteM (b2n abort)) := by
      cases abort <;> rfl
    have hneed := queueDeleteM_begins hrun.did_eq hrun.run_eq hrun.queue_eq hlo hhi hmode hy hdel
    have hwaits := waits_of_run hexec hrun hneed
    exact hwaits
  · have hnone : s.dev.fabOut.any (fun o => i.inflight.contains o.msg) = false := by
      simpa [List.any_eq_false] using hfly
    unfold Gives
    rw [exec_invalidationAck hfind, hnone, hissued, Bool.or_self, if_neg Bool.false_ne_true, stOk]
  · have hwaits : (s.dev.fabOut.any (fun o => i.inflight.contains o.msg) || s.dev.issuedWaits i) = true := by
      simpa [List.any_eq_true] using hstill
    rw [exec_invalidationAck hfind, hwaits, if_pos rfl]

end Sys2Proof.Proofs
end

section
/-! SUPPORT. How a command that changes the block alone, and one of a register that passes on its path, come to their next state. -/

namespace Sys2Proof.Machine

open Sys2Proof Sys2Proof.Claims

section
variable {c : Instr} {s : State} {d : Dev}

/-- A command that changes the block alone gives what its change makes of the block. -/
theorem gives_onDev {f : Dev → Dev} (hexec : exec c s = s.onDev f) (hd : f s.dev = d) : Gives c s d := by
  unfold Gives
  rw [hexec, State.onDev_eq, hd]

/-- A command that leaves the block as it is changes nothing. -/
theorem next_self_of_onDev {f : Dev → Dev} (hexec : exec c s = s.onDev f) (hd : f s.dev = s.dev) : exec c s = .next s := by
  rw [hexec, State.onDev_eq, hd]

/-- An access that passes on its path has its effect on the block whose latches of the path are empty (R416). -/
theorem gives_onPathDev {f : Dev → Dev} {p : Path} {own : Option Nat} {go pwr : Bool} {off : Nat} {c' : Instr}
    (hexec : exec c s = .next (s.onPathDev p own go pwr off c' f)) (hpass : s.dev.pathAns p own go pwr = .pass)
    (hd : f (fresh s.dev p) = d) : Gives c s d := by
  unfold Gives
  rw [hexec, State.onPathDev, State.onPath_of_pass _ _ _ hpass, ← hd]
  rfl

/-- The same where the effect is one on the state. -/
theorem gives_onPath {f : State → State} {p : Path} {own : Option Nat} {go pwr : Bool} {off : Nat} {c' : Instr}
    (hexec : exec c s = .next (s.onPath p own go pwr off c' f)) (hpass : s.dev.pathAns p own go pwr = .pass)
    (hd : f { s with dev := fresh s.dev p } = { s with dev := d }) : Gives c s d := by
  unfold Gives
  rw [hexec, State.onPath_of_pass _ _ _ hpass, ← hd]
  rfl

end

end Sys2Proof.Machine
end

section
/-! SUPPORT. The start of a queue's front descriptor and the arbitration among queues (R143, R144), and the end of a completion (R138, R146). -/

namespace Sys2Proof.Machine

open Sys2Proof Sys2Proof.Claims

theorem nextAfter_isSome {k : Nat} {xs : List Nat} (h : xs ≠ []) : ∃ q, nextAfter k xs = some q ∧ q ∈ xs := by
  unfold nextAfter
  split
  next q hfind => exact ⟨q, rfl, List.mem_of_find?_eq_some hfind⟩
  · obtain ⟨q, rest, rfl⟩ := List.exists_cons_of_ne_nil h
    exact ⟨q, rfl, List.mem_cons_self⟩

/-- An admin queue that may start has the turn before every queue that is none (R144). -/
theorem Dev.turnOf_admin_first {d : Dev} {q p : Nat} {a : Arb} {y : Queue} (hturn : d.turnOf q = some a) (hq : q ∉ d.arb.stuck)
    (hy : (p, y) ∈ d.queues) (hstart : y.startable = true) (hadmin : y.lq = 0) (hp : p ∉ d.arb.stuck) :
    ∃ z, (q, z) ∈ d.queues ∧ z.lq = 0 := by
  have hne : (((d.queues.filter (fun p => p.2.startable && ! d.arb.stuck.contains p.1)).filter (fun p => p.2.lq == 0)).map (·.1)) ≠ [] := by
    refine List.ne_nil_of_mem (List.mem_map.mpr ⟨(p, y), ?_, rfl⟩)
    simp [hy, hstart, hadmin, hp]
  obtain ⟨k, hnext, hmem⟩ := nextAfter_isSome (k := d.arb.admin) hne
  have hk : k = q := by
    have hstuck : d.arb.stuck.contains q = false := by simpa using hq
    simp only [Dev.turnOf, hstuck, Bool.false_eq_true, if_false, Dev.arbNext, hnext] at hturn
    exact Decidable.byContradiction fun hkq => Option.some_ne_none a (hturn.symm.trans (if_neg hkq))
  simp only [List.mem_map, List.mem_filter] at hmem
  obtain ⟨⟨j, z⟩, ⟨⟨hz, -⟩, hlq⟩, rfl⟩ := hmem
  exact ⟨z, hk ▸ hz, by simpa using hlq⟩

section
variable {d : Dev} {q : Nat} {x : Queue} {u : Staged} {rest : List Staged}

theorem Queue.aborting_of_del_none (h : x.del = none) : x.aborting = false := by
  simp [Queue.aborting, h]

/-- Whose turn it is decides what the front descriptor of an ACTIVE queue that may start comes to (R143, R144). -/
theorem Dev.startNext_of_mayStart (hq : smGet? q d.queues = some x) (hst : x.staged = u :: rest) (hact : x.st = .active) (hdel : x.del = none)
    (hmay : x.mayStart u = true) : d.startNext q = match d.turnOf q with
      | none => d
      | some a =>
        let d := { d with arb := a }
        if u.pois0 || u.pois1 then d.begin_ q x u 0 stPoison []
        else match d.unitTry (startChecks d x u.bytes) with
          | (.error .need, d) => { d with arb := { d.arb with stuck := d.arb.stuck ++ [q] } }
          | (.error (.done st), d) => d.begin_ q x u 0 st []
          | (.ok (st, comp, note), d) => d.begin_ q x u comp st note := by
  have hstart : x.startable = true := by
    simp [Queue.startable, hst, Queue.aborting_of_del_none hdel, hact, hmay]
  unfold Dev.startNext
  simp only [hq, hst, Queue.aborting_of_del_none hdel, hstart, Bool.not_true, Bool.false_eq_true, if_false] <;> rfl

end

/-- A queue that is not being deleted has no descriptor completed as ABORTED, and its deletion does not end. -/
theorem Dev.abortNext_of_del_none {d : Dev} {q : Nat} {x : Queue} (hq : smGet? q d.queues = some x) (hdel : x.del = none) :
    d.abortNext q = d := by
  unfold Dev.abortNext
  simp only [hq, hdel]
  split
  · next heq => cases heq
  · rfl

theorem Dev.endDelete_of_del_none {d : Dev} {q : Nat} {x : Queue} (hq : smGet? q d.queues = some x) (hdel : x.del = none) :
    d.endDelete q = d := by
  unfold Dev.endDelete
  simp only [hq, hdel]

theorem Dev.smGet?_setQ_self (d : Dev) (q : Nat) (x : Queue) : smGet? q (d.setQ q x).queues = some x := smGet?_smSet_self q x d.queues

theorem Dev.msixSend_queues (d : Dev) (fn v : Nat) : (d.msixSend fn v).queues = d.queues := by
  unfold Dev.msixSend
  dsimp only
  split <;> rfl

theorem Dev.count_queues (d : Dev) (set code n : Nat) : (d.count set code n).queues = d.queues := by
  rw [Dev.count_only]

/-- The pending signal of a host function's queue is the message of its vector (R145, R146). -/
theorem Dev.sendPending_of_host {d : Dev} {q : Nat} {x : Queue} (hfn : x.fn < 1024) : d.sendPending q x =
    ((d.setQ q { x with unsignalled := 0, coalWait := false }).count x.fn 0x12 1).msixSend x.fn x.lq := by
  unfold Dev.sendPending Dev.signal
  simp [isHostFn, hfn]

/-- A posted completion is counted and accounted toward its signal (R135, R138, R146). -/
theorem Dev.complete_of_posted {d e : Dev} {q n : Nat} {x : Queue} {r : Started} (hq : smGet? q d.queues = some x)
    (hfind : x.running.find? (fun r => r.seq == n) = some r) (hphase : r.phase = .finished) (hpois : r.pois0 = false)
    (hop : lf r.bytes 0 1 ≠ 0x20) (hout : d.outstanding ⟨q, n⟩ = false) (hwrites : d.writePending (.eng .queueFront) none = false)
    (hpost : d.unitTry (postM x (completionBytes q x r)) = (.ok (), e)) :
    d.complete q n = (((afterPost e q n x r).signalPosted q (x.advance n) (bit (lf r.bytes 1 1) 1)).abortNext q).endDelete q := by
  have hsearch : (lf r.bytes 0 1 == 0x20) = false := beq_false_of_ne hop
  unfold Dev.complete
  simp only [hq, hfind, hphase, hout, hwrites, hpost, hpois, hsearch,
    Bool.not_false, Bool.true_and, Bool.and_false, Bool.false_and]
  rfl

end Sys2Proof.Machine
end

section
/-! The start and the completion of descriptors: their two obligations. -/

namespace Sys2Proof.Proofs

open Sys2Proof Sys2Proof.Machine Sys2Proof.Claims

/-- Settles O12: the arbitration gives the turn, and what the front descriptor's slot and checks say decides how it begins. -/
theorem frontDescriptorStarts : Obligations.FrontDescriptorStarts := by
  unfold Obligations.FrontDescriptorStarts
  intro s q x u rest hrun hq hst hact hdel hmay
  have hexec : exec (.descriptorStart q) s = s.onDev (fun d => if d.power.st = .run then d.startNext q else d) := rfl
  have hnext := Dev.startNext_of_mayStart hq hst hact hdel hmay
  refine ⟨fun a hturn => ⟨fun comp note e hp0 hp1 hchecks => ?_, fun hp1 hp0 hop => ?_⟩, fun hturn => ?_, fun a p y hturn hns hy hstart hlq hp =>
    Dev.turnOf_admin_first hturn hns hy hstart hlq hp⟩
  · rcases hpick : e.pickBay x.fn with ⟨bay, e'⟩
    refine gives_onDev hexec ?_
    simp only [hrun, if_true, hnext, hturn, hp0, hp1, Bool.or_self, Bool.false_eq_true, if_false]
    rw [hchecks]
    simp [Dev.begin_, Dev.startResults, hpick, hst, newStarted, hp0, hp1]
  · refine gives_onDev hexec ?_
    simp only [hrun, if_true, hnext, hturn, hp0, hp1, Bool.or_true]
    simp [Dev.begin_, Dev.startResults, Dev.openResults, hst, hop, newStarted, hp0, hp1, stPoison]
  · refine next_self_of_onDev hexec ?_
    simp only [hrun, if_true, hnext, hturn]

/-- Settles O13: the queue of a completion is not being deleted, so that nothing follows its signal. -/
theorem completionIsPosted : Obligations.CompletionIsPosted := by
  unfold Obligations.CompletionIsPosted
  refine ⟨fun s q n x r e hq hfind hphase hdel hpois hop hout hwrites hpost => ?_, fun s q x hq hwait hun hfn => ?_⟩
  · have hexec : exec (.descriptorComplete q n) s = s.onDev (fun d => d.complete q n) := rfl
    have hcomplete := Dev.complete_of_posted hq hfind hphase hpois hop hout hwrites hpost
    have hien : (x.advance n).ien = x.ien := rfl
    refine ⟨fun hquiet => gives_onDev hexec ?_, fun hsig hloud hcoal hfn => gives_onDev hexec ?_⟩
    · have hsilent : (! x.ien || bit (lf r.bytes 1 1) 1) = true := by
        obtain h | h := hquiet <;> simp [h]
      have hposted := Dev.smGet?_setQ_self (afterPost e q n x r) q (x.advance n)
      rw [hcomplete, Dev.signalPosted, hien, hsilent, if_pos rfl, Dev.abortNext_of_del_none hposted hdel, Dev.endDelete_of_del_none hposted hdel]
    · have hnotSilent : (! x.ien || bit (lf r.bytes 1 1) 1) = false := by simp [hsig, hloud]
      have hsent : (afterPost e q n x r).signalPosted q (x.advance n) (bit (lf r.bytes 1 1) 1) =
          (((afterPost e q n x r).setQ q { x.advance n with unsignalled := 0, coalWait := false }).count x.fn 0x12 1).msixSend x.fn x.lq := by
        unfold Dev.signalPosted
        rw [hien, hnotSilent, if_neg Bool.false_ne_true, if_pos (.inl hcoal)]
        exact Dev.sendPending_of_host hfn
      have hposted : smGet? q (((((afterPost e q n x r).setQ q { x.advance n with unsignalled := 0, coalWait := false }).count x.fn 0x12 1).msixSend
          x.fn x.lq).queues) = some { x.advance n with unsignalled := 0, coalWait := false } := by
        rw [Dev.msixSend_queues, Dev.count_queues, Dev.smGet?_setQ_self]
      rw [hcomplete, hsent, Dev.abortNext_of_del_none hposted hdel, Dev.endDelete_of_del_none hposted hdel]
  · refine gives_onDev (f := fun d => match smGet? q d.queues with
      | none => d
      | some x => if x.coalWait && decide (x.unsignalled > 0) then d.sendPending q x else d) rfl ?_
    simp only [hq, hwait, decide_eq_true hun, Bool.and_self, if_true]
    exact Dev.sendPending_of_host hfn

end Sys2Proof.Proofs
end

section
/-! The registers of a function's queues (R127, R151, R422): their obligation. -/

namespace Sys2Proof.Proofs

open Sys2Proof Sys2Proof.Machine Sys2Proof.Claims

theorem writeRange_of_disabled {d : Dev} {fn : Nat} (v : Nat) (hen : d.rf (qctKey fn 16) 0 0 = 0) (hfn : fn < 2048) :
    let count := if fn < 1024 then min (bits v 30 16) 2048 else bits v 30 16
    d.writeRange fn v = if d.rangeTaken fn (bits v 13 0) count then d.setRf (qctKey fn 4) 3 3 1
      else d.setReg (qctKey fn 0) (bits v 13 0 + 2 ^ 16 * count + 2 ^ 31 * bits v 31 31) := by
  have hopen : ¬ (d.rf (qctKey fn 16) 0 0 = 1 ∨ fn ≥ 2048) := by omega
  unfold Dev.writeRange
  rw [if_neg hopen]
  simp only [isHostFn, decide_eq_true_eq]

/-- EN written from 1 to 0 deletes the function's queues (R151). -/
theorem writeEn_false_of_enabled {d : Dev} {fn : Nat} (hen : d.rf (qctKey fn 16) 0 0 = 1) :
    d.writeEn fn false = ((d.setRf (qctKey fn 16) 0 0 0).setRf (qctKey fn 4) 1 1 0).deleteAll fn := by
  simp [Dev.writeEn, hen]

/-- EN written from 0 to 1 opens the function's queue 0 (R151). -/
theorem writeEn_true_of_disabled {d : Dev} {fn : Nat} (hen : d.rf (qctKey fn 16) 0 0 = 0) (hcount : d.qCount fn ≠ 0) (hfn : fn < 1024) :
    d.writeEn fn true = (d.setRf (qctKey fn 16) 0 0 1).openAdmin fn := by
  have hlt : ¬ fn ≥ 2048 := by omega
  simp [Dev.writeEn, hen, hcount, hlt]

theorem unmask_fields (d : Dev) (fn v : Nat) :
    let e := smGet (2048 * fn + v) msixEmpty d.msix
    (d.unmask fn v).msix = smPut msixEmpty (2048 * fn + v) { e with masked := false } d.msix ∧
    (d.pba.contains (2048 * fn + v) = true →
      (d.unmask fn v).out = .msix fn v e.addr e.data :: d.out ∧ (d.unmask fn v).pba = nsDel (2048 * fn + v) d.pba) ∧
    (d.pba.contains (2048 * fn + v) = false → (d.unmask fn v).out = d.out ∧ (d.unmask fn v).pba = d.pba) := by
  unfold Dev.unmask
  dsimp only
  cases d.pba.contains (2048 * fn + v) with
  | true => exact ⟨rfl, fun _ => ⟨rfl, rfl⟩, fun h => Bool.noConfusion h⟩
  | false => exact ⟨rfl, fun h => Bool.noConfusion h, fun _ => ⟨rfl, rfl⟩⟩

/-- Settles O15: each register command passes on its path and does what its register's own action says. -/
theorem functionRegistersAct : Obligations.FunctionRegistersAct := by
  unfold Obligations.FunctionRegistersAct
  refine fun s => ⟨fun p fn v hpass hen hfn => ?_, fun fn hfn hpass hen => ?_, fun fn e hfn hpass hen hcount => ?_, fun fn hfn => ?_,
    fun fn v e hfn hv hpass he => ?_⟩
  · have hwrite := writeRange_of_disabled (d := fresh s.dev p) v hen hfn
    refine ⟨fun hfree => gives_onPathDev rfl hpass (hwrite.trans (if_neg ?_)), fun htaken => gives_onPathDev rfl hpass (hwrite.trans (if_pos ?_))⟩
    · exact Bool.eq_false_iff.mp hfree
    · exact htaken
  · have hhost : isHostFn fn = true := decide_eq_true hfn
    refine gives_onPathDev rfl (by rw [hhost]; exact hpass) ?_
    exact writeEn_false_of_enabled (d := fresh s.dev (.fn fn)) hen
  · have hhost : isHostFn fn = true := decide_eq_true hfn
    have hwrite := writeEn_true_of_disabled (d := fresh s.dev (.fn fn)) hen hcount hfn
    refine ⟨fun hnone hcreate => ?_, fun hsome => ?_⟩
    · refine gives_onPathDev rfl (by rw [hhost]; exact hpass) (hwrite.trans ?_)
      have hno : ((fresh s.dev (.fn fn)).setRf (qctKey fn 16) 0 0 1).queues.any (fun p => p.2.fn == fn) = false := by
        simpa [List.any_eq_false, fresh, Dev.setRf, Dev.setLatch] using hnone
      have hcreate' : ((fresh s.dev (.fn fn)).setRf (qctKey fn 16) 0 0 1).createQueue fn 0 = (some 0, e) := hcreate
      unfold Dev.openAdmin
      rw [hno, hcreate']
      exact if_neg Bool.false_ne_true
    · refine gives_onPathDev rfl (by rw [hhost]; exact hpass) (hwrite.trans ?_)
      have hany : s.dev.queues.any (fun p => p.2.fn == fn) = true := by simpa [List.any_eq_true] using hsome
      exact if_pos hany
  · have hhost : isHostFn fn = true := decide_eq_true hfn
    refine gives_onDev (f := fun d => if isHostFn fn then (d.deleteAll fn).resetFns (· == fn) else d) rfl ?_
    rw [hhost, if_pos rfl]
  · subst he
    have hhost : isHostFn fn = true := decide_eq_true hfn
    exact ⟨_, gives_onPathDev rfl hpass (if_pos ⟨hhost, hv⟩), unmask_fields (fresh s.dev (.fn fn)) fn v⟩

end Sys2Proof.Proofs
end

section
/-! Faults, migrations, timetables and watch events: their obligations. -/

namespace Sys2Proof.Proofs

open Sys2Proof Sys2Proof.Machine Sys2Proof.Claims

/-- Settles O16: each command finds its area, fault or migration and takes the branch that the hypotheses name. -/
theorem faultTimersAndMigrationsEnd : Obligations.FaultTimersAndMigrationsEnd := by
  unfold Obligations.FaultTimersAndMigrationsEnd
  refine ⟨fun s => ⟨fun p a harea hwindow hpending => ?_, fun p a cx e harea hwindow hpending hcx => ?_, fun p hpolled => ?_,
    fun f hfind htmo => ?_⟩, fun s p page data m cx e hfind hcx b e' hcommit => ⟨?_, ?_⟩⟩
  · refine gives_onDev (show execFaultSignalExpiry _ s = _ from rfl) ?_
    simp only [harea, hwindow, hpending, Bool.not_true, Bool.not_false, Bool.false_eq_true, if_false, if_true]
  · refine gives_onDev (show execFaultSignalExpiry _ s = _ from rfl) ?_
    simp only [harea, hwindow, hpending, hcx, Bool.not_true, Bool.false_eq_true, if_false]
  · refine gives_onDev rfl ?_
    exact if_pos (by simpa using hpolled)
  · refine gives_onDev (show execFaultTmoExpiry _ s = _ from rfl) ?_
    simp only [hfind, htmo, if_false]
  · rintro rfl
    refine gives_onDev (show execMigrationDmaDone _ _ _ _ s = _ from rfl) ?_
    simp only [hfind, hcx, Dev.migrated, hcommit, Bool.not_true, Bool.false_eq_true, if_false]
  · rintro rfl
    refine gives_onDev (show execMigrationDmaDone _ _ _ _ s = _ from rfl) ?_
    simp only [hfind, hcx, Dev.migrated, hcommit, Bool.not_true, Bool.false_eq_true, if_false]

/-- What lets an entry of a timetable start (R263, R265). -/
theorem starts_iff (t : Timetable) (m i : Nat) : t.starts m i = true ↔
    t.ready i = true ∧ t.halted i = false ∧ t.running < m ∧ 3 ∉ t.states ∧ ∀ j < i, t.ready j = true → t.halted j = true := by
  simp only [Timetable.starts, Bool.and_eq_true, Bool.not_eq_true', decide_eq_true_eq, List.contains_eq_mem, decide_eq_false_iff_not,
    List.any_eq_false, List.mem_range, not_and, Bool.not_eq_false, and_assoc]

theorem ready_iff (t : Timetable) (i : Nat) : t.ready i = true ↔
    t.st i = 0 ∧ t.inWindow i = true ∧ t.depDone (t.entry i).dep0 = true ∧ t.depDone (t.entry i).dep1 = true ∧
      ((t.entry i).wsem = 0 ∨ i ∈ t.met) := by
  simp only [Timetable.ready, Bool.and_eq_true, Bool.or_eq_true, beq_iff_eq, List.contains_eq_mem, decide_eq_true_eq, and_assoc]

theorem depDone_iff (t : Timetable) (k : Nat) : t.depDone k = true ↔ k = noDep ∨ t.st k = 2 := by
  simp only [Timetable.depDone, Bool.or_eq_true, beq_iff_eq]

theorem halted_iff (t : Timetable) (i : Nat) : t.halted i = true ↔ ∃ x ∈ t.stalled, x.1 = i := by
  simp only [Timetable.halted, List.any_eq_true, beq_iff_eq]

/-- A table that reads without poison, each of whose entries passes its checks, is taken up with every entry waiting (R260, R262). -/
theorem timetableRunM_takes_up {d : Dev} {c : Ctx} {l : Line} {bs : List Byte} {ps : List Bool} {k : RunSt} (hnew : d.table c.did = none)
    (halign : lf l 8 8 % 64 = 0) (hlo : 1 ≤ lf l 16 4) (hhi : lf l 16 4 ≤ 65536) (htmo : ttTmo l ≤ 10000000) (hinf : ttInflight l ≤ 256)
    (hread : d.runM c (rdRawV (lf l 8 8) (64 * lf l 16 4)) = (.ok (bs, ps), k)) (hgood : ps.any id = false)
    (hok : ∀ i < lf l 16 4, (ttEntry (fld bs (64 * i) 64)).ok i = true) :
    timetableRunM l c ⟨d, [], 0, [], [], []⟩ = (.error .need, { k with d := { k.d with timetables := k.d.timetables ++
      [⟨c.did, (List.range (lf l 16 4)).map (fun i => fld bs (64 * i) 64), List.replicate (lf l 16 4) 0, [], [], [], []⟩] } }) := by
  rw [Dev.runM_eq] at hread
  have hfields : lf l 8 8 % 64 = 0 ∧ 1 ≤ lf l 16 4 ∧ lf l 16 4 ≤ 65536 ∧ ttTmo l ≤ 10000000 ∧ ttInflight l ≤ 256 :=
    ⟨halign, hlo, hhi, htmo, hinf⟩
  have hentries : ((List.range (lf l 16 4)).all (fun i =>
      (ttEntry (nth ((List.range (lf l 16 4)).map (fun i => fld bs (64 * i) 64)) i 0)).ok i)) = true := by
    simp only [List.all_eq_true, List.mem_range]
    intro i hi
    simpa [nth, hi] using hok i hi
  simp only [timetableRunM, M.bind_apply, M.read_apply, M.getDev_apply, M.modDev_apply, M.need_apply, hnew, Option.isSome_none,
    ensure_of hfields, hread, hgood, ensure_of_true hentries, Bool.false_eq_true, if_false]

/-- Settles O17: the table is taken up by its first run, and each command of an entry takes the branch that the hypotheses name. -/
theorem timetablesRun : Obligations.TimetablesRun := by
  unfold Obligations.TimetablesRun
  refine ⟨?_, fun s q n k t htable => ⟨fun r e hstarted hstarts hrun => ?_, fun e hst hrun => ?_, fun hwaits => ?_, fun hpolled => ?_⟩, ?_⟩
  · intro s q n x r bs ps k hrun hnew halign hlo hhi htmo hinf hread hgood hok t
    have hneed := timetableRunM_takes_up (by rw [hrun.did_eq]; exact hnew) halign hlo hhi htmo hinf hread hgood hok
    rw [hrun.did_eq] at hneed
    refine gives_onDev (show execTimetableRun _ _ s = _ from rfl) ?_
    rw [hnew]
    simp only [Dev.runDesc_of_running hrun, Dev.runM_eq, hneed, Option.isSome_none, Bool.false_eq_true, if_false]
    rfl
  · refine gives_onDev (show execTimetableEntryStart _ _ _ s = _ from rfl) ?_
    simp only [htable, hstarted, hstarts, hrun, Bool.not_true, Bool.false_eq_true, if_false]
  · refine gives_onDev (show execTimetableEntryComplete _ _ _ s = _ from rfl) ?_
    simp only [htable, hst, hrun, if_true, ne_eq, not_true_eq_false, if_false]
  · refine gives_onDev (show execTimetableWaitTmo _ _ _ s = _ from rfl) ?_
    simp only [htable, hwaits, if_true]
  · refine gives_onDev rfl ?_
    exact if_pos (by simpa using hpolled)
  · intro t m i hstarts
    obtain ⟨hready, hhalted, hrunning, hfailed, hfirst⟩ := (starts_iff t m i).mp hstarts
    obtain ⟨hst, -, hdep0, hdep1, hsem⟩ := (ready_iff t i).mp hready
    refine ⟨hst, hrunning, hfailed, fun x hx he => ?_, fun j hj hr => (halted_iff t j).mp (hfirst j hj hr), (depDone_iff t _).mp hdep0,
      (depDone_iff t _).mp hdep1, hsem⟩
    exact Bool.eq_false_iff.mp hhalted ((halted_iff t i).mpr ⟨x, hx, he⟩)

/-- A line whose OWNED holder still answers has nothing to settle (R100). -/
theorem settleLine_of_owned {d : Dev} {pl off : Nat} {x : DirEntry} (hun : d.unresp = []) (hget : smGet? pl d.dir = some x) (hbi : x.bi = none)
    (hst : x.st = .owned) : d.settleLine pl off = d := by
  simp [Dev.settleLine, hget, hbi, hst, hun]

/-- A snoop to the one LD that holds a line waits for that LD's answer (R84, R97). -/
theorem startBi_single {d : Dev} {pl off l : Nat} {x : DirEntry} {inv victim watch : Bool} {req : Option MemReq} (hun : d.unresp = [])
    (hovf : x.ovf = false) : d.startBi pl off x [l] inv req victim watch = { d with
      dir := smSet pl { x with bi := some ⟨[l], inv, req, victim, watch⟩ } d.dir
      timedOut := d.timedOut.filter (fun p => ! (p.2 == pl && [l].contains p.1))
      out := .bisnp l (d.hpaOf l (64 * (off / 64))) inv :: d.out } := by
  have hdests : [l].filter (fun l => ! d.unresp.contains l) = [l] := by simp [hun]
  unfold Dev.startBi
  rw [hdests, hovf]
  rfl

/-- Settles O18: the event is delivered to its armer, and the snoop that is due goes to the one holder. -/
theorem watchEventIsDelivered : Obligations.WatchEventIsDelivered := by
  unfold Obligations.WatchEventIsDelivered
  refine fun s => ⟨fun q e hraised hread => ?_, fun p e hraised hflush => ?_, fun q n hraised => ?_, ?_⟩
  · refine gives_onDev (f := fun d => d.watchEvent (.queue q)) rfl ?_
    simp [Dev.watchEvent, hraised, hread]
  · refine gives_onDev (f := fun d => d.watchEvent (.faultArea p)) rfl ?_
    simp [Dev.watchEvent, hraised, hflush]
  · refine gives_onDev (f := fun d => d.watchEvent (.semaphore q n)) rfl ?_
    simp [Dev.watchEvent, hraised]
  · intro off pl l x w hpl hdue hun hget hbi hst hwatch hptrs hovf
    have hsettle := settleLine_of_owned (d := { s.dev with snoopDue := nsDel pl s.dev.snoopDue }) (off := 64 * (off / 64)) hun hget hbi hst
    have hcontains : s.dev.snoopDue.contains pl = true := by simpa using hdue
    have hsent := startBi_single (d := { s.dev with snoopDue := nsDel pl s.dev.snoopDue }) (pl := pl) (off := off) (l := l) (x := x)
      (inv := false) (victim := false) (watch := true) (req := none) hun hovf
    refine gives_onDev (show execWatchSnoop _ s = _ from rfl) (Eq.trans ?_ hsent)
    simp only [hpl, hcontains, hsettle, hget, hst, hwatch, hbi, hptrs, Bool.not_true, Bool.false_eq_true, if_false, ne_eq, not_true_eq_false,
      Option.isNone_some, Bool.or_false, decide_false]

end Sys2Proof.Proofs
end

section
/-! SUPPORT. Requests at home while nothing waits there, and writes of a line in no erasure group (R92, R97, R111). -/

namespace Sys2Proof.Machine

open Sys2Proof Sys2Proof.Claims

/-- Conditions that hold in the same cases choose the same value. -/
theorem ite_eq_ite_of_iff {α : Type _} {p q : Prop} [Decidable p] [Decidable q] {a b c d : α} (h : p ↔ q) (hac : a = c) (hbd : b = d) :
    (if p then a else b) = if q then c else d :=
  ite_congr (propext h) (fun _ => hac) (fun _ => hbd)

/-- No request waits at home: none is refused, waits on a condition, or holds a tracker. -/
structure NoneWaits (d : Dev) : Prop where
  refused : d.refused = []
  waiting : d.waiting = []
  untracked : ∀ p ∈ d.dir, p.2.bi.bind (·.req) = none

theorem noneWaits_of_presented {d : Dev} (hrefused : d.refused = []) (hwaiting : d.waiting = []) (hpresented : d.presented = []) :
    NoneWaits d := by
  refine ⟨hrefused, hwaiting, ?_⟩
  simpa [Dev.presented, hrefused, hwaiting, List.filterMap_eq_nil_iff] using hpresented

section
variable {d : Dev} (h : NoneWaits d)
include h

theorem NoneWaits.heldRequests : d.dir.filterMap (fun p => p.2.bi.bind (·.req)) = [] := List.filterMap_eq_nil_iff.mpr h.untracked

theorem NoneWaits.presented : d.presented = [] := by
  simp only [Dev.presented, h.waiting, h.refused, h.heldRequests, List.filter_nil, List.map_nil, List.append_nil]

theorem NoneWaits.behind (r : MemReq) : d.behind r = false := by
  unfold Dev.behind Dev.writePending
  rw [h.presented, h.waiting]
  cases reqSrc r with
  | none => rfl
  | some src => cases reqWrites r <;> simp

theorem NoneWaits.holdsTracker (r : MemReq) : d.holdsTracker r = false := by
  unfold Dev.holdsTracker
  rw [List.any_eq_false]
  intro p hp
  have hnone := h.untracked p hp
  cases hbi : p.2.bi with
  | none => simp
  | some b => simp_all

theorem NoneWaits.trackers (st : Nat) (c3 : Bool) : d.trackers st c3 = 0 := by
  unfold Dev.trackers
  dsimp only
  rw [h.refused, List.filter_nil, List.length_nil, Nat.add_zero, List.length_eq_zero_iff, List.filter_eq_nil_iff]
  intro p hp
  have hnone := h.untracked p hp
  cases hbi : p.2.bi with
  | none => simp
  | some b => simp_all

theorem NoneWaits.trackerFree (st : Nat) (r : MemReq) : d.trackerFree st r = true := by
  unfold Dev.trackerFree
  rw [h.trackers]
  rfl

/-- A request that the erasure engine does not hold passes its line's home (R97, R290). -/
theorem NoneWaits.dirGate {off : Nat} {req : MemReq} (heg : d.egFree off req = true) : d.dirGate off req = (none, d) := by
  have hfirst : firstMark (d.marks (off / 64)) = none := by rw [Dev.marks, h.refused]; rfl
  unfold Dev.dirGate
  simp only [h.holdsTracker, h.trackerFree, heg, hfirst, h.refused, List.find?_nil, Option.bind_none, Option.isSome_none, Bool.not_true,
    Bool.and_false, Bool.false_and, Bool.false_eq_true, if_false]

theorem NoneWaits.heldFirst (l : Nat) : d.heldFirst l = none := by
  rw [Dev.heldFirst, h.waiting]; rfl

/-- A request of a source that is not behind another is presented at once, and forgotten once it has been served. -/
theorem NoneWaits.offer {r : MemReq} {a : Dev} (hsrc : reqSrc r ≠ none) (hpresent : d.present r = (.served, a)) :
    d.offer r = (true, a.unrefuse r) := by
  unfold Dev.offer
  rw [h.behind, hpresent, if_neg Bool.false_ne_true]
  cases r with
  | desc _ _ _ _ => exact absurd rfl hsrc
  | fab _ _ _ => exact absurd rfl hsrc
  | _ => rfl

theorem NoneWaits.cacheSet (s : Nat) : NoneWaits (d.cacheSet s) := by
  obtain ⟨hrefused, hwaiting, hdir⟩ := h
  unfold Dev.cacheSet
  split
  · exact ⟨hrefused, hwaiting, hdir⟩
  · dsimp only
    split <;> exact ⟨hrefused, hwaiting, hdir⟩

end

theorem cacheSet_changes (d : Dev) (s : Nat) : ∃ c fr, d.cacheSet s = { d with dirCache := c, free := fr } := by
  unfold Dev.cacheSet
  split
  · exact ⟨_, _, rfl⟩
  · dsimp only
    split <;> exact ⟨_, _, rfl⟩

theorem counted_changes {d a : Dev} {ans : PresAns} {f : Dev → PresAns × Dev} (ld : Nat) (hf : f d = (ans, a)) :
    ∃ g, d.counted ld f = (ans, { a with regs := g }) := by
  unfold Dev.counted
  rw [hf]
  dsimp only
  rw [Dev.count_only, Dev.count_only, Dev.count_only]
  exact ⟨_, rfl⟩

theorem freeOrder_of_none_waiting {d : Dev} (h : d.waiting = []) (s : Src) : d.freeOrder s = d := by
  have hsame : d.waiting.filter (fun w => ! (w.on == .order && reqSrc w.req == some s)) = d.waiting := by rw [h]; rfl
  unfold Dev.freeOrder
  dsimp only
  rw [hsame, h]
  exact congrArg (fun w => { d with waiting := w }) h.symm

theorem unrefuse_of_none_refused {d : Dev} (h : d.refused = []) (req : MemReq) :
    ∃ fo lo, d.unrefuse req = { d with found := fo, lapseOk := lo } := by
  have hsame : d.refused.filter (fun r => r.req != req) = d.refused := by rw [h]; rfl
  exact ⟨_, _, congrArg (fun x => { d with refused := x, found := (d.unrefuse req).found, lapseOk := (d.unrefuse req).lapseOk }) hsame⟩

theorem fresh_of_no_revs {d : Dev} (h : d.revs = []) (r : MemReq) : d.fresh r = d := by
  have hsame : d.revs.map (fun (x : Revocation) => { x with accepted := x.accepted.filter (fun y => y != r) }) = d.revs := by rw [h]; rfl
  exact congrArg (fun v => { d with revs := v }) hsame

theorem hostArrives_of_run {d : Dev} (h : d.power.st = .run) : d.hostArrives = d := by
  have habort : d.abortEntry 9 = d := by simp [Dev.abortEntry, h]
  simp [Dev.hostArrives, habort, Dev.startWake, h]

/-- A host's request that home serves at once: nothing stood before it, and nothing stands behind it (R89, R109). -/
theorem hostReq_of_served {d a : Dev} {ld hpa off tag : Nat} {r : Nat → MemReq} (hhost : HostFree d ld hpa off) (hrun : d.power.st = .run)
    (hnone : NoneWaits d) (hsrc : reqSrc (r off) = some (.ld ld)) (hpresent : d.present (r off) = (.served, a)) (hwaiting : a.waiting = []) :
    d.hostReq ld hpa tag r = a.unrefuse (r off) := by
  obtain ⟨hlink, hld, ⟨x, hhpa, hoff⟩, htracker, -, hrevs, -⟩ := hhost
  have hup : d.hostUp ld = true := by simp [Dev.hostUp, hlink, hld]
  have hoffer : d.offer (r off) = (true, a.unrefuse (r off)) := hnone.offer (by rw [hsrc]; exact Option.some_ne_none _) hpresent
  have hsubmit : d.submit (r off) = a.unrefuse (r off) := by
    unfold Dev.submit
    rw [hoffer, hsrc]
    dsimp only
    split
    · exact freeOrder_of_none_waiting (d := a.unrefuse (r off)) hwaiting _
    · rfl
  unfold Dev.hostReq
  simp only [hup, hhpa, hoff, Bool.not_true, Bool.false_eq_true, if_false, hostArrives_of_run hrun, fresh_of_no_revs hrevs]
  unfold Dev.hostSubmit
  rw [hsrc]
  simp only [htracker, hnone.heldFirst, Option.isNone_none, Bool.and_true, Bool.or_true, if_true, hsubmit]

/-! The gates before the directory. -/

theorem gateMap_of_homeFree {d : Dev} {off : Nat} {e : TEntry} (h : HomeFree d off e) (src : List EvField) : d.gateMap off src = (.go, d) := by
  obtain ⟨-, -, -, hbusy, hlost, hentry, -⟩ := h
  simp [Dev.gateMap, hbusy, hlost, hentry]

theorem gateFrame_of_homeFree {d : Dev} {off : Nat} {e : TEntry} (h : HomeFree d off e) (write : Bool) :
    d.gateFrame off write = (.go, d.touch (off / 65536) false) := by
  obtain ⟨-, -, -, -, -, hentry, htier, hpsn, hmoves, hopen, -⟩ := h
  simp [Dev.gateFrame, Dev.gateT0, hentry, htier, hpsn, hmoves, hopen]

theorem hostGate_of_free {d : Dev} {off : Nat} {e : TEntry} (hhome : HomeFree d off e) (hunresp : d.unresp = []) (hrevs : d.revs = [])
    (ld : Nat) (write : Bool) (req : MemReq) : d.hostGate ld off write req = (none, d.touch (off / 65536) false) := by
  have hgateMap := gateMap_of_homeFree hhome
  have hgateFrame := gateFrame_of_homeFree hhome
  obtain ⟨hrun, hready, -, -, -, -, -, -, -, -, hext, -⟩ := hhome
  have hserved : ∀ f, d.hostServed f = true := by intro f; simp [Dev.hostServed, Dev.extAt, hext]
  have htab : d.inExtTab off = false := by simp [Dev.inExtTab, hext]
  simp [Dev.hostGate, hrun, hready, hunresp, Dev.revokedFor, hrevs, hgateMap, hgateFrame, hserved, htab]

theorem tmap_of_entry {d : Dev} {f : Nat} {e : TEntry} (h : d.entry f = some e) : smGet? f d.tmap = some e := by
  unfold Dev.entry at h
  split at h
  · exact h
  · cases h

/-- Touching a frame leaves where it lies as it was. -/
theorem smGet?_touch (d : Dev) (f g : Nat) (w : Bool) : smGet? g (d.touch f w).tmap =
    (smGet? g d.tmap).map (fun e => if g = f then { e with last := d.ageWindow, dirty := e.dirty || w } else e) := by
  rw [Dev.touch, Dev.modEntry_tmap, smGet?_smMod]
  split
  · rfl
  · simp

theorem pline_of_t0 {d : Dev} {off : Nat} {e : TEntry} (hget : smGet? (off / 65536) d.tmap = some e) (hpsn : e.psn = false) (htier : e.tier = 0) :
    d.pline off = some (plineOf e.loc off) := by
  simp [Dev.pline, hget, hpsn, htier]

theorem psnAt_touch (d : Dev) (f g : Nat) (w : Bool) : (d.touch f w).psnAt g = d.psnAt g := by
  unfold Dev.psnAt
  rw [smGet?_touch]
  cases smGet? g d.tmap with
  | none => rfl
  | some e => dsimp only [Option.map]; split <;> rfl

theorem linePoisoned_touch (d : Dev) (f off : Nat) (w : Bool) : (d.touch f w).linePoisoned off = d.linePoisoned off := by
  unfold Dev.linePoisoned Dev.poisonIn
  simp only [psnAt_touch]
  rfl

/-! A line in no erasure group. -/

/-- The frame of a line lies in no erasure group (R296). -/
def Ungrouped (d : Dev) (f : Nat) : Prop := ∀ e, smGet? f d.tmap = some e → pEgroup (d.precOf e) = 0

theorem Ungrouped.egOf {d : Dev} {f : Nat} (h : Ungrouped d f) : d.egOf f = none := by
  unfold Dev.egOf
  cases hget : smGet? f d.tmap with
  | none => rfl
  | some e => dsimp only; rw [h e hget, if_pos rfl]

theorem Ungrouped.egMisfit {d : Dev} {f : Nat} (h : Ungrouped d f) : d.egMisfit f = false := by
  unfold Dev.egMisfit
  cases hget : smGet? f d.tmap with
  | none => rfl
  | some e => dsimp only; rw [h e hget]; rfl

theorem Ungrouped.touch {d : Dev} {f : Nat} (h : Ungrouped d f) (w : Bool) : Ungrouped (d.touch f w) f := by
  intro e he
  rw [smGet?_touch] at he
  obtain ⟨x, hx, rfl⟩ := Option.map_eq_some_iff.mp he
  rw [if_pos rfl]
  exact h x hx

theorem Ungrouped.egFree {d : Dev} {off : Nat} (h : Ungrouped d (off / 65536)) (req : MemReq) : d.egFree off req = true := by
  simp [Dev.egFree, h.egOf]

theorem raise_changes (d : Dev) (a : Armer) : ∃ x, d.raise a = { d with raised := x } := by
  unfold Dev.raise
  split <;> exact ⟨_, rfl⟩

theorem raiseLine_changes (d : Dev) (pl : Nat) : ∃ x, d.raiseLine pl = { d with raised := x } := by
  unfold Dev.raiseLine
  refine foldl_keeps (fun (t : Dev) => ∃ x, t = { d with raised := x }) _ ?_ _ _ ⟨d.raised, rfl⟩
  rintro t a ⟨x, rfl⟩
  obtain ⟨y, hy⟩ := raise_changes { d with raised := x } a
  exact ⟨y, hy⟩

/-- A write of a line in no erasure group stores the line, and changes nothing but poison, the frame's LAST and DIRTY, cached rows, what an
extent's copy has to do and what has been raised; it waits for nothing (R111). -/
theorem applyWrite_of_ungrouped {d : Dev} {off : Nat} (h : Ungrouped d (off / 65536)) (data : Line) (m : LineMask) (poison : Bool)
    (req : Option MemReq) : ∃ ps tm rc xf ra, d.applyWrite off data m poison req =
      ({ d with mem := (d.writeLine off data m poison).mem, pois := ps, tmap := tm, rowCache := rc, xfers := xf, raised := ra }, false) := by
  have hw : ∃ ps, d.writeLine off data m poison = { d with mem := (d.writeLine off data m poison).mem, pois := ps } := by
    rw [writeLine_mem]
    have happly : d.applyMask off data m = { d with mem := (d.applyMask off data m).mem } := by
      unfold Dev.applyMask
      refine foldl_keeps (fun (t : Dev) => t = { d with mem := t.mem }) _ ?_ _ _ rfl
      intro t i ht
      split
      · rw [ht]; rfl
      · exact ht
    have hword : ∀ (x : Dev) (c : Nat), ∃ ps, x.wordPoison off m poison c = { x with pois := ps } := by
      intro x c
      unfold Dev.wordPoison
      dsimp only
      split
      · exact ⟨_, rfl⟩
      · split
        · exact ⟨_, rfl⟩
        · split <;> exact ⟨_, rfl⟩
    unfold Dev.writeLine
    obtain ⟨p0, h0⟩ := hword (d.applyMask off data m) 0
    obtain ⟨p1, h1⟩ := hword { d.applyMask off data m with pois := p0 } 1
    refine ⟨p1, ?_⟩
    rw [h0, h1, happly]
  obtain ⟨ps, hw⟩ := hw
  have hu : Ungrouped ((d.writeLine off data m poison).touch (off / 65536) true) (off / 65536) := by
    refine Ungrouped.touch ?_ true
    rw [hw]
    exact h
  have hcopied : ∀ x : Dev, ∃ xf, x.markCopied (off / 65536) = { x with xfers := xf } := by
    intro x
    unfold Dev.markCopied
    split <;> exact ⟨_, rfl⟩
  obtain ⟨xf, hxf⟩ := hcopied (((d.writeLine off data m poison).touch (off / 65536) true).dropRows off m req)
  have hu' : Ungrouped ((((d.writeLine off data m poison).touch (off / 65536) true).dropRows off m req).markCopied (off / 65536)) (off / 65536) := by
    rw [hxf]
    exact hu
  unfold Dev.applyWrite Dev.parityOf
  dsimp only
  rw [hu'.egOf]
  dsimp only
  rw [hu'.egMisfit, hxf, hw]
  split
  · next pl hpl =>
    rw [if_neg Bool.false_ne_true]
    obtain ⟨ra, hra⟩ := raiseLine_changes _ pl
    rw [hra]
    exact ⟨ps, _, _, xf, ra, rfl⟩
  · exact ⟨ps, _, _, xf, _, rfl⟩

theorem applyMask_mem_congr {d e : Dev} (h : d.mem = e.mem) (off : Nat) (data : Line) (m : LineMask) :
    (d.applyMask off data m).mem = (e.applyMask off data m).mem := by
  unfold Dev.applyMask
  induction List.range 64 generalizing d e with
  | nil => exact h
  | cons i is ih =>
    rw [List.foldl_cons, List.foldl_cons]
    apply ih
    split
    · simp only [Dev.setByte, h]
    · exact h

theorem byte_applyMask_in (d : Dev) (off : Nat) (data : Line) (m : LineMask) (i : Nat) (hi : i < 64) (h : Memory.wf d.mem = true) :
    (d.applyMask off data m).byte (64 * (off / 64) + i) = if m.getLsbD i then lineByte data i else d.byte (64 * (off / 64) + i) := by
  unfold Dev.applyMask
  have key : ∀ n ≤ 64, Memory.wf ((List.range n).foldl (fun d i => if m.getLsbD i then d.setByte (64 * (off / 64) + i) (lineByte data i) else d) d).mem = true ∧
      ((List.range n).foldl (fun d i => if m.getLsbD i then d.setByte (64 * (off / 64) + i) (lineByte data i) else d) d).byte (64 * (off / 64) + i) =
        if i < n ∧ m.getLsbD i = true then lineByte data i else d.byte (64 * (off / 64) + i) := by
    intro n
    induction n with
    | zero => exact fun _ => ⟨h, by simp⟩
    | succ n ih =>
      intro hn
      obtain ⟨hwf, hbyte⟩ := ih (by omega)
      rw [List.range_succ, List.foldl_append, List.foldl_cons, List.foldl_nil]
      by_cases hset : m.getLsbD n = true
      · rw [if_pos hset]
        refine ⟨setByte_wf _ _ hwf, ?_⟩
        by_cases heq : i = n
        · subst heq
          rw [byte_setByte_self _ _ _ hwf, if_pos ⟨by omega, hset⟩]
        · rw [byte_setByte_ne _ _ hwf (by omega), hbyte]
          exact ite_eq_ite_of_iff (by constructor <;> rintro ⟨a, b⟩ <;> exact ⟨by omega, b⟩) rfl rfl
      · rw [if_neg hset]
        refine ⟨hwf, hbyte.trans ?_⟩
        refine ite_eq_ite_of_iff (and_congr_left fun hi' => ?_) rfl rfl
        have : i ≠ n := by rintro rfl; exact hset hi'
        omega
  rw [(key 64 (by omega)).2]
  exact ite_eq_ite_of_iff (and_iff_right hi) rfl rfl

theorem byte_writeLine_in (d : Dev) (off : Nat) (data : Line) (m : LineMask) (p : Bool) (i : Nat) (hi : i < 64) (h : Memory.wf d.mem = true) :
    (d.writeLine off data m p).byte (64 * (off / 64) + i) = if m.getLsbD i then lineByte data i else d.byte (64 * (off / 64) + i) := by
  rw [← byte_applyMask_in d off data m i hi h]
  unfold Dev.byte
  rw [writeLine_mem]

end Sys2Proof.Machine
end

section
/-! Accesses of a line at home (R92): their obligations. -/

namespace Sys2Proof.Machine

open Sys2Proof Sys2Proof.Claims

section
variable {d : Dev} {off pl : Nat} {req : MemReq}

/-- The directory once a host's read of an unlisted line has been served (R92). -/
def listedRead (pl ld : Nat) (dir : SMap DirEntry) : Ask → SMap DirEntry
  | .s => smSet pl ⟨.shared, false, [ld], [ld], none, none⟩ dir
  | .a => smSet pl ⟨.owned, false, [ld], [ld], none, none⟩ dir
  | .i => dir

theorem settleLine_of_unlisted (hget : smGet? pl d.dir = none) : d.settleLine pl off = d := by
  simp [Dev.settleLine, hget]

theorem cacheSet_dir (d : Dev) (s : Nat) : (d.cacheSet s).dir = d.dir := by
  obtain ⟨c, fr, h⟩ := cacheSet_changes d s
  rw [h]

theorem dirStage_read_of_unlisted {ld : Nat} (ask : Ask) (hget : smGet? pl d.dir = none) (hroom : (d.setEntries (dirSet pl)).length < 8) :
    d.dirStage off pl (some ld) (askWant ask) req = (.serve, { d.cacheSet (dirSet pl) with dir := listedRead pl ld d.dir ask }) := by
  have hget' : smGet? pl (d.cacheSet (dirSet pl)).dir = none := by rw [cacheSet_dir]; exact hget
  have hroom' : (d.cacheSet (dirSet pl)).dirRoom pl req = (.serve, d.cacheSet (dirSet pl)) := by
    unfold Dev.dirRoom
    have : ((d.cacheSet (dirSet pl)).setEntries (dirSet pl)).length < 8 := by rw [Dev.setEntries, cacheSet_dir]; exact hroom
    exact if_pos this
  unfold Dev.dirStage
  rw [settleLine_of_unlisted hget']
  dsimp only
  rw [hget']
  cases ask with
  | s => simp only [askWant, Option.getD_none, Option.isSome_none, hroom', Bool.false_eq_true, if_false, if_true,
      cacheSet_dir d (dirSet pl), Dev.grantOwned, Dev.putEntry, listedRead, Option.isSome_none]
  | a => simp only [askWant, Option.getD_none, Option.isSome_none, hroom', Bool.false_eq_true, if_false, if_true,
      cacheSet_dir d (dirSet pl), Dev.grantOwned, Dev.putEntry, listedRead, Option.isSome_none]
  | i => exact congrArg (fun m => (DirAns.serve, { d.cacheSet (dirSet pl) with dir := m })) (cacheSet_dir d (dirSet pl))

theorem dirTry_of_served {h : Option Nat} {want : Want} {a : Dev} (hgate : d.dirGate off req = (none, d))
    (hstage : d.dirStage off pl h want req = (.serve, a)) : d.dirTry off pl h want req = (.serve, a.unrefuse req) := by
  simp only [Dev.dirTry, hgate, hstage]

end

/-! What counting leaves of the register that samples. -/

theorem smGet?_smErase_of_lt {α : Type} {k l : Nat} (h : k < l) (m : SMap α) : smGet? l (smErase k m) = smGet? l m := by
  induction m with
  | nil => rfl
  | cons p m ih =>
    obtain ⟨j, w⟩ := p
    by_cases hj : j = k
    · subst hj
      have hne : ¬ j = l := by omega
      have hlt : ¬ l < j := by omega
      simp [smErase, smGet?, hne, hlt]
    · by_cases hlt : k < j
      · simp [smErase, hj, hlt]
      · simp [smErase, smGet?, hj, hlt, ih]

theorem reg_setReg_of_lt {k l : Nat} (h : k < l) (d : Dev) (v : Nat) : (d.setReg k v).reg l = d.reg l := by
  unfold Dev.reg Dev.setReg smGet smPut
  dsimp only
  split
  · rw [smGet?_smErase_of_lt h]
  · rw [smGet?_smSet_ne (by omega)]

theorem reg_count_sampling (d : Dev) (set code n : Nat) : (d.count set code n).reg (pmcKey set 0x90) = d.reg (pmcKey set 0x90) := by
  have hbump : ∀ (t : Dev), ∀ i ∈ List.range 8, (t.bump set i n).reg (pmcKey set 0x90) = t.reg (pmcKey set 0x90) := by
    intro t i hi
    have hi := List.mem_range.mp hi
    unfold Dev.bump
    dsimp only
    split
    · rw [reg_setReg_of_lt (by unfold pmcKey; omega), reg_setReg_of_lt (by unfold pmcKey; omega)]
    · rw [reg_setReg_of_lt (by unfold pmcKey; omega)]
  unfold Dev.count
  split
  · rfl
  · refine List.foldlRecOn (motive := fun (t : Dev) => t.reg (pmcKey set 0x90) = d.reg (pmcKey set 0x90)) _ _ rfl ?_
    intro t ht i hi
    split
    · rw [hbump t i hi, ht]
    · exact ht

theorem sampleHit_of_off {d : Dev} {set : Nat} (h : (d.reg (pmcKey set 0x90)).testBit 0 = false) (kind : Nat) :
    d.sampleHit set kind = (false, d) := by
  unfold Dev.sampleHit bit
  dsimp only
  rw [h]
  exact if_pos rfl

theorem sample_of_off {d : Dev} {set : Nat} (h : (d.reg (pmcKey set 0x90)).testBit 0 = false) (x : SampleOf) : d.sample set x = d := by
  unfold Dev.sample
  rw [sampleHit_of_off h]
  exact if_pos rfl

/-- With sampling off, charging a host's access counts it, and changes registers only. -/
theorem chargeHost_of_unsampled {d : Dev} {ld : Nat} (h : (d.reg (pmcKey (64 * ld) 0x90)).testBit 0 = false) (off : Nat) (write poison : Bool)
    (tier : Nat) : d.chargeHost ld off write poison tier =
      { d with regs := (d.count (64 * ld) (if write then 0x05 else 0x04) 1).regs } := by
  have hcount : ((d.count (64 * ld) (if write then 0x05 else 0x04) 1).reg (pmcKey (64 * ld) 0x90)).testBit 0 = false := by
    rw [reg_count_sampling, h]
  unfold Dev.chargeHost
  rw [← Dev.count_only]
  exact sample_of_off hcount _

end Sys2Proof.Machine

namespace Sys2Proof.Proofs

open Sys2Proof Sys2Proof.Machine Sys2Proof.Claims

/-- A served read of an unlisted line: what home answers and what it lists. -/
theorem hostReadAt_of_unlisted {d : Dev} {ld hpa off tag : Nat} {ask : Ask} {e : TEntry} (hhome : HomeFree d off e) (hhost : HostFree d ld hpa off)
    (hget : smGet? (plineOf e.loc off) d.dir = none) (hroom : (d.setEntries (dirSet (plineOf e.loc off))).length < 8) :
    ∃ c fr fo lo g load, d.hostReadAt ld off ask tag = (.served, { d with
      tmap := smMod (off / 65536) (fun x => { x with last := d.ageWindow, dirty := x.dirty || false }) d.tmap
      dir := listedRead (plineOf e.loc off) ld d.dir ask, dirCache := c, free := fr, found := fo, lapseOk := lo, regs := g
      out := .hostData ld tag (askCmp ask) load (d.line off) (d.linePoisoned off) :: d.out }) := by
  obtain ⟨-, -, -, -, hunresp, hrevs, hsampling⟩ := hhost
  have hgate := hostGate_of_free hhome hunresp hrevs ld false (.hostRead ld off ask tag)
  obtain ⟨-, -, -, -, -, hentry, htier, hpsn, -, -, -, hrefused, hwaiting, hpresented⟩ := hhome
  have hnone : NoneWaits (d.touch (off / 65536) false) := by
    obtain ⟨h1, h2, h3⟩ := noneWaits_of_presented hrefused hwaiting hpresented
    exact ⟨h1, h2, h3⟩
  have hpline : (d.touch (off / 65536) false).pline off = some (plineOf e.loc off) := by
    refine pline_of_t0 (e := { e with last := d.ageWindow, dirty := e.dirty || false }) ?_ hpsn htier
    rw [smGet?_touch, tmap_of_entry hentry, Option.map_some, if_pos rfl]
  have htry := dirTry_of_served (hnone.dirGate (by simp [Dev.egFree, reqStores]))
    (dirStage_read_of_unlisted (d := d.touch (off / 65536) false) (off := off) (req := .hostRead ld off ask tag) (ld := ld) ask hget hroom)
  obtain ⟨c, fr, hcache⟩ := cacheSet_changes (d.touch (off / 65536) false) (dirSet (plineOf e.loc off))
  have hline : (d.touch (off / 65536) false).linePoisoned off = d.linePoisoned off := linePoisoned_touch d _ off _
  have hpoisoned : ∀ t : Dev, t.pois = d.pois → t.tmap = (d.touch (off / 65536) false).tmap → t.linePoisoned off = d.linePoisoned off := by
    intro t hp ht
    rw [← linePoisoned_touch d (off / 65536) off false]
    unfold Dev.linePoisoned Dev.poisonIn Dev.psnAt
    rw [hp, ht]
    rfl
  obtain ⟨fo, lo, hserved⟩ := unrefuse_of_none_refused (d := { d.touch (off / 65536) false with
    dirCache := c, free := fr, dir := listedRead (plineOf e.loc off) ld d.dir ask }) hrefused (.hostRead ld off ask tag)
  rw [hcache] at htry
  unfold Dev.hostReadAt
  dsimp only
  rw [hgate]
  dsimp only
  rw [hpline]
  dsimp only
  rw [htry.trans (congrArg (Prod.mk DirAns.serve) hserved)]
  dsimp only
  rw [chargeHost_of_unsampled (by exact hsampling), hpoisoned _ (by rfl) (by rfl)]
  exact ⟨c, fr, _, _, _, _, rfl⟩

/-- Settles O20: the read meets no gate, is served from home, and only what is noted of it and counted is left behind. -/
theorem hostReadIsServedFromHome : Obligations.HostReadIsServedFromHome := by
  unfold Obligations.HostReadIsServedFromHome
  intro s ld hpa off tag ask e hhome hhost hget hroom
  obtain ⟨c, fr, fo, lo, g, load, hread⟩ := hostReadAt_of_unlisted (tag := tag) (ask := ask) hhome hhost hget hroom
  obtain ⟨g', hpresent⟩ := counted_changes (d := s.dev) (f := fun d => d.hostReadAt ld off ask tag) ld hread
  obtain ⟨hrun, -, -, -, -, -, -, -, -, -, -, hrefused, hwaiting, hpresented⟩ := hhome
  have hnone := noneWaits_of_presented hrefused hwaiting hpresented
  have hreq := hostReq_of_served (tag := tag) (r := fun off => .hostRead ld off ask tag) hhost hrun hnone rfl hpresent hwaiting
  obtain ⟨fo', lo', hserved⟩ := unrefuse_of_none_refused (d := { s.dev with
      tmap := smMod (off / 65536) (fun x => { x with last := s.dev.ageWindow, dirty := x.dirty || false }) s.dev.tmap
      dir := listedRead (plineOf e.loc off) ld s.dev.dir ask, dirCache := c, free := fr, found := fo, lapseOk := lo, regs := g'
      out := .hostData ld tag (askCmp ask) load (s.dev.line off) (s.dev.linePoisoned off) :: s.dev.out }) hrefused (.hostRead ld off ask tag)
  refine ⟨_, load, gives_onDev (show execHostRead _ _ _ _ s = _ from rfl) (hreq.trans hserved), ?_⟩
  cases ask <;> exact ⟨rfl, rfl, rfl, rfl⟩

/-- A part that runs, with its first frame in T0 and its first line watched by a second armer alone, in no directory entry. -/
def watchedUnlisted : State :=
  { State.reset with dev := { Dev.reset with
    power := { Dev.reset.power with pwrgd := true, ready := true, linkUp := true, st := .run }
    regs := [(0x7000, 1)]
    roots := [(0, 0)]
    hdm := [(0, ⟨0, 0x10000000⟩)]
    tmap := [(0, newEntry 0 40 0 false)]
    coWatch := [(plineOf 40 0, .faultArea 0)] } }

theorem homeFree_watchedUnlisted : HomeFree watchedUnlisted.dev 0 (newEntry 0 40 0 false) := by
  refine ⟨?_, ?_, ?_, ?_, ?_, ?_, ?_, ?_, ?_, ?_, ?_, ?_, ?_, ?_⟩ <;> decide

/-- Refutes O21: the write raises the event of every armer of its line, and what has been raised is not among what the statement lets change.
A line may have a second armer (log entry 178) without a directory entry in a state that the statement does not shut out. -/
theorem not_hostWriteIsAppliedAtHome : ¬ Obligations.HostWriteIsAppliedAtHome := by
  unfold Obligations.HostWriteIsAppliedAtHome
  intro hclaim
  have hhost : HostFree watchedUnlisted.dev 0 0 0 := by
    refine ⟨?_, ?_, ⟨0, ?_, ?_⟩, ?_, ?_, ?_, ?_⟩ <;> decide
  obtain ⟨t, load, hexec, ht, -⟩ := hclaim watchedUnlisted 0 0 0 0 0 0 false _ homeFree_watchedUnlisted hhost
    (by decide +kernel) (by decide) (by decide)
  have hraised : t.raised = [] := by rw [ht]; rfl
  have hevent : (match exec (.hostWrite 0 0 0 0 false 0) watchedUnlisted with | .next u => u.dev.raised | _ => []) = [.faultArea 0] := by
    decide +kernel
  rw [hexec] at hevent
  have hraised' : t.raised = [.faultArea 0] := hevent
  rw [hraised] at hraised'
  cases hraised'

/-- Refutes O22: so does a device-side write of such a line. -/
theorem not_deviceAccessIsServedFromHome : ¬ Obligations.DeviceAccessIsServedFromHome := by
  unfold Obligations.DeviceAccessIsServedFromHome
  intro hclaim
  obtain ⟨-, hwrite, -⟩ := hclaim watchedUnlisted .turntable 0 0 0 0 false _ (by decide) homeFree_watchedUnlisted (by decide)
  obtain ⟨t, hexec, ht, -⟩ := hwrite (by decide +kernel) (by decide)
  have hraised : t.raised = [] := by rw [ht]; rfl
  have hevent : (match exec (.deviceAccess .turntable 0 true ⟨0, []⟩ 0 false 0) watchedUnlisted with | .next u => u.dev.raised | _ => [])
      = [.faultArea 0] := by decide +kernel
  rw [hexec] at hevent
  have hraised' : t.raised = [.faultArea 0] := hevent
  rw [hraised] at hraised'
  cases hraised'

end Sys2Proof.Proofs
end

section
/-! Back-invalidate answers, write-backs, notices, silent hosts, refused requests and revocations (R92, R97 to R106): their obligations. -/

namespace Sys2Proof.Proofs

open Sys2Proof Sys2Proof.Machine Sys2Proof.Claims

section
variable {d : Dev} {ld off pl : Nat} {x : DirEntry}

theorem biAnswer_of_waiting {b : BiWait} (hbi : x.bi = some b) (keepS : Bool) : biAnswer x ld keepS = { x with
    ptrs := if keepS && ! b.inv then x.ptrs else x.ptrs.filter (· ≠ ld)
    bi := some { b with await := b.await.filter (· ≠ ld) } } := by
  simp only [biAnswer, hbi]

theorem biRsp_of_awaited {b : BiWait} (hpl : d.pline off = some pl) (hnot : (ld, pl) ∉ d.timedOut) (hget : smGet? pl d.dir = some x)
    (hbi : x.bi = some b) (hawait : ld ∈ b.await) (hanswers : ld ∉ d.unresp) (keepS : Bool) (wb : Option Line) (poison : Bool) :
    d.biRsp ld off keepS wb poison = Dev.biFinish (match wb with
      | some data => (d.applyWrite off data fullMask poison none).1
      | none => d) pl (biAnswer x ld keepS) := by
  have hdue : d.timedOut.contains (ld, pl) = false := by simpa using hnot
  have hup : d.unresp.contains ld = false := by simpa using hanswers
  have hin : ((x.bi.map (·.await)).getD []).contains ld = true := by simpa [hbi] using hawait
  simp only [Dev.biRsp, hpl, hdue, hget, hup, hin, Bool.not_true, Bool.or_self, Bool.false_eq_true, if_false] <;> rfl

theorem biRsp_of_unawaited (hpl : d.pline off = some pl) (hnot : (ld, pl) ∉ d.timedOut) (hnone : ∀ x, smGet? pl d.dir = some x → x.bi = none)
    (keepS : Bool) (wb : Option Line) (poison : Bool) : d.biRsp ld off keepS wb poison = d.stat 0x8010 47 32 1 := by
  have hdue : d.timedOut.contains (ld, pl) = false := by simpa using hnot
  unfold Dev.biRsp
  rw [hpl]
  dsimp only
  rw [hdue, if_neg Bool.false_ne_true]
  cases hget : smGet? pl d.dir with
  | none => rfl
  | some x =>
    have hbi := hnone x hget
    simp [hbi]

theorem freeEntry_of_unwatched (hwatch : x.watch = none) : d.freeEntry pl x = { d with
    dir := smErase pl d.dir, snoopDue := nsDel pl d.snoopDue } := by
  unfold Dev.freeEntry
  rw [hwatch]

theorem wbNeeded_of_no_bi (hpl : d.pline off = some pl) (hget : smGet? pl d.dir = some x) (hbi : x.bi = none) (data : Line)
    (poison keepS : Bool) (tag : Nat) : d.wbNeeded (.hostWb ld off data poison keepS tag) = false := by
  simp [Dev.wbNeeded, hpl, hget, hbi]

/-- The write-back of the line's OWNED holder is applied, and settles the line's entry (R92). -/
theorem takeWb_of_ungrouped (hu : Ungrouped d (off / 65536)) (hget : smGet? pl d.dir = some x) (hbi : x.bi = none) (hwatch : x.watch = none)
    (data : Line) (poison keepS : Bool) (tag : Nat) : ∃ t load, d.takeWb ld off pl data poison keepS tag = (.served, t) ∧
      t.out = .hostCmp ld tag load :: d.out ∧ t.mem = (d.writeLine off data fullMask poison).mem ∧ t.waiting = d.waiting ∧
      t.dir = if keepS then smSet pl ⟨.shared, false, [ld], [ld], none, none⟩ d.dir else smErase pl d.dir := by
  obtain ⟨ps, tm, rc, xf, ra, happly⟩ := applyWrite_of_ungrouped hu data fullMask poison (some (.hostWrite ld off data fullMask poison tag))
  unfold Dev.takeWb
  rw [happly]
  dsimp only
  rw [hget]
  dsimp only
  rw [hbi, hwatch]
  cases keepS with
  | true => exact ⟨_, _, rfl, rfl, rfl, rfl, rfl⟩
  | false =>
    simp only [Option.isSome_none, Bool.false_eq_true, if_false, freeEntry_of_unwatched hwatch]
    exact ⟨_, _, rfl, rfl, rfl, rfl, rfl⟩

theorem hostWbAt_of_owner {e : TEntry} (hhome : HomeFree d off e) (hunresp : d.unresp = []) (hrevs : d.revs = [])
    (hgroup : pEgroup (d.precOf e) = 0) (hpl : d.pline off = some pl) (hget : smGet? pl d.dir = some x) (hbi : x.bi = none)
    (hwatch : x.watch = none) (hst : x.st = .owned) (hptrs : x.ptrs = [ld]) (data : Line) (poison keepS : Bool) (tag : Nat) :
    ∃ t load, d.hostWbAt ld off data poison keepS tag = (.served, t) ∧
      t.out = .hostCmp ld tag load :: d.out ∧ t.mem = (d.writeLine off data fullMask poison).mem ∧ t.waiting = d.waiting ∧
      t.dir = if keepS then smSet pl ⟨.shared, false, [ld], [ld], none, none⟩ d.dir else smErase pl d.dir := by
  obtain ⟨c, fr, hcache⟩ := cacheSet_changes d (dirSet pl)
  have hneeded := wbNeeded_of_no_bi (ld := ld) hpl hget hbi data poison keepS tag
  have hneeded' := wbNeeded_of_no_bi (d := { d with dirCache := c, free := fr }) (ld := ld) hpl hget hbi data poison keepS tag
  have hup : d.unresp.contains ld = false := by rw [hunresp]; rfl
  have howns : Dev.owns { d with dirCache := c, free := fr } ld pl = true := by simp [Dev.owns, hget, hst, hptrs]
  have hgate := hostGate_of_free (d := { d with dirCache := c, free := fr }) hhome hunresp hrevs ld true (.hostWb ld off data poison keepS tag)
  have hgateMap := gateMap_of_homeFree hhome [.ld ld]
  obtain ⟨-, -, -, -, -, hentry, -, -, -, -, -, hrefused, hwaiting, hpresented⟩ := hhome
  obtain ⟨h1, h2, h3⟩ := noneWaits_of_presented hrefused hwaiting hpresented
  have hnone : NoneWaits (Dev.touch { d with dirCache := c, free := fr } (off / 65536) false) := ⟨h1, h2, h3⟩
  have hu : Ungrouped (Dev.touch { d with dirCache := c, free := fr } (off / 65536) false) (off / 65536) := by
    refine Ungrouped.touch (fun y hy => ?_) false
    have hy : some e = some y := (tmap_of_entry hentry).symm.trans hy
    cases hy
    exact hgroup
  obtain ⟨t, load, htake, hout, hmem, hwait, hdir⟩ := takeWb_of_ungrouped hu hget hbi hwatch data poison keepS tag
  refine ⟨t, load, ?_, hout, hmem.trans ?_, hwait, hdir⟩
  · unfold Dev.hostWbAt
    simp only [hup, hneeded, hgateMap, hpl, hcache, howns, hneeded', hgate, hnone.dirGate (hu.egFree _),
      Bool.not_true, Bool.false_eq_true, if_false]
    exact htake
  · rw [writeLine_mem, writeLine_mem]
    exact applyMask_mem_congr rfl off data fullMask

/-- A clean-eviction notice of a host that the entry lists takes the host off the entry (R92). -/
theorem evictAt_of_listed (hnone : NoneWaits d) (hunresp : d.unresp = []) (hpl : d.pline off = some pl) (hget : smGet? pl d.dir = some x)
    (hbi : x.bi = none) (hovf : x.ovf = false) (hwatch : x.watch = none) (hin : ld ∈ x.ptrs) : ∃ c fr, d.evictAt ld off =
      (.served, if x.st = .owned ∨ x.ptrs.filter (· ≠ ld) = []
        then { d with dirCache := c, free := fr, dir := smErase pl d.dir, snoopDue := nsDel pl d.snoopDue }
        else { d with dirCache := c, free := fr, dir := smSet pl { x with ptrs := x.ptrs.filter (· ≠ ld) } d.dir }) := by
  obtain ⟨c, fr, hcache⟩ := cacheSet_changes d (dirSet pl)
  have hgate : Dev.dirGate { d with dirCache := c, free := fr } off (.evict ld off) = (none, { d with dirCache := c, free := fr }) := by
    rw [← hcache]
    exact (hnone.cacheSet _).dirGate rfl
  have hup : d.unresp.contains ld = false := by rw [hunresp]; rfl
  have hlisted : x.ptrs.contains ld = true := by simpa using hin
  refine ⟨c, fr, ?_⟩
  unfold Dev.evictAt
  simp only [hup, hpl, hcache, hgate, hget, hbi, hovf, hlisted, Option.isSome_none, Bool.not_true, Bool.or_self, Bool.false_eq_true, if_false]
  by_cases hgone : x.st = .owned ∨ x.ptrs.filter (· ≠ ld) = []
  · rw [if_pos hgone, if_pos (by simpa [List.isEmpty_iff] using hgone)]
    exact congrArg (Prod.mk _) (freeEntry_of_unwatched hwatch)
  · rw [if_neg hgone, if_neg (by simpa [List.isEmpty_iff] using hgone)]

end

/-- Settles O26: an awaited answer goes to the end of its wait, and the write-back and the notice pass the gates of their line. -/
theorem snoopsAreAnsweredAndLinesGivenBack : Obligations.SnoopsAreAnsweredAndLinesGivenBack := by
  unfold Obligations.SnoopsAreAnsweredAndLinesGivenBack
  refine ⟨fun s ld hpa a pl keepS poison hlink hld hhpa hpl hdue => ⟨fun x b data hget hbi hawait hanswers => ?_, fun hnone wb => ?_⟩,
    fun s ld hpa a pl x e hhost hhpa hget hbi hwatch hovf hpl hpl' => ⟨fun data poison keepS tag hhome hst hptrs hgroup hwf => ?_,
      fun hrun hrefused hwaiting hpresented hin => ?_, ?_⟩⟩
  · have hup : s.dev.hostUp ld = true := by simp [Dev.hostUp, hlink, hld]
    have hgives : ∀ wb, Gives (.birsp ld hpa keepS wb poison) s (s.dev.biRsp ld (64 * (a / 64)) keepS wb poison) := by
      intro wb
      refine gives_onDev (show execBirsp _ _ _ _ _ s = _ from rfl) ?_
      simp only [hup, hhpa, Bool.not_true, Bool.false_eq_true, if_false]
    simp only [biRsp_of_awaited hpl hdue hget hbi hawait hanswers, biAnswer_of_waiting hbi] at hgives
    exact ⟨hgives none, hgives (some data)⟩
  · have hup : s.dev.hostUp ld = true := by simp [Dev.hostUp, hlink, hld]
    refine gives_onDev (show execBirsp _ _ _ _ _ s = _ from rfl) ?_
    simp only [hup, hhpa, biRsp_of_unawaited hpl hdue hnone, Bool.not_true, Bool.false_eq_true, if_false]
  · obtain ⟨t, load, hserve, hout, hmem, hwait, hdir⟩ := hostWbAt_of_owner hhome hhost.2.2.2.2.1 hhost.2.2.2.2.2.1 hgroup hpl hget hbi hwatch
      hst hptrs data poison keepS tag
    obtain ⟨g, hpresent⟩ := counted_changes (d := s.dev) (f := fun d => d.hostWbAt ld (64 * (a / 64)) data poison keepS tag) ld hserve
    obtain ⟨hrun, -, -, -, -, -, -, -, -, -, -, hrefused, hwaiting, hpresented⟩ := hhome
    have hreq := hostReq_of_served (tag := tag) (r := fun off => .hostWb ld off data poison keepS tag) hhost hrun
      (noneWaits_of_presented hrefused hwaiting hpresented) rfl hpresent (hwait.trans hwaiting)
    have hmem' : (Dev.unrefuse { t with regs := g } (.hostWb ld (64 * (a / 64)) data poison keepS tag)).mem =
        (s.dev.writeLine (64 * (a / 64)) data fullMask poison).mem := hmem
    refine ⟨_, load, gives_onDev (show execHostWriteBack _ _ _ _ _ _ s = _ from rfl) hreq, hout, fun i hi => ?_, fun b hb => ?_, hdir⟩
    · have hbyte := byte_writeLine_in s.dev (64 * (a / 64)) data fullMask poison i hi hwf
      have hfull : fullMask.getLsbD i = true := (BitVec.getLsbD_allOnes (v := 64)).trans (decide_eq_true hi)
      rw [hfull, if_pos rfl] at hbyte
      unfold Dev.byte at hbyte ⊢
      rw [hmem', ← hbyte]
      congr 1
      omega
    · unfold Dev.byte
      rw [hmem']
      exact byte_writeLine_out s.dev _ data fullMask poison b hwf (by omega)
  · obtain ⟨c, fr, hserve⟩ := evictAt_of_listed (ld := ld) (noneWaits_of_presented hrefused hwaiting hpresented) hhost.2.2.2.2.1 hpl hget hbi hovf
      hwatch hin
    obtain ⟨g, hpresent⟩ := counted_changes (d := s.dev) (f := fun d => d.evictAt ld (64 * (a / 64))) ld hserve
    have hreq := hostReq_of_served (tag := 0) (r := fun off => .evict ld off) hhost hrun
      (noneWaits_of_presented hrefused hwaiting hpresented) rfl hpresent (by dsimp only; split <;> exact hwaiting)
    obtain ⟨fo, lo, hforgot⟩ := unrefuse_of_none_refused (d := { (if x.st = .owned ∨ x.ptrs.filter (· ≠ ld) = []
        then { s.dev with dirCache := c, free := fr, dir := smErase pl s.dev.dir, snoopDue := nsDel pl s.dev.snoopDue }
        else { s.dev with dirCache := c, free := fr, dir := smSet pl { x with ptrs := x.ptrs.filter (· ≠ ld) } s.dev.dir }) with regs := g })
      (by dsimp only; split <;> exact hrefused) (.evict ld (64 * (a / 64)))
    refine ⟨_, gives_onDev (show execCleanEvictionNotice _ _ s = _ from rfl) (hreq.trans hforgot), fun hsh hne => ?_, fun hgone => ?_⟩
    · rw [if_neg (by rw [hsh]; simp only [reduceCtorEq, false_or]; exact hne)]
    · rw [if_pos hgone]
  · have hup : s.dev.hostUp ld = true := by simp [Dev.hostUp, hhost.1, hhost.2.1]
    refine gives_onDev (show execBiconflict _ _ s = _ from rfl) ?_
    simp only [hup, hhpa, Bool.not_true, Bool.false_eq_true, if_false]

/-- Settles O27: the timeout takes the LD off the wait that its command names, and a sweep of an empty directory has no line to settle. -/
theorem silentHostsAreSwept : Obligations.SilentHostsAreSwept := by
  unfold Obligations.SilentHostsAreSwept
  refine fun s => ⟨fun ld off pl x b hpl hget hbi hawait => ?_, fun lds hsweep hdir => ?_⟩
  · have hin : ((x.bi.map (·.await)).getD []).contains ld = true := by simpa [hbi] using hawait
    refine gives_onDev (show execBisnpTimeout _ _ s = _ from rfl) ?_
    simp only [hpl, hget, hin, Bool.not_true, Bool.false_eq_true, if_false]
  · refine gives_onDev (show execSweepEnd s = _ from rfl) ?_
    have hkeys : (smKeys s.dev.dir).foldl Dev.sweepLine s.dev = s.dev := by rw [hdir]; rfl
    simp only [hsweep, hkeys] <;> rfl

/-- Settles O28: neither request meets what its command leaves alone. -/
theorem refusedRequestsGoOn : Obligations.RefusedRequestsGoOn := by
  unfold Obligations.RefusedRequestsGoOn
  refine fun s => ⟨fun k r hat hticket hholds hwaits => ?_, fun line r hnext hmarks hfree => ?_⟩
  · refine gives_onDev (show execRequestRepresent _ s = _ from rfl) ?_
    simp only [hat, hticket, hholds, hwaits, Option.isSome_none, Bool.or_self, Bool.false_eq_true, if_false]
  · have hroom : ¬ (s.dev.marks line).length ≥ 14 := by omega
    refine gives_onDev (show execStarvationTicketGrant _ s = _ from rfl) ?_
    simp only [hnext, hroom, hfree, decide_false, Bool.not_true, Bool.or_self, Bool.false_eq_true, if_false]

section
variable {d : Dev} {c : Ctx} {l : Line} {e : Extent} {q n : Nat} {y : Queue}

/-- The checks that EXTENT_REVOKE of an extent passes (R103). -/
structure MayRevoke (d : Dev) (c : Ctx) (l : Line) (e : Extent) (fn : Nat) : Prop where
  unbegun : (d.revs.any (fun v => v.desc == some c.did)) = false
  on : d.extOn = true
  found : d.extBy (lf l 8 4) = some e
  allowed : e.comp = c.comp ∨ d.qPriv fn = true
  epoch : lf l 12 4 = e.epoch
  active : e.st = .active
  room : d.revs.length < 256
  mode : lf l 18 1 % 4 ≠ 0 ∧ ¬ (bit (lf l 18 1 % 4) 0 ∧ lf l 16 2 = 0)

/-- What a revocation by HOSTS, or by COMP, makes of the block (R103, R106, R309). -/
def revoked (comp : Bool) (i : DescId) (l : Line) (e : Extent) (d : Dev) : Dev :=
  if ! comp then d.installRev e (lf l 16 2) (some i)
  else
    let d := (d.setExt { e with st := .revoked, peer := none }).markEarly e
    let d := (d.unpinRange e.first e.frames).installRev e 0xFFFF (some i)
    if e.leased then (d.setLease { d.lease e.id with held := false }).askLedger e 3 else d

/-- EXTENT_REVOKE that passes its checks installs its revocation, and waits for the end of its drain. -/
theorem revokeM_installs {comp : Bool} (hrun : c.run = .desc q n) (hq : smGet? q d.queues = some y) (h : MayRevoke d c l e y.fn)
    (hcomp : bit (lf l 18 1 % 4) 1 = comp) :
    revokeM comp l c ⟨d, [], 0, [], [], []⟩ = (.error .need, ⟨revoked comp c.did l e d, [], 0, [], [], []⟩) := by
  obtain ⟨hnew, hon, hfound, hallowed, hepoch, hactive, hroom, hmode⟩ := h
  have hfn := runFn_of_queue (k := ⟨d, [], 0, [], [], []⟩) hrun hq
  have hallowed' : (e.comp == c.comp || d.qPriv y.fn) = true := by simpa using hallowed
  have hepoch' : (lf l 12 4 == e.epoch) = true := by simpa using hepoch
  have hstate : (e.st != .source && e.st != .dest && e.st != .doubt && decide (d.revs.length < 256)) = true := by
    rw [hactive]
    simpa using hroom
  simp only [revokeM, M.bind_apply, M.read_apply, M.getDev_apply, M.modDev_apply, M.need_apply, hnew, hon, hfound, ensure_of hmode, hcomp,
    hfn, ensure_of_true hallowed', ensure_of_true hepoch', ensure_of_true hstate, ne_eq, not_true_eq_false, Bool.false_eq_true, if_true,
    if_false]
  rfl

end

/-- Settles O29: the install runs its descriptor's run, and the drain finds its revocation with no line to ask for. -/
theorem revocationsAreInstalledAndDrain : Obligations.RevocationsAreInstalledAndDrain := by
  unfold Obligations.RevocationsAreInstalledAndDrain
  refine ⟨fun s q n x r e hrun hon hfound hallowed hepoch hactive hroom hnew => ⟨fun hmode hmask => ?_, fun hmode => ?_⟩,
    fun s extent r i hfind hdesc htracked => ⟨fun hheld hmoves hearly hparity => ?_, ?_⟩⟩
  · have hneed := revokeM_installs (c := descCtx q x r) (l := r.bytes) (comp := false) hrun.run_eq hrun.queue_eq
      ⟨by rw [hrun.did_eq]; exact hnew, hon, hfound, hallowed, hepoch, hactive, hroom, by rw [hmode]; exact ⟨by decide, fun h => hmask h.2⟩⟩
      (by rw [hmode]; rfl)
    have hwaits := waits_of_run (c := .extentRevokeHosts q n) rfl hrun hneed
    rw [hrun.did_eq] at hwaits
    exact hwaits
  · have hneed := revokeM_installs (c := descCtx q x r) (l := r.bytes) (comp := true) hrun.run_eq hrun.queue_eq
      ⟨by rw [hrun.did_eq]; exact hnew, hon, hfound, hallowed, hepoch, hactive, hroom, by
        rcases hmode with h | ⟨h, hmask⟩ <;> rw [h]
        · exact ⟨by decide, fun h => absurd h.1 (by decide)⟩
        · exact ⟨by decide, fun h => hmask h.2⟩⟩
      (by rcases hmode with h | ⟨h, -⟩ <;> rw [h] <;> rfl)
    have hwaits := waits_of_run (c := .extentRevokeComp q n) rfl hrun hneed
    rw [hrun.did_eq] at hwaits
    exact hwaits
  · have hextent : r.extent = extent := by
      have := List.find?_some hfind
      simp only [Bool.and_eq_true, beq_iff_eq] at this
      exact this.1
    rw [hextent] at hearly
    have hin : s.dev.acceptedOut r = false := by rw [Dev.acceptedOut, hheld]; rfl
    have hlines : s.dev.revokeLines r = s.dev := by rw [Dev.revokeLines, htracked]; rfl
    have hasked : s.dev.revokeHeld r = false := by rw [Dev.revokeHeld, htracked]; rfl
    refine gives_onDev (show execRevokeDrainEnd _ s = _ from rfl) ?_
    simp only [hfind, hin, hlines, hasked, hmoves, hearly, hparity, Dev.revokeEnds, hdesc, hextent, Bool.or_self, Bool.false_eq_true, if_false]
    rfl
  · have hextent : r.extent = extent := by
      have := List.find?_some hfind
      simp only [Bool.and_eq_true, beq_iff_eq] at this
      exact this.1
    refine gives_onDev (show execExtRevokeTmoExpiry _ s = _ from rfl) ?_
    simp only [hfind, htracked, List.foldl_nil, Dev.revokeEnds, hdesc, hextent]
    rfl

end Sys2Proof.Proofs
end

section
/-! Promotions, demotions and relocations (R22, R72 to R74): their obligations. -/

namespace Sys2Proof.Proofs

open Sys2Proof Sys2Proof.Machine Sys2Proof.Claims

/-- The block once a promotion whose content is here has ended (R73). -/
def promoted (d : Dev) (f : Nat) (m : Move) (e : TEntry) (c : List Host.Cell × NSet) : Dev :=
  let d := if m.destTier = 3 then d else d.landRest f m c
  let d := d.kilnEvent f e
  let evac := e.tier == 1 && (d.slot e.cslot).busy == 2
  let d := (d.setEntry f (promotedEntry e m.dest evac)).freeSource e m
  let d := { d with moves := smErase f d.moves, promoWait := d.promoWait.filter (fun p => p.1 != f) }
  (d.giveOwed.wake (fun w => onMove f w || w == .frameRoom)).tryWanted

theorem promoted_eq (d : Dev) (f : Nat) (m : Move) (e : TEntry) (c : List Host.Cell × NSet) : promoted d f m e c =
    let d1 := (if m.destTier = 3 then d else d.landRest f m c).kilnEvent f e
    let d2 := (d1.setEntry f { e with
      tier := 0, loc := m.dest, mov := false, zero := false
      dirty := e.tier == 1 && (d1.slot e.cslot).busy == 2
      t1c := e.tier == 1 && ! (e.tier == 1 && (d1.slot e.cslot).busy == 2) }).freeSource e m
    (Dev.giveOwed { d2 with moves := smErase f d2.moves, promoWait := d2.promoWait.filter (fun p => p.1 != f) }).wake
      (fun w => onMove f w || w == .frameRoom) |>.tryWanted := rfl

/-- Settles O30: each command finds its move, with its source here, or its OPEN record and the cask that can take it. -/
theorem promotionsLand : Obligations.PromotionsLand := by
  unfold Obligations.PromotionsLand
  refine ⟨fun s f m e hmove hentry hkind hqueued hpsn hhere => ⟨fun sub data hsub hlanded => ⟨fun c htier hcontent => ?_, fun htier => ?_⟩,
    fun c hall hcontent => ?_⟩, fun s f v n e hpend hv hentry hslot => ?_⟩
  · have hsub' : ¬ sub ≥ 16 := Nat.not_le.mpr hsub
    have hland : s.dev.subLands f sub data = (s.dev.land f sub m c).wake (fun w => w == .subBlock f sub) := by
      simp only [Dev.subLands, hmove, hentry, hkind, hqueued, hpsn, hhere, hsub', bit, hlanded, htier, hcontent, ne_eq, not_true_eq_false,
        decide_false, Bool.not_true, Bool.or_self, Bool.false_eq_true, if_false]
    exact gives_onDev (f := fun d => d.subLands f sub data) rfl hland
  · have hsub' : ¬ sub ≥ 16 := Nat.not_le.mpr hsub
    refine gives_onDev (f := fun d => d.subLands f sub data) rfl ?_
    simp only [Dev.subLands, hmove, hentry, hkind, hqueued, hpsn, hhere, hsub', bit, hlanded, htier, ne_eq, not_true_eq_false,
      decide_false, Bool.not_true, Bool.or_self, Bool.false_eq_true, if_false, if_true]
  · have hmissing : (m.destTier == 3 && m.landed != 65535) = false := by simpa using hall
    refine gives_onDev (f := fun d => d.promoEnds f) rfl (Eq.trans ?_ (promoted_eq s.dev f m e c))
    simp only [Dev.promoEnds, hmove, hentry, hkind, hqueued, hpsn, hhere, hmissing, hcontent, ne_eq, not_true_eq_false,
      decide_false, Bool.not_true, Bool.or_self, Bool.false_eq_true, if_false, promoted]
  · refine gives_onDev (f := fun d => d.openDurable f) rfl ?_
    simp only [Dev.openDurable, hpend, hentry, hv, hslot, if_false]

theorem tryDemotes_of_none_wanted {d : Dev} (h : d.wantDemote = []) : d.tryDemotes = d := by
  unfold Dev.tryDemotes
  rw [h]
  split <;> rfl

/-- Settles O31: with nothing that PLACE asked for and no line tracked, each command takes the branch that its hypotheses name. -/
theorem demotionsBeginAndCommit : Obligations.DemotionsBeginAndCommit := by
  unfold Obligations.DemotionsBeginAndCommit
  refine ⟨fun s hon hrun hwant => ⟨fun hhigh => ?_, fun hfew hlow => ?_⟩,
    fun s f m e hmove hentry hlines => ⟨fun hkind htier htake hparity => ?_, fun hkind htracked => ?_⟩⟩
  · refine gives_onDev (f := fun d => d.startDemotions) rfl ?_
    unfold Dev.startDemotions
    dsimp only
    rw [if_neg (by simp [hon, hrun]), if_pos hhigh, tryDemotes_of_none_wanted (d := { s.dev with evicting := false }) hwant]
    exact if_neg Bool.false_ne_true
  · have hbegin : (s.dev.evicting || decide (s.dev.poolFree < max 1 s.dev.waterLow)) = true := by simp [hlow]
    refine gives_onDev (f := fun d => d.startDemotions) rfl ?_
    unfold Dev.startDemotions
    dsimp only
    rw [if_neg (by simp [hon, hrun]), if_neg (Nat.not_le.mpr hfew), hbegin, tryDemotes_of_none_wanted (d := { s.dev with evicting := true }) hwant]
    exact if_pos rfl
  · have hdone : (s.dev.frameLines e).isEmpty = true := by rw [hlines]; rfl
    refine gives_onDev (f := fun d => d.commitDemotion f) rfl ?_
    simp only [Dev.commitDemotion, hmove, hentry, hkind, htier, htake, hdone, hparity, ne_eq, not_true_eq_false, Bool.not_true,
      Bool.false_eq_true, if_false, if_true]
  · refine gives_onDev (f := fun d => d.relocated f) rfl ?_
    simp only [Dev.relocated, hmove, hentry, hkind, htracked, List.filter_nil, List.isEmpty_nil, List.flatMap_nil, List.foldl_nil,
      ne_eq, not_true_eq_false, Bool.not_true, Bool.false_eq_true, if_false]
    rfl

end Sys2Proof.Proofs
end

section
/-! The tier map's roots, leaves and registers (R66, R70, R71, R82, R86, R424): their obligations. -/

namespace Sys2Proof.Proofs

open Sys2Proof Sys2Proof.Machine Sys2Proof.Claims

section
variable {d : Dev} {l st r : Nat}

/-- The loss of a stack that holds the first copy of the one leaf: that copy is gone, and the leaf where its second one is (R82). -/
theorem loseCopies_of_first (hroots : d.roots = [(r, l)]) (hfirst : d.leafStack l 0 = some st) :
    d.loseCopies st = Dev.event (if (d.leafStack l 1).isNone
      then { d with leafAt := smSet (2 * l) 0 d.leafAt, lostLeaves := nsAdd l d.lostLeaves }
      else { d with leafAt := smSet (2 * l) 0 d.leafAt }) .mapDegraded [.count 1] := by
  have hhit : d.leafSlots.filter (fun l => d.leafStack l 0 == some st || d.leafStack l 1 == some st) = [l] := by
    simp [Dev.leafSlots, hroots, hfirst]
  have hsecond : Dev.leafStack { d with leafAt := smSet (2 * l) 0 d.leafAt } l 1 = d.leafStack l 1 := by
    unfold Dev.leafStack
    dsimp only
    rw [smGet?_smSet_ne (by omega)]
    rfl
  unfold Dev.loseCopies
  dsimp only
  rw [hhit]
  simp only [List.foldl_cons, List.foldl_nil, hfirst, if_true, Nat.add_zero, Nat.sub_zero, hsecond]
  rfl

end

/-- Settles O32: each command takes the branch that its hypotheses name; the lost stack holds the first copy of the one leaf. -/
theorem mapRootsAndLeavesComeAndGo : Obligations.MapRootsAndLeavesComeAndGo := by
  unfold Obligations.MapRootsAndLeavesComeAndGo
  refine ⟨fun s => ⟨fun st r l hst hroots hfirst => ⟨fun st' hne hsecond => ?_, fun hsecond => ?_⟩,
    fun leaf root hfind hlost hload hwritten hrebuilds hwants => ?_, fun root hbusy hload => ?_⟩, fun s p v hpass hclear => ?_⟩
  · refine gives_onDev (show execTierMapCopyLoss _ s = _ from rfl) ?_
    rw [if_pos hst, loseCopies_of_first hroots hfirst, hsecond]
    rfl
  · refine gives_onDev (show execTierMapCopyLoss _ s = _ from rfl) ?_
    rw [if_pos hst, loseCopies_of_first hroots hfirst, hsecond]
    rfl
  · have hlost' : s.dev.lostLeaves.contains leaf = true := by simpa using hlost
    have hwritten' : s.dev.leafWritten.contains leaf = true := by simpa using hwritten
    have hrebuilds' : (s.dev.rootFrames root).any (fun f => s.dev.fabOut.any (fun o => o.owner == .rebuild f)) = false := by
      simpa [List.any_eq_false] using hrebuilds
    have hwants' : s.dev.wantRebuild.any (fun f => f / 65536 == root) = false := by simpa [List.any_eq_false] using hwants
    refine gives_onDev (show execTierMapRebuild _ s = _ from rfl) ?_
    simp only [hfind, hlost', hload, hwritten', hrebuilds', hwants', Bool.not_true, Bool.or_self, Bool.false_eq_true, if_false, if_true]
  · have hbusy' : s.dev.rootBusy.contains root = true := by simpa using hbusy
    refine gives_onDev (show execLeafBuildDone _ s = _ from rfl) ?_
    simp only [hbusy', hload, Bool.not_true, Bool.or_self, Bool.false_eq_true, if_false]
  · have hgives : ∀ d, (fresh s.dev p).writeRoot (bits (s.dev.sel p 0x7024) 15 0) v = d → Gives (.tierRootWrite p v) s d :=
      fun d hd => gives_onPathDev rfl hpass hd
    have hkeep : bit v 62 = false := hclear
    refine ⟨fun hset hnone hleaf hfree hidle => ?_, fun hset hnone hwhy => ?_, fun hset hsome hframes hidle => ?_, fun hset hsome hframes => ?_⟩
    · refine hgives _ ?_
      have hset : bit v 0 = true := hset
      have hnone : smGet? (bits (s.dev.sel p 0x7024) 15 0) (fresh s.dev p).roots = none := hnone
      have hroom : bits v 16 1 < (fresh s.dev p).leaves ∧ ! (fresh s.dev p).leafSlots.contains (bits v 16 1) ∧ (fresh s.dev p).rootBusy.isEmpty :=
        ⟨hleaf, by rw [show (fresh s.dev p).leafSlots = s.dev.leafSlots from rfl]; simpa using hfree, List.isEmpty_iff.mpr hidle⟩
      unfold Dev.writeRoot
      dsimp only
      rw [hkeep, if_neg Bool.false_ne_true, hset, hnone]
      dsimp only
      rw [if_pos hroom, show (fresh s.dev p).rootBusy = [] from hidle]
      rfl
    · refine hgives _ ?_
      have hset : bit v 0 = true := hset
      have hnone : smGet? (bits (s.dev.sel p 0x7024) 15 0) (fresh s.dev p).roots = none := hnone
      have hroom : ¬ (bits v 16 1 < (fresh s.dev p).leaves ∧ ! (fresh s.dev p).leafSlots.contains (bits v 16 1) ∧ (fresh s.dev p).rootBusy.isEmpty) := by
        rintro ⟨hleaf, hfree, hidle⟩
        rcases hwhy with h | h | h
        · exact Nat.not_lt.mpr h hleaf
        · simp at hfree
          exact hfree h
        · simp at hidle
          exact h hidle
      unfold Dev.writeRoot
      dsimp only
      rw [hkeep, if_neg Bool.false_ne_true, hset, hnone]
      exact if_neg hroom
    · obtain ⟨l, hl⟩ := Option.ne_none_iff_exists'.mp hsome
      refine hgives _ ?_
      have hset : bit v 0 = false := hset
      have hl : smGet? (bits (s.dev.sel p 0x7024) 15 0) (fresh s.dev p).roots = some l := hl
      unfold Dev.writeRoot
      dsimp only
      rw [hkeep, if_neg Bool.false_ne_true, hset, hl]
      refine if_pos ⟨?_, ?_⟩
      · exact List.isEmpty_iff.mpr hframes
      · exact List.isEmpty_iff.mpr hidle
    · obtain ⟨l, hl⟩ := Option.ne_none_iff_exists'.mp hsome
      refine hgives _ ?_
      have hset : bit v 0 = false := hset
      have hl : smGet? (bits (s.dev.sel p 0x7024) 15 0) (fresh s.dev p).roots = some l := hl
      unfold Dev.writeRoot
      dsimp only
      rw [hkeep, if_neg Bool.false_ne_true, hset, hl]
      exact if_neg (fun h => hframes (List.isEmpty_iff.mp h.1))

/-- TIER_MAP_CFG as it is written with EN set differs from what it holds after reset, so it reads back as written. -/
theorem reg_mapCfg (d : Dev) {x : Nat} (h : x % 2 = 1) : (d.setReg 0x7000 x).reg 0x7000 = x := by
  have hreset : regReset 0x7000 % 2 = 0 := by decide
  have hne : x ≠ regReset 0x7000 := by rintro rfl; omega
  unfold Dev.reg Dev.setReg smPut
  dsimp only
  rw [if_neg hne, smGet, smGet?_smSet_self]
  rfl

theorem mem_foldl_nsAdd {r : Nat} (xs : List Nat) (a : NSet) : r ∈ xs.foldl (fun a r => nsAdd r a) a ↔ r ∈ xs ∨ r ∈ a := by
  induction xs generalizing a with
  | nil => simp
  | cons x xs ih => rw [List.foldl_cons, ih, mem_nsAdd, List.mem_cons, or_left_comm, or_assoc]

/-- The first write of EN lays the map out (R86). -/
theorem writeMapCfg_lays {d : Dev} {v : Nat} (hnew : d.mapLaid = false) (hoff : d.mapOn = false) (hset : v % 2 = 1) :
    d.writeMapCfg v = { d.setReg 0x7000 (bits v 17 0) with
      mapLaid := true, rootBusy := (smKeys d.roots).foldl (fun a r => nsAdd r a) [], rootNew := [] } ∧
    (d.writeMapCfg v).mapOn = true ∧ (d.writeMapCfg v).leaves = bits v 17 1 := by
  have hodd : bits v 17 0 % 2 = 1 := by unfold bits; omega
  have hreg := reg_mapCfg d hodd
  have hon : (d.setReg 0x7000 (bits v 17 0)).mapOn = true := by
    unfold Dev.mapOn Dev.rf
    rw [hreg]
    simpa [bits] using hset
  have hwrite : d.writeMapCfg v = { d.setReg 0x7000 (bits v 17 0) with
      mapLaid := true, rootBusy := (smKeys d.roots).foldl (fun a r => nsAdd r a) [], rootNew := [] } := by
    unfold Dev.writeMapCfg
    dsimp only
    rw [hnew, hoff, if_neg Bool.false_ne_true, hon]
    exact (if_neg Bool.false_ne_true).trans (if_neg (Bool.eq_false_iff.mp hnew))
  refine ⟨hwrite, ?_, ?_⟩
  · rw [hwrite]
    exact hon
  · rw [hwrite]
    show bits ((d.setReg 0x7000 (bits v 17 0)).reg 0x7000) 17 1 = bits v 17 1
    rw [hreg]
    unfold bits
    omega

/-- Settles O33: the window's new fields are the model's, and each register command passes to its register's own action. -/
theorem ageWindowsAndTierRegistersAct : Obligations.AgeWindowsAndTierRegistersAct := by
  unfold Obligations.AgeWindowsAndTierRegistersAct
  refine ⟨fun s => ⟨s.dev.nextWindow, rfl, rfl, rfl, ?_, ?_, fun hlo hhi => ?_, fun hw => if_neg hw, fun p hp => ?_⟩,
    fun s p v hpass => ⟨fun hlock hnew hoff hset => ?_, fun hlock => ?_, fun hfit => ?_, fun hover => ?_⟩⟩
  · exact Nat.le_max_left _ _
  · exact Nat.max_le.mpr ⟨by omega, Nat.min_le_left _ _⟩
  · show max 1 (min 60000 (s.dev.rf 0x7004 15 0)) = _
    omega
  · obtain ⟨hin, hage⟩ := List.mem_filter.mp hp
    exact ⟨hin, of_decide_eq_true hage⟩
  · have hodd : v % 2 = 1 := by simpa [Nat.testBit_zero] using hset
    obtain ⟨hwrite, hon, hleaves⟩ := writeMapCfg_lays (d := fresh s.dev p) hnew hoff hodd
    refine ⟨_, gives_onPath (d := (fresh s.dev p).writeMapCfg v) rfl hpass (if_neg ?_), ?_⟩
    · exact Bool.eq_false_iff.mp hlock
    · refine ⟨by rw [hwrite], hon, hleaves, by rw [hwrite], fun r => ?_, by rw [hwrite]; rfl, by rw [hwrite]; rfl⟩
      rw [hwrite]
      exact (mem_foldl_nsAdd _ _).trans (or_iff_left List.not_mem_nil)
  · exact gives_onPath rfl hpass (if_pos hlock)
  · refine gives_onPathDev rfl hpass ?_
    exact if_neg (Nat.not_lt.mpr hfit)
  · refine gives_onPathDev rfl hpass ?_
    exact if_pos hover

end Sys2Proof.Proofs
end

section
/-! SUPPORT. Runs that end with free results (R135), and the checks of moves by the bays (R176). -/

namespace Sys2Proof.Machine

open Sys2Proof Sys2Proof.Claims

theorem openRun_apply (st : Nat) (c : Ctx) (k : RunSt) : openRun st c k = (.ok (st, k.d.takeFree.1 % 2 ^ 64, k.d.takeFree.2.takeFree.1 % 2 ^ 64),
    { k with d := k.d.takeFree.2.takeFree.2 }) := rfl

theorem okRun_apply (c : Ctx) (k : RunSt) : okRun c k = (.ok (0, 0, 0), k) := rfl

/-- A run that ends with a status and free results ends its descriptor with them. -/
theorem endsOpen_of_run {i : Instr} {s : State} {q n op st : Nat} {x : Queue} {r : Started} {m : Line → M (Nat × Nat × Nat)} {k : RunSt}
    (hexec : exec i s = s.desc op q n m) (hrun : Running s.dev q n op x r)
    (hend : m r.bytes (descCtx q x r) (begins s) = openRun st (descCtx q x r) k) : EndsOpen i s q n x r k st :=
  ends_of_run hexec hrun (hend.trans (openRun_apply st _ k))

theorem movedByBays_of {len : Nat} {c : Ctx} {k : RunSt} (h : 65536 ≤ len ∨ k.d.noBay = false) : movedByBays len c k = (.ok (), k) := by
  have hmay : (decide (65536 ≤ len) || ! k.d.noBay) = true := by simpa using h
  unfold movedByBays
  rw [M.bind_apply, M.getDev_apply]
  exact ensure_of_true hmay _ c k

end Sys2Proof.Machine
end

section
/-! Moves of bytes, the admin commands and placement: their obligations. -/

namespace Sys2Proof.Proofs

open Sys2Proof Sys2Proof.Machine Sys2Proof.Claims

/-- Settles O34: each run passes its checks and goes through the parts that the hypotheses name. -/
theorem movesAndAdminComplete : Obligations.MovesAndAdminComplete := by
  unfold Obligations.MovesAndAdminComplete Does
  intro s q n x r
  refine ⟨fun k hrun hlo hhi hpat hfits hbay hwrite => ?_, fun bs ps k1 ds k2 k3 hrun hlo hhi hapart hsrc hdst hbay hread hxlate hwrite => ?_,
    fun fa k1 k2 hrun hlo hhi hline hscope hxlate hown hwrite => ?_, fun fa k1 k2 hrun hlo hhi hline hscope hxlate hother hissue hnote => ?_,
    fun k hrun hwrite => ?_, fun d hrun hlo hhi hcreate => ?_,
    fun f k hrun hfns hfind => ⟨fun hact => ?_, fun hact => ?_⟩⟩
  · refine endsOpen_of_run (m := fillM) rfl hrun ?_
    have hpat' : [1, 2, 4, 8].contains (lf r.bytes 32 1) = true := by simpa using hpat
    simp only [fillM, M.bind_apply, ensure_of (And.intro hlo hhi), ensure_of_true hpat', ensure_of_true hfits, movedByBays_of (k := begins s) hbay, hwrite]
    rfl
  · refine endsOpen_of_run (m := copyM) rfl hrun ?_
    have hfits : (dvaFits (lf r.bytes 8 8) (lf r.bytes 24 8) && dvaFits (lf r.bytes 16 8) (lf r.bytes 24 8)) = true := by simp [hsrc, hdst]
    simp only [copyM, M.bind_apply, ensure_of (And.intro hlo hhi), ensure_of hapart, ensure_of_true hfits, movedByBays_of (k := begins s) hbay, hread, hxlate,
      hwrite]
    rfl
  · refine ends_of_run (m := writeAckM) rfl hrun ?_
    have hlocal : (k1.d.isOwn fa || lf r.bytes 17 1 % 8 != 4) = true := by simpa using hown
    simp only [writeAckM, M.bind_apply, M.getDev_apply, ensure_of (And.intro hlo (And.intro hhi hline)), scopeM_of_le hscope, hxlate, hlocal,
      hwrite, okRun_apply, if_true]
  · refine ends_of_run (m := writeAckM) rfl hrun ?_
    have hremote : (k1.d.isOwn fa || lf r.bytes 17 1 % 8 != 4) = false := by simp [hother, hscope]
    simp only [writeAckM, M.bind_apply, M.getDev_apply, M.read_apply, M.modDev_apply, ensure_of (And.intro hlo (And.intro hhi hline)),
      scopeM_of_le (Nat.le_of_eq hscope), hxlate, hremote, hissue, hnote, okRun_apply, Bool.false_eq_true, if_false]
  · refine ends_of_run (m := fun l => do
      let d ← getDev
      let fi ← runFn
      wrV (lf l 8 8) (infoBytes d fi)
      okRun) rfl hrun ?_
    have hwrite' : (wrV (lf r.bytes 8 8) (infoBytes (begins s).d x.fn) : M Unit) (descCtx q x r) (begins s) = (.ok (), k) := hwrite
    simp only [M.bind_apply, M.getDev_apply, runFn_of_queue (k := begins s) hrun.run_eq hrun.queue_eq, hwrite', okRun_apply]
  · refine ends_of_run (m := queueCreateM) rfl hrun ?_
    have hcreate' : (begins s).d.createQueue x.fn (lf r.bytes 8 2) = (some 0, d) := hcreate
    simp only [queueCreateM, M.bind_apply, M.getDev_apply, M.modDev_apply, localQueue_of_queue (k := begins s) hrun.run_eq hrun.queue_eq hlo hhi,
      runFn_of_queue (k := begins s) hrun.run_eq hrun.queue_eq, hcreate', M.pure_apply, ensure_of_true (rfl : (0 == stOk) = true)]
    rfl
  · refine ends_of_run (m := faultResumeM 0) rfl hrun ?_
    simp only [faultResumeM, M.bind_apply, M.getDev_apply, M.modDev_apply, hact, ensure_of (Nat.zero_le 1), hfns, hfind, okRun_apply, ne_eq,
      not_true_eq_false, Bool.false_eq_true, if_false, if_true]
  · refine ends_of_run (m := faultResumeM 1) rfl hrun ?_
    simp only [faultResumeM, M.bind_apply, M.getDev_apply, M.modDev_apply, hact, ensure_of (Nat.le_refl 1), hfns, hfind, okRun_apply, ne_eq,
      not_true_eq_false, Bool.false_eq_true, if_false, Nat.one_ne_zero]

/-- Settles O35: with its operand block read and its frames found, each mode changes the block as the model's run of it does. -/
theorem placementsComplete : Obligations.PlacementsComplete := by
  unfold Obligations.PlacementsComplete Does
  refine fun s q n x r p k hrun hop => ⟨fun hact hprec hok hold hcomp hpin => ?_, fun fs k' hframes =>
    ⟨fun m d hact hon hrooted hready hpin hbind => ?_, fun hact => ?_, fun hact => ?_⟩⟩
  · refine ends_of_run (m := placeM 0 writeRecordM) rfl hrun ?_
    have hfirst : (p.prec != 0 && k.d.precOk p.record) = true := by simp [hprec, hok]
    have hold' : (! pValid (k.d.precRaw p.prec) || pComp (k.d.precRaw p.prec) == (descCtx q x r).comp) = true := by
      cases hv : pValid (k.d.precRaw p.prec) with
      | true => exact (Bool.false_or _).trans (beq_iff_eq.mpr (hold hv))
      | false => rfl
    have hcomp' : (pComp p.record == (descCtx q x r).comp) = true := beq_iff_eq.mpr hcomp
    simp only [placeM, writeRecordM, M.bind_apply, M.getDev_apply, M.read_apply, M.modDev_apply, hop, hact, ensure_of (Nat.zero_le 3), hfirst,
      ensure_of_true, hold', hcomp', ne_eq, not_true_eq_false, if_false]
    have hfits : (pPin p.record && decide (((k.d.tmap.filter (fun e => e.2.prec == p.prec)).filter (fun e => ! e.2.pin)).length > 0) &&
        k.d.overQuota (descCtx q x r).comp ((k.d.tmap.filter (fun e => e.2.prec == p.prec)).filter (fun e => ! e.2.pin)).length) = false := by
      rcases hpin with h | h | h
      · rw [h]; rfl
      · rw [h]; simp
      · rw [show k.d.overQuota (descCtx q x r).comp _ = false from h, Bool.and_false]
    rw [hfits]
    rfl
  · refine ends_of_run (m := placeM 1 bindM) rfl hrun ?_
    have hfirst : (k'.d.mapOn && fs.all k'.d.rooted) = true := by rw [hon, hrooted]; rfl
    have hbusy : fs.any (fun f => k'.d.rootBusy.contains (f / 65536) || k'.d.lostLeaves.contains (smGet (f / 65536) 65536 k'.d.roots)) = false := by
      rw [List.any_eq_false]
      intro f hf
      obtain ⟨h1, h2⟩ := hready f hf
      simp [h1, h2]
    simp only [placeM, bindM, M.bind_apply, M.getDev_apply, M.read_apply, M.modDev_apply, hop, hact, ensure_of (show 1 ≤ 3 by decide), hframes,
      hfirst, ensure_of_true, hbusy, hbind, ne_eq, not_true_eq_false, Bool.false_eq_true, if_false]
    rw [if_neg]
    · rfl
    · intro hover
      obtain ⟨⟨hpins, hmore⟩, hquota⟩ : (_ ∧ _) ∧ _ := by simpa only [Bool.and_eq_true] using hover
      rcases hpin with h | h | h
      · exact Bool.false_ne_true (h.symm.trans hpins)
      · exact Nat.ne_of_gt (of_decide_eq_true hmore) h
      · exact Bool.false_ne_true (h.symm.trans hquota)
  · refine ends_of_run (m := placeM 2 demoteM) rfl hrun ?_
    simp only [placeM, demoteM, M.bind_apply, M.modDev_apply, hop, hact, ensure_of (show 2 ≤ 3 by decide), hframes, M.pure_apply, ne_eq,
      not_true_eq_false, if_false]
    rfl
  · refine ends_of_run (m := placeM 3 promoteM) rfl hrun ?_
    simp only [placeM, promoteM, M.bind_apply, M.modDev_apply, hop, hact, ensure_of (show 3 ≤ 3 by decide), hframes, M.pure_apply, ne_eq,
      not_true_eq_false, if_false]
    rfl

end Sys2Proof.Proofs
end

section
/-! KV blocks (R188, R191): their obligation. -/

namespace Sys2Proof.Machine

open Sys2Proof Sys2Proof.Claims

/-- A stage of work is the stage of each of its parts. -/
theorem M.atStage_bind {α β : Type} (n : Nat) (m : M α) (f : α → M β) (c : Ctx) (k : RunSt) :
    atStage n (m >>= f) c k = (atStage n m >>= fun a => atStage n (f a)) c k := rfl

/-- The checks of a KV_APPEND before its block (R188). -/
structure KvFieldsOk (l : Line) : Prop where
  mode : lf l 46 1 = 0
  dim : okDim (lf l 40 2) = true
  first : lf l 42 1 ≤ 63
  some : 1 ≤ lf l 43 1
  last : lf l 42 1 + lf l 43 1 ≤ 64
  flag : lf l 47 1 ≤ 1
  pad : lf l 48 16 = 0
  kvFormat : okKvFmt (lf l 45 1) = true
  rowFormat : lf l 44 1 ∈ [0x00, 0x01, 0x02] ∨ lf l 44 1 = lf l 45 1
  fits : dimFits (lf l 40 2) (lf l 45 1) = true

/-- The rows of a KV_APPEND that passes its checks are converted and written; a block that they fill is sealed. -/
theorem kvAppendM_writes {l : Line} {c : Ctx} {k k1 k2 k3 k4 : RunSt} {fa : Nat} {e : TEntry} {src : List Byte} {rows : List (List Byte)}
    (hfields : KvFieldsOk l) (hxlate : xlate (lf l 16 8) 2 c k = (.ok fa, k1))
    (hblock : blockOk fa (kvBlockBytes (lf l 45 1) (lf l 40 2)) = true) (hown : k1.d.isOwn fa = true)
    (hentry : k1.d.entry (faOff fa / 65536) = some e) (hlossy : pLossy (k1.d.precOf e) = false) (hbay : k1.d.noBay = false)
    (hreg : lf l 42 1 + lf l 43 1 = 64 → lf l 47 1 = 1 → k1.d.regOn = true)
    (hsrc : atStage 0 (rdV (lf l 8 8) (2 * lf l 43 1 * (vecBytes (lf l 44 1) (lf l 40 2)).getD 0)) c k1 = (.ok src, k2))
    (hrows : convertRows (lf l 44 1) (lf l 45 1) (lf l 40 2) ((List.range (2 * lf l 43 1)).map (fun i =>
      slice src (i * (vecBytes (lf l 44 1) (lf l 40 2)).getD 0) ((vecBytes (lf l 44 1) (lf l 40 2)).getD 0))) = some rows)
    (hk : atStage 2 (wr (fa + lf l 42 1 * kvRowBytes (lf l 45 1) (lf l 40 2)) (rows.take (lf l 43 1)).flatten) c k2 = (.ok (), k3))
    (hv : atStage 2 (wr (fa + (64 + lf l 42 1) * kvRowBytes (lf l 45 1) (lf l 40 2)) (rows.drop (lf l 43 1)).flatten) c k3 = (.ok (), k4)) :
    kvAppendM l c k = (if ! decide (lf l 42 1 + lf l 43 1 = 64) then okRun
      else do
        let (a, b) ← sealBlock l fa (kvBlockBytes (lf l 45 1) (lf l 40 2))
        return (stOk, a, b)) c k4 := by
  obtain ⟨hmode, hdim, hfirst, hsome, hlast, hflag, hpad, hkv, hsf, hfits⟩ := hfields
  have hshape : (okDim (lf l 40 2) && decide (lf l 42 1 ≤ 63 ∧ 1 ≤ lf l 43 1 ∧ lf l 42 1 + lf l 43 1 ≤ 64 ∧ lf l 47 1 ≤ 1)
      && lf l 48 16 == 0) = true := by
    rw [hdim, decide_eq_true (And.intro hfirst (And.intro hsome (And.intro hlast hflag))), hpad]
    rfl
  have hformats : (okKvFmt (lf l 45 1) && ([0x00, 0x01, 0x02].contains (lf l 44 1) || lf l 44 1 == lf l 45 1)) = true := by
    rw [hkv, Bool.true_and, Bool.or_eq_true, beq_iff_eq, List.contains_iff_mem]
    exact hsf
  have hhere : (blockOk fa (kvBlockBytes (lf l 45 1) (lf l 40 2)) && k1.d.isOwn fa) = true := by rw [hown, hblock]; rfl
  have hlossy' : (! pLossy (k1.d.precOf e)) = true := by rw [hlossy]; rfl
  have hreg' : (! (decide (lf l 42 1 + lf l 43 1 = 64) && bit (lf l 47 1) 0 && ! k1.d.regOn)) = true := by
    by_cases hfull : lf l 42 1 + lf l 43 1 = 64
    · rcases Nat.le_one_iff_eq_zero_or_eq_one.mp hflag with h | h
      · rw [h, show bit 0 0 = false from rfl, Bool.and_false]; rfl
      · rw [hreg hfull h, Bool.not_true, Bool.and_false]; rfl
    · rw [decide_eq_false hfull]; rfl
  simp only [kvAppendM, M.bind_apply, M.getDev_apply, hmode, ensure_of (Nat.zero_le 1), hshape, hformats, ensure_of_true, hfits,
    hxlate, hhere, hentry, hlossy', hreg', hbay, hsrc, hrows, M.atStage_bind, hk, hv, ne_eq, not_true_eq_false, Bool.false_eq_true, if_false]

theorem sealResult_left (n : Nat) : sealResult 0 n = 2 ^ 32 * n := Nat.zero_add _

/-- A KV_RELEASE whose entry matches writes the entry with one reference less, or empties it (R191). -/
theorem kvReleaseM_matches {l : Line} {c : Ctx} {k k1 k2 k3 : RunSt} {fa i v : Nat} {d : Dev} {fp : List Byte} {es : List RegEntry}
    (hmode : lf l 46 1 = 1) (hreg : k.d.regOn = true) (hfp : (rdV (lf l 8 8) 16 : M (List Byte)) c k = (.ok fp, k1))
    (hfa : xlate (lf l 16 8) 1 c k1 = (.ok fa, k2)) (hes : bucketOf fp c k2 = (.ok es, k3)) (hmatch : matching es fp c.comp = some i)
    (hfree : k3.d.takeFree = (v, d)) (hblock : (nth es i ⟨[], 0, 0, 0, false⟩).block = fa) :
    kvReleaseM l c k = (if (nth es i ⟨[], 0, 0, 0, false⟩).refs ≤ 1 then do
        wrEntry fp i (List.replicate 32 0)
        return (stOk, v % 2 ^ 64, sealResult 8 0)
      else do
        wrEntry fp i (regEntryBytes { nth es i ⟨[], 0, 0, 0, false⟩ with refs := (nth es i ⟨[], 0, 0, 0, false⟩).refs - 1 })
        return (stOk, v % 2 ^ 64, sealResult 0 ((nth es i ⟨[], 0, 0, 0, false⟩).refs - 1))) c { k3 with d := d } := by
  have hblock' : ((nth es i ⟨[], 0, 0, 0, false⟩).block == fa) = true := beq_iff_eq.mpr hblock
  have hmode' : ¬ lf l 46 1 ≠ 1 := not_not_intro hmode
  unfold kvReleaseM
  rw [M.bind_of_ok (ensure_of (by omega) _ _ _), if_neg hmode']
  dsimp only
  rw [M.bind_of_ok (M.read_apply _ _), M.bind_of_ok (M.getDev_apply _ _),
    M.bind_of_ok (ensure_of_true hreg _ _ _), M.bind_of_ok hfp, M.bind_of_ok hfa, M.bind_of_ok hes, hmatch]
  dsimp only
  rw [M.bind_of_ok (ensure_of_true hblock' _ _ _), M.bind_of_ok (M.getDev_apply _ _), hfree]
  dsimp only
  rw [M.bind_of_ok (M.modDev_apply _ _ _)]

end Sys2Proof.Machine

namespace Sys2Proof.Proofs

open Sys2Proof Sys2Proof.Machine Sys2Proof.Claims

/-- Settles O36: each run passes its checks and goes through the parts that the hypotheses name. -/
theorem kvBlocksComplete : Obligations.KvBlocksComplete := by
  unfold Obligations.KvBlocksComplete Does
  refine fun s q n x r hrun => ⟨?_, ?_⟩
  · refine fun fa k1 e src k2 rows k3 k4 hmode hdim hpos ht hend hfl hpad hkv hsf hfits hxlate hblock hown hentry hlossy hbay hreg hsrc hrows
      hk hv => ?_
    have hwrites := kvAppendM_writes ⟨hmode, hdim, hpos, ht, hend, hfl, hpad, hkv, hsf, hfits⟩ hxlate hblock hown hentry hlossy hbay hreg hsrc
      hrows hk hv
    refine ⟨fun hpart => ?_, fun hfull a b k5 hseal => ?_⟩
    · have hopen : (! decide (lf r.bytes 42 1 + lf r.bytes 43 1 = 64)) = true := by rw [decide_eq_false (Nat.ne_of_lt hpart)]; rfl
      rw [hopen] at hwrites
      exact ends_of_run (m := kvAppendM) rfl hrun hwrites
    · have hseals : (! decide (lf r.bytes 42 1 + lf r.bytes 43 1 = 64)) = false := by rw [decide_eq_true hfull]; rfl
      rw [hseals, if_neg Bool.false_ne_true, M.bind_of_ok hseal] at hwrites
      exact ends_of_run (m := kvAppendM) rfl hrun hwrites
  · refine fun fp k1 fa k2 es k3 i hmode hreg hfp hfa hes hmatch hblock => ⟨fun k4 hlast hwrite => ?_, fun k4 hmore hwrite => ?_⟩
    · refine ends_of_run (m := kvReleaseM) rfl hrun ?_
      exact (kvReleaseM_matches hmode hreg hfp hfa hes hmatch rfl hblock).trans ((congrFun (congrFun (if_pos hlast) _) _).trans (M.bind_of_ok hwrite))
    · refine ends_of_run (m := kvReleaseM) rfl hrun ?_
      rw [← sealResult_left]
      exact (kvReleaseM_matches hmode hreg hfp hfa hes hmatch rfl hblock).trans
        ((congrFun (congrFun (if_neg (Nat.not_le.mpr hmore)) _) _).trans (M.bind_of_ok hwrite))

end Sys2Proof.Proofs
end

section
/-! SUPPORT. Runs that end with the lowest of several statuses (R135, R137): what they note touches no byte of memory. -/

namespace Sys2Proof.Machine

open Sys2Proof Sys2Proof.Claims

/-- What a run may note behind its last access: no held write, access, or byte of memory changes. -/
structure OnlyNoted (k k' : RunSt) : Prop where
  log : k'.log = k.log
  acc : k'.acc = k.acc
  mem : k'.d.mem = k.d.mem
  pois : k'.d.pois = k.d.pois

theorem OnlyNoted.refl (k : RunSt) : OnlyNoted k k := ⟨rfl, rfl, rfl, rfl⟩

theorem OnlyNoted.trans {k k' k'' : RunSt} (h : OnlyNoted k k') (h' : OnlyNoted k' k'') : OnlyNoted k k'' :=
  ⟨h'.log.trans h.log, h'.acc.trans h.acc, h'.mem.trans h.mem, h'.pois.trans h.pois⟩

theorem OnlyNoted.modStarted (k : RunSt) (q n : Nat) (g : Started → Started) : OnlyNoted k { k with d := k.d.modStarted q n g } :=
  ⟨rfl, rfl, rfl, rfl⟩

theorem noteAll_onlyNotes (sts : List Nat) (c : Ctx) (k : RunSt) : ∃ k', noteAll sts c k = (.ok (), k') ∧ OnlyNoted k k' := by
  unfold noteAll
  rw [M.bind_of_ok (M.read_apply c k), M.modDev_apply]
  refine ⟨_, rfl, ?_⟩
  split
  · refine foldl_keeps (fun (t : Dev) => OnlyNoted k { k with d := t }) _ ?_ sts k.d (.refl k)
    intro t st ht
    exact ht.trans (.modStarted { k with d := t } _ _ _)
  · exact .refl k

theorem mixedEnds_onlyNotes (good : Bool) (sts : List Nat) (c : Ctx) (k : RunSt) : ∃ sts' k', mixedEnds good sts c k = (.ok sts', k') ∧
    sts'.foldl worse 0 = sts.foldl worse 0 ∧ OnlyNoted k k' := by
  unfold mixedEnds
  by_cases hnone : (! good || sts.all (· == 0)) = true
  · rw [if_pos hnone]
    exact ⟨sts, k, rfl, rfl, .refl k⟩
  · rw [if_neg hnone]
    have hfree : freeM c k = (.ok k.d.takeFree.1, { k with d := k.d.takeFree.2 }) := rfl
    rw [M.bind_of_ok hfree]
    refine ⟨_, _, rfl, ?_, rfl, rfl, rfl, rfl⟩
    split <;> rfl

/-- A run that ends with the lowest status of its parts ends its descriptor with it. -/
theorem endsKept_of_endRun {i : Instr} {s : State} {q n op a b : Nat} {sts : List Nat} {x : Queue} {r : Started}
    {m : Line → M (Nat × Nat × Nat)} {k k1 : RunSt} (hexec : exec i s = s.desc op q n m) (hrun : Running s.dev q n op x r) (hkept : OnlyNoted k k1)
    (hend : m r.bytes (descCtx q x r) (begins s) = endRun sts a b (descCtx q x r) k1) :
    EndsKept i s q n x r k (sts.foldl worse 0) (a % 2 ^ 64) (b % 2 ^ 64) := by
  obtain ⟨k', hnote, hnoted⟩ := noteAll_onlyNotes sts (descCtx q x r) k1
  obtain ⟨hlog, hacc, hmem, hpois⟩ := hkept.trans hnoted
  refine ⟨k', hlog, hacc, hmem, hpois, ends_of_run hexec hrun (hend.trans ?_)⟩
  unfold endRun
  rw [M.bind_of_ok hnote]
  rfl

theorem endsKept_of_mixed {i : Instr} {s : State} {q n op a b : Nat} {good : Bool} {sts : List Nat} {x : Queue} {r : Started}
    {m : Line → M (Nat × Nat × Nat)} {k : RunSt} (hexec : exec i s = s.desc op q n m) (hrun : Running s.dev q n op x r)
    (hend : m r.bytes (descCtx q x r) (begins s) = (mixedEnds good sts >>= fun sts => endRun sts a b) (descCtx q x r) k) :
    EndsKept i s q n x r k (sts.foldl worse 0) (a % 2 ^ 64) (b % 2 ^ 64) := by
  obtain ⟨sts', k', hmixed, hworse, hnoted⟩ := mixedEnds_onlyNotes good sts (descCtx q x r) k
  rw [M.bind_of_ok hmixed] at hend
  rw [← hworse]
  exact endsKept_of_endRun hexec hrun hnoted hend

/-- A part of a run that is one of two goes on as the one that it is. -/
theorem M.ite_bind {α β : Type} (p : Prop) [Decidable p] (m m' : M α) (f : α → M β) :
    (if p then m >>= f else m' >>= f) = (if p then m else m') >>= f := by
  split <;> rfl

theorem M.bind_assoc {α β γ : Type} (m : M α) (f : α → M β) (g : β → M γ) (c : Ctx) (k : RunSt) :
    ((m >>= f) >>= g) c k = (m >>= fun a => f a >>= g) c k := by
  rw [M.bind_apply, M.bind_apply, M.bind_apply]
  rcases m c k with ⟨_ | a, k'⟩
  · rfl
  · exact (M.bind_apply (f a) g c k').symm

/-- The step and the notes that a descriptor's run goes on with. -/
theorem stepOf_of_running {d : Dev} {q n op : Nat} {x : Queue} {r : Started} (hrun : Running d q n op x r) {k : RunSt} (hk : k.d = d) :
    stepOf (descCtx q x r) k = (.ok (r.step, r.note), k) := by
  subst hk
  unfold stepOf
  rw [M.bind_of_ok (M.read_apply _ _), M.bind_of_ok (M.getDev_apply _ _), hrun.did_eq, hrun.startedOf_eq]
  rfl

end Sys2Proof.Machine
end

section
/-! Embedding tables (R209 to R228): their obligation. -/

namespace Sys2Proof.Proofs

open Sys2Proof Sys2Proof.Machine Sys2Proof.Claims

/-- Settles O37: each run passes its checks and goes through the parts that the hypotheses name. -/
theorem tablesComplete : Obligations.TablesComplete := by
  unfold Obligations.TablesComplete Does
  refine fun s q n x r => ⟨?_, ?_, ?_, ?_⟩
  · refine fun ob k1 t k2 obs k3 ib k4 os k5 wp k6 places k7 k8 a y k9 k10 hrun hon hidx hbags hbags' hmode halign hob hbind hbay hobs hoffs hib
      hos hwp hplaces hask hpool hbatch => ?_
    have hfields : (s.dev.embOn && decide (lf r.bytes 32 4 ≥ 1 ∧ 1 ≤ lf r.bytes 36 4 ∧ lf r.bytes 36 4 ≤ 16777216 ∧ lf r.bytes 40 1 ≤ 2 ∧
        lf r.bytes 8 8 % 32 = 0)) = true := by
      rw [hon, decide_eq_true (And.intro hidx (And.intro hbags (And.intro hbags' (And.intro hmode halign))))]
      rfl
    refine endsKept_of_mixed (good := decide (y.unwritten + y.stop.toList.length < lf r.bytes 36 4)) (m := gatherPoolM) rfl hrun ?_
    unfold gatherPoolM
    dsimp only
    rw [M.bind_of_ok (M.getDev_apply _ _), show (begins s).d = s.dev from rfl, M.bind_of_ok (ensure_of_true hfields _ _ _), M.bind_of_ok hob, M.bind_of_ok hbind,
      if_neg (Bool.eq_false_iff.mp hbay)]
    rw [M.bind_of_ok hobs, M.bind_of_ok (ensure_of_true hoffs _ _ _), M.bind_of_ok hib]
    rw [M.bind_of_ok hos, M.ite_bind, M.bind_of_ok hwp]
    rw [M.bind_of_ok hplaces, M.bind_of_ok hask, M.bind_of_ok (M.getDev_apply _ _), M.bind_of_ok hpool]
    rw [M.bind_of_ok hbatch]
    rfl
  · refine fun t k1 ib k2 os k3 ub k4 places k5 k6 a y k7 k8 hrun hbind hbay hib hos hub hplaces hask hadd hbatch => ?_
    refine endsKept_of_mixed (good := ! y.rows.isEmpty) (m := scatterAddM) rfl hrun ?_
    unfold scatterAddM
    dsimp only
    rw [M.bind_of_ok (M.getDev_apply _ _), show (begins s).d = s.dev from rfl, M.bind_of_ok hbind, if_neg (Bool.eq_false_iff.mp hbay)]
    rw [M.bind_of_ok hib]
    rw [M.bind_of_ok hos, M.bind_of_ok hub]
    rw [M.bind_of_ok hplaces, M.bind_of_ok hask, M.bind_of_ok (M.getDev_apply _ _), show stPoison = 2 from rfl, M.bind_of_ok hadd]
    dsimp only
    rw [← M.bind_assoc, M.bind_of_ok hbatch]
  · refine fun bs k1 old k2 k3 hrun hstep hon hhandle hmode hturn hbs hok hold hcomp hcompOld hversion hwrite hbound => ?_
    refine ends_of_run (m := tableSwitchM) rfl hrun ?_
    have hfields : (s.dev.embOn && decide (lf r.bytes 16 4 < s.dev.handles ∧ lf r.bytes 24 1 ≤ 1)) = true := by
      rw [hon, hmode, decide_eq_true (And.intro hhandle (Nat.zero_le 1))]
      rfl
    unfold tableSwitchM
    dsimp only
    rw [M.bind_of_ok (M.read_apply _ _), M.bind_of_ok (M.getDev_apply _ _), M.bind_of_ok (stepOf_of_running hrun rfl),
      show (begins s).d = s.dev from rfl]
    dsimp only
    rw [M.bind_of_ok (ensure_of_true hfields _ _ _), if_neg (not_not_intro hmode), hstep, if_neg (Nat.lt_irrefl 0), hturn]
    have hcomp' : ((tableRec bs).comp == (descCtx q x r).comp && (! old.valid || old.comp == (descCtx q x r).comp)) = true := by
      rw [Bool.and_eq_true]
      refine ⟨beq_iff_eq.mpr hcomp, ?_⟩
      cases hv : old.valid with
      | false => rfl
      | true => exact (Bool.false_or _).trans (beq_iff_eq.mpr (hcompOld hv))
    have hversion' : (bit (lf r.bytes 25 1) 1 || lf r.bytes 20 4 == old.current) = true := by
      rw [Bool.or_eq_true, beq_iff_eq]
      exact hversion
    have hchecks : switchChecks r.bytes old ((tableRec bs).comp == (descCtx q x r).comp && (! old.valid || old.comp == (descCtx q x r).comp))
        (descCtx q x r) k2 = (.ok (), k2) := by
      unfold switchChecks
      rw [M.bind_of_ok (ensure_of_true hcomp' _ _ _)]
      exact ensure_of_true hversion' _ _ _
    have hfree : (bit (lf r.bytes 25 1) 0 && s.dev.boundOld (lf r.bytes 16 4) (nextVersion old.current)) = false := by
      rcases hbound with h | h <;> rw [h]
      · rfl
      · exact Bool.and_false _
    rw [if_neg (by decide), M.bind_of_ok hbs, M.bind_of_ok (ensure_of_true hok _ _ _), M.bind_of_ok hold, M.bind_of_ok hchecks,
      M.bind_of_ok hwrite, M.bind_of_ok (M.modDev_apply _ _ _), hfree]
    rfl
  · refine fun t k1 hrun hon hhandle hmode hturn hstep hrec hmoves hkept => ?_
    have hfields : (s.dev.embOn && decide (lf r.bytes 16 4 < s.dev.handles ∧ lf r.bytes 24 1 ≤ 1)) = true := by
      rw [hon, hmode, decide_eq_true (And.intro hhandle (Nat.le_refl 1))]
      rfl
    have hdone : (movePairs r.note).drop (r.step - 1) = [] := by rw [hstep]; simp
    have hnone : k1.d.rowMoves.any (fun m => m.desc == (descCtx q x r).did) = false := by
      rw [List.any_eq_false, hkept]
      intro m hm
      simpa using hmoves m hm
    obtain ⟨hlog, hacc, hmem, hpois⟩ := OnlyNoted.modStarted k1 (descCtx q x r).did.queue (descCtx q x r).did.seq
      (fun y => { y with step := r.step + 0, note := r.note })
    refine ⟨_, hlog, hacc, hmem, hpois, ends_of_run (m := tableMoveM) rfl hrun ?_⟩
    unfold tableMoveM
    dsimp only
    rw [M.bind_of_ok (M.read_apply _ _), M.bind_of_ok (M.getDev_apply _ _), M.bind_of_ok (stepOf_of_running hrun rfl),
      show (begins s).d = s.dev from rfl]
    dsimp only
    rw [M.bind_of_ok (ensure_of_true hfields _ _ _), if_neg (not_not_intro hmode), hturn, if_neg (by decide), M.bind_of_ok hrec, if_neg (by omega),
      hdone]
    have hfreeze : freezeRows (lf r.bytes 16 4) t [] (descCtx q x r) k1 = (.ok 0, k1) := rfl
    have hset : setStep (r.step + 0) r.note = (read >>= fun c => modDev fun d => d.modStarted c.did.queue c.did.seq
        (fun y => { y with step := r.step + 0, note := r.note })) := rfl
    rw [M.bind_of_ok hfreeze, hset, M.bind_assoc, M.bind_of_ok (M.read_apply _ _), M.bind_of_ok (M.modDev_apply _ _ _), M.bind_of_ok (M.getDev_apply _ _), if_pos]
    · rfl
    · rw [Bool.and_eq_true]
      refine ⟨decide_eq_true (by omega), ?_⟩
      rw [Bool.not_eq_true']
      exact hnone

end Sys2Proof.Proofs
end

section
/-! SUPPORT. Parts of runs. -/

namespace Sys2Proof.Machine

open Sys2Proof

/-- What a run that ends well does, it does as a whole. -/
theorem allOrNone_of_ok {α : Type} {m : M α} {c : Ctx} {k k' : RunSt} {a : α} (h : m c k = (.ok a, k')) : allOrNone m c k = (.ok a, k') := by
  have hget : (get : M RunSt) c k = (.ok k, k) := rfl
  unfold allOrNone
  rw [M.bind_of_ok hget]
  simp only [tryCatch, tryCatchThe, MonadExceptOf.tryCatch, ReaderT.run, ExceptT.tryCatch, ExceptT.mk, StateT.bind, bind, h]
  rfl

theorem allOrNone_atStage_of_ok {α : Type} {m : M α} {c : Ctx} {k k' : RunSt} {a : α} {i : Nat} (h : atStage i m c k = (.ok a, k')) :
    atStage i (allOrNone m) c k = (.ok a, k') :=
  allOrNone_of_ok (m := m) h

end Sys2Proof.Machine
end

section
/-! Optimizer steps, streams, attention and vector search (R176 to R248): their obligations. -/

namespace Sys2Proof.Proofs

open Sys2Proof Sys2Proof.Machine Sys2Proof.Claims

/-- Settles O38: each run passes its checks and goes through the parts that the hypotheses name. -/
theorem updatesAndStreamsComplete : Obligations.UpdatesAndStreamsComplete := by
  unfold Obligations.UpdatesAndStreamsComplete Does
  refine fun s q n x r => ⟨?_, ?_⟩
  · refine fun hb k1 ob k2 gb k3 ib k4 t k5 hrun hrows halgo hhyp hstt hhb hob hok hin hnamed hmx hgfmt hifmt hfmts hbay hgb hib hall => ?_
    have hfields : decide (lf r.bytes 40 4 ≥ 1 ∧ lf r.bytes 44 1 ≤ 2 ∧ lf r.bytes 16 8 % 64 = 0 ∧ lf r.bytes 24 8 % 64 = 0) = true :=
      decide_eq_true ⟨hrows, halgo, hhyp, hstt⟩
    have hops : (hypOk (lf r.bytes 44 1) (optHyp hb) && (optState ob).inRange (lf r.bytes 44 1) &&
        (lf r.bytes 32 8 != 0 || decide (lf r.bytes 40 4 ≤ (optState ob).rows)) &&
        ! (isMx (lf r.bytes 45 1) && (optState ob).rowLen % 32 != 0)) = true := by
      rw [hok, hin]
      simp only [Bool.and_eq_true, Bool.or_eq_true, bne_iff_ne, decide_eq_true_eq, Bool.not_eq_true', Bool.and_eq_false_iff, bne_eq_false_iff_eq]
      exact ⟨⟨⟨trivial, trivial⟩, hnamed⟩, hmx⟩
    have hformats : (gradFmts.contains (lf r.bytes 45 1) && decide (lf r.bytes 46 1 ≤ 1) && (optState ob).fmtsOk (lf r.bytes 44 1)) = true := by
      rw [List.contains_iff_mem.mpr hgfmt, decide_eq_true hifmt, hfmts]
      rfl
    refine endsKept_of_mixed (good := decide (t.upd > 0)) (m := optStepM) rfl hrun ?_
    unfold optStepM
    dsimp only
    rw [M.bind_of_ok (ensure_of_true hfields _ _ _), M.bind_of_ok hhb, M.bind_of_ok hob, M.bind_of_ok (ensure_of_true hops _ _ _),
      M.bind_of_ok (ensure_of_true hformats _ _ _), M.bind_of_ok (M.getDev_apply _ _), if_neg (Bool.eq_false_iff.mp hbay), M.bind_of_ok hgb]
    rw [M.ite_bind, M.bind_of_ok hib]
    exact M.bind_of_ok hall
  · refine fun bs k1 src rest e0 more sink e1 os k2 vs k3 hrun halign hns hns' helems helems' hvecs hvecs' hbs hss hchecks hbay hsink hlast hos hvs => ?_
    have hfields : decide (lf r.bytes 8 8 % 32 = 0 ∧ 2 ≤ lf r.bytes 16 1 ∧ lf r.bytes 16 1 ≤ 6 ∧ 1 ≤ lf r.bytes 20 4 ∧ lf r.bytes 20 4 ≤ 65536 ∧
        1 ≤ lf r.bytes 24 8 ∧ lf r.bytes 24 8 ≤ 2 ^ 40) = true := decide_eq_true ⟨halign, hns, hns', helems, helems', hvecs, hvecs'⟩
    refine ⟨fun out k4 ends k5 hplain hout hends => ?_, fun u e o out k4 a b st k5 hwork hcode hout hupd => ?_⟩
    · refine endsKept_of_mixed (good := out.1.any (fun v => v.bad == 0)) (m := streamM) rfl hrun ?_
      have hnone : ((((rest.zip more).dropLast.zip os).map (fun x => (x.1.1, x.1.2, x.2))).getLast?.filter (fun x => x.1.code == scOpt)) = none := by
        cases hlast : (((rest.zip more).dropLast.zip os).map (fun x => (x.1.1, x.1.2, x.2))).getLast? with
        | none => rfl
        | some y => exact if_neg (fun h => hplain y hlast (beq_iff_eq.mp h))
      unfold streamM
      dsimp only
      rw [M.bind_of_ok (ensure_of_true hfields _ _ _), M.bind_of_ok hbs, hss, hchecks]
      dsimp only
      rw [M.bind_of_ok (M.getDev_apply _ _), if_neg (Bool.eq_false_iff.mp hbay), hsink, hlast]
      dsimp only
      rw [M.bind_of_ok hos, M.bind_of_ok hvs, hnone]
      dsimp only
      rw [M.bind_of_ok hout, M.bind_of_ok hends]
    · refine ⟨k5, rfl, rfl, rfl, rfl, ends_of_run (m := streamM) rfl hrun ?_⟩
      unfold streamM
      dsimp only
      rw [M.bind_of_ok (ensure_of_true hfields _ _ _), M.bind_of_ok hbs, hss, hchecks]
      dsimp only
      rw [M.bind_of_ok (M.getDev_apply _ _), if_neg (Bool.eq_false_iff.mp hbay), hsink, hlast]
      dsimp only
      rw [M.bind_of_ok hos, M.bind_of_ok hvs, hwork, Option.filter_some_pos (by exact beq_iff_eq.mpr hcode)]
      dsimp only
      rw [M.bind_of_ok hout]
      exact hupd

/-- Settles O39: each run passes its checks and goes through the parts that the hypotheses name. -/
theorem attentionAndSearchComplete : Obligations.AttentionAndSearchComplete := by
  unfold Obligations.AttentionAndSearchComplete Does
  refine fun s q n x r => ⟨?_, ?_, ?_, ?_⟩
  · refine fun ob k1 qb k2 bb k3 lb k4 qs own k5 cs k6 parts k7 heads k8 k9 hrun hblocks hblocks' halign hob hshape hbay hqb hbb hlb hqs hown
      hcs hparts hback hgood hheads hwrite => ?_
    have hfields : decide (1 ≤ lf r.bytes 24 4 ∧ lf r.bytes 24 4 ≤ 1048576 ∧ lf r.bytes 8 8 % 64 = 0) = true :=
      decide_eq_true ⟨hblocks, hblocks', halign⟩
    have hall : parts.2.any (fun k => ! parts.1.any (fun p => p.key == k)) = false := by
      rw [List.any_eq_false]
      intro k hk
      obtain ⟨p, hp, hkey⟩ := hback k hk
      rw [Bool.not_eq_true, Bool.not_eq_false', List.any_eq_true]
      exact ⟨p, hp, beq_iff_eq.mpr hkey⟩
    have hnone : (own.2.1 ++ (chunkParts cs).flatMap partEnds ++ parts.1.flatMap partStatuses).any (· != 0) = false := by
      rw [List.any_eq_false]
      intro st hst
      rw [hgood st hst]
      decide
    refine endsKept_of_endRun (sts := []) (m := attnPartialM) rfl hrun (OnlyNoted.refl k9) ?_
    unfold attnPartialM
    dsimp only
    rw [M.bind_of_ok (ensure_of_true hfields _ _ _), M.bind_of_ok hob, hshape]
    refine (M.bind_of_ok (ensure_of_true rfl _ _ _)).trans ?_
    rw [M.bind_of_ok (M.getDev_apply _ _), if_neg (Bool.eq_false_iff.mp hbay), M.bind_of_ok hqb, M.bind_of_ok hbb, M.ite_bind, M.bind_of_ok hlb, hqs]
    dsimp only
    rw [M.bind_of_ok hown]
    rw [M.bind_of_ok hcs, M.bind_of_ok hparts, hall, if_neg Bool.false_ne_true, hnone, if_neg Bool.false_ne_true, M.bind_of_ok hheads]
    rw [M.bind_of_ok (allOrNone_atStage_of_ok hwrite)]
  · refine fun y order k1 k2 z best k3 k4 hrun hfind horder hends hfind' hsts hlast hbest hwrite => ?_
    have hworst : (if (best.take (searchOps (leBytes 64 z.ops)).k).length < (searchOps (leBytes 64 z.ops)).k then 1 else 0) =
        (if (best.take (searchOps (leBytes 64 z.ops)).k).length < (searchOps (leBytes 64 z.ops)).k then [stShort] else []).foldl worse 0 := by
      split <;> rfl
    rw [hworst]
    refine endsKept_of_endRun (m := roundEndM) rfl hrun (OnlyNoted.refl k4) ?_
    unfold roundEndM
    dsimp only
    have hdid : (descCtx q x r).did = ⟨q, n⟩ := hrun.did_eq
    have hnone : z.sts.any (· != 0) = false := by
      rw [hsts]
      rfl
    have hover : ((searchOps (leBytes 64 z.ops)).widen && decide (z.heap.length < (searchOps (leBytes 64 z.ops)).k) &&
        ! (((z.probe.take (searchOps (leBytes 64 z.ops)).most).drop z.probed).take (searchOps (leBytes 64 z.ops)).nprobe).isEmpty) = false := by
      rcases hlast with h | h | h
      · rw [h, Bool.false_and, Bool.false_and]
      · rw [decide_eq_false (Nat.not_lt.mpr h), Bool.and_false, Bool.false_and]
      · rw [h, List.isEmpty_nil, Bool.not_true, Bool.and_false]
    rw [M.bind_of_ok (M.read_apply _ _), M.bind_of_ok (M.getDev_apply _ _), hdid, show (begins s).d = s.dev from rfl, hfind]
    dsimp only
    rw [M.bind_of_ok horder, M.bind_of_ok hends, M.bind_of_ok (M.getDev_apply _ _), hfind']
    dsimp only
    rw [hnone, if_neg Bool.false_ne_true, hover, if_neg Bool.false_ne_true]
    unfold finishSearch
    dsimp only
    by_cases hrank : (searchOps (leBytes 64 z.ops)).rerank = 0
    · rw [if_pos hrank] at hbest ⊢
      rw [M.bind_of_ok hbest, M.bind_of_ok hwrite]
    · rw [if_neg hrank] at hbest ⊢
      rw [← M.bind_assoc, M.bind_of_ok hbest, M.bind_of_ok hwrite]
  · refine fun rec_ k1 ib k2 lb k3 bs k4 book k5 y k6 hrun hn hn' hrec hfmt hcomp hbay hib hlb hbs hbook hall hstop => ?_
    have hfields : decide (1 ≤ lf r.bytes 32 4 ∧ lf r.bytes 32 4 ≤ 16777216) = true := decide_eq_true ⟨hn, hn'⟩
    have hcomp' : ((indexRec rec_).comp == (descCtx q x r).comp) = true := beq_iff_eq.mpr hcomp
    have hworst : worse (if y.range then 10 else if y.full then 1 else 0) (if y.format then 9 else 0) =
        ((if y.range then [stBounds] else if y.full then [stShort] else []) ++ (if y.format then [stFormat] else []) ++
          y.stop.toList).foldl worse 0 := by
      rw [hstop]
      cases y.range <;> cases y.full <;> cases y.format <;> rfl
    rw [hworst]
    refine endsKept_of_mixed (good := decide (y.made > 0)) (m := vinsertM) rfl hrun ?_
    unfold vinsertM
    dsimp only
    rw [M.bind_of_ok (M.read_apply _ _), M.bind_of_ok (ensure_of_true hfields _ _ _), M.bind_of_ok hrec,
      M.bind_of_ok (ensure_of_true (List.contains_iff_mem.mpr hfmt) _ _ _), M.bind_of_ok (ensure_of_true hcomp' _ _ _),
      M.bind_of_ok (M.getDev_apply _ _), if_neg (Bool.eq_false_iff.mp hbay), M.bind_of_ok hib, M.bind_of_ok hlb, M.bind_of_ok hbs,
      M.bind_of_ok hbook, M.bind_of_ok hall]
  · refine fun rec_ k1 ib k2 y k3 hrun hn hrec hcomp hbay hib hall => ?_
    have hcomp' : ((indexRec rec_).comp == (descCtx q x r).comp) = true := beq_iff_eq.mpr hcomp
    refine endsKept_of_mixed (good := decide (y.1 > 0)) (m := vdeleteM) rfl hrun ?_
    unfold vdeleteM
    dsimp only
    rw [M.bind_of_ok (M.read_apply _ _), M.bind_of_ok (ensure_of_true (decide_eq_true hn) _ _ _), M.bind_of_ok hrec,
      M.bind_of_ok (ensure_of_true hcomp' _ _ _), M.bind_of_ok (M.getDev_apply _ _), if_neg (Bool.eq_false_iff.mp hbay), M.bind_of_ok hib,
      M.bind_of_ok hall]

end Sys2Proof.Proofs
end

section
/-! Rebuilds and transfers of extents (R305 to R307, R315, R316): their obligation. -/

namespace Sys2Proof.Proofs

open Sys2Proof Sys2Proof.Machine Sys2Proof.Claims

/-- A transfer's record in IDLE with the source as owner begins it at its first step, whatever is held. -/
theorem resumeAt_of_idle {x : XferOp} {b : LeaseBody} (hepoch : b.epoch = x.epoch) (hphase : b.phase = phIdle) (howner : b.owner = x.src)
    (held : Bool) : resumeAt x b held = some 1 :=
  if_pos ⟨hepoch, hphase, howner⟩

/-- Settles O40: each run passes its checks and goes through the steps that the hypotheses name. -/
theorem rebuildsAndTransfersComplete : Obligations.RebuildsAndTransfersComplete := by
  unfold Obligations.RebuildsAndTransfersComplete Does
  refine fun s q n x r => ⟨?_, ?_⟩
  · refine fun parity w k1 y k2 hrun hmode hgroup hlost hcount hlast hwhole hfits hfetch hrebuild => ?_
    refine ends_of_run (m := rebuildM parity) (by cases parity <;> rfl) hrun ?_
    have hmodes : decide (b2n parity ≤ 1) = true := by cases parity <;> rfl
    have hmode' : ¬ (b2n parity ≠ if parity then 1 else 0) := by cases parity <;> decide
    have hunits : (parity || decide (1 ≤ lf r.bytes 11 1 ∧ lf r.bytes 11 1 ≤ 2 ∧ lf r.bytes 12 1 < egK w + 2 ∧
        (lf r.bytes 11 1 = 2 → lf r.bytes 13 1 < egK w + 2 ∧ lf r.bytes 13 1 ≠ lf r.bytes 12 1))) = true := by
      rw [Bool.or_eq_true, decide_eq_true_eq]
      exact hlost
    unfold rebuildM
    dsimp only
    rw [hmode, M.bind_of_ok (ensure_of_true hmodes _ _ _), if_neg hmode', M.bind_of_ok (M.getDev_apply _ _), show (begins s).d = s.dev from rfl, hgroup]
    dsimp only
    rw [M.bind_of_ok (ensure_of_true hunits _ _ _), M.bind_of_ok (ensure_of_true (decide_eq_true ⟨hcount, hlast⟩) _ _ _)]
    rw [M.bind_of_ok (ensure_of_true (by
      rw [Bool.not_eq_true', List.any_eq_false]
      exact fun i hi => Bool.eq_false_iff.mp (hwhole i hi)) _ _ _)]
    rw [M.bind_of_ok (ensure_of_true (List.all_eq_true.mpr hfits) _ _ _), M.bind_of_ok hfetch, M.bind_of_ok hrebuild]
    rfl
  · refine fun rec_ k1 k2 k3 hrun hchecks hledger hfree hepoch => ⟨?_, ?_⟩
    · refine fun k4 k5 k6 k7 m k8 k9 k10 k11 hmode hphase howner h1 h2 h3 h4 hcopied h6 h7 hrelease => ?_
      refine ends_of_run (m := xferM 0 moveM) rfl hrun ?_
      unfold xferM
      dsimp only
      rw [hmode, M.bind_of_ok (ensure_of_true (decide_eq_true (by decide)) _ _ _), if_neg (not_not_intro rfl)]
      unfold moveM
      dsimp only
      have hstep : stepOf (descCtx q x r) k2 = (.ok ((stepOf (descCtx q x r) k2).1.toOption.getD (0, [])), k2) := rfl
      rw [M.bind_of_ok hchecks, M.bind_of_ok hledger, M.bind_of_ok (M.getDev_apply _ _), M.bind_of_ok hstep, resumeAt_of_idle hepoch hphase howner]
      dsimp only
      rw [show phPrepare = 1 from rfl, show phCopy = 2 from rfl, show phCommit = 3 from rfl]
      rw [M.bind_of_ok hfree, if_pos (by decide), M.bind_of_ok h1, if_pos (by decide), M.bind_of_ok h2, if_pos (by decide), M.bind_of_ok h3,
        if_neg (by decide), if_pos (by decide), M.bind_of_ok h4, M.bind_of_ok hcopied, if_pos (by decide), M.bind_of_ok h6, if_pos (by decide),
        if_pos (by decide), M.bind_of_ok h7, M.bind_of_ok hrelease]
      rfl
    · refine fun k4 m k5 b k6 hmode hphase hpeer h1 hcopied hdone => ?_
      refine ends_of_run (m := xferM 1 abortM) rfl hrun ?_
      unfold xferM
      dsimp only
      rw [hmode, M.bind_of_ok (ensure_of_true (decide_eq_true (by decide)) _ _ _), if_neg (not_not_intro rfl)]
      unfold abortM
      rw [show phIdle = 0 from rfl]
      rw [M.bind_of_ok hchecks, M.bind_of_ok hledger, M.bind_of_ok (ensure_of_true (decide_eq_true ⟨hepoch, hphase, hpeer⟩) _ _ _),
        M.bind_of_ok hfree, M.bind_of_ok h1, M.bind_of_ok hcopied]
      exact (M.bind_of_ok (M.modDev_apply _ _ _)).trans ((M.bind_of_ok (M.getDev_apply _ _)).trans ((M.bind_of_ok hdone).trans rfl))

end Sys2Proof.Proofs
end

section
/-! SUPPORT. Ports and the messages that arrive on them. -/

namespace Sys2Proof.Machine

open Sys2Proof Sys2Proof.Claims

/-- A port that is not empty reads as it was written. -/
theorem Dev.port_setPort_of_present (d : Dev) (p : Nat) {x : PortSt} (h : x.st ≠ .absent) : (d.setPort p x).port p = x := by
  have hne : x ≠ PortSt.empty := fun he => h (by rw [he]; rfl)
  unfold Dev.port Dev.setPort smGet smPut
  rw [if_neg hne, smGet?_smSet_self]
  rfl

theorem Dev.port_setPortSt_of_present (d : Dev) (p : Nat) {st : PortState} (h : st ≠ .absent) :
    (d.setPortSt p st).port p = { d.port p with st := st } :=
  (d.port_setPort_of_present p (x := { d.port p with st := st }) h)

theorem Dev.charge_ports (d : Dev) (loc ce ue : Nat) : (d.charge loc ce ue).ports = d.ports := by
  unfold Dev.charge
  split <;> rfl

/-- What takes a message that arrives for this node is what its command does with it. -/
theorem arrive_of_comes {d e : Dev} {p : Nat} {m : FabMsg} (h : Comes d p m e) (f : Dev → Dev) : d.arrive p m f = f e := by
  unfold Dev.arrive
  rcases h with ⟨hin, rfl⟩ | ⟨hin, hp, hup, hadmits, hend⟩
  · rw [if_pos (List.contains_iff_mem.mpr hin)]
  · have hport : ¬ (decide (p ≥ 16) || ! d.portUp p) = true := by
      rw [hup, decide_eq_false (Nat.not_le.mpr hp)]
      decide
    rw [if_neg (fun hc => hin (List.contains_iff_mem.mp hc)), if_neg hport, hadmits]
    dsimp only
    rcases hend with ⟨htype, rfl⟩ | ⟨h10, h11, hroute, rfl⟩
    · rw [if_pos (Or.inl htype)]
    · rw [if_neg (not_or.mpr ⟨h11, h10⟩), hroute]

/-- A message of the command's type that comes is taken by the command's effect. -/
theorem gives_message {c : Instr} {s : State} {type p : Nat} {m : FabMsg} {e d : Dev} {f : Dev → Dev} (hexec : exec c s = s.message type p m f)
    (htype : m.type = type) (hcomes : Comes s.dev p m e) (hd : f e = d) : Gives c s d :=
  gives_onDev hexec (by rw [if_pos htype, arrive_of_comes hcomes, hd])

/-- A flit that a port sends, with its number, what it acknowledges and the credits that are owed. -/
def nextFlit (x : PortSt) (space : List Byte) : Flit :=
  ⟨x.txSeq, x.rxGood, false, (owedNext x.owed).1, (owedNext x.owed).2.1, space⟩

/-- A message whose bytes fill 48 of a flit's 248 goes in one flit. -/
theorem msgSpace_of_length {m : FabMsg} (h : (msgBytes m).length = 48) : msgSpace m = [msgBytes m ++ padBytes 200] := by
  have hpad : (padBytes 200).length = 200 := by decide +kernel
  have hlen : (msgBytes m ++ padBytes 200).length = 248 := by rw [List.length_append, h, hpad]
  unfold msgSpace chunks
  dsimp only
  rw [h]
  rw [show (248 - 48 % 248) % 248 = 200 from rfl, if_neg (by decide), if_neg (by decide), hlen]
  obtain ⟨b, bs, hbs⟩ := List.exists_cons_of_length_pos (l := msgBytes m ++ padBytes 200) (by omega)
  rw [hbs] at hlen ⊢
  rw [chunksFuel]
  rw [List.take_of_length_le (Nat.le_of_eq hlen), List.drop_of_length_le (Nat.le_of_eq hlen)]
  · rfl
  · exact fun h => nomatch h

theorem emitMsg_of_length (p : Nat) (x : PortSt) {m : FabMsg} (h : (msgBytes m).length = 48) :
    emitMsg p x m = ({ x with
      txSeq := (x.txSeq + 1) % 4096, retry := x.retry ++ [nextFlit x (msgBytes m ++ padBytes 200)], owed := (owedNext x.owed).2.2
      credits := spendCredits x.credits m.vc (msgCredits m) }, [.flit p (nextFlit x (msgBytes m ++ padBytes 200))]) := by
  unfold emitMsg
  rw [msgSpace_of_length h]
  rfl

/-- NEIGH as port `p` sends it (R271). -/
def Dev.neighMsg (d : Dev) (p : Nat) : FabMsg := { d.ownMsg 0 0 0x0B (d.neighBody p false) with vc := 0 }

theorem Dev.neighBody_congr {d e : Dev} {p : Nat} {stopping : Bool} (hregs : d.regs = e.regs) (hlambda : (d.port p).lambda = (e.port p).lambda) :
    d.neighBody p stopping = e.neighBody p stopping := by
  unfold Dev.neighBody Dev.hasNode Dev.node Dev.partition Dev.rf Dev.reg
  rw [hregs, hlambda]

theorem Dev.ownMsg_congr {d e : Dev} {dst sidx type : Nat} {body : List Byte} (hregs : d.regs = e.regs) (htag : d.tagCtr = e.tagCtr) :
    d.ownMsg dst sidx type body = e.ownMsg dst sidx type body := by
  unfold Dev.ownMsg Dev.hasNode Dev.node Dev.partition Dev.rf Dev.reg
  rw [hregs, htag]

theorem Dev.length_neighMsg (d : Dev) (p : Nat) : (msgBytes (d.neighMsg p)).length = 48 := by
  have hbody : (d.neighBody p false).length = 32 := by
    unfold Dev.neighBody
    simp only [List.length_append, length_leBytes, List.length_replicate]
  have hlen : msgLen (d.neighMsg p) = 48 := by
    show 16 + 8 * ceilDiv (d.neighBody p false).length 8 = 48
    rw [hbody]
    rfl
  unfold msgBytes
  simp only [List.length_append, length_leBytes, hlen]
  show _ + (slice (d.neighBody p false) 0 32).length = 48
  rw [← hbody, slice_zero_length, hbody]

theorem Dev.sendNeigh_of_room {d : Dev} {p : Nat} (hup : (d.port p).st = .up) (hroom : (d.port p).retry.length < 1024) :
    d.sendNeigh p false = { d.setPort p (emitMsg p (d.port p) (d.neighMsg p)).1 with
      out := .flit p (nextFlit (d.port p) (msgBytes (d.neighMsg p) ++ padBytes 200)) :: d.out } := by
  have hspace : (msgSpace (d.neighMsg p)).length = 1 := by rw [msgSpace_of_length (d.length_neighMsg p)]; rfl
  have hfits : ¬ (d.port p).retry.length + (msgSpace (d.neighMsg p)).length > 1024 := by omega
  unfold Dev.sendNeigh
  refine (if_neg (by rw [hup]; decide)).trans ((if_neg hfits).trans ?_)
  rw [emitMsg_of_length p (d.port p) (d.length_neighMsg p)]
  show ({ d.setPort p (emitMsg p (d.port p) (d.neighMsg p)).1 with out := (emitMsg p (d.port p) (d.neighMsg p)).2 ++ d.out } : Dev) = _
  rw [emitMsg_of_length p (d.port p) (d.length_neighMsg p)]
  rfl

@[simp] theorem Dev.setPortSt_regs (d : Dev) (p : Nat) (st : PortState) : (d.setPortSt p st).regs = d.regs := rfl
@[simp] theorem Dev.setPortSt_tagCtr (d : Dev) (p : Nat) (st : PortState) : (d.setPortSt p st).tagCtr = d.tagCtr := rfl
@[simp] theorem Dev.setPortSt_inbox (d : Dev) (p : Nat) (st : PortState) : (d.setPortSt p st).inbox = d.inbox := rfl

/-- `e` is `d` but for the ports, the pins and what has been sent. -/
def PortsOnly (d e : Dev) : Prop := e = { d with ports := e.ports, pins := e.pins, out := e.out }

theorem PortsOnly.trans {d e f : Dev} (h : PortsOnly d e) (h' : PortsOnly e f) : PortsOnly d f := by
  unfold PortsOnly at h h' ⊢
  have hdev := congrArg (fun x : Dev => ({ x with ports := f.ports, pins := f.pins, out := f.out } : Dev)) h
  exact h'.trans hdev

theorem PortsOnly.setPort (d : Dev) (p : Nat) (x : PortSt) : PortsOnly d (d.setPort p x) := rfl
theorem PortsOnly.setPortSt (d : Dev) (p : Nat) (st : PortState) : PortsOnly d (d.setPortSt p st) := rfl
theorem PortsOnly.send (d : Dev) (o : Out) : PortsOnly d (d.send o) := rfl
theorem PortsOnly.setPort_out (d : Dev) (p : Nat) (x : PortSt) (out : List Out) : PortsOnly d { d.setPort p x with out := out } := rfl

/-- What only a port and what has been sent differ in. -/
theorem Dev.changes_of_setPort {d e : Dev} {p : Nat} {x : PortSt} {out : List Out} (h : e = { d.setPort p x with out := out }) :
    e = { d with ports := e.ports, out := out } := by
  subst h
  rfl

theorem Dev.sendNeigh_of_full {d : Dev} {p : Nat} (hup : (d.port p).st = .up) (hfull : 1024 ≤ (d.port p).retry.length) :
    d.sendNeigh p false = d.setPort p { d.port p with txq := ⟨16, 0, d.ticks, d.neighMsg p⟩ :: (d.port p).txq } := by
  have hspace : (msgSpace (d.neighMsg p)).length = 1 := by rw [msgSpace_of_length (d.length_neighMsg p)]; rfl
  have hfits : (d.port p).retry.length + (msgSpace (d.neighMsg p)).length > 1024 := by omega
  unfold Dev.sendNeigh
  exact (if_neg (by rw [hup]; decide)).trans (if_pos hfits)

/-- The flit of NEIGH begins with its bytes. -/
theorem take_neighSpace (d : Dev) (p : Nat) : (msgBytes (d.neighMsg p) ++ padBytes 200).take 48 = msgBytes (d.neighMsg p) :=
  List.take_left' (d.length_neighMsg p)

/-- A port with nothing queued has nothing to pump. -/
theorem Dev.pump_of_empty {d : Dev} {p : Nat} (hup : (d.port p).st = .up) (hq : (d.port p).txq = []) : d.pump p = d.setPort p (d.port p) := by
  unfold Dev.pump
  refine (if_neg (by rw [hup]; decide)).trans ?_
  rw [hq]
  show ({ d.setPort p { d.port p with txq := [] } with out := d.out } : Dev) = _
  rw [← hq]
  rfl

/-- A flit that comes for a port in UP is charged with what its code words were, and then read. -/
theorem gives_flitReceive {s : State} {p : Nat} {words : List (List Byte)} {d : Dev} (hp : p < 16) (hup : s.dev.portUp p = true)
    (hd : (let ws := (List.range 8).map (fun i => v36Decode (nth words i []))
      let e := s.dev.charge (locId 3 p) (ws.foldl (fun a w => a + w.fixed) 0) (ws.countP (·.bad))
      if ws.any (·.bad) then
        if (e.port p).nakSent && ! awaitedFlit (e.port p) (v36Decode (nth words 0 [])) then e else e.askAgain p
      else e.takeFlit p (flitOf (ws.flatMap (·.data))) ((ws.flatMap (fun w => w.data.map (fun b => (b, w.poison)))).drop 8)) = d) :
    Gives (.flitReceive p words) s d := by
  refine gives_onDev (show execFlitReceive p words s = _ from rfl) ((if_neg ?_).trans hd)
  rw [hup, decide_eq_false (Nat.not_le.mpr hp)]
  decide

theorem Dev.askAgain_of_room {d : Dev} {p : Nat} (h : (d.port p).retry.length < 1024) :
    d.askAgain p = (d.setPort p { d.port p with nakSent := true, nakDue := false }).sendAck p true := by
  unfold Dev.askAgain
  rw [decide_eq_false (Nat.not_le.mpr h)]
  rfl

theorem Dev.askAgain_of_full {d : Dev} {p : Nat} (h : 1024 ≤ (d.port p).retry.length) :
    d.askAgain p = d.setPort p { d.port p with nakSent := true, nakDue := true } := by
  unfold Dev.askAgain
  rw [decide_eq_true h]
  rfl

/-- The last of two writes of a key of a map is what it holds. -/
theorem smSet_smSet {α : Type} (k : Nat) (v w : α) (m : SMap α) : smSet k v (smSet k w m) = smSet k v m := by
  induction m with
  | nil => simp [smSet]
  | cons a m ih =>
    obtain ⟨j, u⟩ := a
    by_cases heq : j = k
    · simp [smSet, heq]
    · by_cases hlt : k < j
      · simp [smSet, heq, hlt]
      · simp [smSet, heq, hlt, ih]

theorem Dev.setPort_setPort_of_present (d : Dev) (p : Nat) {x y : PortSt} (hx : x.st ≠ .absent) (hy : y.st ≠ .absent) :
    (d.setPort p x).setPort p y = d.setPort p y := by
  have hx' : x ≠ PortSt.empty := fun he => hx (by rw [he]; rfl)
  have hy' : y ≠ PortSt.empty := fun he => hy (by rw [he]; rfl)
  unfold Dev.setPort smPut
  dsimp only
  rw [if_neg hx', if_neg hy', if_neg hy', smSet_smSet]

section
variable {d : Dev} {p : Nat} {f : Flit} (space : List (Byte × Bool)) (hnak : f.nak = false) (hdue : (ackRetry (d.port p) f.ack).nakDue = false)
  (hup : (ackRetry (d.port p) f.ack).st = .up)
include hnak hdue hup

theorem Dev.takeFlit_of_clear : d.takeFlit p f space =
    if f.seq ≠ ((ackRetry (d.port p) f.ack).rxGood + 1) % 4096 then (d.setPort p (ackRetry (d.port p) f.ack)).pump p
    else
      let (ms, rest) := cutStream ((ackRetry (d.port p) f.ack).rx.length + 248) ((ackRetry (d.port p) f.ack).rx ++ space)
      (ms.foldl (fun d m => d.receive p m) (d.setPort p { (addCredits (ackRetry (d.port p) f.ack) f.crvc f.crcnt) with
        rxGood := f.seq, nakSent := false, nakDue := false, rx := rest })).pump p := by
  have hport : (d.setPort p (ackRetry (d.port p) f.ack)).port p = ackRetry (d.port p) f.ack :=
    d.port_setPort_of_present p (by rw [hup]; decide)
  unfold Dev.takeFlit
  dsimp only
  rw [hnak, if_neg Bool.false_ne_true, hport, hdue, if_neg Bool.false_ne_true, hport]
  by_cases hseq : f.seq ≠ ((ackRetry (d.port p) f.ack).rxGood + 1) % 4096
  · rw [if_pos (Or.inr hseq), if_pos hseq]
  · rw [if_neg (not_or.mpr ⟨not_not_intro hup, hseq⟩), if_neg hseq, d.setPort_setPort_of_present p (by rw [hup]; decide)]
    show (ackRetry (d.port p) f.ack).st ≠ .absent
    rw [hup]
    decide

/-- A flit that is not the next in order gives no message. -/
theorem Dev.takeFlit_of_other (hseq : f.seq ≠ ((ackRetry (d.port p) f.ack).rxGood + 1) % 4096) :
    d.takeFlit p f space = (d.setPort p (ackRetry (d.port p) f.ack)).pump p := by
  rw [Dev.takeFlit_of_clear space hnak hdue hup, if_pos hseq]

theorem Dev.takeFlit_of_next {ms : List FabMsg} {rest : List (Byte × Bool)} (hseq : f.seq = ((ackRetry (d.port p) f.ack).rxGood + 1) % 4096)
    (hcut : cutStream ((ackRetry (d.port p) f.ack).rx.length + 248) ((ackRetry (d.port p) f.ack).rx ++ space) = (ms, rest)) :
    d.takeFlit p f space = (ms.foldl (fun d m => d.receive p m) (d.setPort p { (addCredits (ackRetry (d.port p) f.ack) f.crvc f.crcnt) with
      rxGood := f.seq, nakSent := false, nakDue := false, rx := rest })).pump p := by
  rw [Dev.takeFlit_of_clear space hnak hdue hup, if_neg (not_not_intro hseq), hcut]

end

/-- A port counts nothing as waiting where no message waits. -/
theorem Dev.vcUse_of_empty {d : Dev} (hin : d.inbox = []) (hq : ∀ y ∈ d.ports, y.2.txq = []) (p vc : Nat) : d.vcUse p vc = 0 := by
  have hports : ∀ ys : SMap PortSt, (∀ y ∈ ys, y.2.txq = []) → ys.foldl (fun a x => a + queuedUse p vc x.2.txq) 0 = 0 := by
    intro ys
    induction ys with
    | nil => exact fun _ => rfl
    | cons y ys ih =>
      intro h
      rw [List.foldl_cons, h y List.mem_cons_self]
      exact ih fun z hz => h z (List.mem_cons_of_mem _ hz)
  unfold Dev.vcUse
  rw [hin, hports _ hq]
  rfl

theorem Dev.initCredits_of_empty {d : Dev} (hin : d.inbox = []) (hq : ∀ y ∈ d.ports, y.2.txq = []) (p : Nat) :
    d.initCredits p = List.replicate 6 128 ++ [3072] := by
  unfold Dev.initCredits
  simp only [d.vcUse_of_empty hin hq]
  decide

/-- What a port of an unsettled block waits for, a write of a port that waits for nothing leaves empty. -/
theorem txq_setPort {d : Dev} {p : Nat} {x : PortSt} (hx : x.txq = []) (hq : ∀ y ∈ d.ports, y.2.txq = []) : ∀ y ∈ (d.setPort p x).ports, y.2.txq = [] := by
  intro y hy
  unfold Dev.setPort smPut at hy
  split at hy
  · exact hq y (mem_smErase hy)
  · rcases mem_smSet hy with rfl | hy
    · exact hx
    · exact hq y hy

/-- A port that has trained, before it goes UP: its counters begin anew, and it holds the wavelengths and the credits that were agreed. -/
def trainedPort (x : PortSt) (lambda : Nat) (credits : List Nat) : PortSt := { x with
  fails := 0, retries := 0, lambda := lambda % 256, nbr := none, txSeq := 0, rxGood := 4095, nakSent := false
  nakDue := false, waking := false, retry := [], credits := (List.range 7).map (fun v => nth credits v 0), owed := List.replicate 7 0, rx := [] }

/-- A block whose port `p` has gone UP and has sent its initial credits (R272). -/
def Dev.broughtUp (d : Dev) (p lambda : Nat) (credits : List Nat) : Dev :=
  let e := d.setPort p (trainedPort (d.port p) lambda credits)
  (e.setPortSt p .up).send (.initCredits p (e.initCredits p))

section
variable {d : Dev} {p : Nat} (lambda : Nat) (credits : List Nat) (htraining : (d.port p).st = .training)
include htraining

theorem Dev.broughtUp_port : (d.broughtUp p lambda credits).port p = { trainedPort (d.port p) lambda credits with st := .up } := by
  have hport : (d.setPort p (trainedPort (d.port p) lambda credits)).port p = trainedPort (d.port p) lambda credits := by
    refine d.port_setPort_of_present p ?_
    show (d.port p).st ≠ .absent
    rw [htraining]
    decide
  have hup := (d.setPort p (trainedPort (d.port p) lambda credits)).port_setPortSt_of_present p (st := .up) (by decide)
  rw [hport] at hup
  exact hup

theorem Dev.broughtUp_neighMsg : (d.broughtUp p lambda credits).neighMsg p =
    { d.ownMsg 0 0 0x0B ((d.setPort p { d.port p with lambda := lambda % 256 }).neighBody p false) with vc := 0 } := by
  have hport : (d.setPort p { d.port p with lambda := lambda % 256 }).port p = { d.port p with lambda := lambda % 256 } := by
    refine d.port_setPort_of_present p ?_
    show (d.port p).st ≠ .absent
    rw [htraining]
    decide
  have hlambda : ((d.broughtUp p lambda credits).port p).lambda = ((d.setPort p { d.port p with lambda := lambda % 256 }).port p).lambda := by
    rw [hport, Dev.broughtUp_port lambda credits htraining]
    rfl
  have hregs : (d.broughtUp p lambda credits).regs = d.regs :=
    (Dev.send_regs _ _).trans ((Dev.setPortSt_regs _ _ _).trans (Dev.setPort_regs _ _ _))
  have htag : (d.broughtUp p lambda credits).tagCtr = d.tagCtr :=
    (Dev.send_tagCtr _ _).trans ((Dev.setPortSt_tagCtr _ _ _).trans (Dev.setPort_tagCtr _ _ _))
  unfold Dev.neighMsg
  rw [Dev.neighBody_congr (e := d.setPort p { d.port p with lambda := lambda % 256 }) hregs hlambda, Dev.ownMsg_congr hregs htag]

omit htraining in
theorem Dev.trained_initCredits (hin : d.inbox = []) (hq : ∀ y ∈ d.ports, y.2.txq = []) (hempty : (d.port p).txq = []) :
    (d.setPort p (trainedPort (d.port p) lambda credits)).initCredits p = List.replicate 6 128 ++ [3072] :=
  Dev.initCredits_of_empty (d := d.setPort p (trainedPort (d.port p) lambda credits)) ((Dev.setPort_inbox _ _ _).trans hin)
    (txq_setPort (p := p) (x := trainedPort (d.port p) lambda credits) hempty hq) p

end

theorem Dev.setPort_of_sent {d : Dev} {p : Nat} {x y : PortSt} (out : List Out) (hy : y.st ≠ .absent) (hx : x.st ≠ .absent) :
    ({ d.setPort p y with out := out } : Dev).setPort p x = { d.setPort p x with out := out } := by
  have h := d.setPort_setPort_of_present p hy hx
  exact congrArg (fun e : Dev => ({ e with out := out } : Dev)) h

theorem Dev.port_of_sent {d : Dev} {p : Nat} {x : PortSt} (out : List Out) (hx : x.st ≠ .absent) :
    ({ d.setPort p x with out := out } : Dev).port p = x :=
  d.port_setPort_of_present p hx

/-- NEIGH costs no credits. -/
theorem spendCredits_of_neigh (credits : List Nat) (m : FabMsg) (htype : m.type = 0x0B) (hvc : m.vc = 0) :
    spendCredits ((List.range 7).map (fun v => nth credits v 0)) m.vc (msgCredits m) = (List.range 7).map (fun v => nth credits v 0) := by
  rw [hvc, msgCredits, if_pos (Or.inr htype)]
  simp [spendCredits, nth, List.range_succ]

theorem gives_portTrainSuccess {s : State} {p lambda : Nat} {nbr : Neighbour} {credits : List Nat}
    (hgo : ¬ ((decide (p ≥ 16) || (s.dev.port p).st != .training || s.dev.power.st != .run || ! (lambdas lambda == 8 || lambdas lambda == 4)) = true)) :
    Gives (.portTrainSuccess p lambda nbr credits) s ((((s.dev.broughtUp p lambda credits).sendNeigh p false).noteNeigh p nbr).pump p) := by
  show execPortTrainSuccess p lambda nbr credits s = _
  unfold execPortTrainSuccess Dev.broughtUp trainedPort
  dsimp only
  rw [State.onDev_eq, if_neg hgo]

theorem Dev.broughtUp_portsOnly (d : Dev) (p lambda : Nat) (credits : List Nat) : PortsOnly d (d.broughtUp p lambda credits) :=
  ((PortsOnly.setPort _ _ _).trans (PortsOnly.setPortSt _ _ _)).trans (PortsOnly.send _ _)

@[simp] theorem Dev.setPortSt_out (d : Dev) (p : Nat) (st : PortState) : (d.setPortSt p st).out = d.out := rfl

theorem Dev.send_out_cons (d : Dev) (o : Out) : (d.send o).out = o :: d.out := rfl

theorem Dev.broughtUp_out (d : Dev) (p lambda : Nat) (credits : List Nat) : (d.broughtUp p lambda credits).out =
    .initCredits p ((d.setPort p (trainedPort (d.port p) lambda credits)).initCredits p) :: d.out := by
  refine (Dev.send_out_cons _ _).trans (congrArg (_ :: ·) ?_)
  exact (Dev.setPortSt_out _ _ _).trans (Dev.setPort_out _ _ _)

/-- What a port that trains ends with: NEIGH has gone as its first flit, and it holds its neighbour. -/
theorem Dev.noteNeigh_pump {d : Dev} {p : Nat} {nbr : Neighbour} (hup : (d.port p).st = .up) (hq : (d.port p).txq = [])
    (hroom : (d.port p).retry.length < 1024) (hstop : nbr.stopping = false) :
    (((d.sendNeigh p false).noteNeigh p nbr).pump p) = { d.setPort p { (emitMsg p (d.port p) (d.neighMsg p)).1 with nbr := some nbr } with
      out := .flit p (nextFlit (d.port p) (msgBytes (d.neighMsg p) ++ padBytes 200)) :: d.out } := by
  have hsent := Dev.sendNeigh_of_room hup hroom
  have hst : (emitMsg p (d.port p) (d.neighMsg p)).1.st = .up := by
    rw [emitMsg_of_length p (d.port p) (d.length_neighMsg p)]
    exact hup
  have hempty : (emitMsg p (d.port p) (d.neighMsg p)).1.txq = [] := by
    rw [emitMsg_of_length p (d.port p) (d.length_neighMsg p)]
    exact hq
  rw [hsent]
  generalize (emitMsg p (d.port p) (d.neighMsg p)).1 = y at hst hempty ⊢
  generalize Out.flit p (nextFlit (d.port p) (msgBytes (d.neighMsg p) ++ padBytes 200)) :: d.out = out
  have hport : ({ d.setPort p y with out := out } : Dev).port p = y := d.port_setPort_of_present p (by rw [hst]; decide)
  have hnote : ({ d.setPort p y with out := out } : Dev).noteNeigh p nbr =
      ({ d.setPort p y with out := out } : Dev).setPort p { y with nbr := some nbr } := by
    unfold Dev.noteNeigh
    rw [hport, hstop]
    rfl
  have hport' : (({ d.setPort p y with out := out } : Dev).setPort p { y with nbr := some nbr }).port p = { y with nbr := some nbr } :=
    Dev.port_setPort_of_present _ p (x := { y with nbr := some nbr }) (by rw [hst]; decide)
  rw [hnote, Dev.pump_of_empty (by rw [hport']; exact hst) (by rw [hport']; exact hempty), hport']
  rw [Dev.setPort_setPort_of_present _ p (x := { y with nbr := some nbr }) (y := { y with nbr := some nbr }) (by rw [hst]; decide) (by rw [hst]; decide)]
  exact Dev.setPort_of_sent out (by rw [hst]; decide) (by rw [hst]; decide)

end Sys2Proof.Machine
end

section
/-! Ports and flits (R270 to R274, R284, R297, R341): their obligations. -/

namespace Sys2Proof.Proofs

open Sys2Proof Sys2Proof.Machine Sys2Proof.Claims

/-- A port that rests FENCED, whose register map lists its PORT_CFG twice (no map of a reachable state does): writing FENCE = 0 gives the register its
reset value and so takes the first entry away, and the second, with FENCE = 1 and EN = 0, is what the register then reads as. -/
def cfgListedTwice : State :=
  { State.reset with dev := { Dev.reset with
    power := { Dev.reset.power with pwrgd := true, ready := true, st := .run }
    regs := [(portCfg 0, 7), (portCfg 0, 2)]
    ports := [(0, { PortSt.empty with st := .fenced, module := true })] } }

/-- Refutes O42: the port goes to DISABLED, where the statement has it stay FENCED. -/
theorem not_portsLeaveTheirStates : ¬ Obligations.PortsLeaveTheirStates := by
  unfold Obligations.PortsLeaveTheirStates
  intro hclaim
  obtain ⟨-, -, -, -, -, hpath⟩ := hclaim cfgListedTwice 0 (by decide)
  obtain ⟨-, -, -, hunfence⟩ := hpath .mgmt (by unfold Passes; decide +kernel)
  have hgives := hunfence (by decide) (by decide +kernel) (by decide +kernel)
  have hmodel : (match exec (.portFenceWrite .mgmt 0 false) cfgListedTwice with | .next u => (u.dev.port 0).st | _ => .absent) = .disabled := by
    decide +kernel
  unfold Gives at hgives
  rw [hgives] at hmodel
  exact absurd hmodel (by decide +kernel)

/-- Settles O43: a flit is read, asked for again, discarded or taken; a port trains, sends NEIGH, dozes or wakes. -/
theorem portsComeUpAndReceive : Obligations.PortsComeUpAndReceive := by
  unfold Obligations.PortsComeUpAndReceive
  refine ⟨fun s p words hp hup => ⟨fun hbad => ⟨fun hsent hawait => ?_, fun hask => ⟨fun hroom => ?_, fun hfull => ?_⟩⟩,
    fun hgood hnak hdue hst => ⟨fun hseq => ?_, fun ms rest hseq hcut => ?_⟩⟩, fun s p hp => ⟨?_, ?_, ?_, ?_, ?_⟩⟩
  · exact gives_flitReceive hp hup ((if_pos hbad).trans (if_pos (by rw [hsent, hawait]; rfl)))
  · refine gives_flitReceive hp hup ((if_pos hbad).trans ((if_neg ?_).trans (Dev.askAgain_of_room hroom)))
    rcases hask with h | h
    · rw [h]; exact Bool.false_ne_true
    · rw [h, Bool.not_true, Bool.and_false]; exact Bool.false_ne_true
  · refine gives_flitReceive hp hup ((if_pos hbad).trans ((if_neg ?_).trans (Dev.askAgain_of_full hfull)))
    rcases hask with h | h
    · rw [h]; exact Bool.false_ne_true
    · rw [h, Bool.not_true, Bool.and_false]; exact Bool.false_ne_true
  · exact gives_flitReceive hp hup ((if_neg (by rw [hgood]; exact Bool.false_ne_true)).trans (Dev.takeFlit_of_other _ hnak hdue hst hseq))
  · exact gives_flitReceive hp hup ((if_neg (by rw [hgood]; exact Bool.false_ne_true)).trans (Dev.takeFlit_of_next _ hnak hdue hst hseq hcut))
  · refine fun lambda nbr credits htraining hrun hq hlambda hstop => ?_
    have hport := Dev.broughtUp_port (p := p) lambda credits htraining
    have hnote := Dev.noteNeigh_pump (d := s.dev.broughtUp p lambda credits) (p := p) (nbr := nbr) (by rw [hport]) (by rw [hport]; exact hq)
      (by rw [hport]; exact Nat.zero_lt_succ _) hstop
    have hgo : ¬ ((decide (p ≥ 16) || (s.dev.port p).st != .training || s.dev.power.st != .run ||
        ! (lambdas lambda == 8 || lambdas lambda == 4)) = true) := by
      rw [htraining, hrun, decide_eq_false (Nat.not_le.mpr hp), Bool.or_eq_true]
      rintro (h | h)
      · exact absurd h (by decide)
      · rcases hlambda with hl | hl <;> rw [hl] at h <;> exact absurd h (by decide)
    have hexec := gives_portTrainSuccess (credits := credits) (nbr := nbr) hgo
    have honly := (s.dev.broughtUp_portsOnly p lambda credits).trans (PortsOnly.setPort_out _ p { (emitMsg p ((s.dev.broughtUp p lambda credits).port p)
      ((s.dev.broughtUp p lambda credits).neighMsg p)).1 with nbr := some nbr } (.flit p (nextFlit ((s.dev.broughtUp p lambda credits).port p)
        (msgBytes ((s.dev.broughtUp p lambda credits).neighMsg p) ++ padBytes 200)) :: (s.dev.broughtUp p lambda credits).out))
    have hend := emitMsg_of_length p ((s.dev.broughtUp p lambda credits).port p) ((s.dev.broughtUp p lambda credits).length_neighMsg p)
    have htake := take_neighSpace (s.dev.broughtUp p lambda credits) p
    rw [hnote] at hexec
    unfold PortsOnly at honly
    rw [Dev.broughtUp_out] at hexec honly
    have hflit := congrArg PortSt.txSeq hport
    have hfirst := congrArg Prod.fst hend
    have hcredits := spendCredits_of_neigh credits ((s.dev.broughtUp p lambda credits).neighMsg p) rfl rfl
    rw [hport] at hfirst
    have hst : (emitMsg p ((s.dev.broughtUp p lambda credits).port p) ((s.dev.broughtUp p lambda credits).neighMsg p)).1.st = .up := by
      rw [hport, hfirst]
    have hheld := fun out => Dev.port_of_sent (d := s.dev.broughtUp p lambda credits) (p := p)
      (x := { (emitMsg p ((s.dev.broughtUp p lambda credits).port p) ((s.dev.broughtUp p lambda credits).neighMsg p)).1 with nbr := some nbr })
      out (by rw [hst]; decide)
    refine ⟨_, _, _, hexec, honly, hflit, rfl, fun hin hempty => ?_, ?_, ?_⟩
    · exact Dev.trained_initCredits lambda credits hin hempty hq
    · refine htake.trans (congrArg msgBytes ?_)
      exact Dev.broughtUp_neighMsg lambda credits htraining
    · rw [hheld, hport, hfirst]
      exact ⟨rfl, rfl, rfl, rfl, rfl, hcredits⟩
  · refine fun hup => ⟨fun hroom => ?_, fun hfull => gives_onDev (f := fun d => d.sendNeigh p false) rfl (Dev.sendNeigh_of_full hup hfull)⟩
    exact ⟨_, _, rfl, Dev.changes_of_setPort (Dev.sendNeigh_of_room hup hroom), rfl, take_neighSpace s.dev p⟩
  · refine fun m e htype hcomes hup => gives_message rfl htype hcomes ?_
    rw [if_pos hup]
    rfl
  · refine fun n hup hrun hnbr hstop => gives_onDev (show execPortDoze p s = _ from rfl) ?_
    dsimp only
    rw [if_neg (not_not_intro hup), if_neg hrun, hnbr]
    exact if_pos hstop
  · refine fun hdoze hrun => ?_
    have hport : ¬ (decide (p ≥ 16) || (s.dev.port p).st != .doze) = true := by
      rw [hdoze, decide_eq_false (Nat.not_le.mpr hp)]
      decide
    refine ⟨fun hq => gives_onDev (show execPortWake p .localMessage s = _ from rfl) ?_, fun hen => ⟨gives_onDev (show execPortWake p .light s = _ from rfl) ?_,
      gives_onDev (show execPortWake p .pattern s = _ from rfl) ?_⟩⟩
    · refine (if_neg hport).trans (if_neg ?_)
      rw [hrun]
      cases hx : (s.dev.port p).txq with
      | nil => exact absurd hx hq
      | cons y ys => exact Bool.false_ne_true
    all_goals
      refine (if_neg hport).trans ?_
      dsimp only
      rw [hen, if_pos Bool.not_false, if_pos ⟨hrun, hdoze⟩]

end Sys2Proof.Proofs
end

section
/-! SUPPORT. Messages that go out, and requests that land and are served at home (R277, R280, R281). -/

namespace Sys2Proof.Machine

open Sys2Proof Sys2Proof.Claims

/-- `e` is `d` but for the ports, what has been sent, the receive buffer and the registers. -/
def SentOnly (d e : Dev) : Prop := e = { d with ports := e.ports, out := e.out, inbox := e.inbox, regs := e.regs }

theorem SentOnly.refl (d : Dev) : SentOnly d d := rfl

theorem SentOnly.trans {d e f : Dev} (h : SentOnly d e) (h' : SentOnly e f) : SentOnly d f := by
  unfold SentOnly at h h' ⊢
  have hdev := congrArg (fun x : Dev => ({ x with ports := f.ports, out := f.out, inbox := f.inbox, regs := f.regs } : Dev)) h
  exact h'.trans hdev

theorem SentOnly.setPort (d : Dev) (p : Nat) (x : PortSt) : SentOnly d (d.setPort p x) := rfl
theorem SentOnly.stat (d : Dev) (key hi lo k : Nat) : SentOnly d (d.stat key hi lo k) := rfl
theorem SentOnly.inbox (d : Dev) (xs : List (Nat × FabMsg)) : SentOnly d { d with inbox := xs } := rfl
theorem SentOnly.out (d : Dev) (xs : List Out) : SentOnly d { d with out := xs } := rfl

theorem SentOnly.oweCredits (d : Dev) (p vc n used : Nat) : SentOnly d (d.oweCredits p vc n used) := by
  unfold Dev.oweCredits
  split
  · exact .refl d
  · exact .setPort d p _

theorem SentOnly.releaseAll (d : Dev) (qs : List Queued) : SentOnly d (d.releaseAll qs) := by
  induction qs generalizing d with
  | nil => exact .refl d
  | cons q qs ih => exact (SentOnly.oweCredits d _ _ _ _).trans (ih _)

theorem SentOnly.pump (d : Dev) (p : Nat) : SentOnly d (d.pump p) := by
  unfold Dev.pump
  dsimp only
  split
  · exact .refl d
  · refine SentOnly.trans ?_ (.releaseAll _ _)
    split
    · exact (SentOnly.setPort d p _).trans (.out _ _)
    · exact ((SentOnly.setPort d p _).trans (.out _ _)).trans (.stat _ _ _ _ _)

theorem SentOnly.enqueue (d : Dev) (p : Nat) (q : Queued) : SentOnly d (d.enqueue p q) :=
  (SentOnly.setPort d p _).trans (.pump _ p)

theorem SentOnly.sendOn (d : Dev) (q : Queued) : SentOnly d (d.sendOn q) := by
  unfold Dev.sendOn
  dsimp only
  split
  · exact .inbox d _
  · exact .enqueue d _ _
  · exact (SentOnly.stat d _ _ _ _).trans (.releaseAll _ _)

theorem SentOnly.respond (d : Dev) (req : FabMsg) (type status ord : Nat) (poison : Bool) (body : List Byte) :
    SentOnly d (d.respond req type status ord poison body) := by
  unfold Dev.respond
  dsimp only
  split
  · exact .sendOn d _
  · exact .refl d

/-- A request as it is held where no other is. -/
def heldMsg (m : FabMsg) : FabIn := ⟨0, m, false, []⟩

/-- Where the run that serves such a request begins. -/
def servesAt (d : Dev) (m : FabMsg) : RunSt := ⟨{ d with fabIn := [heldMsg m] }, [], 0, [], [], []⟩

/-- A request that lands where none is held is tried at once. -/
theorem Dev.accept_of_empty {d : Dev} (m : FabMsg) (hnone : d.fabIn = []) : d.accept m = Dev.serveFab { d with fabIn := [heldMsg m] } (heldMsg m) := by
  unfold Dev.accept Dev.hold
  rw [hnone]
  rfl

/-- A request whose run ends well, with no durable write of it outstanding, is done. -/
theorem Dev.serveFab_of_run {d : Dev} {m : FabMsg} {ans : List FabAns} {k : RunSt}
    (hrun : serveMsg m (fabCtx (heldMsg m)) (servesAt d m) = (.ok ans, k))
    (hparity : (Dev.commit (fabCtx (heldMsg m)) k.d k.log).parityPending 0 = false) :
    Dev.serveFab { d with fabIn := [heldMsg m] } (heldMsg m) = (Dev.commit (fabCtx (heldMsg m)) k.d k.log).fabDone (heldMsg m) 0 ans := by
  unfold Dev.serveFab
  have hrun' : Dev.runM { d with fabIn := [heldMsg m] } (fabCtx (heldMsg m)) (serveMsg (heldMsg m).msg) = (.ok ans, k) := hrun
  refine (if_neg (show ¬ (heldMsg m).applied = true from Bool.false_ne_true)).trans ?_
  dsimp only
  rw [hrun']
  exact if_neg (by rw [show (heldMsg m).id = 0 from rfl, hparity]; exact Bool.false_ne_true)

/-- A request that is refused with a status is answered with it. -/
theorem Dev.serveFab_of_refusal {d : Dev} {m : FabMsg} {st : Nat} {k : RunSt}
    (hrun : serveMsg m (fabCtx (heldMsg m)) (servesAt d m) = (.error (.done st), k)) :
    Dev.serveFab { d with fabIn := [heldMsg m] } (heldMsg m) = k.d.fabDone (heldMsg m) st [] := by
  unfold Dev.serveFab
  have hrun' : Dev.runM { d with fabIn := [heldMsg m] } (fabCtx (heldMsg m)) (serveMsg (heldMsg m).msg) = (.error (.done st), k) := hrun
  refine (if_neg (show ¬ (heldMsg m).applied = true from Bool.false_ne_true)).trans ?_
  dsimp only
  rw [hrun']

/-- A read's answers are sent, and it is held no longer. -/
theorem Dev.fabDone_of_read {d : Dev} {m : FabMsg} (ans : List FabAns) (h4 : m.type ≠ 4) (hread : writeClass m.type = false) :
    d.fabDone (heldMsg m) 0 ans = ans.foldl (fun d a => d.respond m a.type 0 m.ord a.poison a.body) (unheld d) := by
  unfold Dev.fabDone
  dsimp only
  rw [show (heldMsg m).msg = m from rfl, if_pos rfl, if_neg h4, hread, if_neg Bool.false_ne_true]
  rfl

/-- A write is acknowledged, and is held no longer. -/
theorem Dev.fabDone_of_write (d : Dev) {m : FabMsg} (h4 : m.type ≠ 4) (hwrite : writeClass m.type = true) :
    d.fabDone (heldMsg m) 0 [] = (unheld d).ackWrite m 0 := by
  unfold Dev.fabDone
  dsimp only
  rw [show (heldMsg m).msg = m from rfl, if_pos rfl, if_neg h4, hwrite, if_pos rfl]
  rfl

/-- A write-class message in turn is handed to home, and its flow expects the next. -/
theorem Dev.writeClassIn_of_inTurn {d : Dev} {m : FabMsg} {f : FlowIn} (h : InTurn d m f) : d.writeClassIn m = d.inOrder f m := by
  unfold Dev.writeClassIn
  rcases h with ⟨hflow, hturn⟩ | ⟨hflow, hfirst, hroom, rfl⟩
  · rw [hflow]
    refine if_pos ?_
    rcases hturn with h | h
    · rw [h]; rfl
    · rw [Bool.or_eq_true, decide_eq_true_eq, h]
      right
      unfold ringSub
      rw [if_neg (by decide)]
      omega
  · rw [hflow]
    dsimp only
    rw [hfirst, if_neg (by decide), if_neg (Nat.not_le.mpr hroom)]

theorem Dev.setFlowIn_isOwn (d : Dev) (f : FlowIn) (fa : Nat) : (d.setFlowIn f).isOwn fa = d.isOwn fa := by
  unfold Dev.setFlowIn
  split <;> rfl

theorem Dev.setFlowIn_fabIn (d : Dev) (f : FlowIn) : (d.setFlowIn f).fabIn = d.fabIn := by
  unfold Dev.setFlowIn
  split <;> rfl

end Sys2Proof.Machine
end

section
/-! SUPPORT. The runs that serve requests at home. -/

namespace Sys2Proof.Machine

open Sys2Proof Sys2Proof.Claims

section
variable {c : Ctx} {k k' : RunSt} {m : FabMsg}

theorem M.withReader_of_ok {α : Type} {f : Ctx → Ctx} {x : M α} {a : α} (h : x (f c) k = (.ok a, k')) : (withReader f x : M α) c k = (.ok a, k') := h

/-- A request of a type below 6 that is for this node's range goes on. -/
theorem serves_own (h : k.d.isOwn (fld m.body 0 8) = true) : (decide (m.type ≥ 6) || k.d.isOwn (fld m.body 0 8)) = true := by
  rw [h, Bool.or_true]

theorem serveMsg_rd {v : LineVal} (htype : m.type = 1) (hown : k.d.isOwn (fld m.body 0 8) = true)
    (hread : rdLine (64 * (fld m.body 0 8 / 64)) c k = (.ok v, k')) :
    serveMsg m c k = (.ok [⟨0x81, v.p0 || v.p1, lineBytes v.data⟩], k') := by
  unfold serveMsg
  dsimp only
  rw [M.bind_of_ok (M.getDev_apply _ _), M.bind_of_ok (ensure_of_true (serves_own hown) _ _ _), if_pos htype, M.bind_of_ok hread]
  rfl

theorem serveMsg_foreign (htype : m.type < 6) (hown : k.d.isOwn (fld m.body 0 8) = false) : serveMsg m c k = (.error (.done 10), k) := by
  have hrefused : (decide (m.type ≥ 6) || k.d.isOwn (fld m.body 0 8)) = false := by
    rw [hown, decide_eq_false (Nat.not_le.mpr htype)]
    rfl
  unfold serveMsg
  dsimp only
  rw [M.bind_of_ok (M.getDev_apply _ _), hrefused]
  rfl

theorem serveMsg_bulkRd {bs : List Byte} {ps : List Bool} (htype : m.type = 5) (hown : k.d.isOwn (fld m.body 0 8) = true)
    (halign : fld m.body 0 8 % 64 = 0) (hlen : fld m.body 8 4 % 64 = 0) (hmin : 64 ≤ fld m.body 8 4) (hmax : fld m.body 8 4 ≤ 65536)
    (hread : rdRaw (fld m.body 0 8) (fld m.body 8 4) c k = (.ok (bs, ps), k')) :
    serveMsg m c k = (.ok ((bulkParts 0 none ((chunks 64 bs).zip ((chunks 64 ps).map (fun q => q.any id)))).map
      (fun r => ⟨0x85, r.2.2, leBytes 4 r.1 ++ List.replicate 4 0 ++ r.2.1⟩)), k') := by
  unfold serveMsg
  dsimp only
  rw [M.bind_of_ok (M.getDev_apply _ _), M.bind_of_ok (ensure_of_true (serves_own hown) _ _ _), htype, if_neg (by decide), if_neg (by decide),
    if_neg (by decide), if_neg (by decide), if_pos rfl, M.bind_of_ok (ensure_of_true (decide_eq_true ⟨halign, hlen, hmin, hmax⟩) _ _ _),
    M.bind_of_ok hread]
  rfl

theorem serveMsg_wr (htype : m.type = 2) (hown : k.d.isOwn (fld m.body 0 8) = true)
    (hwrite : wrRuns m.poison ((maskRuns (slice m.body 16 64) (slice m.body 8 8)).map (fun r => (64 * (fld m.body 0 8 / 64) + r.1, r.2))) c k =
      (.ok (), k')) : serveMsg m c k = (.ok [], k') := by
  unfold serveMsg
  dsimp only
  rw [M.bind_of_ok (M.getDev_apply _ _), M.bind_of_ok (ensure_of_true (serves_own hown) _ _ _), htype, if_neg (by decide), if_pos rfl,
    M.bind_of_ok hwrite]
  rfl

theorem serveMsg_wrn (htype : m.type = 3) (hown : k.d.isOwn (fld m.body 0 8) = true) (hmin : 1 ≤ fld m.body 8 1) (hmax : fld m.body 8 1 ≤ 32)
    (hwrite : wr (64 * (fld m.body 0 8 / 64)) (slice m.body 16 (64 * fld m.body 8 1)) m.poison c k = (.ok (), k')) :
    serveMsg m c k = (.ok [], k') := by
  unfold serveMsg
  dsimp only
  rw [M.bind_of_ok (M.getDev_apply _ _), M.bind_of_ok (ensure_of_true (serves_own hown) _ _ _), htype, if_neg (by decide), if_neg (by decide),
    if_pos rfl, M.bind_of_ok (ensure_of_true (decide_eq_true ⟨hmin, hmax⟩) _ _ _), M.bind_of_ok hwrite]
  rfl

theorem serveMsg_atom {old : Nat × Bool} (htype : m.type = 4) (hown : k.d.isOwn (fld m.body 0 8) = true) (halign : fld m.body 0 8 % 8 = 0)
    (hatom : atomRaw (fld m.body 0 8) (fld m.body 8 1) (fld m.body 16 8) (fld m.body 24 8) c k = (.ok old, k')) :
    serveMsg m c k = (.ok [⟨0x84, old.2, leBytes 8 old.1⟩], k') := by
  unfold serveMsg
  dsimp only
  rw [M.bind_of_ok (M.getDev_apply _ _), M.bind_of_ok (ensure_of_true (serves_own hown) _ _ _), htype, if_neg (by decide), if_neg (by decide),
    if_neg (by decide), if_pos rfl, M.bind_of_ok (ensure_of_true (decide_eq_true halign) _ _ _), M.bind_of_ok hatom]
  rfl

/-- Where the unit of a parity message lies at its holder. -/
def parityUnit (d : Dev) (m : FabMsg) (w : List Nat) : Nat :=
  d.ownFa (65536 * (egBase w (egK w + fld m.body 3 1) + fld m.body 4 4) + 64 * (fld m.body 8 2 % 1024))

section
variable {w : List Nat} (htype : m.type = 7) (hholder : k.d.parityHolder m = some w)
include htype hholder

theorem serveMsg_parityPoison (hpoison : m.poison = true)
    (hwrite : wr (parityUnit k.d m w) (List.replicate 64 0) true { c with checked := false } k = (.ok (), k')) : serveMsg m c k = (.ok [], k') := by
  unfold serveMsg
  dsimp only
  rw [M.bind_of_ok (M.getDev_apply _ _), M.bind_of_ok (ensure_of_true (by rw [htype]; rfl) _ _ _), htype, if_neg (by decide), if_neg (by decide),
    if_neg (by decide), if_neg (by decide), if_neg (by decide), if_neg (by decide), if_pos rfl, hholder]
  dsimp only
  rw [hpoison, if_pos rfl, M.bind_of_ok (M.withReader_of_ok hwrite)]
  rfl

theorem serveMsg_parity {v : LineVal} {k1 : RunSt} (hpoison : m.poison = false)
    (hread : rdLine (parityUnit k.d m w) { c with checked := false } k = (.ok v, k1)) (hp0 : v.p0 = false) (hp1 : v.p1 = false)
    (hwrite : wr (parityUnit k.d m w) (xorBytes (lineBytes v.data) ((slice m.body 16 64).map (fun b =>
      BitVec.ofNat 8 (gfMul (if fld m.body 3 1 = 0 then 1 else gfExp (fld m.body 2 1)) b.toNat)))) false { c with checked := false } k1 = (.ok (), k')) :
    serveMsg m c k = (.ok [], k') := by
  unfold serveMsg
  dsimp only
  rw [M.bind_of_ok (M.getDev_apply _ _), M.bind_of_ok (ensure_of_true (by rw [htype]; rfl) _ _ _), htype, if_neg (by decide), if_neg (by decide),
    if_neg (by decide), if_neg (by decide), if_neg (by decide), if_neg (by decide), if_pos rfl, hholder]
  dsimp only
  rw [hpoison, if_neg Bool.false_ne_true]
  have hrest : (v.p0 || v.p1) = false := by rw [hp0, hp1]; rfl
  refine (M.bind_of_ok (a := ()) (t := k') (M.withReader_of_ok ((M.bind_of_ok hread).trans ?_))).trans rfl
  rw [hrest, if_neg Bool.false_ne_true]
  exact hwrite

end

end

end Sys2Proof.Machine
end

section
/-! Requests that land over Meunol (R277, R280, R281, R283, R290, R312): their obligation. -/

namespace Sys2Proof.Proofs

open Sys2Proof Sys2Proof.Machine Sys2Proof.Claims

/-- Settles O44: the message is taken, its run ends as the hypotheses say, and it is answered or acknowledged. -/
theorem requestsAreServedAtHome : Obligations.RequestsAreServedAtHome := by
  unfold Obligations.RequestsAreServedAtHome Does
  refine fun s p m e hcomes hempty => ⟨fun htype => gives_message rfl htype hcomes rfl, ?_, ?_, ?_, ?_, ?_⟩
  · refine fun htype hown => gives_message rfl htype hcomes ((Dev.accept_of_empty m hempty).trans ?_)
    refine (Dev.serveFab_of_refusal (serveMsg_foreign (by omega) hown)).trans ?_
    unfold Dev.fabDone
    dsimp only
    rw [show (heldMsg m).msg = m from rfl, htype]
    rfl
  · refine fun v k htype hown hread hparity => gives_message rfl htype hcomes ((Dev.accept_of_empty m hempty).trans ?_)
    refine (Dev.serveFab_of_run (serveMsg_rd htype hown hread) hparity).trans ((Dev.fabDone_of_read _ ?_ ?_).trans rfl)
    · omega
    · rw [htype]; rfl
  · refine fun bs ps k htype hown halign hlen hmin hmax hread hparity => gives_message rfl htype hcomes ((Dev.accept_of_empty m hempty).trans ?_)
    refine (Dev.serveFab_of_run (serveMsg_bulkRd htype hown halign hlen hmin hmax hread) hparity).trans ((Dev.fabDone_of_read _ ?_ ?_).trans ?_)
    · omega
    · rw [htype]; rfl
    · rw [List.foldl_map]
      rfl
  · refine fun f hturn => ?_
    have hin : ∀ h6 : m.type ≠ 6, e.writeClassIn m =
        Dev.serveFab { e.setFlowIn { f with expect := (m.ord + 1) % 1024, aheadSent := false } with fabIn := [heldMsg m] } (heldMsg m) := by
      intro h6
      rw [Dev.writeClassIn_of_inTurn hturn]
      refine (if_neg h6).trans (Dev.accept_of_empty m ?_)
      rw [Dev.setFlowIn_fabIn, hempty]
    have hown' : ∀ hown : e.isOwn (fld m.body 0 8) = true,
        (servesAt (e.setFlowIn { f with expect := (m.ord + 1) % 1024, aheadSent := false }) m).d.isOwn (fld m.body 0 8) = true :=
      fun hown => (Dev.setFlowIn_isOwn e _ _).trans hown
    refine ⟨?_, ?_, ?_, ?_⟩
    · refine fun k htype hown hwrite hparity => gives_message rfl htype hcomes ((hin (by omega)).trans ?_)
      exact (Dev.serveFab_of_run (serveMsg_wr htype (hown' hown) hwrite) hparity).trans (Dev.fabDone_of_write _ (by omega) (by rw [htype]; rfl))
    · refine fun k htype hown hmin hmax hwrite hparity => gives_message rfl htype hcomes ((hin (by omega)).trans ?_)
      exact (Dev.serveFab_of_run (serveMsg_wrn htype (hown' hown) hmin hmax hwrite) hparity).trans
        (Dev.fabDone_of_write _ (by omega) (by rw [htype]; rfl))
    · refine fun old k htype hown halign hatom hparity => gives_message rfl htype hcomes ((hin (by omega)).trans ?_)
      refine (Dev.serveFab_of_run (serveMsg_atom htype (hown' hown) halign hatom) hparity).trans ?_
      unfold Dev.fabDone
      dsimp only
      rw [show (heldMsg m).msg = m from rfl, if_pos rfl, if_pos htype]
      rfl
    · refine fun w htype hholder => ⟨?_, ?_⟩
      · refine fun k hpoison hwrite hparity => gives_message rfl htype hcomes ((hin (by omega)).trans ?_)
        exact (Dev.serveFab_of_run (serveMsg_parityPoison htype hholder hpoison hwrite) hparity).trans
          (Dev.fabDone_of_write _ (by omega) (by rw [htype]; rfl))
      · refine fun v k1 k hpoison hread hp0 hp1 hwrite hparity => gives_message rfl htype hcomes ((hin (by omega)).trans ?_)
        exact (Dev.serveFab_of_run (serveMsg_parity htype hholder hpoison hread hp0 hp1 hwrite) hparity).trans
          (Dev.fabDone_of_write _ (by omega) (by rw [htype]; rfl))
  · refine fun htype hflow hfirst => gives_message rfl htype hcomes ?_
    unfold Dev.writeClassIn
    rw [hflow]
    dsimp only
    rw [hfirst, if_pos (by decide)]

end Sys2Proof.Proofs
end

section
/-! SUPPORT. Sub-descriptors that land (R279, R302). -/

namespace Sys2Proof.Machine

open Sys2Proof Sys2Proof.Claims

theorem Dev.setFlowIn_subs (d : Dev) (f : FlowIn) : (d.setFlowIn f).subs = d.subs := by
  unfold Dev.setFlowIn
  split <;> rfl

theorem Dev.setFlowIn_parity (d : Dev) (f : FlowIn) : (d.setFlowIn f).parity = d.parity := by
  unfold Dev.setFlowIn
  split <;> rfl

theorem Dev.respond_subs (d : Dev) (req : FabMsg) (type status ord : Nat) (poison : Bool) (body : List Byte) :
    (d.respond req type status ord poison body).subs = d.subs := by
  have hsent := SentOnly.respond d req type status ord poison body
  unfold SentOnly at hsent
  have hsubs := congrArg Dev.subs hsent
  exact hsubs

theorem Dev.ackWrite_subs (d : Dev) (m : FabMsg) (status : Nat) : (d.ackWrite m status).subs = d.subs := by
  unfold Dev.ackWrite
  dsimp only
  split
  · rw [Dev.respond_subs, Dev.setFlowIn_subs]
  · split
    · rw [Dev.respond_subs, Dev.setFlowIn_subs]
    · rw [Dev.setFlowIn_subs]

theorem unheld_of_empty {d : Dev} (m : FabMsg) (h : d.fabIn = []) : unheld { d with fabIn := [heldMsg m] } = unheld d := by
  unfold unheld
  rw [h]
  rfl

/-- A sub-descriptor of which one fragment has come. -/
def firstFragment (m : FabMsg) (last : Bool) : SubCtx := ⟨m.src, m.sidx, m.tag, slice m.body 0 32, m.body.drop 32, 1, last⟩

theorem Dev.takeFragment_of_first {d : Dev} {m : FabMsg} (hsubs : d.subs = []) (hfrag : fld m.body 0 2 % 2 ^ 15 = 0) :
    d.takeFragment m = some (Dev.meter { d with subs := [firstFragment m (bit (fld m.body 0 2) 15)] } (subComp m.body) 3 (msgLen m)) := by
  unfold Dev.takeFragment
  rw [hsubs]
  refine (if_neg Bool.false_ne_true).trans ((if_neg (not_not_intro hfrag)).trans ((if_neg (by decide)).trans rfl))

/-- A first fragment in turn is kept and acknowledged. -/
theorem Dev.hold_of_subdesc {d : Dev} {m : FabMsg} (htype : m.type = 6) (hempty : d.fabIn = []) (hparity : d.parityPending 0 = false) :
    d.hold m = (unheld d).ackWrite m 0 := by
  have hrun : serveMsg m (fabCtx (heldMsg m)) (servesAt d m) = (.ok [], servesAt d m) := by
    unfold serveMsg
    dsimp only
    rw [M.bind_of_ok (M.getDev_apply _ _), M.bind_of_ok (ensure_of_true (by rw [htype]; rfl) _ _ _), htype, if_neg (by decide),
      if_neg (by decide), if_neg (by decide), if_neg (by decide), if_neg (by decide), if_pos rfl]
    rfl
  have hhold : d.hold m = Dev.serveFab { d with fabIn := [heldMsg m] } (heldMsg m) := by
    unfold Dev.hold
    rw [hempty]
    rfl
  rw [hhold, Dev.serveFab_of_run hrun hparity, Dev.fabDone_of_write _ (by omega) (by rw [htype]; rfl)]
  exact congrArg (fun t : Dev => t.ackWrite m 0) (unheld_of_empty m hempty)

theorem length_slice (bs : List Byte) (off n : Nat) : (slice bs off n).length = n := by
  unfold slice
  simp only [List.length_append, List.length_replicate, List.length_take, List.length_drop]
  omega

theorem getElem?_slice (bs : List Byte) (off n i : Nat) (hi : i < n) : (slice bs off n)[i]? = some (bs.getD (off + i) 0) := by
  unfold slice
  by_cases hin : off + i < bs.length
  · rw [List.getElem?_append_left (by simp only [List.length_take, List.length_drop]; omega), List.getElem?_take_of_lt hi, List.getElem?_drop,
      List.getD_eq_getElem?_getD, List.getElem?_eq_getElem hin]
    rfl
  · rw [List.getElem?_append_right (by simp only [List.length_take, List.length_drop]; omega), List.getElem?_replicate,
      if_pos (by simp only [List.length_take, List.length_drop]; omega), List.getD_eq_getElem?_getD, List.getElem?_eq_none (Nat.not_lt.mp hin)]
    rfl

/-- Bytes cut from a cut are bytes cut from the whole, where the first cut holds them. -/
theorem slice_slice (bs : List Byte) {off n off' n' : Nat} (h : off' + n' ≤ n) : slice (slice bs off n) off' n' = slice bs (off + off') n' := by
  refine List.ext_getElem? fun i => ?_
  by_cases hi : i < n'
  · rw [getElem?_slice _ _ _ _ hi, getElem?_slice _ _ _ _ hi, List.getD_eq_getElem?_getD, getElem?_slice _ _ _ _ (by omega), Nat.add_assoc]
    rfl
  · rw [List.getElem?_eq_none (by rw [length_slice]; omega), List.getElem?_eq_none (by rw [length_slice]; omega)]

/-- A lease operation of a party of the transfer, with the extent table on, is answered as its kind says. -/
theorem gives_leaseMsg {s : State} {p : Nat} {m : FabMsg} {e d : Dev} (htype : m.type = 8) (hcomes : Comes s.dev p m e) (hext : e.extOn = true)
    (hparty : m.src = (leaseOf m.body).owner ∨ some m.src = (leaseOf m.body).peer)
    (hd : (if (leaseOf m.body).op = 8 then
        (e.xstep (leaseOf m.body)).2.2.respond m 0x87 (e.xstep (leaseOf m.body)).2.1 0 false
          (leaseBytes ((e.xstep (leaseOf m.body)).2.2.peerRecord (leaseOf m.body) (e.xstep (leaseOf m.body)).1))
      else if (leaseOf m.body).op = 9 then
        (e.xabort (leaseOf m.body)).2.respond m 0x87 0 0 false
          (leaseBytes ((e.xabort (leaseOf m.body)).2.peerRecord (leaseOf m.body) (e.xabort (leaseOf m.body)).1))
      else e.respond m 0x87 0 0 false (leaseBytes (e.peerRecord (leaseOf m.body) lrDenied))) = d) : Gives (.leaseMsg p m) s d := by
  refine gives_message (show execLeaseMsg p m s = _ from rfl) htype hcomes ((if_neg ?_).trans hd)
  rw [hext, Bool.not_true, Bool.false_or, decide_eq_true_eq]
  rintro ⟨h, h'⟩
  exact hparty.elim h h'

/-- What a sub-descriptor's run ends with is charged to its composition and answered. -/
theorem Dev.serveSub_of_run {d : Dev} {x : SubCtx} {y : SubEnd} {k : RunSt}
    (hrun : runSub x.head x.payload ⟨.fab (subId x), subComp x.head, x.src, true, bit (fld x.head 10 2) 2, none, 0, 0, true, .agent, 0, 255⟩
      ⟨d, [], 0, [], [], []⟩ = (.ok y, k)) :
    let body := leBytes 2 y.detail ++ List.replicate 6 0 ++ leBytes 8 y.rows ++ leBytes 8 y.inPlace ++ y.recs
    d.serveSub x = (((Dev.meter { k.d.subGone x with free := k.d.free + 1 } (subComp x.head) 2 (Config.free k.d.free)).meter (subComp x.head) 3
      (if k.d.routing then 16 + 8 * ceilDiv body.length 8 else 0)).respond (k.d.subReq x) 0x86 y.st 0 false body) := by
  have hrun' : d.runM _ (runSub x.head x.payload) = (.ok y, k) := hrun
  unfold Dev.serveSub
  dsimp only
  rw [hrun']
  rfl

end Sys2Proof.Machine
end

section
/-! Sub-descriptors and leases (R279, R302, R306): their obligation. -/

namespace Sys2Proof.Proofs

open Sys2Proof Sys2Proof.Machine Sys2Proof.Claims

/-- Settles O45: the fragment is kept and acknowledged, and its run ends as the hypothesis says; a lease operation is answered with the record. -/
theorem partsAndLeasesAreAnswered : Obligations.PartsAndLeasesAreAnswered := by
  unfold Obligations.PartsAndLeasesAreAnswered Does
  refine fun s p m e hcomes => ⟨fun f htype hturn hsubs hempty hparity => ?_, fun htype hext => ⟨fun hparty => ⟨?_, ?_, ?_, ?_⟩, fun howner hpeer => ?_⟩⟩
  · have hin : ∀ last, fld m.body 0 2 % 2 ^ 15 = 0 → bit (fld m.body 0 2) 15 = last → e.writeClassIn m =
        Dev.serveSubs ((unheld ((Dev.meter { e with subs := [firstFragment m last] } (fld m.body 8 2 % 1024) 3 (msgLen m)).setFlowIn
          { f with expect := (m.ord + 1) % 1024, aheadSent := false })).ackWrite m 0) := by
      rintro last hfrag rfl
      rw [Dev.writeClassIn_of_inTurn hturn]
      unfold Dev.inOrder
      rw [Dev.takeFragment_of_first hsubs hfrag]
      refine (if_pos htype).trans (congrArg Dev.serveSubs (Dev.hold_of_subdesc htype ?_ ?_))
      · rw [Dev.setFlowIn_fabIn]
        exact hempty
      · unfold Dev.parityPending
        rw [Dev.setFlowIn_parity]
        exact hparity
    have hheld : ∀ last, ((unheld ((Dev.meter { e with subs := [firstFragment m last] } (fld m.body 8 2 % 1024) 3 (msgLen m)).setFlowIn
        { f with expect := (m.ord + 1) % 1024, aheadSent := false })).ackWrite m 0).subs = [firstFragment m last] := by
      intro last
      rw [Dev.ackWrite_subs]
      exact Dev.setFlowIn_subs _ _
    refine ⟨fun hfrag => gives_message rfl htype hcomes ((hin false (by rw [hfrag] <;> rfl) (by rw [hfrag] <;> rfl)).trans ?_), fun y k hfrag hrun =>
      gives_message rfl htype hcomes ((hin true (by rw [hfrag] <;> rfl) (by rw [hfrag] <;> rfl)).trans ?_)⟩
    · unfold Dev.serveSubs
      rw [hheld]
      rfl
    · unfold Dev.serveSubs
      rw [hheld]
      have hcomp : subComp (slice m.body 0 32) = fld m.body 8 2 % 1024 := by
        unfold subComp fld
        rw [slice_slice _ (by decide)]
      refine (Dev.serveSub_of_run (x := firstFragment m true) hrun).trans ?_
      rw [show subComp (firstFragment m true).head = fld m.body 8 2 % 1024 from hcomp]
      rfl
  · refine fun h8 h9 => gives_leaseMsg htype hcomes hext hparty ((if_neg h8).trans (if_neg h9))
  · refine fun x h8 hphase hsource hst => gives_leaseMsg htype hcomes hext hparty ((if_pos h8).trans ?_)
    have hstep : e.xstep (leaseOf m.body) = (lrOk, 0, e.setExt { x with st := .moved }) := by
      unfold Dev.xstep
      rw [hphase, if_neg (by decide), if_neg (by decide), if_pos (show 3 = phCommit from rfl), hsource]
      exact if_pos (Or.inl hst)
    rw [hstep]
    rfl
  · refine fun d h8 hphase hpeer hfits hprep => gives_leaseMsg htype hcomes hext hparty ((if_pos h8).trans ?_)
    have hfits' : ((e.destOf (leaseOf m.body)).isSome && (e.asDest (leaseOf m.body)).isNone) = false := by
      rcases hfits with h | h
      · rw [h]; rfl
      · obtain ⟨x, hx⟩ := Option.ne_none_iff_exists'.mp h
        rw [hx]
        exact Bool.and_false _
    have hstep : e.xstep (leaseOf m.body) = (lrOk, 0, d) := by
      unfold Dev.xstep
      rw [if_pos (show (leaseOf m.body).phase = phPrepare from hphase), if_pos hpeer, hfits', if_neg Bool.false_ne_true, hprep]
    rw [hstep]
    rfl
  · refine fun h9 hsource hdest => gives_leaseMsg htype hcomes hext hparty ((if_neg (by omega)).trans ((if_pos h9).trans ?_))
    unfold Dev.xabort Dev.asSource Dev.asDest
    rw [hsource, hdest]
    rfl
  · refine gives_message (show execLeaseMsg p m s = _ from rfl) htype hcomes ?_
    rw [hext]
    exact if_pos (Bool.or_eq_true _ _ |>.mpr (Or.inr (decide_eq_true ⟨howner, hpeer⟩)))

end Sys2Proof.Proofs
end

section
/-! SUPPORT. Flows, requests that fail, and management packets. -/

namespace Sys2Proof.Machine

open Sys2Proof Sys2Proof.Claims

theorem Dev.disarm_fabOut (d : Dev) (who : Armer) : (d.disarm who).fabOut = d.fabOut := by
  refine foldl_keeps (fun t : Dev => t.fabOut = d.fabOut) _ ?_ _ _ rfl
  intro t pl ht
  refine Eq.trans ?_ ht
  unfold Dev.disarmLine
  dsimp only
  split
  · rfl
  · split
    · rfl
    · split
      · rfl
      · split <;> rfl

theorem Dev.noteStatus_fabOut (d : Dev) (q seq st : Nat) : (d.noteStatus q seq st).fabOut = d.fabOut := rfl

theorem Dev.finish_fabOut (d : Dev) (q seq st r0 r1 : Nat) : (d.finish q seq st r0 r1).fabOut = d.fabOut := by
  unfold Dev.finish
  dsimp only
  split <;> rfl

theorem Dev.tableEnds_fabOut (d : Dev) (i : DescId) : (d.tableEnds i).fabOut = d.fabOut := by
  unfold Dev.tableEnds
  dsimp only
  split
  · rfl
  · next t ht =>
    split
    · rfl
    · rw [Dev.finish_fabOut]
      refine foldl_keeps (fun u : Dev => u.fabOut = d.fabOut) _ ?_ _ _ (Dev.disarm_fabOut d _)
      intro u st hu
      exact hu

/-- A write of a descriptor that fails touches no other request. -/
theorem Dev.descStatus_fabOut (d : Dev) (i : DescId) (tag st : Nat) : (d.descStatus i tag st).fabOut = d.fabOut := by
  unfold Dev.descStatus
  split
  · rfl
  · split
    · exact Dev.tableEnds_fabOut _ _
    · rfl

/-- A request of a descriptor that has failed is waited for no longer. -/
theorem Dev.outFails_fabReq {d : Dev} {o : FabOut} {i : DescId} {line st : Nat} (howner : o.owner = .desc i line) :
    (d.outFails o st).fabReq o.msg.dst o.msg.sidx o.msg.tag = none := by
  have hfab : (d.outFails o st).fabOut = (d.dropOut o).fabOut := by
    unfold Dev.outFails
    rw [howner]
    dsimp only
    split
    · exact Dev.descStatus_fabOut _ _ _ _
    · split <;> rfl
  unfold Dev.fabReq
  rw [hfab, List.find?_eq_none]
  intro x hx
  have hkept := (List.mem_filter.mp hx).2
  rw [Bool.not_eq_true'] at hkept
  rw [hkept]
  exact Bool.false_ne_true

theorem Dev.setFlowOut_fabReq (d : Dev) (f : FlowOut) (dst sidx tag : Nat) : (d.setFlowOut f).fabReq dst sidx tag = d.fabReq dst sidx tag := by
  unfold Dev.setFlowOut
  split <;> rfl

/-- What a request is found by. -/
theorem Dev.fabReq_key {d : Dev} {o : FabOut} {dst sidx tag : Nat} (h : d.fabReq dst sidx tag = some o) :
    o.msg.dst = dst ∧ o.msg.sidx = sidx ∧ o.msg.tag = tag := by
  have hkey := List.find?_some h
  rw [Bool.and_eq_true, Bool.and_eq_true, beq_iff_eq, beq_iff_eq, beq_iff_eq] at hkey
  exact ⟨hkey.1.1, hkey.1.2, hkey.2⟩

/-- A key that a map holds, a write of a greater key leaves as it is. -/
theorem smGet?_smPut_of_lt {α : Type} [DecidableEq α] (d : α) {j k : Nat} (hlt : k < j) (v : α) {m : SMap α} {w : α} (h : smGet? k m = some w) :
    smGet? k (smPut d j v m) = some w := by
  unfold smPut
  induction m with
  | nil => exact absurd h (by simp [smGet?])
  | cons a m ih =>
    obtain ⟨i, u⟩ := a
    rw [smGet?] at h
    split at ih <;> rename_i hv
    · rw [smErase]
      by_cases hij : i = j
      · rw [if_neg (by omega), if_pos (by omega)] at h
        exact absurd h (by simp)
      · by_cases hji : j < i
        · rw [if_neg (by omega), if_pos (by omega)] at h
          exact absurd h (by simp)
        · rw [if_pos hv, if_neg hij, if_neg hji, smGet?]
          split at h
          · next hik => rw [if_pos hik]; exact h
          · next hik =>
            split at h
            · exact absurd h (by simp)
            · next hki => rw [if_neg hik, if_neg hki]; exact ih h
    · rw [if_neg hv, smSet]
      by_cases hij : i = j
      · rw [if_neg (by omega), if_pos (by omega)] at h
        exact absurd h (by simp)
      · by_cases hji : j < i
        · rw [if_neg (by omega), if_pos (by omega)] at h
          exact absurd h (by simp)
        · rw [if_neg hij, if_neg hji, smGet?]
          split at h
          · next hik => rw [if_pos hik]; exact h
          · next hik =>
            split at h
            · exact absurd h (by simp)
            · next hki => rw [if_neg hik, if_neg hki]; exact ih h

/-- Where SVC does not have its reset value, a bring-up leaves it. -/
theorem Dev.applyBringup_svc {d : Dev} (span worst : Nat) (h : d.svc ≠ 1) : (d.applyBringup span worst).svc ≠ 1 := by
  have hreset : regReset 0x200C = 1 := by decide +kernel
  cases hw : smGet? 0x200C d.regs with
  | none =>
    refine absurd ?_ h
    unfold Dev.svc Dev.rf Dev.reg smGet
    rw [hw, hreset]
    rfl
  | some w =>
    have hkept : smGet? 0x200C (d.applyBringup span worst).regs = some w := by
      unfold Dev.applyBringup
      dsimp only
      refine smGet?_smPut_of_lt _ (by decide) _ ?_
      split <;> exact smGet?_smPut_of_lt _ (by decide) _ (smGet?_smPut_of_lt _ (by decide) _ hw)
    unfold Dev.svc Dev.rf Dev.reg smGet at h ⊢
    rw [hkept]
    rw [hw] at h
    exact h

/-- A management packet that is let in is to be handled. -/
theorem mgTake_of_comes {d e : Dev} {p : Nat} {m : FabMsg} (h : MgmtComes d p m e) : d.mgTake p m = (true, e) := by
  unfold Dev.mgTake
  obtain ⟨htype, h⟩ := h
  rw [if_neg (not_not_intro htype)]
  rcases h with ⟨hin, rfl⟩ | ⟨hin, hp, hup, hadmits, rfl⟩
  · rw [if_pos (List.contains_iff_mem.mpr hin)]
  · have hport : ¬ (decide (p ≥ 16) || ! e.portUp p) = true := by
      rw [hup, decide_eq_false (Nat.not_le.mpr hp)]
      decide
    rw [if_neg (fun hc => hin (List.contains_iff_mem.mp hc)), if_neg hport, hadmits]

/-- A packet of an operation at the end of its route is for this node. -/
theorem mgHere_of_end {m : FabMsg} {op : Nat} (hrsp : mgRsp m.body = false) (hend : mgHops m.body ≤ mgPtr m.body) (hop : mgOp m.body = op) :
    ¬ (! mgHere m op) = true := by
  unfold mgHere
  rw [hrsp, decide_eq_true hend, hop, beq_self_eq_true]
  decide

end Sys2Proof.Machine
end

section
/-! Answers, timers and management packets (R277, R280 to R283, R285, R286, R293, R417): their obligations. -/

namespace Sys2Proof.Proofs

open Sys2Proof Sys2Proof.Machine Sys2Proof.Claims

/-- An answer to a request of its type is taken by its effect. -/
theorem answer_of_req {d : Dev} {m : FabMsg} {o : FabOut} (h : d.fabReq m.src m.sidx m.tag = some o) (f : FabOut → Dev → Dev) :
    d.answer m o.msg.type f = f o (d.chargeIn m) := by
  unfold Dev.answer
  rw [h]
  exact if_pos rfl

section
variable {c : Instr} {s : State} {p type rtype : Nat} {m : FabMsg} {e d : Dev} {o : FabOut} {f : FabOut → Dev → Dev}

theorem gives_answer (hexec : exec c s = s.message type p m (fun d => d.answer m rtype f)) (htype : m.type = type) (hcomes : Comes s.dev p m e)
    (hreq : e.fabReq m.src m.sidx m.tag = some o) (hrtype : o.msg.type = rtype) (hd : f o (e.chargeIn m) = d) : Gives c s d := by
  subst hrtype
  exact gives_message hexec htype hcomes ((answer_of_req hreq f).trans hd)

end

/-- Settles O46: an answer finds its request, or its flow. -/
theorem answersReachTheirRequests : Obligations.AnswersReachTheirRequests := by
  unfold Obligations.AnswersReachTheirRequests
  refine fun s p m e hcomes => ⟨fun o hreq => ⟨?_, ?_, ?_, ?_, ?_, ?_⟩, ?_, ?_, ?_, ?_⟩
  · refine fun htype hrtype => ⟨fun i l howner hst => ?_, fun hst => ?_⟩
    · refine gives_answer (show execRdData p m s = _ from rfl) htype hcomes hreq hrtype ?_
      rw [if_neg (not_not_intro hst), howner]
    · exact gives_answer (show execRdData p m s = _ from rfl) htype hcomes hreq hrtype (if_pos hst)
  · refine fun htype hrtype hst => ⟨fun hnone => ?_, fun ks hks => ?_⟩
    · refine gives_answer (show execBulkData p m s = _ from rfl) htype hcomes hreq hrtype ((if_neg (not_not_intro hst)).trans (if_neg ?_))
      rw [List.all_eq_true]
      exact fun h => absurd (h none hnone) (by decide)
    · refine gives_answer (show execBulkData p m s = _ from rfl) htype hcomes hreq hrtype ((if_neg (not_not_intro hst)).trans ((if_pos ?_).trans ?_))
      · rw [hks, List.all_map, List.all_eq_true]
        exact fun _ _ => rfl
      · rw [hks, List.filterMap_map]
        exact congrArg _ List.filterMap_some
  · refine fun i key htype hrtype howner => gives_answer (show execAtomData p m s = _ from rfl) htype hcomes hreq hrtype ?_
    rw [howner]
  · refine fun i htype hrtype howner => gives_answer (show execPartialMsg p m s = _ from rfl) htype hcomes hreq hrtype ?_
    rw [howner]
  · refine fun htype hrtype => ⟨fun i key howner => ?_, fun id howner hst => ?_⟩
    · refine gives_answer (show execLeaseRsp p m s = _ from rfl) htype hcomes hreq hrtype ?_
      rw [howner]
    · refine gives_answer (show execLeaseRsp p m s = _ from rfl) htype hcomes hreq hrtype ?_
      rw [howner]
      exact if_pos hst
  · refine fun n b t0 htype hrtype howner hbring hsent => gives_answer (show execEchoRsp p m s = _ from rfl) htype hcomes hreq hrtype ?_
    dsimp only
    rw [howner, hbring]
    dsimp only
    rw [hsent]
  · exact fun htype => gives_message (show execWrdone p m s = _ from rfl) htype hcomes rfl
  · refine fun htype => ⟨fun hst => gives_message (show execWrack p m s = _ from rfl) htype hcomes (if_pos hst), fun x o hst hlast hreq => ?_⟩
    refine gives_message (show execWrack p m s = _ from rfl) htype hcomes ?_
    dsimp only
    rw [if_neg hst, hlast, Option.bind_some, hreq]
  · refine fun htype => ⟨fun f i hreason hflow hord => ?_, fun hreason => ?_, fun hreason => ?_⟩
    · refine gives_message (show execFlownak p m s = _ from rfl) htype hcomes ((if_pos hreason).trans ?_)
      rw [hflow, Option.bind_some, hord]
    · exact gives_message (show execFlownak p m s = _ from rfl) htype hcomes ((if_neg (by omega)).trans (if_pos hreason))
    · exact gives_message (show execFlownak p m s = _ from rfl) htype hcomes ((if_neg (by omega)).trans (if_neg (by omega)))
  · intro d f i hflow hord
    unfold Dev.ackFlow
    rw [hflow]
    dsimp only
    rw [hord]

/-- Settles O47: each timer has its effect. -/
theorem fabricTimersAct : Obligations.FabricTimersAct := by
  unfold Obligations.FabricTimersAct
  refine fun s => ⟨fun src sidx f hflow htimer => ?_, fun node sidx => ⟨fun hnone => ?_, ?_⟩, fun dst sidx tag o hreq => ⟨fun hread => ⟨?_, ?_⟩, ?_, ?_⟩,
    fun p m q hp => ⟨fun hfind => ?_, fun hfind htype => ?_⟩⟩
  · refine gives_onDev (show execWrdoneTimer src sidx s = _ from rfl) ?_
    rw [hflow]
    exact if_neg (by rw [htimer]; decide)
  · refine gives_onDev (show execFlowExpiry true node sidx s = _ from rfl) ((if_pos rfl).trans (if_neg ?_))
    rw [hnone]
    exact Bool.false_ne_true
  · exact gives_onDev (show execFlowExpiry false node sidx s = _ from rfl) (if_neg Bool.false_ne_true)
  · refine gives_onDev (show execE2eResend dst sidx tag s = _ from rfl) ?_
    rw [hreq]
    exact if_neg (by rw [hread]; exact Bool.false_ne_true)
  · refine gives_onDev (show execFabReqTmoExpiry dst sidx tag s = _ from rfl) ?_
    rw [hreq]
    exact if_pos (by rw [hread]; rfl)
  · rintro f hwrite hflow ⟨m, hm, htag⟩
    refine gives_onDev (show execE2eResend dst sidx tag s = _ from rfl) ?_
    rw [hreq]
    dsimp only
    rw [hflow]
    refine if_pos ?_
    rw [hwrite, Bool.true_and, List.any_eq_true]
    exact ⟨m, hm, beq_iff_eq.mpr htag⟩
  · refine fun f i line hwrite howner hflow hun => gives_onDev (show execFabReqTmoExpiry dst sidx tag s = _ from rfl) ?_
    obtain ⟨hdst, hsidx, htag⟩ := Dev.fabReq_key hreq
    have hend : s.dev.endFlow dst sidx = ([o.msg], s.dev.setFlowOut { f with unacked := [], fresh := true }) := by
      unfold Dev.endFlow
      rw [hflow, ← hun]
    rw [hreq]
    refine (if_neg (by rw [hwrite]; decide)).trans ?_
    rw [hend]
    dsimp only [List.foldl_cons, List.foldl_nil]
    rw [hdst, hsidx, htag, Dev.setFlowOut_fabReq, hreq]
    dsimp only
    have hnone := Dev.outFails_fabReq (d := s.dev.setFlowOut { f with unacked := [], fresh := true }) (st := 12) howner
    rw [hdst, hsidx, htag] at hnone
    rw [show stTimeout = 12 from rfl, hnone]
  · refine gives_onDev (show execAgeDiscard p m s = _ from rfl) ((if_neg (Nat.not_le.mpr hp)).trans ?_)
    rw [hfind]
    rfl
  · refine gives_onDev (show execMgmtForwardTmo p m s = _ from rfl) ((if_neg ?_).trans ?_)
    · rw [htype, decide_eq_false (Nat.not_le.mpr hp)]
      decide
    · rw [hfind]
      rfl

/-- BRINGUP that has heard every node decides by the span and the worst round trip. -/
theorem gives_bringupComplete {s : State} {b : Bringup} (hbring : s.dev.bringup = some b) (hsvc : s.dev.svc ≠ 1)
    (hecho : ∀ o ∈ s.dev.fabOut, ∀ n, o.owner ≠ .echo n) (hheard : ∀ n ∈ b.nodes, ∃ x ∈ b.rtts, x.1 = n) :
    let worst := b.nodes.foldl (fun a n => max a (median ((b.rtts.filter (fun x => x.1 == n)).map (·.2)))) 0
    let t := Dev.applyBringup { s.dev with bringup := none } (b.nodes.length + 1) worst
    Gives .bringupComplete s t ∧ t.span = b.nodes.length + 1 := by
  have hnone : s.dev.fabOut.any (fun o => match o.owner with | .echo _ => true | _ => false) = false := by
    rw [List.any_eq_false]
    intro o ho
    cases howner : o.owner with
    | echo n => exact absurd howner (hecho o ho n)
    | _ => exact Bool.false_ne_true
  have hall : ∀ n ∈ b.nodes, ((b.rtts.filter (fun x => x.1 == n)).map (·.2)).isEmpty = false := by
    intro n hn
    obtain ⟨x, hx, hxn⟩ := hheard n hn
    rw [List.isEmpty_eq_false_iff]
    exact List.ne_nil_of_mem (List.mem_map_of_mem (List.mem_filter.mpr ⟨hx, beq_iff_eq.mpr hxn⟩))
  have hhere : b.nodes.filter (fun n => ! ((b.rtts.filter (fun x => x.1 == n)).map (·.2)).isEmpty) = b.nodes :=
    List.filter_eq_self.mpr fun n hn => by rw [hall n hn]; rfl
  have hgone : b.nodes.filter (fun n => ((b.rtts.filter (fun x => x.1 == n)).map (·.2)).isEmpty) = [] :=
    List.filter_eq_nil_iff.mpr fun n hn => by rw [hall n hn]; exact Bool.false_ne_true
  refine ⟨gives_onDev (show execBringupComplete s = _ from rfl) ?_, rfl⟩
  rw [hbring]
  dsimp only
  refine (if_neg (Bool.eq_false_iff.mp hnone)).trans ?_
  rw [hhere, hgone, List.foldl_nil, if_neg (Dev.applyBringup_svc (d := { s.dev with bringup := none }) _ _ hsvc)]

/-- Settles O48: a packet is taken and handled by its operation; BRINGUP starts and ends. -/
theorem managementActs : Obligations.ManagementActs := by
  unfold Obligations.ManagementActs
  refine fun s => ⟨fun p m e hcomes => ⟨fun hrsp hhop hmax => ?_, fun hrsp hptr => ?_, fun hrsp hptr => ?_,
    fun hrsp hend => ⟨fun hop haddr => ?_, fun hop haddr => ?_, fun v t hop hread => ?_, fun t hop huid haccess hready => ?_, fun hop huid => ?_,
      fun hop => ?_⟩⟩, fun path hpass => ?_, fun b hbring hsvc hecho hheard => ?_⟩
  · refine gives_onDev (show execMgmtForward p m s = _ from rfl) ((if_neg ?_).trans ?_)
    · rw [hrsp, decide_eq_false (by omega)]
      decide
    · rw [mgTake_of_comes hcomes]
      show e.mgForward p m = _
      unfold Dev.mgForward
      exact if_neg (by rw [hrsp]; exact Bool.false_ne_true)
  · refine gives_onDev (show execMgmtForward p m s = _ from rfl) ((if_neg (by rw [hrsp]; exact Bool.false_ne_true)).trans ?_)
    rw [mgTake_of_comes hcomes]
    show e.mgForward p m = _
    unfold Dev.mgForward
    exact (if_pos hrsp).trans (if_pos hptr)
  · refine gives_onDev (show execMgmtForward p m s = _ from rfl) ((if_neg (by rw [hrsp]; exact Bool.false_ne_true)).trans ?_)
    rw [mgTake_of_comes hcomes]
    show e.mgForward p m = _
    unfold Dev.mgForward
    exact (if_pos hrsp).trans (if_neg (by omega))
  · refine gives_onDev (show execReadNbr p m s = _ from rfl) ((if_neg (mgHere_of_end hrsp hend hop)).trans ?_)
    rw [mgTake_of_comes hcomes]
    exact if_neg (by omega)
  · refine gives_onDev (show execReadNbr p m s = _ from rfl) ((if_neg (mgHere_of_end hrsp hend hop)).trans ?_)
    rw [mgTake_of_comes hcomes]
    exact if_pos haddr
  · show execReadReg p m s = _
    unfold execReadReg
    rw [if_neg (mgHere_of_end hrsp hend hop), mgTake_of_comes hcomes]
    dsimp only
    rw [hread]
  · show execWriteReg p m s = _
    unfold execWriteReg
    rw [if_neg (mgHere_of_end hrsp hend hop), mgTake_of_comes hcomes]
    dsimp only
    rw [if_neg (not_not_intro huid), haccess]
    dsimp only
    rw [hready]
    rfl
  · show execWriteReg p m s = _
    unfold execWriteReg
    rw [if_neg (mgHere_of_end hrsp hend hop), mgTake_of_comes hcomes]
    dsimp only
    rw [if_pos huid]
  · refine gives_onDev (show execMgmtEcho p m s = _ from rfl) ((if_neg (mgHere_of_end hrsp hend hop)).trans ?_)
    rw [mgTake_of_comes hcomes]
  · refine gives_onPathDev rfl hpass ?_
    have hrf : (fresh s.dev path).rf 0x10004 0 0 = s.dev.rf 0x10004 0 0 := rfl
    have hlt : s.dev.rf 0x10004 0 0 < 2 := Nat.mod_lt _ (by decide)
    have hstart : bit (2 + s.dev.rf 0x10004 0 0) 1 = true := by
      rcases Nat.lt_succ_iff_lt_or_eq.mp hlt with hzero | hone
      · rw [Nat.lt_one_iff.mp hzero]
        decide
      · rw [hone]
        decide
    have hrouter : bits (2 + s.dev.rf 0x10004 0 0) 0 0 = s.dev.rf 0x10004 0 0 := by
      rcases Nat.lt_succ_iff_lt_or_eq.mp hlt with hzero | hone
      · rw [Nat.lt_one_iff.mp hzero]
        decide
      · rw [hone]
        decide
    unfold Dev.writeFabCtrl
    rw [hrf, hrouter]
    exact if_pos hstart
  · exact gives_bringupComplete hbring hsvc hecho hheard

end Sys2Proof.Proofs
end

section
/-! Extents and casks (R301 to R338, R343, R403, R405): their obligations. -/

namespace Sys2Proof.Proofs

open Sys2Proof Sys2Proof.Machine Sys2Proof.Claims

/-- A read that a lapsed extent still serves: it was accepted before the lease ran out. -/
def acceptedRead : MemReq := .devRead .turntable 0 false false 0

/-- An extent with its lease held, and a read of its first line that waits. -/
def leasedWithReadWaiting : State :=
  { State.reset with dev := { Dev.reset with
    extents := [⟨0, 7, 1, 0, 2, 9, .active, true, none⟩]
    leases := [⟨7, true, false, false⟩]
    refused := [⟨acceptedRead, 0, 1, none, none⟩] } }

/-- Refutes O49: as the lease runs out the block notes the read that waits as one that is still served, where the statement has only the lease
and the entry's state change. -/
theorem not_extentsLiveByTheirLeases : ¬ Obligations.ExtentsLiveByTheirLeases := by
  unfold Obligations.ExtentsLiveByTheirLeases
  intro hclaim
  obtain ⟨hlease, -⟩ := hclaim leasedWithReadWaiting
  obtain ⟨-, -, hexpire, -⟩ := hlease 7 ⟨0, 7, 1, 0, 2, 9, .active, true, none⟩ (by decide) rfl
  obtain ⟨hactive, -⟩ := hexpire (by decide)
  have hgives := hactive (Or.inl rfl)
  have hnoted : (match exec (.leaseExpire 7) leasedWithReadWaiting with | .next u => u.dev.lapseOk | _ => []) = [(7, acceptedRead)] := by
    decide +kernel
  unfold Gives at hgives
  rw [hgives] at hnoted
  exact absurd hnoted (by decide +kernel)

/-- A command of a slot that passes its path has the effect of its OP. -/
theorem gives_cskCommand {c : Instr} {s : State} {path : Path} {n op : Nat} {c' : Instr} {d : Dev} (hn : n < 4) (hpass : PassesGo s.dev path)
    (hexec : exec c s = s.cskCommand path n op c') (hd : (fresh s.dev path).cskGo n op = d) : Gives c s d :=
  gives_onPathDev hexec hpass (by rw [if_pos hn]; exact hd)

/-- Settles O50: each command finds the slot as its hypotheses say. -/
theorem caskCommandsAct : Obligations.CaskCommandsAct := by
  unfold Obligations.CaskCommandsAct
  refine fun s path n hn hpass => ⟨?_, fun k hcask hrail => ⟨fun hcode hbusy => ?_, fun hread hbusy => ?_, fun hbusy => ?_, fun hcode hbusy hempty => ?_,
    fun hcode hbusy => ?_, fun hcode hreason hbusy => ?_, fun hcode hreason hen hbusy => ?_, fun hcode hbusy hempty hroom => ?_⟩⟩
  · rintro op c (⟨rfl, rfl⟩ | ⟨rfl, rfl⟩ | ⟨rfl, rfl⟩ | ⟨rfl, rfl⟩ | ⟨rfl, rfl⟩ | ⟨rfl, rfl⟩ | ⟨rfl, rfl⟩) hnone
    · refine gives_cskCommand hn hpass rfl ?_
      show (cskOp s.dev path n 1).adopt n = (cskOp s.dev path n 1).cskErr n
      unfold Dev.adopt
      dsimp only
      rw [hnone]
    · refine gives_cskCommand hn hpass rfl ?_
      refine (if_neg ?_ : (cskOp s.dev path n 2).evacuate n = (cskOp s.dev path n 2).cskErr n)
      unfold SlotSt.readable
      rw [hnone]
      exact Bool.false_ne_true
    · refine gives_cskCommand hn hpass rfl ?_
      refine (if_neg ?_ : (cskOp s.dev path n 3).release n = (cskOp s.dev path n 3).cskErr n)
      rw [hnone]
      exact Bool.false_ne_true
    · refine gives_cskCommand hn hpass rfl ?_
      refine (if_neg ?_ : (cskOp s.dev path n 4).retire n = (cskOp s.dev path n 4).cskErr n)
      unfold SlotSt.code
      rw [hnone, show ((0 == 2 || 0 == 3 : Bool)) = false from rfl, Bool.and_false, Bool.false_and, Bool.false_and]
      exact Bool.false_ne_true
    · refine gives_cskCommand hn hpass rfl ?_
      show (cskOp s.dev path n 5).erase n = (cskOp s.dev path n 5).cskErr n
      unfold Dev.erase
      dsimp only
      rw [hnone]
    · refine gives_cskCommand hn hpass rfl ?_
      show (cskOp s.dev path n 6).importCask n = (cskOp s.dev path n 6).cskErr n
      unfold Dev.importCask
      dsimp only
      rw [hnone]
    · refine gives_cskCommand hn hpass rfl ?_
      show (cskOp s.dev path n 7).forget n = (cskOp s.dev path n 7).cskErr n
      unfold Dev.forget
      dsimp only
      rw [hnone]
  · refine gives_cskCommand hn hpass rfl ?_
    show (cskOp s.dev path n 1).adopt n = _
    unfold Dev.adopt
    rw [show (cskOp s.dev path n 1).slot n = s.dev.slot n from rfl]
    dsimp only
    rw [hcask]
    refine if_pos ?_
    rw [hrail, hcode, hbusy]
    rfl
  · refine gives_cskCommand hn hpass rfl ?_
    refine (if_pos ?_ : (cskOp s.dev path n 2).evacuate n = _)
    rw [show (cskOp s.dev path n 2).slot n = s.dev.slot n from rfl, hread, hbusy]
    rfl
  · refine gives_cskCommand hn hpass rfl ?_
    refine (if_pos ?_ : (cskOp s.dev path n 3).release n = _)
    rw [show (cskOp s.dev path n 3).slot n = s.dev.slot n from rfl, hcask, hrail]
    exact bne_iff_ne.mpr hbusy
  · refine gives_cskCommand hn hpass rfl ?_
    show (cskOp s.dev path n 4).retire n = _
    unfold Dev.retire
    rw [show (cskOp s.dev path n 4).slot n = s.dev.slot n from rfl, show (cskOp s.dev path n 4).caskFrames n = s.dev.caskFrames n from rfl]
    dsimp only
    rw [hcask]
    refine if_pos ?_
    rw [hrail, hbusy, hempty]
    rcases hcode with h | h <;> rw [h] <;> rfl
  · refine gives_cskCommand hn hpass rfl ?_
    show (cskOp s.dev path n 5).erase n = _
    unfold Dev.erase
    rw [show (cskOp s.dev path n 5).slot n = s.dev.slot n from rfl]
    dsimp only
    rw [hcask]
    dsimp only
    rw [hrail, hbusy, hcode]
    rfl
  · refine gives_cskCommand hn hpass rfl ?_
    show (cskOp s.dev path n 5).erase n = _
    unfold Dev.erase
    rw [show (cskOp s.dev path n 5).slot n = s.dev.slot n from rfl]
    dsimp only
    rw [hcask]
    dsimp only
    rw [hrail, hbusy, if_neg (by decide), if_pos ⟨hcode, hreason⟩]
    rfl
  · refine gives_cskCommand hn hpass rfl ?_
    show (cskOp s.dev path n 6).importCask n = _
    unfold Dev.importCask
    rw [show (cskOp s.dev path n 6).slot n = s.dev.slot n from rfl]
    dsimp only
    rw [hcask]
    refine if_pos ?_
    rw [hrail, hbusy, hcode, hen]
    rcases hreason with h | h <;> rw [h] <;> rfl
  · refine gives_cskCommand hn hpass rfl ?_
    show (cskOp s.dev path n 7).forget n = _
    unfold Dev.forget
    rw [show (cskOp s.dev path n 7).slot n = s.dev.slot n from rfl, show (cskOp s.dev path n 7).caskFrames n = s.dev.caskFrames n from rfl,
      show (cskOp s.dev path n 7).deny = s.dev.deny from rfl]
    dsimp only
    rw [hcask]
    refine if_pos ?_
    rw [hrail, hbusy, hempty, decide_eq_true hroom]
    rcases hcode with h | h | h <;> rw [h] <;> rfl

/-- Settles O51: each command and event finds the slot as its hypotheses say. -/
theorem casksComeWearAndGo : Obligations.CasksComeWearAndGo := by
  unfold Obligations.CasksComeWearAndGo
  refine fun s n hn => ⟨fun c hdetect hremoved => ?_, fun c hcask hreason hstate hhome => ?_, fun hload hrail => ?_, fun hdetect hstop hwake => ?_,
    fun hdetect hpower => ?_, fun hrail => ?_, rfl, rfl, fun c die hcask hdie hrail hfresh hgroups => ?_, fun hrail hcode hevac => ?_,
    fun v w c => ?_, fun c hcask hlife hchecked hworn => ?_, fun hrail hcode => ?_, fun _ _ _ => rfl⟩
  · refine gives_onDev (f := fun d => d.insertCask n c) rfl ?_
    have hgo : ¬ (decide (n ≥ 4) || (s.dev.slot n).detect) = true := by
      rw [hdetect, decide_eq_false (Nat.not_le.mpr hn)]
      decide
    have hnot : s.dev.power.removed.contains n = false := by
      rw [← Bool.not_eq_true, List.contains_iff_mem]
      exact hremoved
    unfold Dev.insertCask
    rw [if_neg hgo, hnot]
    rfl
  · have hbound : ((0 : Nat) == 0 && (c.state == 2 || c.state == 3)) = true := by
      rcases hstate with h | h <;> rw [h] <;> rfl
    have hwrong : (c.homeSlot != n) = false := by rw [hhome, bne_self_eq_false]
    unfold Dev.raiseCask
    dsimp only
    split
    · next hnone => exact absurd (hnone.symm.trans hcask) (by simp)
    · next c' hsome =>
      obtain rfl : c' = c := Option.some.inj (hsome.symm.trans hcask)
      rw [hreason, hbound, hwrong, show (true && false) = false from rfl, Bool.or_false, if_pos (by decide)]
      rfl
  · refine gives_onDev (show execCaskFtlLoaded n s = _ from rfl) (if_neg ?_)
    rw [hload, hrail]
    decide
  · refine gives_onDev (f := fun d => d.pullCask n) rfl ((if_neg (by rw [hdetect]; decide)).trans (if_neg ?_))
    rintro (h | h)
    · exact hstop h
    · exact hwake h
  · exact gives_onDev (f := fun d => d.pullCask n) rfl ((if_neg (by rw [hdetect]; decide)).trans (if_pos hpower))
  · exact gives_onDev (show execCaskBranchOvercurrent n s = _ from rfl) (if_neg (by rw [hrail]; decide))
  · refine gives_onDev (f := fun d => d.dieFails n die) rfl ?_
    have hmates : c.failedDies.filter (fun x => dieGroup x == dieGroup die) = [] :=
      List.filter_eq_nil_iff.mpr fun y hy => by rw [beq_iff_eq]; exact hgroups y hy
    have hgo : ¬ (decide (die ≥ 128) || ! (s.dev.slot n).rail || c.failedDies.contains die) = true := by
      rw [hrail, decide_eq_false (Nat.not_le.mpr hdie), Bool.or_eq_true, List.contains_iff_mem]
      exact fun h => h.elim (fun h => absurd h (by decide)) hfresh
    unfold Dev.dieFails
    rw [hcask]
    dsimp only
    rw [if_neg hgo, hmates, List.foldl_nil]
  · refine gives_onDev (f := fun d => d.caskWears n) rfl ?_
    have hgo : ¬ (! (s.dev.slot n).rail || (s.dev.slot n).code != 2) = true := by
      rw [hrail, hcode]
      decide
    unfold Dev.caskWears
    refine (if_neg hgo).trans (if_neg ?_)
    rintro ⟨h, -⟩
    exact absurd (h.symm.trans hevac) (by decide)
  · by_cases heven : v % 2 = 0
    · refine Or.inl ?_
      unfold wornSpare
      rw [if_pos heven]
      show min c.spare (w % 1024) < 1024
      omega
    · refine Or.inr ?_
      unfold wornSpare
      rw [if_neg heven]
      show min c.groupSpare (w % 64) < 64
      omega
  · refine gives_onDev (show execCaskLifeReached n s = _ from rfl) ?_
    split
    · next c' hsome =>
      obtain rfl : c' = c := Option.some.inj (hsome.symm.trans hcask)
      refine if_neg ?_
      rw [hlife, hchecked, Bool.or_eq_true, decide_eq_true_eq]
      rintro (h | h)
      · exact absurd h (by decide)
      · exact absurd h (Nat.not_lt.mpr hworn)
    · next hnone => exact absurd (hnone.symm.trans hcask) (by simp)
  · refine gives_onDev (show execCaskCounterWrite n s = _ from rfl) (if_pos ?_)
    rw [hrail]
    rcases hcode with h | h <;> rw [h] <;> rfl

end Sys2Proof.Proofs
end

section
/-! Errors, scores and retirement (R341, R343 to R346, R350, R351, R355): their obligation. -/

namespace Sys2Proof.Proofs

open Sys2Proof Sys2Proof.Machine Sys2Proof.Claims

/-- Halving keeps each location's counts, and its warning where the score still reaches WARN. -/
theorem halvedScores_spec (d : Dev) :
    (∀ p ∈ d.halvedScores, ∃ q ∈ d.scores, p.1 = q.1 ∧ p.2.score = q.2.score / 2 ∧ p.2.ce = q.2.ce ∧ p.2.ue = q.2.ue ∧
      (p.2.warned = true ↔ q.2.warned = true ∧ 65536 * d.thrWarn (locKind q.1) ≤ 2 * (q.2.score / 2))) ∧
    (∀ q ∈ d.scores, 2 ≤ q.2.score → ∃ p ∈ d.halvedScores, p.1 = q.1) := by
  constructor
  · intro p hp
    obtain ⟨hmem, -⟩ := List.mem_filter.mp hp
    obtain ⟨q, hq, rfl⟩ := List.mem_map.mp hmem
    refine ⟨q, hq, rfl, rfl, rfl, rfl, ?_⟩
    rw [Bool.and_eq_true, decide_eq_true_eq]
  · intro q hq hscore
    refine ⟨_, List.mem_filter.mpr ⟨List.mem_map_of_mem hq, ?_⟩, rfl⟩
    rw [bne_iff_ne]
    intro hzero
    have := congrArg LocScore.score hzero
    have hhalf : q.2.score / 2 = 0 := this
    omega

section
variable {s : State} {loc : Nat} (hexists : s.dev.locExists loc = true)
include hexists

/-- A location that has been warned of, or whose score is below WARN, is left as it is. -/
theorem gives_scoreWarn_none (h : (s.dev.score loc).warned = true ∨ (s.dev.score loc).score < 65536 * s.dev.thrWarn (locKind loc)) :
    Gives (.scoreWarn loc) s s.dev := by
  refine gives_onDev (f := fun d => d.warnAt loc) rfl (if_pos ?_)
  rw [hexists, Bool.or_eq_true, Bool.or_eq_true, decide_eq_true_eq]
  rcases h with h | h
  · exact Or.inl (Or.inr h)
  · exact Or.inr h

theorem gives_scoreWarn {d : Dev} (hwarned : (s.dev.score loc).warned = false) (hscore : 65536 * s.dev.thrWarn (locKind loc) ≤ (s.dev.score loc).score)
    (hd : (let e := (s.dev.event .scoreWarn (s.dev.locFields loc)).setScore loc { s.dev.score loc with warned := true }
      match warnUnit loc with
      | some u => if e.calSched.contains u then e else { e with calSched := e.calSched ++ [u] }
      | none =>
        let p := locIndex loc
        if locKind loc = 3 ∧ ((e.port p).st = .up ∨ (e.port p).st = .doze) then e.leavePort p .training else e) = d) : Gives (.scoreWarn loc) s d := by
  refine gives_onDev (f := fun d => d.warnAt loc) rfl ((if_neg ?_).trans hd)
  rw [hexists, hwarned, Bool.or_eq_true, Bool.or_eq_true, decide_eq_true_eq]
  rintro ((h | h) | h)
  · exact absurd h (by decide)
  · exact absurd h (by decide)
  · exact absurd h (Nat.not_lt.mpr hscore)

theorem gives_scoreLimit_none (h : s.dev.thrLimit (locKind loc) = 0 ∨ (s.dev.score loc).score < 65536 * s.dev.thrLimit (locKind loc) ∨
    s.dev.limited loc = true) : Gives (.scoreLimit loc) s s.dev := by
  refine gives_onDev (f := fun d => d.limitAt loc) rfl (if_pos ?_)
  rw [hexists, Bool.or_eq_true, Bool.or_eq_true, Bool.or_eq_true, decide_eq_true_eq, decide_eq_true_eq]
  rcases h with h | h | h
  · exact Or.inl (Or.inl (Or.inr h))
  · exact Or.inl (Or.inr h)
  · exact Or.inr h

theorem gives_scoreLimit {d : Dev} (hpos : 0 < s.dev.thrLimit (locKind loc))
    (hscore : 65536 * s.dev.thrLimit (locKind loc) ≤ (s.dev.score loc).score) (hfree : s.dev.limited loc = false)
    (hd : (let i := locIndex loc
      let e := s.dev.event .scoreLimit (s.dev.locFields loc)
      match locKind loc with
      | 0 => (e.beginRetire i).retireStep
      | 1 => { e with fencedBays := nsAdd i e.fencedBays }
      | 2 => { e with fencedScan := nsAdd i e.fencedScan }
      | 3 =>
        let e := { e with fencedPorts := nsAdd i e.fencedPorts }
        if (e.port i).module then e.restPort i else e
      | _ => { e with retiredDies := nsAdd i e.retiredDies }.rebuildDie (i / 128)) = d) : Gives (.scoreLimit loc) s d := by
  refine gives_onDev (f := fun d => d.limitAt loc) rfl ((if_neg ?_).trans ?_)
  · rw [hexists, hfree, Bool.or_eq_true, Bool.or_eq_true, Bool.or_eq_true, decide_eq_true_eq, decide_eq_true_eq]
    rintro (((h | h) | h) | h)
    · exact absurd h (by decide)
    · exact absurd h (by omega)
    · exact absurd h (Nat.not_lt.mpr hscore)
    · exact absurd h (by decide)
  · exact hd

theorem gives_mgtUnfence {path : Path} {d : Dev} (hpass : PassesGo s.dev path) (hloc : loc < 4096)
    (hd : (let i := locIndex loc
      let e := fresh s.dev path
      let zero (e : Dev) : Dev := e.setScore loc { s.dev.score loc with score := 0, warned := false }
      match locKind loc with
      | 1 => zero { e with fencedBays := nsDel i e.fencedBays }
      | 2 => zero { e with fencedScan := nsDel i e.fencedScan }
      | 3 =>
        let was := s.dev.fencedPorts.contains i
        let e := zero { e with fencedPorts := nsDel i e.fencedPorts }
        if was && (s.dev.port i).st == .disabled then e.restPort i else e
      | 5 => zero e
      | _ => e) = d) : Gives (.mgtUnfence path loc) s d := by
  refine gives_onPathDev rfl hpass ?_
  rw [Nat.mod_eq_of_lt hloc]
  have hexists' : (fresh s.dev path).locExists loc = true := hexists
  exact (if_neg (by rw [hexists']; decide)).trans hd

end

/-- A scrubbed word is charged to its channel, and put right where it could be corrected. -/
theorem gives_stackScrub {s : State} {word : Nat} {sym : List Byte} {e : TEntry} {d : Dev} (hentry : s.dev.entry (word / 2048) = some e)
    (htier : e.tier = 0) (hpsn : e.psn = false) (hlen : sym.length = 36)
    (hd : (let a := v36Decode sym
      let c := s.dev.charge (locId 0 (locChannel e.loc)) a.fixed (if a.bad then 1 else 0)
      if a.bad then c.poisonWord word
      else if a.poison || a.fixed = 0 then c
      else { Dev.setBytes a.data (32 * word) c with pois := nsDel word c.pois }) = d) : Gives (.stackScrub (.stack word) sym) s d := by
  refine gives_onDev (f := fun d => d.scrub word sym) rfl ?_
  unfold Dev.scrub
  rw [hentry]
  dsimp only
  rw [htier, hpsn, hlen]
  exact (if_neg (by decide)).trans hd

/-- Of a device an event changes the recorder alone. -/
theorem event_port (d : Dev) (k : Ev) (b : List EvField) (i : Nat) : (d.event k b).port i = d.port i := by
  rw [Dev.event_only]
  rfl

theorem contains_false_of_not_mem {n : Nat} {l : List Nat} (h : n ∉ l) : l.contains n = false := by
  rw [List.contains_eq_mem, decide_eq_false h]

theorem contains_true_of_mem {n : Nat} {l : List Nat} (h : n ∈ l) : l.contains n = true := by
  rw [List.contains_eq_mem, decide_eq_true h]

theorem foldl_fixed {α β : Type} {f : β → α → β} {b : β} : ∀ {l : List α}, (∀ a ∈ l, f b a = b) → l.foldl f b = b
  | [], _ => rfl
  | a :: l, h => by
    rw [List.foldl_cons, h a List.mem_cons_self]
    exact foldl_fixed fun c hc => h c (List.mem_cons_of_mem _ hc)

/-- Scheduling a unit once, by either test of membership. -/
theorem sched_contains (e : Dev) (u : Nat) : (if e.calSched.contains u then e else { e with calSched := e.calSched ++ [u] }) =
    if u ∈ e.calSched then e else { e with calSched := e.calSched ++ [u] } := by
  rw [List.contains_eq_mem]
  exact ite_eq_ite_of_iff decide_eq_true_iff rfl rfl

/-- Settles O52: each command and event finds the location as its hypotheses say. -/
theorem locationsAreWarnedFencedAndRetired : Obligations.LocationsAreWarnedFencedAndRetired := by
  unfold Obligations.LocationsAreWarnedFencedAndRetired
  refine fun s => ⟨fun word sym e hentry htier hpsn hlen => ⟨fun hbad => ?_, fun hgood hnone => ?_, fun hgood hpois hfixed => ?_⟩,
    fun region sym hregion hlen => ?_, ⟨s.dev.halvedScores, rfl, (halvedScores_spec s.dev).1, (halvedScores_spec s.dev).2⟩,
    fun loc hexists => ⟨gives_scoreWarn_none hexists, fun hwarned hscore => ⟨fun hkind => ?_, fun hkind => ?_, fun hkind => ?_, fun hkind => ?_,
      fun hkind => ?_, fun hkind => ?_⟩, fun h => gives_scoreLimit_none hexists (h.imp_right Or.inl), fun hpos hscore => ?_, fun path hpass hloc => ?_⟩,
    fun ch => ⟨fun hin hempty => ?_, fun h => ?_, fun h => ?_, fun hch hfresh hmoves hdest => ?_⟩⟩
  · refine gives_stackScrub hentry htier hpsn hlen ?_
    exact if_pos hbad
  · refine gives_stackScrub hentry htier hpsn hlen ?_
    refine (if_neg (by rw [hgood]; decide)).trans (if_pos ?_)
    rwa [Bool.or_eq_true, decide_eq_true_eq]
  · refine gives_stackScrub hentry htier hpsn hlen ?_
    refine (if_neg (by rw [hgood]; decide)).trans (if_neg ?_)
    rw [Bool.or_eq_true, decide_eq_true_eq]
    exact not_or_intro (by rw [hpois]; decide) hfixed
  · refine gives_onDev (f := fun d => d.scrubSram region sym) rfl (if_neg ?_)
    rw [hlen, Bool.or_eq_true, decide_eq_true_eq]
    exact not_or_intro (Nat.not_le.mpr hregion) (by decide)
  · refine gives_scoreWarn hexists hwarned hscore ?_
    rw [show warnUnit loc = some (0x200 + locIndex loc / 32) by unfold warnUnit; rw [hkind]; rfl]
    exact sched_contains _ _
  · refine gives_scoreWarn hexists hwarned hscore ?_
    rw [show warnUnit loc = some (locIndex loc) by unfold warnUnit; rw [hkind]; rfl]
    exact sched_contains _ _
  · refine gives_scoreWarn hexists hwarned hscore ?_
    rw [show warnUnit loc = some (0x100 + locIndex loc) by unfold warnUnit; rw [hkind]; rfl]
    exact sched_contains _ _
  · refine gives_scoreWarn hexists hwarned hscore ?_
    rw [show warnUnit loc = none by unfold warnUnit; rw [hkind]; rfl]
    exact ite_eq_ite_of_iff (and_iff_right hkind) rfl rfl
  · refine gives_scoreWarn hexists hwarned hscore ?_
    rw [show warnUnit loc = none by unfold warnUnit; rw [hkind]; rfl]
    exact if_neg (fun h => absurd (hkind.symm.trans h.1) (by decide))
  · refine gives_scoreWarn hexists hwarned hscore ?_
    by_cases hch : locIndex loc < 16
    · rw [show warnUnit loc = some (0x700 + locIndex loc) by unfold warnUnit; rw [hkind]; exact if_pos hch]
      exact (sched_contains _ _).trans (if_pos hch).symm
    · rw [show warnUnit loc = none by unfold warnUnit; rw [hkind]; exact if_neg hch]
      exact (if_neg (fun h => absurd (hkind.symm.trans h.1) (by decide))).trans (if_neg hch).symm
  · refine ⟨fun hkind hin hin' => ?_, fun hkind hin => ?_, fun hkind hin => ?_, fun hkind hin hmod => ?_, fun hkind hin hmod => ?_, fun hkind hin => ?_, fun hkind => ?_⟩
    · refine gives_scoreLimit hexists hpos hscore ?_ (by dsimp only; rw [hkind]; rfl)
      unfold Dev.limited
      rw [hkind]
      dsimp only
      rw [contains_false_of_not_mem hin, contains_false_of_not_mem hin']
      rfl
    · refine gives_scoreLimit hexists hpos hscore ?_ (by dsimp only; rw [hkind]; rfl)
      unfold Dev.limited
      rw [hkind]
      exact contains_false_of_not_mem hin
    · refine gives_scoreLimit hexists hpos hscore ?_ (by dsimp only; rw [hkind]; rfl)
      unfold Dev.limited
      rw [hkind]
      exact contains_false_of_not_mem hin
    · refine gives_scoreLimit hexists hpos hscore ?_ (by dsimp only; rw [hkind]; exact if_neg (fun h => Bool.false_ne_true (hmod.symm.trans ((congrArg (·.module) (event_port s.dev _ _ _)).symm.trans h))))
      unfold Dev.limited
      rw [hkind]
      exact contains_false_of_not_mem hin
    · refine gives_scoreLimit hexists hpos hscore ?_ (by dsimp only; rw [hkind]; exact if_pos ((congrArg (·.module) (event_port s.dev _ _ _)).trans hmod))
      unfold Dev.limited
      rw [hkind]
      exact contains_false_of_not_mem hin
    · refine gives_scoreLimit hexists hpos hscore ?_ (by dsimp only; rw [hkind]; rfl)
      unfold Dev.limited
      rw [hkind]
      exact contains_false_of_not_mem hin
    · refine gives_scoreLimit_none hexists (Or.inr (Or.inr ?_))
      unfold Dev.limited
      rw [hkind]
      rfl
  · refine ⟨fun hkind => ?_, fun hkind => ?_, fun hkind => ?_, fun hkind hnot => ?_, fun hkind hin hst => ?_, fun hkind => ?_⟩
    · refine gives_mgtUnfence hexists hpass hloc ?_
      rcases hkind with hkind | hkind <;> · dsimp only; rw [hkind]; rfl
    · exact gives_mgtUnfence hexists hpass hloc (by dsimp only; rw [hkind]; rfl)
    · exact gives_mgtUnfence hexists hpass hloc (by dsimp only; rw [hkind]; rfl)
    · refine gives_mgtUnfence hexists hpass hloc ?_
      dsimp only
      rw [hkind]
      refine if_neg ?_
      rw [Bool.and_eq_true, List.contains_iff_mem, beq_iff_eq]
      exact fun h => hnot.elim (fun hin => hin h.1) (fun hst => hst h.2)
    · refine gives_mgtUnfence hexists hpass hloc ?_
      dsimp only
      rw [hkind]
      refine if_pos ?_
      rw [Bool.and_eq_true, List.contains_iff_mem, beq_iff_eq]
      exact ⟨hin, hst⟩
    · exact gives_mgtUnfence hexists hpass hloc (by dsimp only; rw [hkind]; rfl)
  · refine gives_onDev (show execChannelRetireDone ch s = _ from rfl) (if_neg ?_)
    rw [contains_true_of_mem hin, Bool.or_eq_true, List.any_eq_true]
    rintro (h | ⟨l, hl, hch⟩)
    · exact absurd h (by decide)
    · exact hempty l hl (beq_iff_eq.mp hch)
  · refine gives_onDev (show execChannelRetireDone ch s = _ from rfl) (if_pos ?_)
    rw [Bool.or_eq_true, List.any_eq_true]
    rcases h with h | ⟨l, hl, hch⟩
    · rw [contains_false_of_not_mem h]
      exact Or.inl rfl
    · exact Or.inr ⟨l, hl, beq_iff_eq.mpr hch⟩
  · refine gives_onDev (f := fun d => d.loseChannel ch) rfl (if_pos ?_)
    rw [Bool.or_eq_true, decide_eq_true_eq, List.contains_iff_mem]
    exact h
  · refine gives_onDev (f := fun d => d.loseChannel ch) rfl ((if_neg ?_).trans ?_)
    · rw [Bool.or_eq_true, decide_eq_true_eq, List.contains_iff_mem]
      exact not_or_intro (Nat.not_le.mpr hch) hfresh
    · have habandon : ∀ f ∈ s.dev.framesOfCh ch, s.dev.abandonDemotion f = s.dev := fun f hf => by
        unfold Dev.abandonDemotion
        rw [hmoves f hf]
      have hinto : s.dev.moves.filter (fun p => p.2.kind != .demote && p.2.queued == 0 && locChannel p.2.dest == ch) = [] := by
        refine List.filter_eq_nil_iff.mpr fun p hp => ?_
        rw [Bool.and_eq_true, Bool.and_eq_true, bne_iff_ne, beq_iff_eq, beq_iff_eq]
        exact fun h => hdest p hp h.1.1 h.2
      dsimp only
      rw [foldl_fixed (b := s.dev) (l := s.dev.framesOfCh ch) fun f hf => by rw [habandon f hf, hmoves f hf], hinto]
      rfl

end Sys2Proof.Proofs
end

section
/-! The voltage loop and calibration (R26, R27, R177 to R180, R347 to R349, R352 to R354): their obligation. -/

namespace Sys2Proof.Proofs

open Sys2Proof Sys2Proof.Machine Sys2Proof.Claims

section
variable {d : Dev}

/-- A statistic that counts up is not 0 afterwards, so that its register leaves every other one as it reads. -/
theorem reg_stat_one {key hi lo : Nat} (hlo : lo ≤ hi) (hreset : regReset key = 0) {k : Nat} (hne : k ≠ key) :
    (d.stat key hi lo 1).reg k = d.reg k := by
  have hpos : 0 < satAdd (d.rf key hi lo) 1 (2 ^ (hi + 1 - lo) - 1) % 2 ^ (hi + 1 - lo) := by
    have htwo : 2 ≤ 2 ^ (hi + 1 - lo) := Nat.le_self_pow (by omega) 2
    unfold satAdd
    split
    · rw [Nat.mod_eq_of_lt (by omega)]
      omega
    · rw [Nat.mod_eq_of_lt (by omega)]
      omega
  have hne0 : setBits (d.reg key) hi lo (satAdd (d.rf key hi lo) 1 (2 ^ (hi + 1 - lo) - 1)) ≠ 0 := by
    have := Nat.mul_pos hpos (Nat.two_pow_pos lo)
    unfold setBits
    omega
  unfold Dev.reg Dev.stat Dev.setRf Dev.setReg smGet smPut
  dsimp only
  rw [if_neg (by rw [hreset]; exact hne0), smGet?_smSet_ne hne]

theorem floor_stat_one {hi lo : Nat} (hlo : lo ≤ hi) : (d.stat 0x9018 hi lo 1).floor = d.floor :=
  congrArg (fun r => max 620 (min 880 (bits r 25 16))) (reg_stat_one hlo (by decide +kernel) (by decide))

theorem floor_modLoop (g : VLoop → VLoop) : (d.modLoop g).floor = d.floor := rfl

theorem vloop_modLoop (g : VLoop → VLoop) : (d.modLoop g).vloop = g d.vloop := rfl

theorem modLoop_modLoop (g g' : VLoop → VLoop) : (d.modLoop g).modLoop g' = d.modLoop (fun v => g' (g v)) := rfl

theorem raise_eq_raised (v : VLoop) (mv floor : Nat) : v.raise mv floor = raised v mv floor := rfl

theorem lower_of_lt {v : VLoop} {floor : Nat} (h : floor < v.set) : v.lower floor = { v with set := max floor (v.set - 5), greenRun := 0 } := by
  unfold VLoop.lower
  rw [Nat.min_eq_right (Nat.le_of_lt h)]

theorem charge_only (loc ce ue : Nat) : d.charge loc ce ue = { d with scores := (d.charge loc ce ue).scores } := by
  unfold Dev.charge
  split <;> rfl

/-- The device after a failed check is counted, charged, and answered by a higher set-point. -/
def checkCounted (d : Dev) (csum : Bool) (loc : Nat) : Dev :=
  let e := if csum = true ∧ locKind loc = 1 then d.stat 0x9018 63 32 1 else d.stat 0x9018 31 16 1
  let e := e.charge loc 0 1
  { e with vloop := { raised e.vloop 10 (lowest d) with hold := true } }

/-- A failed check of a bay or scanner is counted first; what it does to the descriptor follows. -/
theorem checkFails_eq {csum : Bool} {loc q n : Nat} (hexists : d.locExists loc = true) (hkind : locKind loc = 1 ∨ locKind loc = 2) :
    d.checkFails csum loc q n =
      let e := checkCounted d csum loc
      match e.startedOf q n with
      | none => e
      | some r =>
        let e := match smGet? q e.queues with | some x => e.count x.fn 0x11 1 | none => e
        if r.phase = .finished then e
        else
          let e := e.modStarted q n (fun r => { r with failures := r.failures + 1 })
          if r.failures + 1 < 2 then e else e.endsResidue q n r := by
  have hkind' : (locKind loc == 1 || locKind loc == 2) = true := by
    rcases hkind with h | h <;> rw [h] <;> rfl
  have hfirst : (if csum && locKind loc == 1 then d.stat 0x9018 63 32 1 else d.stat 0x9018 31 16 1) =
      if csum = true ∧ locKind loc = 1 then d.stat 0x9018 63 32 1 else d.stat 0x9018 31 16 1 :=
    ite_eq_ite_of_iff (by rw [Bool.and_eq_true, beq_iff_eq]) rfl rfl
  have hfloor : (if csum = true ∧ locKind loc = 1 then d.stat 0x9018 63 32 1 else d.stat 0x9018 31 16 1).floor = d.floor := by
    split
    · exact floor_stat_one (by decide)
    · exact floor_stat_one (by decide)
  unfold Dev.checkFails
  rw [hexists, hkind']
  refine (if_neg (by decide)).trans ?_
  unfold checkCounted
  dsimp only [Dev.modLoop]
  rw [hfirst]
  have hloop : ({ (Dev.charge (if csum = true ∧ locKind loc = 1 then d.stat 0x9018 63 32 1 else d.stat 0x9018 31 16 1) loc 0 1).vloop.raise 10
      (Dev.floor (if csum = true ∧ locKind loc = 1 then d.stat 0x9018 63 32 1 else d.stat 0x9018 31 16 1)) with hold := true } : VLoop) =
      { raised (Dev.charge (if csum = true ∧ locKind loc = 1 then d.stat 0x9018 63 32 1 else d.stat 0x9018 31 16 1) loc 0 1).vloop 10 (lowest d) with
        hold := true } := by
    rw [hfloor]
    rfl
  rw [hloop] <;> rfl

theorem queues_checkCounted (csum : Bool) (loc : Nat) : (checkCounted d csum loc).queues = d.queues := by
  unfold checkCounted
  dsimp only
  rw [charge_only]
  split <;> rw [Dev.stat_only]

theorem startedOf_checkCounted (csum : Bool) (loc q n : Nat) : (checkCounted d csum loc).startedOf q n = d.startedOf q n := by
  unfold Dev.startedOf
  rw [queues_checkCounted]

/-- A failed check in a running descriptor counts there; the second one ends it. -/
theorem checkFails_started {csum : Bool} {loc q n : Nat} {x : Queue} {r : Started} (hexists : d.locExists loc = true)
    (hkind : locKind loc = 1 ∨ locKind loc = 2) (hq : smGet? q d.queues = some x) (hr : d.startedOf q n = some r) (hphase : r.phase ≠ .finished) :
    d.checkFails csum loc q n =
      let e := ((checkCounted d csum loc).count x.fn 0x11 1).modStarted q n (fun r => { r with failures := r.failures + 1 })
      if r.failures + 1 < 2 then e else e.endsResidue q n r := by
  rw [checkFails_eq hexists hkind]
  dsimp only
  rw [startedOf_checkCounted, hr, queues_checkCounted, hq]
  exact if_neg hphase

/-- With neither a timetable nor a result area, RESIDUE leaves the descriptor's results open. -/
theorem endsResidue_of_open {q n : Nat} {r : Started} (htable : d.table ⟨q, n⟩ = none) (hwork : resultWork (lf r.bytes 0 1) = none) :
    d.endsResidue q n r = (d.stat 0x9018 15 0 1).finishOpen (lf r.bytes 0 1) q n 11 := by
  have htable' : (d.stat 0x9018 15 0 1).table ⟨q, n⟩ = none := htable
  unfold Dev.endsResidue
  dsimp only
  rw [htable']
  dsimp only
  unfold Dev.spoilResults
  rw [hwork]
  rfl

end

section
variable {s : State} (hrunning : s.dev.vloop.running = true) (hrun : s.dev.power.st = .run) (hcore : s.dev.fw.restarting = false)
include hrunning hrun hcore

theorem gives_marginSample {bands shown : List (Nat × Band)} {red : List Nat} {amber headroom : Bool} {d : Dev}
    (hshown : bands.filter (fun b => s.dev.hasMonitor b.1) = shown) (hred : (shown.filter (fun b => b.2 == .red)).map (·.1) = red)
    (hamber : shown.any (fun b => b.2 == .amber) = amber)
    (hd : (let d := s.dev.modLoop (fun v => { v with
        set := max v.set s.dev.floor, redRun := v.redRun.filter (fun p => red.contains p.1)
        capStop := s.dev.overCap && (v.capStop || amber || ! red.isEmpty) })
      if ! red.isEmpty then
        let d := if d.vloop.set ≥ 880 then red.foldl (fun d m => d.redAtTop m) d else d
        d.modLoop (fun v => { v.raise 20 d.floor with hold := true, capMissed := v.capMissed || s.dev.overCap })
      else if amber then d.modLoop (fun v => { v.raise 10 d.floor with capMissed := v.capMissed || s.dev.overCap })
      else
        let d := d.modLoop (fun v => { v with greenRun := if headroom && shown.isEmpty then v.greenRun + 1 else 0 })
        let v := d.vloop
        if s.dev.overCap && ! v.capStop && ! v.hold && decide (v.set > d.floor) then d.modLoop (fun v => v.lower d.floor)
        else
          let d := if s.dev.overCap then d.modLoop (fun v => { v with capMissed := true }) else d
          if v.greenRun ≥ 16 ∧ ! v.hold ∧ v.set > d.floor then d.modLoop (fun v => v.lower d.floor)
          else d.modLoop (fun v => { v with greenRun := min 16 v.greenRun })) = d) : Gives (.marginSample bands headroom) s d := by
  subst hshown hred hamber
  refine gives_onDev (f := fun d => d.sampleMargins bands headroom) rfl ((if_neg ?_).trans ?_)
  · rw [hrunning, hrun]
    decide
  · exact (if_neg (by rw [hcore]; decide)).trans hd

/-- A sample with a red monitor below the top of the range raises by 20 mV. -/
theorem gives_marginSample_red {bands : List (Nat × Band)} {headroom : Bool} {red : List Nat}
    (hred : ((bands.filter (fun b => s.dev.hasMonitor b.1)).filter (fun b => b.2 == .red)).map (·.1) = red) (hsome : red.isEmpty = false)
    (hlow : max s.dev.vloop.set s.dev.floor < 880) : Gives (.marginSample bands headroom) s { s.dev with vloop :=
      { raised { s.dev.vloop with set := max s.dev.vloop.set s.dev.floor } 20 s.dev.floor with
        hold := true
        redRun := s.dev.vloop.redRun.filter (fun p => red.contains p.1)
        capStop := s.dev.overCap
        capMissed := s.dev.vloop.capMissed || s.dev.overCap } } := by
  obtain ⟨shown, hshown⟩ : ∃ l, bands.filter (fun b => s.dev.hasMonitor b.1) = l := ⟨_, rfl⟩
  obtain ⟨amber, hamber⟩ : ∃ a, shown.any (fun b => b.2 == .amber) = a := ⟨_, rfl⟩
  rw [hshown] at hred
  refine gives_marginSample hrunning hrun hcore hshown hred hamber ?_
  rw [hsome]
  refine (if_pos (c := (!false) = true) rfl).trans ?_
  split
  · exact absurd ‹_› (Nat.not_le.mpr hlow)
  · dsimp only [Dev.modLoop]
    rw [Bool.not_false, Bool.or_true, Bool.and_true]
    rfl

/-- A sample with an amber monitor and no red one raises by 10 mV. -/
theorem gives_marginSample_amber {bands : List (Nat × Band)} {headroom : Bool}
    (hred : ((bands.filter (fun b => s.dev.hasMonitor b.1)).filter (fun b => b.2 == .red)) = [])
    (hamber : (bands.filter (fun b => s.dev.hasMonitor b.1)).any (fun b => b.2 == .amber) = true) :
    Gives (.marginSample bands headroom) s { s.dev with vloop :=
      { raised { s.dev.vloop with set := max s.dev.vloop.set s.dev.floor } 10 s.dev.floor with
        redRun := []
        capStop := s.dev.overCap
        capMissed := s.dev.vloop.capMissed || s.dev.overCap } } := by
  obtain ⟨shown, hshown⟩ : ∃ l, bands.filter (fun b => s.dev.hasMonitor b.1) = l := ⟨_, rfl⟩
  rw [hshown] at hred hamber
  refine gives_marginSample hrunning hrun hcore hshown (congrArg (List.map (·.1)) hred) hamber ?_
  have hnone : s.dev.vloop.redRun.filter (fun p => (List.map (·.1) ([] : List (Nat × Band))).contains p.1) = [] :=
    List.filter_eq_nil_iff.mpr fun p _ => by simp
  refine (if_neg (c := (!(List.map (·.1) ([] : List (Nat × Band))).isEmpty) = true) Bool.false_ne_true).trans ((if_pos (c := true = true) rfl).trans ?_)
  dsimp only [Dev.modLoop]
  rw [hnone, Bool.or_true, Bool.true_or, Bool.and_true]
  rfl

/-- What the loop has at a sample that is green at every monitor. -/
def greenLoop (d : Dev) (headroom : Bool) : VLoop := { d.vloop with
  set := max d.vloop.set d.floor, redRun := [], capStop := d.overCap && d.vloop.capStop, greenRun := if headroom then d.vloop.greenRun + 1 else 0 }

/-- A sample with every monitor green, under the cap or not. -/
theorem gives_marginSample_green {headroom : Bool} {d : Dev}
    (hd : (let e := s.dev.modLoop (fun _ => greenLoop s.dev headroom)
        let v := greenLoop s.dev headroom
        if s.dev.overCap && ! v.capStop && ! v.hold && decide (v.set > s.dev.floor) then e.modLoop (fun v => v.lower e.floor)
        else
          let e := if s.dev.overCap then e.modLoop (fun v => { v with capMissed := true }) else e
          if v.greenRun ≥ 16 ∧ ! v.hold ∧ v.set > e.floor then e.modLoop (fun v => v.lower e.floor)
          else e.modLoop (fun v => { v with greenRun := min 16 v.greenRun })) = d) : Gives (.marginSample [] headroom) s d := by
  have hnone : s.dev.vloop.redRun.filter (fun p => ([] : List Nat).contains p.1) = [] :=
    List.filter_eq_nil_iff.mpr fun p _ => by simp
  have hloop : ((s.dev.modLoop (fun v => { v with
        set := max v.set s.dev.floor, redRun := v.redRun.filter (fun p => ([] : List Nat).contains p.1)
        capStop := s.dev.overCap && (v.capStop || false || ! ([] : List Nat).isEmpty) })).modLoop
        (fun v => { v with greenRun := if headroom && ([] : List (Nat × Band)).isEmpty then v.greenRun + 1 else 0 })) =
      s.dev.modLoop (fun _ => greenLoop s.dev headroom) := by
    unfold Dev.modLoop greenLoop
    dsimp only
    rw [hnone, show (!([] : List Nat).isEmpty) = false from rfl, Bool.or_false, Bool.or_false,
      show (headroom && ([] : List (Nat × Band)).isEmpty) = headroom from Bool.and_true _]
  refine gives_marginSample hrunning hrun hcore (red := []) (shown := []) (amber := false) rfl rfl rfl ?_
  dsimp only
  refine (if_neg (c := (!([] : List Nat).isEmpty) = true) Bool.false_ne_true).trans ((if_neg (c := false = true) Bool.false_ne_true).trans ?_)
  rw [hloop]
  exact hd

end

theorem gives_calRun {s : State} {path : Path} {unit : Nat} {result : Option (List Byte)} {d : Dev} (hpass : PassesGo s.dev path) (hunit : unit < 4096)
    (hd : (((fresh s.dev path).setRf 0x4000 30 28 1).setRf 0x4000 11 0 unit).calRun unit result = d) : Gives (.calRun path unit result) s d := by
  refine gives_onPathDev rfl hpass ?_
  rw [Nat.mod_eq_of_lt hunit]
  exact hd

theorem calibrate_of_not_port {d : Dev} {u : Nat} (hport : u / 256 ≠ 4) (result : Option (List Byte)) : d.calibrate u result =
    match result with
    | none => (d.fenceUnit u).event .calRefused [.unit (u % 256)]
    | some body =>
      let code : CalRec := ⟨runType u, u, d.sec, if runType u = 1 then body.map (fun b => BitVec.ofNat 8 (min 255 (b.toNat + d.rf 0x4010 3 0))) else body, false⟩
      let n := unitMonitors u
      let recs := if n = 0 then [code] else [code, ⟨2, u, d.takeFree.2.sec, leBytes (3 * n) d.takeFree.1, false⟩]
      (d.takeFree.2.calTake u recs).modLoop (fun v => { v with trim := smErase u v.trim }) := by
  unfold Dev.calibrate
  rw [if_neg fun h => hport h.1] <;> rfl

theorem opTicks_runReady (d : Dev) (p : Path) (key hi lo v hi' lo' v' u : Nat) : Dev.opTicks (let e := ((fresh d p).setRf key hi lo v).setRf key hi' lo' v'
    { e with calSched := e.calSched.filter (· != u) }) = d.opTicks := rfl

theorem sec_eq {d e : Dev} (h : d.opTicks = e.opTicks) : d.sec = e.sec := congrArg (fun t => (t / 32768) % 2 ^ 32) h

/-- A run of a self-timed unit writes its codes with the guard steps, and the bands of its one monitor. -/
theorem calibrate_of_self_timed {d : Dev} {u k : Nat} (hlow : u / 256 ≤ 1) (hsec : d.sec = k) (body : List Byte) : d.calibrate u (some body) =
    let codes := body.map (fun b => BitVec.ofNat 8 (min 255 (b.toNat + d.rf 0x4010 3 0)))
    let t := d.takeFree.2.calTake u [⟨1, u, k, codes, false⟩, ⟨2, u, k, leBytes 3 d.takeFree.1, false⟩]
    { t with vloop := { t.vloop with trim := smErase u t.vloop.trim } } := by
  have htype : runType u = 1 := by
    obtain h | h : u / 256 = 0 ∨ u / 256 = 1 := by omega
    · unfold runType
      rw [h]
      rfl
    · unfold runType
      rw [h]
      rfl
  have hmonitors : unitMonitors u = 1 :=
    (if_neg (show u ≠ 0x70F by omega)).trans ((if_neg (show u / 256 ≠ 7 by omega)).trans (if_pos hlow))
  rw [calibrate_of_not_port (by omega)]
  dsimp only
  rw [htype, hmonitors, (sec_eq rfl : d.takeFree.2.sec = d.sec), hsec]
  rfl

/-! The set's buffer (R354). -/

section
variable {d : Dev}

theorem calNor_setRf_fresh (p : Path) (key hi lo v : Nat) : ((fresh d p).setRf key hi lo v).calNor = d.calNor := rfl

theorem useBuf_failed {α : Type} {base n : Nat} (hpos : 0 < n) (hpin : d.pinnedRange base n = false) (m : M α) : d.useBuf base n m = (.failed, d) :=
  if_pos ⟨hpos, by rw [hpin]; rfl⟩

theorem useBuf_done {α : Type} {base n : Nat} {m : M α} {a : α} {t : Dev} (hpin : n = 0 ∨ d.pinnedRange base n = true) (htry : d.unitTry m = (.ok a, t)) :
    d.useBuf base n m = (.done a, t) := by
  unfold Dev.useBuf
  rw [htry]
  refine if_neg fun h => ?_
  obtain ⟨hpos, hnot⟩ := h
  rcases hpin with hzero | hpin
  · omega
  · rw [hpin] at hnot
    exact absurd hnot (by decide)

theorem calExportTo_failed {recs : List CalRec} (hrecs : d.calNor = recs) (h : 8388608 < (recs.flatMap calBytes).length ∨
    (0 < (recs.flatMap calBytes).length ∧ d.pinnedRange d.calBuf (recs.flatMap calBytes).length = false)) (c : Instr) : d.calExportTo c = d.calErr := by
  subst hrecs
  unfold Dev.calExportTo
  dsimp only
  rcases h with hlong | ⟨hpos, hpin⟩
  · exact if_pos hlong
  · rw [useBuf_failed hpos hpin]
    exact ite_self _

theorem calExportTo_done {recs : List CalRec} (hrecs : d.calNor = recs) {t : Dev} (hlen : (recs.flatMap calBytes).length ≤ 8388608)
    (hpin : (recs.flatMap calBytes).length = 0 ∨ d.pinnedRange d.calBuf (recs.flatMap calBytes).length = true)
    (htry : d.unitTry (wr (d.ownFa d.calBuf) (recs.flatMap calBytes)) = (.ok (), t)) (c : Instr) :
    d.calExportTo c = t.setRf 0x4004 23 0 (recs.flatMap calBytes).length := by
  subst hrecs
  unfold Dev.calExportTo
  dsimp only
  rw [useBuf_done hpin htry]
  exact if_neg (Nat.not_lt.mpr hlen)

theorem calWriteFrom_failed (h : 8388608 < d.rf 0x4004 23 0 ∨ (0 < d.rf 0x4004 23 0 ∧ d.pinnedRange d.calBuf (d.rf 0x4004 23 0) = false)) (c : Instr) :
    d.calWriteFrom c = d.calErr := by
  unfold Dev.calWriteFrom
  dsimp only
  rcases h with hlong | ⟨hpos, hpin⟩
  · exact if_pos hlong
  · rw [useBuf_failed hpos hpin]
    exact ite_self _

theorem calWriteFrom_done {bs : List Byte} {t : Dev} (hlen : d.rf 0x4004 23 0 ≤ 8388608)
    (hpin : d.rf 0x4004 23 0 = 0 ∨ d.pinnedRange d.calBuf (d.rf 0x4004 23 0) = true)
    (htry : d.unitTry (rd (d.ownFa d.calBuf) (d.rf 0x4004 23 0)) = (.ok bs, t)) (c : Instr) : d.calWriteFrom c = t.calTakeSet bs := by
  unfold Dev.calWriteFrom
  dsimp only
  rw [useBuf_done hpin htry]
  exact if_neg (Nat.not_lt.mpr hlen)

end

/-- Settles O53: each command and sample finds the loop and the set as its hypotheses say. -/
theorem marginsAndCalibrationAct : Obligations.MarginsAndCalibrationAct := by
  unfold Obligations.MarginsAndCalibrationAct
  refine fun s => ⟨fun csum loc q n hexists hkind => ⟨fun hnone => ?_, fun x r hq hr hphase => ⟨fun hfirst => ?_, fun hsecond => ⟨?_, fun htable hwork => ?_⟩⟩⟩,
    fun hrunning hrun hcore => ⟨fun bands headroom hred hlow => ?_, fun bands headroom hnored hamber => ?_, fun headroom => ⟨fun hcap h => ?_,
      fun hcap h16 hhold hset => ?_, fun hcap hstop hhold hset => ?_⟩⟩, fun h bands headroom => ?_, ?_, fun h => ?_, fun h => ?_,
    fun path unit result hpass hunit => ⟨fun hexists => ?_, fun hexists hport => ⟨fun hnone => ?_, fun body hbody hlow => ?_⟩⟩,
    fun unit result => ⟨fun h => ?_, fun hrun hcore hin hexists => ?_⟩, fun path hpass => ⟨⟨fun h => ?_, fun t hlen hpin htry => ?_⟩,
      ⟨fun h => ?_, fun bs t hlen hpin htry => ⟨fun hparse => ?_, fun recs hparse hbad => ?_, fun recs hparse hall => ?_⟩⟩⟩, fun r hr => ?_⟩
  · refine gives_onDev (f := fun d => d.checkFails csum loc q n) rfl ((checkFails_eq hexists hkind).trans ?_)
    dsimp only
    rw [startedOf_checkCounted, hnone]
    rfl
  · refine gives_onDev (f := fun d => d.checkFails csum loc q n) rfl ((checkFails_started hexists hkind hq hr hphase).trans ?_)
    exact if_pos (by omega)
  · refine gives_onDev (f := fun d => d.checkFails csum loc q n) rfl ((checkFails_started hexists hkind hq hr hphase).trans ?_)
    exact if_neg (by omega)
  · exact endsResidue_of_open htable hwork
  · refine gives_marginSample_red hrunning hrun hcore rfl ?_ hlow
    obtain ⟨b, hb, hmon, hcolour⟩ := hred
    rw [List.isEmpty_eq_false_iff_exists_mem]
    exact ⟨b.1, List.mem_map_of_mem (List.mem_filter.mpr ⟨List.mem_filter.mpr ⟨hb, hmon⟩, beq_iff_eq.mpr hcolour⟩)⟩
  · refine gives_marginSample_amber hrunning hrun hcore (List.filter_eq_nil_iff.mpr fun b hb => ?_) (List.any_eq_true.mpr ?_)
    · obtain ⟨hmem, hmon⟩ := List.mem_filter.mp hb
      exact fun h => hnored b hmem hmon (beq_iff_eq.mp h)
    · obtain ⟨b, hb, hmon, hcolour⟩ := hamber
      exact ⟨b, List.mem_filter.mpr ⟨hb, hmon⟩, beq_iff_eq.mpr hcolour⟩
  · refine gives_marginSample_green hrunning hrun hcore ?_
    dsimp only
    rw [hcap, if_neg (c := (false && _ && _ && _) = true) Bool.false_ne_true, if_neg (c := false = true) Bool.false_ne_true]
    refine (if_neg ?_).trans ?_
    · rw [Bool.not_eq_true']
      exact fun hall => h.elim (fun hn => absurd hall.1 (Nat.not_le.mpr hn)) (fun h => h.elim (fun hh => absurd (hh.symm.trans hall.2.1) (by decide))
        (fun hle => absurd hall.2.2 (Nat.not_lt.mpr hle)))
    · unfold greenLoop Dev.modLoop
      rw [hcap]
      rfl
  · refine gives_marginSample_green hrunning hrun hcore ?_
    dsimp only
    rw [hcap, if_neg (c := (false && _ && _ && _) = true) Bool.false_ne_true, if_neg (c := false = true) Bool.false_ne_true]
    refine (if_pos ⟨h16, by rw [Bool.not_eq_true']; exact hhold, hset⟩).trans ?_
    rw [show (fun v : VLoop => v.lower (s.dev.modLoop fun _ => greenLoop s.dev headroom).floor) = fun v => v.lower s.dev.floor from rfl,
      modLoop_modLoop, lower_of_lt (show s.dev.floor < (greenLoop s.dev headroom).set from hset)]
    unfold greenLoop Dev.modLoop
    rw [hcap]
    rfl
  · refine gives_marginSample_green hrunning hrun hcore ?_
    dsimp only
    refine (if_pos ?_).trans ?_
    · rw [hcap, show (greenLoop s.dev headroom).capStop = (s.dev.overCap && s.dev.vloop.capStop) from rfl, hstop,
        show (greenLoop s.dev headroom).hold = s.dev.vloop.hold from rfl, show s.dev.vloop.hold = false from hhold, Bool.and_false, decide_eq_true (show (greenLoop s.dev headroom).set > s.dev.floor from hset)]
      rfl
    · rw [show (fun v : VLoop => v.lower (s.dev.modLoop fun _ => greenLoop s.dev headroom).floor) = fun v => v.lower s.dev.floor from rfl,
        modLoop_modLoop, lower_of_lt (show s.dev.floor < (greenLoop s.dev headroom).set from hset)]
      unfold greenLoop Dev.modLoop
      rw [show s.dev.vloop.capStop = false from hstop, Bool.and_false]
      rfl
  · refine gives_onDev (f := fun d => d.sampleMargins bands headroom) rfl (if_pos ?_)
    rw [Bool.or_eq_true, decide_eq_true_eq]
    exact h.imp (fun h => by rw [h]; rfl) id
  · exact gives_onDev (show execLoweringHoldEnd s = _ from rfl) rfl
  · refine gives_onDev (show execCapMissWindow s = _ from rfl) (if_pos ?_)
    rw [h]
    decide
  · refine gives_onDev (show execCapMissWindow s = _ from rfl) ((if_neg ?_).trans rfl)
    rw [h]
    decide
  · exact gives_calRun hpass hunit (if_neg (by rw [hexists]; decide))
  · refine gives_calRun hpass hunit ((if_pos hexists).trans ?_)
    rw [calibrate_of_not_port hport, hnone]
  · refine gives_calRun hpass hunit ((if_pos hexists).trans ?_)
    rw [hbody]
    exact calibrate_of_self_timed hlow (sec_eq (opTicks_runReady ..)) body
  · refine gives_onDev (show execCalScheduledRun unit result s = _ from rfl) (if_neg ?_)
    rw [Bool.not_eq_true, List.contains_iff_mem]
    exact fun hall => h.elim (fun hst => hst hall.1) (fun h => h.elim (fun hre => absurd (hre.symm.trans hall.2.1) (by decide)) (fun hin => hin hall.2.2))
  · refine gives_onDev (show execCalScheduledRun unit result s = _ from rfl) ((if_pos ?_).trans (if_pos hexists))
    rw [Bool.not_eq_true, List.contains_iff_mem]
    exact ⟨hrun, hcore, hin⟩
  · exact gives_onPathDev rfl hpass (calExportTo_failed (d := (fresh s.dev path).setRf 0x4000 30 28 2) (calNor_setRf_fresh ..) h _)
  · exact gives_onPathDev rfl hpass (calExportTo_done (d := (fresh s.dev path).setRf 0x4000 30 28 2) (calNor_setRf_fresh ..) hlen hpin htry _)
  · exact gives_onPathDev rfl hpass (calWriteFrom_failed (d := (fresh s.dev path).setRf 0x4000 30 28 3) h _)
  · refine gives_onPathDev rfl hpass ((calWriteFrom_done (d := (fresh s.dev path).setRf 0x4000 30 28 3) hlen hpin htry _).trans ?_)
    unfold Dev.calTakeSet
    rw [hparse]
    rfl
  · refine gives_onPathDev rfl hpass ((calWriteFrom_done (d := (fresh s.dev path).setRf 0x4000 30 28 3) hlen hpin htry _).trans ?_)
    unfold Dev.calTakeSet
    rw [hparse]
    refine if_neg ?_
    rw [List.all_eq_true]
    obtain ⟨r, hr, hnone⟩ := hbad
    exact fun hall => absurd (hnone.symm.trans (hall r hr)) (by decide)
  · refine gives_onPathDev rfl hpass ((calWriteFrom_done (d := (fresh s.dev path).setRf 0x4000 30 28 3) hlen hpin htry _).trans ?_)
    unfold Dev.calTakeSet
    rw [hparse]
    exact if_pos (List.all_eq_true.mpr hall)
  · refine gives_onDev (show execCalNorWrite s = _ from rfl) ?_
    rw [hr]
    unfold Dev.calCommit
    rw [show (List.map (·.unit) [r]).eraseDups = [r.unit] from rfl]
    dsimp only [List.foldl_cons, List.foldl_nil]
    rw [hr, show [r].filter (fun x => x.unit == r.unit) = [r] by simp, show [r].filter (fun x => x.unit != r.unit) = [] by simp]
    rfl

end Sys2Proof.Proofs
end

section
/-! Entering and leaving STOP (R357, R358, R361 to R364, R366): their obligation. -/

namespace Sys2Proof.Proofs

open Sys2Proof Sys2Proof.Machine Sys2Proof.Claims

section
variable {d : Dev}

theorem accountStop_eq_accounted (d : Dev) (kind unit : Nat) : d.accountStop kind unit = accounted d kind unit := by
  unfold Dev.accountStop accounted
  by_cases hsvc : d.rf 0x200C 1 0 = 0
  · rw [if_pos (show d.svc = 0 from hsvc), if_neg (not_not_intro hsvc)]
  · rw [if_neg (show ¬ d.svc = 0 from hsvc), if_pos hsvc]

theorem event_power (d : Dev) (k : Ev) (b : List EvField) : (d.event k b).power = d.power := by
  rw [Dev.event_only]

theorem power_accounted (d : Dev) (kind unit : Nat) : (accounted d kind unit).power = d.power := by
  unfold accounted
  refine (event_power _ _ _).trans ?_
  split
  · rfl
  · split
    · rw [Dev.setRf_only, Dev.setRf_only, Dev.stat_only]
    · rw [Dev.setRf_only, Dev.setRf_only, Dev.stat_only]

theorem st_undoEntry (d : Dev) : d.undoEntry.power.st = .run := rfl

theorem startWake_of_not_stop (h : d.power.st ≠ .stop) (src idx : Nat) : d.startWake src idx = d := if_pos h

theorem startWake_of_stop (h : d.power.st = .stop) (src idx : Nat) : d.startWake src idx = wakes d src idx := by
  refine (if_neg (not_not_intro h)).trans ?_
  unfold Dev.accountWake wakes
  rfl

theorem abortEntry_of_not_entering (h : d.power.st ≠ .entering) (unit : Nat) : d.abortEntry unit = d := if_pos h

theorem abortEntry_of_entering (h : d.power.st = .entering) (unit : Nat) : d.abortEntry unit = accounted d.undoEntry 1 unit :=
  (if_neg (not_not_intro h)).trans (accountStop_eq_accounted _ _ _)

/-- What an open wake source does: it undoes an entry, or wakes from STOP. -/
theorem abort_startWake_of_entering (h : d.power.st = .entering) (unit src idx : Nat) :
    (d.abortEntry unit).startWake src idx = accounted d.undoEntry 1 unit := by
  rw [abortEntry_of_entering h]
  refine startWake_of_not_stop ?_ src idx
  rw [power_accounted, st_undoEntry]
  decide

theorem abort_startWake_of_stop (h : d.power.st = .stop) (unit src idx : Nat) : (d.abortEntry unit).startWake src idx = wakes d src idx := by
  rw [abortEntry_of_not_entering (by rw [h]; decide)]
  exact startWake_of_stop h src idx

theorem abort_startWake_of_awake (h : d.power.st = .run ∨ d.power.st = .waking) (unit src idx : Nat) : (d.abortEntry unit).startWake src idx = d := by
  rw [abortEntry_of_not_entering (by rcases h with h | h <;> rw [h] <;> decide)]
  exact startWake_of_not_stop (by rcases h with h | h <;> rw [h] <;> decide) src idx

/-- A source that is awake already changes nothing. -/
theorem wakeSource_of_awake (h : d.power.st = .run ∨ d.power.st = .waking) (src idx : Nat) : d.wakeSource src idx = d := by
  unfold Dev.wakeSource
  dsimp only
  rw [abort_startWake_of_awake h]
  exact ite_self _

theorem wakeSource_host (n : Nat) : d.wakeSource 1 n = (d.abortEntry 9).startWake 1 n := by
  unfold Dev.wakeSource
  exact if_pos rfl

theorem wakeSource_management (n : Nat) : d.wakeSource 5 n = (d.abortEntry 10).startWake 5 n := by
  unfold Dev.wakeSource
  exact if_pos rfl

theorem wakeSource_port {src n : Nat} (hsrc : src = 2 ∨ src = 3) (hn : n < 16) (hopen : d.portWakeEn n = true) :
    d.wakeSource src n = (d.abortEntry 5).startWake src n := by
  rcases hsrc with rfl | rfl
  · exact if_pos (by rw [decide_eq_true hn, hopen]; rfl)
  · exact if_pos (by rw [decide_eq_true hn, hopen]; rfl)

theorem wakeSource_port_masked {src n : Nat} (hsrc : src = 2 ∨ src = 3) (hmasked : d.portWakeEn n = false) : d.wakeSource src n = d := by
  rcases hsrc with rfl | rfl
  · exact if_neg (by rw [hmasked, Bool.and_false]; exact Bool.false_ne_true)
  · exact if_neg (by rw [hmasked, Bool.and_false]; exact Bool.false_ne_true)

theorem wakeSource_cask {n : Nat} (hn : n < 4) (hopen : d.rf 0x2000 1 1 = 1) : d.wakeSource 4 n = (d.abortEntry 7).startWake 4 n :=
  if_pos (by rw [decide_eq_true hn, hopen]; rfl)

theorem wakeSource_cask_masked {n : Nat} (hmasked : d.rf 0x2000 1 1 ≠ 1) : d.wakeSource 4 n = d :=
  if_neg (by rw [beq_false_of_ne hmasked, Bool.and_false]; exact Bool.false_ne_true)

theorem firstBusy_here {b : Bool} {u : Nat} {rest : Option Nat} (h : b = true) : ∃ v ≤ u, (if b then some u else rest) = some v :=
  ⟨u, Nat.le_refl u, if_pos h⟩

theorem firstBusy_before {b : Bool} {k u : Nat} {rest : Option Nat} (hk : k ≤ u) (h : ∃ v ≤ u, rest = some v) :
    ∃ v ≤ u, (if b then some k else rest) = some v := by
  split
  · exact ⟨k, hk, rfl⟩
  · exact h

/-- A request of STOP in RUN is refused with the first unit that is busy. -/
theorem stopUnit_of_busy {u : Nat} {busy : Dev → Bool} (hmem : (u, busy) ∈ [(1, Dev.queuesBusy), (2, Dev.turntableBusy), (3, Dev.signalBoxBusy),
      (4, Dev.translationBusy), (5, Dev.fabricBusy), (6, Dev.leaseBusy), (7, Dev.casksBusy), (8, Dev.calibrationBusy), (10, Dev.managementBusy)])
    (hbusy : busy d = true) : ∃ v ≤ u, d.stopUnit = some v := by
  simp only [List.mem_cons, List.not_mem_nil, or_false, Prod.mk.injEq] at hmem
  unfold Dev.stopUnit
  rcases hmem with ⟨rfl, rfl⟩ | ⟨rfl, rfl⟩ | ⟨rfl, rfl⟩ | ⟨rfl, rfl⟩ | ⟨rfl, rfl⟩ | ⟨rfl, rfl⟩ | ⟨rfl, rfl⟩ | ⟨rfl, rfl⟩ | ⟨rfl, rfl⟩
  · exact firstBusy_here hbusy
  · iterate 1 refine firstBusy_before (by decide) ?_
    exact firstBusy_here hbusy
  · iterate 2 refine firstBusy_before (by decide) ?_
    exact firstBusy_here hbusy
  · iterate 3 refine firstBusy_before (by decide) ?_
    exact firstBusy_here hbusy
  · iterate 4 refine firstBusy_before (by decide) ?_
    exact firstBusy_here hbusy
  · iterate 5 refine firstBusy_before (by decide) ?_
    exact firstBusy_here hbusy
  · iterate 6 refine firstBusy_before (by decide) ?_
    exact firstBusy_here hbusy
  · iterate 7 refine firstBusy_before (by decide) ?_
    exact firstBusy_here hbusy
  · iterate 8 refine firstBusy_before (by decide) ?_
    exact firstBusy_here hbusy

theorem stopUnit_fresh (p : Path) : (fresh d p).stopUnit = d.stopUnit := rfl

theorem requestStop_of_unit {u : Nat} (hrun : d.power.st = .run) (hu : d.stopUnit = some u) : d.requestStop = accounted d 0 u := by
  unfold Dev.requestStop
  rw [hrun]
  dsimp only
  rw [hu]
  exact accountStop_eq_accounted _ _ _

theorem requestStop_of_idle (hrun : d.power.st = .run) (hu : d.stopUnit = none) : d.requestStop =
    { d with power := { d.power with st := .entering, step := 1, linkL1 := false, dozed := [], snapshot := [] } } := by
  unfold Dev.requestStop
  rw [hrun]
  dsimp only
  rw [hu]

theorem stopUnit_of_queues (h : d.queuesBusy = true) : d.stopUnit = some 1 := if_pos h

theorem stopUnit_of_others_idle (h1 : d.queuesBusy = false) (h2 : d.turntableBusy = false) (h3 : d.signalBoxBusy = false)
    (h4 : d.translationBusy = false) (h5 : d.fabricBusy = false) (h6 : d.leaseBusy = false) (h7 : d.casksBusy = false) (h8 : d.calibrationBusy = false) :
    d.stopUnit = if d.managementBusy then some 10 else none := by
  unfold Dev.stopUnit
  rw [h1, h2, h3, h4, h5, h6, h7, h8]
  rfl

end

section
variable {s : State} {path : Path} (hpass : PassesPwr s.dev path)
include hpass

theorem gives_stopRequest {d : Dev} (hd : (fresh s.dev path).requestStop = d) : Gives (.stopRequest path) s d := gives_onPathDev rfl hpass hd

theorem gives_managementExit {d : Dev} (hd : (((fresh s.dev path).abortEntry 10).startWake 5 0) = d) : Gives (.managementExit path) s d :=
  gives_onPathDev rfl hpass ((wakeSource_management 0).trans hd)

end

/-- An idle step is what goes on by itself and one tick. -/
theorem step_idle {s : State} (hnone : s.pending = []) {d : Dev} (h : s.passes = { s with dev := d }) : step s = .next { s with dev := d.tick } := by
  have hstep : step s = .next (idleStep s) := by
    unfold step
    rw [hnone]
  exact hstep.trans (congrArg (fun t : State => Host.Outcome.next { t with dev := t.dev.tick }) h)

/-- The entry of STOP ends after its seventh step. -/
theorem entryStep_last {s : State} (h : 7 ≤ s.dev.power.step) : s.entryStep = { s with dev := { s.dev with
    power := { s.dev.power with st := .stop, step := 8 }, flowsOut := [], flowsIn := [] } } := by
  unfold State.entryStep
  dsimp only
  split
  · omega
  · omega
  · omega
  · omega
  · omega
  · omega
  · rfl

theorem wakeStep_last {s : State} (h : 3 ≤ s.dev.power.wakeStep) (hkept : s.dev.power.aonLost = false) :
    s.wakeStep = { s with dev := s.dev.logicReady } := by
  unfold State.wakeStep
  dsimp only
  rw [if_neg (Nat.not_lt.mpr h), hkept]
  rfl

theorem tick_of_stop {d : Dev} (h : d.power.st = .stop) : d.tick = d := by
  unfold Dev.tick
  rw [if_pos (Or.inl h)]

theorem writePwrMode_of_recovery {d : Dev} (h : d.rf 0x200C 1 0 = 3) : d.writePwrMode 2 = d := if_neg fun hall => hall.2 h

theorem release_of_none {s : State} (hheld : s.dev.held = []) : s.release = s := by
  unfold State.release
  rw [hheld]
  rfl

theorem passes_of_ready {s : State} (hready : s.dev.power.ready = true) : s.passes = match s.dev.power.st with
    | .run => ({ s with dev := s.dev.background } : State).endRestart.release
    | .entering => s.entryStep.release
    | .stop => s.release
    | .waking => s.wakeStep := by
  unfold State.passes
  rw [hready]
  rfl

/-- Settles O54: each command finds the state of power that its hypotheses name. -/
theorem stopIsEnteredAndLeft : Obligations.StopIsEnteredAndLeft := by
  unfold Obligations.StopIsEnteredAndLeft
  refine fun s => ⟨fun path hpass => ⟨fun hrun => ⟨fun u busy hmem hbusy => ?_, fun hbusy => ?_, fun h1 h2 h3 h4 h5 h6 h7 h8 => ⟨fun hbusy => ?_, fun hidle => ?_⟩, ?_⟩,
      fun hent => ⟨?_, ?_⟩, fun hwak => ⟨?_, ?_⟩, fun hstop => ⟨?_, ?_⟩⟩,
    fun hent => ⟨fun hstep hl1 => ?_, fun u hu => ?_, fun src n => ⟨fun hsrc hn hopen => ?_, fun hsrc hn hopen => ?_⟩⟩,
    fun hnot => ⟨?_, fun u => ?_⟩, fun hstop n => ⟨?_, ?_, fun src hsrc hn => ⟨fun hopen => ?_, fun hmasked => ?_⟩, fun hn => ⟨fun hopen => ?_, fun hmasked => ?_⟩⟩,
    fun hawake src n => ?_, fun step hlow hhigh hwak => ?_, fun step hnot => ?_, fun h => ?_, fun hpwr hready hlink hrun => ?_,
    fun path hpass => ⟨fun h => ?_, fun hlock hsvc => ?_⟩,
    fun hnone hready hheld => ⟨fun hent hstep => ?_, fun hwak hstep => ?_, fun hwak hstep hkept => ?_, fun hstop => ?_⟩⟩
  · obtain ⟨v, hle, hv⟩ := stopUnit_of_busy (d := s.dev) hmem hbusy
    exact ⟨v, hle, gives_stopRequest hpass (requestStop_of_unit hrun ((stopUnit_fresh path).trans hv))⟩
  · exact gives_stopRequest hpass (requestStop_of_unit hrun ((stopUnit_fresh path).trans <| stopUnit_of_queues hbusy))
  · exact gives_stopRequest hpass (requestStop_of_unit hrun ((stopUnit_fresh path).trans <| (stopUnit_of_others_idle h1 h2 h3 h4 h5 h6 h7 h8).trans (if_pos hbusy)))
  · exact gives_stopRequest hpass (requestStop_of_idle hrun ((stopUnit_fresh path).trans <| (stopUnit_of_others_idle h1 h2 h3 h4 h5 h6 h7 h8).trans (if_neg (by rw [show Dev.managementBusy _ = false from hidle]; decide))))
  · exact gives_managementExit hpass (abort_startWake_of_awake (d := fresh s.dev path) (Or.inl hrun) _ _ _)
  · refine gives_stopRequest hpass ?_
    unfold Dev.requestStop
    rw [show (fresh s.dev path).power.st = .entering from hent]
  · exact gives_managementExit hpass (abort_startWake_of_entering (d := fresh s.dev path) hent _ _ _)
  · refine gives_stopRequest hpass ?_
    unfold Dev.requestStop
    rw [show (fresh s.dev path).power.st = .waking from hwak]
    exact accountStop_eq_accounted _ _ _
  · exact gives_managementExit hpass (abort_startWake_of_awake (d := fresh s.dev path) (Or.inr hwak) _ _ _)
  · refine gives_stopRequest hpass ?_
    unfold Dev.requestStop
    rw [show (fresh s.dev path).power.st = .stop from hstop]
  · exact gives_managementExit hpass (abort_startWake_of_stop (d := fresh s.dev path) hstop _ _ _)
  · refine gives_onDev (show execStopL1Timeout s = _ from rfl) ((if_pos ⟨hent, hstep, ?_⟩).trans (accountStop_eq_accounted _ _ _))
    rw [hl1]
    decide
  · exact gives_onDev (show execStopAbort u s = _ from rfl) ((if_pos hu).trans (abortEntry_of_entering hent u))
  · exact gives_onDev (f := fun d => d.wakeSource src n) rfl ((wakeSource_port hsrc hn hopen).trans (abort_startWake_of_entering hent _ _ _))
  · subst hsrc
    exact gives_onDev (f := fun d => d.wakeSource 4 n) rfl ((wakeSource_cask hn hopen).trans (abort_startWake_of_entering hent _ _ _))
  · exact gives_onDev (show execStopL1Timeout s = _ from rfl) (if_neg fun h => hnot h.1)
  · refine gives_onDev (show execStopAbort u s = _ from rfl) ?_
    rw [abortEntry_of_not_entering hnot]
    exact ite_self _
  · exact gives_onDev (f := fun d => d.wakeSource 1 n) rfl ((wakeSource_host n).trans (abort_startWake_of_stop hstop _ _ _))
  · exact gives_onDev (f := fun d => d.wakeSource 5 n) rfl ((wakeSource_management n).trans (abort_startWake_of_stop hstop _ _ _))
  · exact gives_onDev (f := fun d => d.wakeSource src n) rfl ((wakeSource_port hsrc hn hopen).trans (abort_startWake_of_stop hstop _ _ _))
  · exact gives_onDev (f := fun d => d.wakeSource src n) rfl (wakeSource_port_masked hsrc hmasked)
  · exact gives_onDev (f := fun d => d.wakeSource 4 n) rfl ((wakeSource_cask hn hopen).trans (abort_startWake_of_stop hstop _ _ _))
  · exact gives_onDev (f := fun d => d.wakeSource 4 n) rfl (wakeSource_cask_masked hmasked)
  · exact gives_onDev (f := fun d => d.wakeSource src n) rfl (wakeSource_of_awake hawake src n)
  · exact congrArg Host.Outcome.next (if_pos ⟨hwak, hlow, hhigh⟩)
  · exact congrArg Host.Outcome.next (if_neg fun h => hnot h.1)
  · refine gives_onDev (show execCxlLinkUp s = _ from rfl) (if_pos ?_)
    rcases h with h | h | h <;> rw [h] <;> simp
  · refine gives_onDev (show execCxlLinkUp s = _ from rfl) ((if_neg ?_).trans ?_)
    · rw [hpwr, hready, hlink]
      decide
    · dsimp only
      rw [show s.dev.hostArrives = s.dev from abort_startWake_of_awake (Or.inl hrun) 9 1 0]
  · refine gives_onPath rfl hpass ?_
    rcases h with hlock | hsvc
    · exact if_pos hlock
    · rw [writePwrMode_of_recovery (d := fresh s.dev path) hsvc]
      exact ite_self _
  · refine gives_onPath rfl hpass ((if_neg ?_).trans ?_)
    · exact fun h => Bool.false_ne_true (hlock.symm.trans h)
    · exact congrArg (fun d => ({ s with dev := d } : State)) (if_pos ⟨by decide, hsvc⟩)
  · refine step_idle hnone ((passes_of_ready hready).trans ?_)
    rw [hent]
    exact (congrArg State.release (entryStep_last hstep)).trans (release_of_none hheld)
  · refine step_idle hnone ((passes_of_ready hready).trans ?_)
    rw [hwak]
    exact if_pos hstep
  · refine step_idle hnone ((passes_of_ready hready).trans ?_)
    rw [hwak]
    exact wakeStep_last hstep hkept
  · refine (step_idle hnone (d := s.dev) ((passes_of_ready hready).trans ?_)).trans ?_
    · rw [hstop]
      exact release_of_none hheld
    · rw [tick_of_stop hstop]

end Sys2Proof.Proofs
end

section
/-! What resets clear and keep, and the boot (R141, R365, R366, R374, R405, R407, R412): their obligation. -/

namespace Sys2Proof.Proofs

open Sys2Proof Sys2Proof.Machine Sys2Proof.Claims

section
variable {d : Dev}

theorem slots_cleared (d : Dev) : d.cleared.slots =
    (d.slots.filter (fun p => p.2.detect)).map (fun p => (p.1, { SlotSt.empty with cask := p.2.cask, detect := true })) := by
  refine List.map_congr_left fun p hp => ?_
  obtain ⟨-, hdetect⟩ := List.mem_filter.mp hp
  have hdetect' : p.2.detect = true := hdetect
  unfold SlotSt.afterReset
  rw [hdetect']
  rfl

/-- What every reset clears and keeps; resets differ in the LDs, the power, the pins and the island's counters and meters. -/
theorem resetFrom_cleared (d : Dev) {lds : NSet} {power : PowerSt} {pins : Pins} (hready : power.ready = false) (hstuck : power.stuck = false)
    (hrun : power.st = .run) (hlink : power.linkUp = false) (ticks ops pcc : Nat) (meters : Meters) :
    ResetFrom d { d.cleared with activeLds := lds, power := power, pins := pins, ticks := ticks, opTicks := ops, pcc := pcc, meters := meters } := by
  have hslots := slots_cleared d
  refine ⟨?_, ?_, hready, hstuck, hrun, hlink⟩
  · iterate 14 refine ⟨rfl, ?_⟩
    exact ⟨hslots, rfl⟩
  · repeat refine ⟨rfl, ?_⟩
    rfl

theorem resetFrom_deviceReset (d : Dev) : ResetFrom d d.cleared := resetFrom_cleared d rfl rfl rfl rfl _ _ _ _

theorem resetFrom_losePower (d : Dev) : ResetFrom d d.losePower := resetFrom_cleared d rfl rfl rfl rfl _ _ _ _

/-- A pulse that ends PWRGD. -/
theorem resetFrom_pwrgdFall (d : Dev) : ResetFrom d { d.losePower with
    power := { d.losePower.power with pwrgd := false }, pins := { d.losePower.pins with thermtrip := false } } :=
  resetFrom_cleared d rfl rfl rfl rfl _ _ _ _

theorem resetFrom_thermalTrip (d : Dev) (sensor temp : Nat) : ResetFrom d (Dev.losePower { d with
    pins := { d.pins with thermtrip := true, tripRecord := some (.thermal sensor temp) } }) :=
  resetFrom_cleared d rfl rfl rfl rfl _ _ _ _

theorem resetFrom_coldReset (s : State) (found : PowerOn) : ResetFrom s.dev (s.coldReset found).dev :=
  resetFrom_cleared s.dev rfl rfl rfl rfl _ _ _ _

end

/-- A device reset, whatever causes it, with the part's power good. -/
theorem deviceReset_spec (s : State) (hpwr : s.dev.power.pwrgd = true) : ∃ t, State.deviceReset s = { s with lock := 0, dev := t } ∧ ResetFrom s.dev t ∧
    t.power.pwrgd = true ∧ t.ticks = s.dev.ticks ∧ t.opTicks = s.dev.opTicks ∧ t.pcc = s.dev.pcc ∧ t.pins.corePower = s.dev.pins.corePower :=
  ⟨s.dev.cleared, rfl, resetFrom_deviceReset s.dev, hpwr, rfl, rfl, rfl, rfl⟩

theorem queues_filter_none {d : Dev} {ld : Nat} (h : ∀ p ∈ d.queues, p.2.fn / 64 ≠ ld) :
    ((d.queues.map (fun p => p.2.fn)).filter (fun f => decide (f < 1024) && [ld].contains (f / 64))).eraseDups = [] := by
  rw [List.filter_eq_nil_iff.mpr]
  · rfl
  · intro f hf
    obtain ⟨p, hp, rfl⟩ := List.mem_map.mp hf
    rw [Bool.and_eq_true, List.contains_iff_mem, List.mem_singleton]
    exact fun hall => h p hp hall.2

theorem contains_singleton (ld x : Nat) : [ld].contains x = decide (x = ld) := by
  rw [List.contains_eq_mem]
  exact decide_eq_decide.mpr List.mem_singleton

/-- The reset of one LD that is active and has no queue. -/
theorem resetLds_single {d : Dev} {ld : Nat} (hld : ld < 16) (hactive : ld ∈ d.activeLds) (hnone : ∀ p ∈ d.queues, p.2.fn / 64 ≠ ld) :
    d.resetLds [ld] =
      let e := (d.dropHost [ld]).silence ld
      let e := (List.range 8).foldl (fun (e : Dev) n => e.uncommit ld n) e
      let e := e.resetFns (fun f => decide (f < 1024) && decide (f / 64 = ld))
      { e with
        regs := e.regs.filter (fun p => ! decide (0x6400 + 0x40 * ld ≤ p.1 ∧ p.1 < 0x6440 + 0x40 * ld))
        fw := { e.fw with sessions := e.fw.sessions.filter (fun x => x.transport ≥ 16 || x.transport != ld) } } := by
  have hfilter : [ld].filter (fun l => d.activeLds.contains l) = [ld] := by
    rw [List.filter_cons_of_pos (by rw [List.contains_iff_mem]; exact hactive), List.filter_nil]
  have hmine : (fun f => decide (f < 1024) && [ld].contains (f / 64)) = fun f => decide (f < 1024) && decide (f / 64 = ld) :=
    funext fun f => by rw [contains_singleton]
  have hregs : (fun p : Nat × Nat => ! (decide (0x6400 ≤ p.1 ∧ p.1 < 0x6800) && [ld].contains ((p.1 - 0x6400) / 0x40))) =
      fun p => ! decide (0x6400 + 0x40 * ld ≤ p.1 ∧ p.1 < 0x6440 + 0x40 * ld) :=
    funext fun p => by
      rw [contains_singleton, ← Bool.decide_and]
      exact congrArg (! ·) (decide_eq_decide.mpr (by omega))
  have hsessions : (fun x : Session => x.transport ≥ 16 || ! [ld].contains x.transport) = fun x => x.transport ≥ 16 || x.transport != ld :=
    funext fun x => by
      rw [contains_singleton]
      rfl
  unfold Dev.resetLds
  dsimp only
  rw [hfilter, hregs, hsessions]
  have hfns : (((List.foldl (fun (d : Dev) l => d.silence l) (d.dropHost [ld]) [ld]).queues.map (fun p => p.2.fn)).filter
      (fun f => decide (f < 1024) && [ld].contains (f / 64))).eraseDups = [] := queues_filter_none hnone
  rw [hfns, hmine]
  simp only [List.foldl_cons, List.foldl_nil]

/-- After the reset of the host port no register of a decoder and no DOE session is left. -/
theorem resetLds_all (d : Dev) : (∀ p ∈ (d.resetLds (List.range 16)).regs, p.1 < 0x6400 ∨ 0x6800 ≤ p.1) ∧
    (∀ x ∈ (d.resetLds (List.range 16)).fw.sessions, 16 ≤ x.transport) := by
  unfold Dev.resetLds
  refine ⟨fun p hp => ?_, fun x hx => ?_⟩
  · obtain ⟨-, hkept⟩ := List.mem_filter.mp hp
    rw [Bool.not_eq_true', Bool.and_eq_false_iff, decide_eq_false_iff_not, ← Bool.not_eq_true, List.contains_iff_mem, List.mem_range] at hkept
    omega
  · obtain ⟨-, hkept⟩ := List.mem_filter.mp hx
    rw [Bool.or_eq_true, decide_eq_true_eq, Bool.not_eq_true', ← Bool.not_eq_true, List.contains_iff_mem, List.mem_range] at hkept
    omega

/-- A block without power, or whose reset no longer waits for its boot, stays as it is; with its clock it boots. -/
theorem passes_of_not_ready {s : State} (hready : s.dev.power.ready = false) (hstuck : s.dev.power.stuck = false) : s.passes = s.boot := by
  unfold State.passes
  rw [hready, hstuck]
  rfl

section
variable {s : State} (hpwr : s.dev.power.pwrgd = true) (hready : s.dev.power.ready = false) (hstuck : s.dev.power.stuck = false)
  (hcore : s.dev.pins.corePower = true)
include hpwr hready hstuck hcore

theorem boot_without_clock (hclock : s.dev.power.clock = false) : s.boot = { s with dev := { s.dev with
    power := { s.dev.power with stuck := true }, pins := { s.dev.pins with tripRecord := some .noClock } } } := by
  unfold State.boot
  dsimp only
  rw [hpwr, hready, hstuck, hcore, hclock]
  rfl

theorem boot_with_clock (hclock : s.dev.power.clock = true) : s.boot = match s.bootSlot with
    | some b => { s with dev := s.dev.bootWith b }
    | none => { s with dev := { s.dev with power := { s.dev.power with stuck := true } } } := by
  unfold State.boot
  dsimp only
  rw [hpwr, hready, hstuck, hcore, hclock]
  rfl

end

/-- The boot once the image runs: the records that wait become events, the ports train and the casks are raised (R346, R355, R412). -/
def bootTail (d : Dev) : Dev :=
  let d := match d.pins.tripRecord with
    | some (.thermal sensor temp) =>
      { d with pins := { d.pins with tripRecord := none } }.event .thermalTrip [.unit (sensor % 256), .count temp]
    | some .noClock => { d with pins := { d.pins with tripRecord := none } }.event .thermalTrip []
    | none => d
  let d := if d.calNor.any (·.bad) then d.event .calBad [] else d
  ((List.range 16).foldl (fun d p => if (d.port p).module then d.restPort p else d) d).raiseRails

/-- The block with the image of a slot in its bays, the loop at 800 mV, and ready. -/
def withImage (d : Dev) (slot : Bool) : Dev := { d with
  fw := { d.fw with runningB := slot, microcode := (List.range d.bays).foldl (fun m b => smPut 0 b (d.fw.slot slot).microcode m) d.fw.microcode }
  vloop := { d.vloop with set := 800, running := true }
  power := { d.power with ready := true } }

theorem booted_eq (d : Dev) (slot : Bool) : booted d slot = bootTail (withImage d slot) := rfl

theorem withImage_eq (d : Dev) (slot : Bool) : { (d.modFw (fun w => { w with
      runningB := slot, microcode := (List.range d.bays).foldl (fun m b => smPut 0 b (d.fw.slot slot).microcode m) w.microcode })).modLoop
      (fun v => { v with set := 800, running := true }) with power := { d.power with ready := true } } = withImage d slot := rfl

theorem bootWith_eq (d : Dev) (slot : Bool) : d.bootWith slot = bootTail (withImage (if slot = d.fw.activeB then d else d.setRf 0x200C 1 0 3) slot) := by
  rw [← withImage_eq]
  rfl

theorem bootWith_active (d : Dev) : d.bootWith d.fw.activeB = booted d d.fw.activeB := by
  rw [bootWith_eq, booted_eq, if_pos rfl]

theorem bootWith_other (d : Dev) : d.bootWith (! d.fw.activeB) = booted (d.setRf 0x200C 1 0 3) (! d.fw.activeB) := by
  rw [bootWith_eq, booted_eq, if_neg (by cases d.fw.activeB <;> decide)]

/-- Settles O55: each reset finds the state of power that its hypotheses name. -/
theorem resetsKeepWhatTheyMust : Obligations.ResetsKeepWhatTheyMust := by
  unfold Obligations.ResetsKeepWhatTheyMust
  refine fun s => ⟨fun c hc => ⟨fun hpwr => ?_, fun hpwr => ?_⟩, fun kept clock lds => ?_, fun hpwr => ?_, fun hpwr => ?_, fun hpwr htrip sensor temp => ?_,
    fun hpwr sensor temp => ⟨?_, ?_, ?_⟩, ?_, fun h => ⟨?_, fun ld => ?_⟩, fun hready hpwr => ⟨fun ld hld => ?_, fun ld hld hactive hnone => ?_, ?_⟩,
    fun hnone hpwr hready hstuck hcore hrun => ⟨fun hclock => ?_, fun hclock hfirst => ?_, fun hclock hfirst hsecond => ?_, fun hclock hfirst hsecond => ?_⟩⟩
  · obtain ⟨t, ht, hspec⟩ := deviceReset_spec s hpwr
    refine ⟨t, ?_, hspec⟩
    rw [← ht]
    rcases hc with rfl | ⟨cause, rfl⟩
    · exact congrArg Host.Outcome.next (if_pos hpwr)
    · exact congrArg Host.Outcome.next (if_pos hpwr)
  · rcases hc with rfl | ⟨cause, rfl⟩
    · exact congrArg Host.Outcome.next (if_neg (by rw [hpwr]; decide))
    · exact congrArg Host.Outcome.next (if_neg (by rw [hpwr]; decide))
  · refine ⟨(s.coldReset ⟨kept, clock, lds⟩).dev, rfl, resetFrom_coldReset s _, rfl, rfl, rfl, rfl, rfl, rfl, rfl, rfl, fun hlow hhigh ld => ?_⟩
    rw [show (s.coldReset ⟨kept, clock, lds⟩).dev.activeLds = List.range lds from if_pos ⟨hlow, hhigh⟩]
    exact List.mem_range
  · exact ⟨s.dev.losePower, gives_onDev (show execPowerLoss s = _ from rfl) (if_pos hpwr), resetFrom_losePower s.dev, hpwr, rfl⟩
  · refine ⟨_, gives_onDev (show execPwrgdFall s = _ from rfl) (if_neg ?_), resetFrom_pwrgdFall s.dev, rfl, rfl, rfl⟩
    rw [hpwr]
    decide
  · refine ⟨_, gives_onDev (show execThermalTrip sensor temp s = _ from rfl) (if_neg ?_), resetFrom_thermalTrip s.dev sensor temp, rfl, rfl, rfl⟩
    rw [hpwr, htrip]
    decide
  · exact gives_onDev (show execPowerLoss s = _ from rfl) (if_neg (by rw [hpwr]; decide))
  · exact gives_onDev (show execPwrgdFall s = _ from rfl) (if_pos (by rw [hpwr]; rfl))
  · exact gives_onDev (show execThermalTrip sensor temp s = _ from rfl) (if_pos (by rw [hpwr]; rfl))
  · refine ⟨_, gives_onDev (show execVddAonLoss s = _ from rfl) rfl, rfl, ?_⟩
    simp only [Bool.or_eq_true, Bool.and_eq_true, beq_iff_eq, decide_eq_true_eq, or_assoc, ge_iff_le]
  · refine gives_onDev (show execHostPortReset s = _ from rfl) (if_pos ?_)
    rcases h with h | h <;> rw [h] <;> simp
  · refine gives_onDev (show execLdReset ld s = _ from rfl) (if_pos ?_)
    rcases h with h | h <;> rw [h] <;> simp
  · refine gives_onDev (show execLdReset ld s = _ from rfl) (if_pos ?_)
    rw [decide_eq_true (show ld ≥ 16 from hld), Bool.or_true]
  · refine gives_onDev (show execLdReset ld s = _ from rfl) ((if_neg ?_).trans ?_)
    · rw [hpwr, hready, decide_eq_false (Nat.not_le.mpr hld)]
      decide
    · exact congrArg (fun d => Dev.dropHeld d [ld]) (resetLds_single hld hactive hnone)
  · obtain ⟨hregs, hsessions⟩ := resetLds_all s.dev
    refine ⟨_, gives_onDev (show execHostPortReset s = _ from rfl) (if_neg ?_), rfl, hregs, hsessions⟩
    rw [hpwr, hready]
    decide
  · exact step_idle hnone ((passes_of_not_ready hready hstuck).trans (boot_without_clock hpwr hready hstuck hcore hclock))
  · refine step_idle hnone ((passes_of_not_ready hready hstuck).trans ((boot_with_clock hpwr hready hstuck hcore hclock).trans ?_))
    rw [show s.bootSlot = some s.dev.fw.activeB from if_pos hfirst]
    exact congrArg (fun d => ({ s with dev := d } : State)) (bootWith_active s.dev)
  · refine step_idle hnone ((passes_of_not_ready hready hstuck).trans ((boot_with_clock hpwr hready hstuck hcore hclock).trans ?_))
    rw [show s.bootSlot = some (! s.dev.fw.activeB) from (if_neg (by rw [show FwSlot.runs _ _ = false from hfirst]; decide)).trans (if_pos hsecond)]
    exact congrArg (fun d => ({ s with dev := d } : State)) (bootWith_other s.dev)
  · refine step_idle hnone ((passes_of_not_ready hready hstuck).trans ((boot_with_clock hpwr hready hstuck hcore hclock).trans ?_))
    rw [show s.bootSlot = none from (if_neg (by rw [show FwSlot.runs _ _ = false from hfirst]; decide)).trans
      (if_neg (by rw [show FwSlot.runs _ _ = false from hsecond]; decide))]

end Sys2Proof.Proofs
end

section
/-! Locks, firmware commands and the restart (R26, R373 to R375, R377 to R379): their obligation. -/

namespace Sys2Proof.Proofs

open Sys2Proof Sys2Proof.Machine Sys2Proof.Claims

/-- SEC_LOCK's bits are set where they are written 1, and none is cleared. -/
theorem testBit_lockSet (lock v b : Nat) : (lockSet lock v).testBit b = (lock.testBit b || (decide (b < 11) && v.testBit b)) := by
  have hbits : bits v 10 0 = v % 2 ^ 11 := by
    unfold bits
    rw [Nat.pow_zero, Nat.div_one]
  unfold lockSet
  rw [hbits, Nat.testBit_or, Nat.testBit_mod_two_pow]

/-- The value of a register of reset value 0, after a write of one field that leaves it other than 0. -/
theorem reg_setRf_same {d : Dev} {key hi lo v : Nat} (hreset : regReset key = 0) (hne : setBits (d.reg key) hi lo v ≠ 0) :
    (d.setRf key hi lo v).reg key = setBits (d.reg key) hi lo v := by
  unfold Dev.reg at hne ⊢
  unfold Dev.setRf Dev.setReg Dev.reg smPut
  dsimp only
  rw [if_neg (by rwa [hreset] at hne ⊢)]
  unfold smGet
  rw [smGet?_smSet_self]
  rfl

theorem reg_setRf_ne {d : Dev} {key k hi lo v : Nat} (hreset : regReset key = 0) (hne : setBits (d.reg key) hi lo v ≠ 0) (hk : k ≠ key) :
    (d.setRf key hi lo v).reg k = d.reg k := by
  unfold Dev.reg at hne ⊢
  unfold Dev.setRf Dev.setReg Dev.reg smPut
  dsimp only
  rw [if_neg (by rwa [hreset] at hne ⊢)]
  unfold smGet
  rw [smGet?_smSet_ne hk]

/-- Storing the OP and SLOT of a firmware command leaves every other register, since its OP is not 0. -/
theorem reg_secOp {d : Dev} {p : Path} {op k : Nat} {slot : Bool} (hop : 0 < op) (hop' : op < 8) (hk : k ≠ 0x1018) : (secOp d p op slot).reg k = d.reg k := by
  have hreset : regReset 0x1018 = 0 := by decide +kernel
  have hfirst : setBits ((fresh d p).reg 0x1018) 2 0 op ≠ 0 := by
    unfold setBits
    rw [Nat.mod_eq_of_lt (show op < 2 ^ (2 + 1 - 0) from hop')]
    omega
  have hread := reg_setRf_same hreset hfirst
  have hlow : 0 < setBits ((fresh d p).reg 0x1018) 2 0 op % 8 := by
    unfold setBits bits
    rw [Nat.mod_eq_of_lt (show op < 2 ^ (2 + 1 - 0) from hop')]
    omega
  have hsecond : setBits (((fresh d p).setRf 0x1018 2 0 op).reg 0x1018) 3 3 (if slot then 1 else 0) ≠ 0 := by
    rw [hread]
    generalize setBits ((fresh d p).reg 0x1018) 2 0 op = x at hlow
    unfold setBits bits
    omega
  unfold secOp
  rw [reg_setRf_ne hreset hsecond hk, reg_setRf_ne hreset hfirst hk]
  rfl

theorem floor_secOp {d : Dev} {p : Path} {op : Nat} {slot : Bool} (hop : 0 < op) (hop' : op < 8) : (secOp d p op slot).floor = lowest d := by
  have hreg := reg_secOp (d := d) (p := p) (slot := slot) hop hop' (show 0x2020 ≠ 0x1018 by decide)
  unfold Dev.floor lowest Dev.rf
  rw [hreg]

theorem fwGo_stage (s : State) (slot : Bool) (c : Instr) : s.fwGo 1 slot c =
    State.stage { s with dev := (s.dev.setRf 0x1018 2 0 1).setRf 0x1018 3 3 (b2n slot) } slot c := by
  unfold State.fwGo
  rfl

section
variable {s : State} {path : Path} (hpass : Passes s.dev path)
include hpass

theorem gives_stageImage {slot : Bool} {d : Dev}
    (hd : State.stage { s with dev := secOp s.dev path 1 slot } slot (.stageImage path slot) = { s with dev := d }) :
    Gives (.stageImage path slot) s d := by
  have hstate : ({ s with dev := ((fresh s.dev path).setRf 0x1018 2 0 1).setRf 0x1018 3 3 (b2n slot) } : State) =
      { s with dev := secOp s.dev path 1 slot } := rfl
  exact gives_onPath (f := fun s => s.fwGo 1 slot (.stageImage path slot)) rfl hpass ((fwGo_stage _ _ _).trans
    ((congrArg (fun t => State.stage t slot (.stageImage path slot)) hstate).trans hd))

theorem gives_activate {slot : Bool} {d : Dev} (hd : State.activateSlot { s with dev := secOp s.dev path 2 slot } slot = { s with dev := d }) :
    Gives (.activate path slot) s d := gives_onPath rfl hpass hd

theorem exec_confirm : exec (.confirm path) s = .next (State.confirmSlot { s with dev := secOp s.dev path 3 (bit (s.dev.reg 0x1018) 3) }) :=
  congrArg Host.Outcome.next (State.onPath_of_pass _ _ _ hpass)

theorem gives_revert {d : Dev} (hd : State.revertSlot { s with dev := secOp s.dev path 4 (bit (s.dev.reg 0x1018) 3) } = { s with dev := d }) :
    Gives (.revert path) s d := gives_onPath rfl hpass hd

end

section
variable {s : State} {slot : Bool} (hre : s.dev.fw.restarting = false) (hrun : slot ≠ s.dev.fw.runningB) (hact : slot ≠ s.dev.fw.activeB)
include hre hrun hact

theorem stage_of_failed (hpin : s.dev.pinnedRange s.dev.fwBuf 16777216 = false) (c : Instr) :
    s.stage slot c = { s with dev := (s.dev.modFw (fun w => w.setSlot slot .blank)).fwFail 1 } := by
  unfold State.stage
  dsimp only
  rw [useBuf_failed (by decide) hpin, hre, if_neg Bool.false_ne_true, if_neg (not_or_intro hrun hact)]

theorem stage_of_read {head body : List Byte} {t : Dev} (hpin : s.dev.pinnedRange s.dev.fwBuf 16777216 = true)
    (htry : s.dev.unitTry (readImage s.dev.fwBuf) = (.ok (head, body), t)) (c : Instr) : s.stage slot c =
      { s with dev := ((imageOf s.fuses head body).map (fun x => t.modFw (fun w => w.setSlot slot x))).getD ((t.modFw (fun w => w.setSlot slot .blank)).fwFail 1) } := by
  unfold State.stage
  dsimp only
  rw [useBuf_done (Or.inr hpin) htry, hre, if_neg Bool.false_ne_true, if_neg (not_or_intro hrun hact)]
  dsimp only
  cases imageOf s.fuses head body <;> rfl

end

theorem beginRestart_secOp {d : Dev} {p : Path} {op : Nat} {slot target : Bool} (hop : 0 < op) (hop' : op < 8) :
    (secOp d p op slot).beginRestart target = { secOp d p op slot with
      fw := { d.fw with restarting := true, target := target }, vloop := raised d.vloop 20 (lowest d) } := by
  unfold Dev.beginRestart Dev.modLoop
  rw [floor_secOp hop hop']
  rfl

/-- Putting a slot's content in place. -/
theorem modFw_setSlot (t : Dev) (slot : Bool) (x : FwSlot) : t.modFw (fun w => w.setSlot slot x) =
    { t with fw := if slot then { t.fw with slotB := x } else { t.fw with slotA := x } } := rfl

theorem fw_secOp (d : Dev) (p : Path) (op : Nat) (slot : Bool) : (secOp d p op slot).fw = d.fw := rfl

theorem fwBusy_secOp (d : Dev) (p : Path) (op : Nat) (slot : Bool) : (secOp d p op slot).fwBusy = d.fwBusy := rfl

theorem calBusy_secOp (d : Dev) (p : Path) (op : Nat) (slot : Bool) : (secOp d p op slot).calBusy = d.calBusy := rfl

theorem power_secOp (d : Dev) (p : Path) (op : Nat) (slot : Bool) : (secOp d p op slot).power = d.power := rfl

theorem runs_eq_false {x : FwSlot} {fuses : Nat} (h : x.valid = false ∨ x.svn < fuses) : x.runs fuses = false := by
  unfold FwSlot.runs
  rcases h with h | h
  · rw [h]
    rfl
  · rw [decide_eq_false (Nat.not_le.mpr h), Bool.and_false]

theorem runs_eq_true {x : FwSlot} {fuses : Nat} (hvalid : x.valid = true) (hsvn : fuses ≤ x.svn) : x.runs fuses = true := by
  unfold FwSlot.runs
  rw [hvalid, decide_eq_true hsvn]
  rfl

section
variable {e : Dev} (s : State) {slot : Bool}

theorem activateSlot_of_busy (h : e.fwBusy = true ∨ e.calBusy = true) : State.activateSlot { s with dev := e } slot = { s with dev := e.fwFail 4 } := by
  refine if_pos ?_
  rcases h with h | h
  · rw [show Dev.fwBusy _ = true from h]
    rfl
  · rw [show Dev.calBusy _ = true from h, Bool.or_true]
    rfl

theorem activateSlot_of_idle (hfw : e.fwBusy = false) (hcal : e.calBusy = false) (hrun : e.power.st = .run) :
    State.activateSlot { s with dev := e } slot =
      { s with dev := if (e.fw.slot slot).runs s.fuses then e.beginRestart slot else e.fwFail 2 } := by
  unfold State.activateSlot
  dsimp only
  rw [hfw, hcal, hrun]
  refine (if_neg (by decide)).trans ?_
  cases (e.fw.slot slot).runs s.fuses <;> rfl

theorem confirmSlot_of_restarting (hre : e.fw.restarting = true) : State.confirmSlot { s with dev := e } = { s with dev := e.fwFail 4 } := if_pos hre

theorem confirmSlot_of_not_restarting (hre : e.fw.restarting = false) : State.confirmSlot { s with dev := e } =
    if e.fw.runningB = e.fw.activeB ∧ ¬ ((e.fw.slot e.fw.runningB).svnCommit = true ∧ s.fuses < min 64 (e.fw.slot e.fw.runningB).svn) then
      { s with dev := e.fwFail 5 }
    else { s with
      dev := { e with fw := { e.fw with activeB := e.fw.runningB } }
      fuses := if (e.fw.slot e.fw.runningB).svnCommit then max s.fuses (min 64 (e.fw.slot e.fw.runningB).svn) else s.fuses } := by
  unfold State.confirmSlot
  dsimp only
  have howed : State.svnPending { s with dev := e } = true ↔
      ((e.fw.slot e.fw.runningB).svnCommit = true ∧ s.fuses < min 64 (e.fw.slot e.fw.runningB).svn) := by
    unfold State.svnPending
    rw [Bool.and_eq_true, decide_eq_true_eq]
    exact Iff.rfl
  refine (if_neg (by rw [hre]; decide)).trans ?_
  simp only [howed]
  rfl

theorem revertSlot_of_busy (h : e.fwBusy = true) : State.revertSlot { s with dev := e } = { s with dev := e.fwFail 4 } := if_pos h

theorem revertSlot_of_idle (h : e.fwBusy = false) : State.revertSlot { s with dev := e } =
    { s with dev := if e.fw.runningB = e.fw.activeB then e.fwFail 2 else e.beginRestart e.fw.activeB } := by
  unfold State.revertSlot
  dsimp only
  rw [h]
  refine (if_neg Bool.false_ne_true).trans ?_
  split <;> rfl

end

/-- Settles O56: each command finds the slots and the restart as its hypotheses say. -/
theorem firmwareIsStagedActivatedAndConfirmed : Obligations.FirmwareIsStagedActivatedAndConfirmed := by
  unfold Obligations.FirmwareIsStagedActivatedAndConfirmed
  refine fun s path hpass => ⟨fun v => ⟨lockSet s.lock v, ?_, testBit_lockSet s.lock v⟩,
    fun slot => ⟨fun hre => ?_, fun hre hslot => ?_, fun hre hrun hact => ⟨fun hpin => ?_, fun head body t hpin htry => ⟨fun x himg => ?_, fun himg => ?_⟩⟩⟩,
    fun slot => ⟨fun hbusy => ?_, fun hfw hcal hrun => ⟨fun hbad => ?_, fun hvalid hsvn => ?_⟩⟩,
    ⟨fun hre => ?_, fun hre hsame howed => ?_, fun hre h => ?_⟩, ⟨fun hbusy => ?_, fun hbusy hsame => ?_, fun hbusy hdiff => ?_⟩,
    fun hre => ?_, fun hre => ⟨fun hbad => ?_, fun hvalid hsvn => ?_⟩, fun bay => ⟨fun h => ?_, fun hin hre => ?_⟩⟩
  · exact congrArg Host.Outcome.next (State.onPath_of_pass _ _ _ hpass)
  · exact gives_stageImage hpass (if_pos hre)
  · refine gives_stageImage hpass ((if_neg ?_).trans (if_pos hslot))
    exact fun h => Bool.false_ne_true (hre.symm.trans h)
  · exact gives_stageImage hpass (stage_of_failed (s := { s with dev := secOp s.dev path 1 slot }) hre hrun hact hpin _)
  · refine gives_stageImage hpass ((stage_of_read (s := { s with dev := secOp s.dev path 1 slot }) hre hrun hact hpin htry _).trans ?_)
    rw [himg]
    rfl
  · refine gives_stageImage hpass ((stage_of_read (s := { s with dev := secOp s.dev path 1 slot }) hre hrun hact hpin htry _).trans ?_)
    rw [himg]
    rfl
  · exact gives_activate hpass (activateSlot_of_busy (e := secOp s.dev path 2 slot) s hbusy)
  · refine gives_activate hpass ((activateSlot_of_idle (e := secOp s.dev path 2 slot) s hfw hcal hrun).trans ?_)
    rw [fw_secOp, runs_eq_false hbad]
    rfl
  · refine gives_activate hpass ((activateSlot_of_idle (e := secOp s.dev path 2 slot) s hfw hcal hrun).trans ?_)
    rw [fw_secOp, runs_eq_true hvalid hsvn, beginRestart_secOp (by decide) (by decide)]
    rfl
  · unfold Gives
    rw [exec_confirm hpass, confirmSlot_of_restarting s (by rw [fw_secOp]; exact hre)]
    rfl
  · unfold Gives
    rw [exec_confirm hpass, confirmSlot_of_not_restarting s (by rw [fw_secOp]; exact hre), fw_secOp, if_pos ⟨hsame, howed⟩]
    rfl
  · rw [exec_confirm hpass, confirmSlot_of_not_restarting s (by rw [fw_secOp]; exact hre), fw_secOp, if_neg]
    exact fun hall => h.elim (fun hne => hne hall.1) hall.2
  · exact gives_revert hpass (revertSlot_of_busy (e := secOp s.dev path 4 _) s hbusy)
  · refine gives_revert hpass ((revertSlot_of_idle (e := secOp s.dev path 4 _) s hbusy).trans ?_)
    rw [fw_secOp, if_pos hsame]
    rfl
  · refine gives_revert hpass ((revertSlot_of_idle (e := secOp s.dev path 4 _) s hbusy).trans ?_)
    rw [fw_secOp, if_neg hdiff, beginRestart_secOp (by decide) (by decide)]
  · unfold State.endRestart
    dsimp only
    rw [hre]
    exact if_pos rfl
  · unfold State.endRestart
    dsimp only
    rw [hre, runs_eq_false hbad]
    exact (if_neg (by decide)).trans (if_pos rfl)
  · unfold State.endRestart
    dsimp only
    rw [hre, runs_eq_true hvalid hsvn]
    refine (if_neg (by decide)).trans ((if_neg (by decide)).trans ?_)
    unfold Dev.modFw FwState.running
    rw [Bool.beq_eq_decide_eq, decide_not]
    simp only [decide_eq_true_eq]
  · refine gives_onDev (show execMicrocodeRollout bay s = _ from rfl) (if_pos ?_)
    rcases h with h | h
    · rw [contains_false_of_not_mem h]
      rfl
    · rw [h, Bool.or_true]
  · refine gives_onDev (show execMicrocodeRollout bay s = _ from rfl) ((if_neg ?_).trans rfl)
    rw [contains_true_of_mem hin, hre]
    decide

end Sys2Proof.Proofs
end

section
/-! The SPDM responder (R370, R371, R378): its obligation. -/

namespace Sys2Proof.Proofs

open Sys2Proof Sys2Proof.Machine Sys2Proof.Claims

/-- Training a port leaves the accesses that wait. -/
theorem held_train (d : Dev) (p : Nat) : (d.train p).held = d.held := by
  rw [Dev.train_only]

theorem held_event (d : Dev) (k : Ev) (b : List EvField) : (d.event k b).held = d.held := by
  rw [Dev.event_only]

theorem held_undoEntry (d : Dev) : d.undoEntry.held = d.held := by
  have hports : ∀ (ps : List Nat) (e : Dev), (ps.foldl (fun (d : Dev) p => if (d.port p).st = .doze then d.train p else d) e).held = e.held := by
    intro ps
    induction ps with
    | nil => exact fun _ => rfl
    | cons p ps ih =>
      intro e
      rw [List.foldl_cons, ih]
      split
      · exact held_train e p
      · rfl
  exact hports d.power.dozed d

theorem held_accounted (d : Dev) (kind unit : Nat) : (accounted d kind unit).held = d.held := by
  unfold accounted
  refine (held_event _ _ _).trans ?_
  split
  · rfl
  · split
    · rw [Dev.setRf_only, Dev.setRf_only, Dev.stat_only]
    · rw [Dev.setRf_only, Dev.setRf_only, Dev.stat_only]

theorem held_wakes (d : Dev) (src idx : Nat) : (wakes d src idx).held = d.held := by
  unfold wakes
  refine (held_event _ _ _).trans ?_
  split
  · rfl
  · rw [Dev.setRf_only, Dev.setRf_only, Dev.setRf_only]

/-- What arrives from the host leaves the accesses that wait. -/
theorem held_hostArrives (d : Dev) : d.hostArrives.held = d.held := by
  have habort : (d.abortEntry 9).held = d.held := by
    by_cases hent : d.power.st = .entering
    · rw [abortEntry_of_entering hent, held_accounted, held_undoEntry]
    · rw [abortEntry_of_not_entering hent]
  refine Eq.trans ?_ habort
  unfold Dev.hostArrives
  by_cases hstop : (d.abortEntry 9).power.st = .stop
  · rw [startWake_of_stop hstop, held_wakes]
  · rw [startWake_of_not_stop hstop]

section
variable {s : State} {tr : Nat} (htr : tr ≤ 16) (hpwr : s.dev.power.pwrgd = true) (hlink : tr = 16 ∨ s.dev.power.linkUp = true)
include htr hpwr hlink

/-- The transport of a request carries it. -/
theorem spdm_carried {c : Instr} {f : State → Dev} : s.spdm tr c f = .next
    (if tr < 16 && s.dev.power.st != .run then { s with dev := s.dev.hostArrives.keep c }
    else if s.dev.fw.restarting then { s with dev := s.dev.spdmError tr 0x42 (leBytes 4 200) }
    else { s with dev := f s }) := by
  refine congrArg Host.Outcome.next (if_neg ?_)
  rw [hpwr, Bool.or_eq_true, Bool.or_eq_true, decide_eq_true_eq, Bool.and_eq_true, decide_eq_true_eq]
  rintro ((h | h) | ⟨h, hnot⟩)
  · omega
  · exact Bool.false_ne_true h
  · rcases hlink with rfl | hlink
    · omega
    · rw [hlink] at hnot
      exact Bool.false_ne_true hnot

theorem gives_waiting {c : Instr} {f : State → Dev} (hexec : exec c s = s.spdm tr c f) (hld : tr < 16) (hst : s.dev.power.st ≠ .run) :
    Gives c s (s.dev.hostArrives.keep c) := by
  refine hexec.trans ((spdm_carried htr hpwr hlink).trans (congrArg Host.Outcome.next (if_pos ?_)))
  rw [decide_eq_true hld, Bool.true_and, bne_iff_ne]
  exact hst

section
variable (hserved : tr = 16 ∨ s.dev.power.st = .run)
include hserved

theorem spdm_served {c : Instr} {f : State → Dev} : s.spdm tr c f = .next
    (if s.dev.fw.restarting then { s with dev := s.dev.spdmError tr 0x42 (leBytes 4 200) } else { s with dev := f s }) := by
  refine (spdm_carried htr hpwr hlink).trans (congrArg Host.Outcome.next (if_neg ?_))
  rw [Bool.and_eq_true, decide_eq_true_eq, bne_iff_ne]
  rintro ⟨hlt, hne⟩
  rcases hserved with rfl | hrun
  · omega
  · exact hne hrun

theorem gives_notReady {c : Instr} {f : State → Dev} (hexec : exec c s = s.spdm tr c f) (hre : s.dev.fw.restarting = true) :
    Gives c s (s.dev.spdmError tr 0x42 (leBytes 4 200)) :=
  hexec.trans ((spdm_served htr hpwr hlink hserved).trans (congrArg Host.Outcome.next (if_pos hre)))

theorem gives_answered {c : Instr} {f : State → Dev} {e : Dev} (hexec : exec c s = s.spdm tr c f) (hre : s.dev.fw.restarting = false)
    (he : f s = e) : Gives c s e := by
  unfold Gives
  rw [hexec, ← he]
  exact (spdm_served htr hpwr hlink hserved).trans (congrArg Host.Outcome.next (if_neg fun h => Bool.false_ne_true (hre.symm.trans h)))

end

end

theorem any_id_of_mem {n : Nat} {xs : List Session} {x : Session} (hx : x ∈ xs) (hid : x.id = n) : xs.any (fun x => x.id == n) = true :=
  List.any_eq_true.mpr ⟨x, hx, beq_iff_eq.mpr hid⟩

theorem any_id_of_none {n : Nat} {xs : List Session} (h : ∀ x ∈ xs, x.id ≠ n) : ¬ xs.any (fun x => x.id == n) = true := by
  rw [List.any_eq_true]
  rintro ⟨x, hx, hid⟩
  exact h x hx (beq_iff_eq.mp hid)

/-- Settles O57: each request is one of the four, on a transport that carries it. -/
theorem identityIsAnswered : Obligations.IdentityIsAnswered := by
  unfold Obligations.IdentityIsAnswered
  refine fun s tr htr hpwr hlink => ⟨fun c hc => ⟨fun hserved hre => ?_, fun hld hst => ?_⟩, fun hserved hre => ⟨fun slot nonce => ⟨fun hslot => ?_, fun hslot => ?_⟩,
    fun i nonce => ⟨fun hi hi' => ?_, fun hi => ?_⟩, fun slot off len => ⟨fun h => ?_, fun hslot hoff => ?_⟩,
    fun n ex leaf => ⟨fun hid => ?_, fun hid hfull => ?_, fun hid hroom => ?_⟩⟩, ⟨leBytes 4 (s.dev.reg 0x1004) ++ leBytes 8 (s.dev.reg 0x10018) ++ leBytes 8 (s.dev.reg 0x10020) ++ leBytes 4 (s.dev.reg 0x10000), ?_⟩, rfl⟩
  · rcases hc with ⟨slot, nonce, rfl⟩ | ⟨i, nonce, rfl⟩ | ⟨slot, off, len, rfl⟩ | ⟨n, ex, leaf, rfl⟩
    · exact gives_notReady htr hpwr hlink hserved (show execChallenge tr slot nonce s = _ from rfl) hre
    · exact gives_notReady htr hpwr hlink hserved (show execGetMeasurements tr i nonce s = _ from rfl) hre
    · exact gives_notReady htr hpwr hlink hserved (show execGetCertificate tr slot off len s = _ from rfl) hre
    · exact gives_notReady htr hpwr hlink hserved (show execKeyExchange tr n ex leaf s = _ from rfl) hre
  · have hheld : ∀ c, (s.dev.hostArrives.keep c).held = s.dev.held ++ [c] := fun c => congrArg (· ++ [c]) (held_hostArrives s.dev)
    rcases hc with ⟨slot, nonce, rfl⟩ | ⟨i, nonce, rfl⟩ | ⟨slot, off, len, rfl⟩ | ⟨n, ex, leaf, rfl⟩
    · exact ⟨_, gives_waiting htr hpwr hlink (show execChallenge tr slot nonce s = _ from rfl) hld hst, hheld _⟩
    · exact ⟨_, gives_waiting htr hpwr hlink (show execGetMeasurements tr i nonce s = _ from rfl) hld hst, hheld _⟩
    · exact ⟨_, gives_waiting htr hpwr hlink (show execGetCertificate tr slot off len s = _ from rfl) hld hst, hheld _⟩
    · exact ⟨_, gives_waiting htr hpwr hlink (show execKeyExchange tr n ex leaf s = _ from rfl) hld hst, hheld _⟩
  · exact gives_answered htr hpwr hlink hserved (show execChallenge tr slot nonce s = _ from rfl) hre (if_pos hslot)
  · exact gives_answered htr hpwr hlink hserved (show execChallenge tr slot nonce s = _ from rfl) hre (if_neg (Nat.not_lt.mpr hslot))
  · exact gives_answered htr hpwr hlink hserved (show execGetMeasurements tr i nonce s = _ from rfl) hre (if_pos ⟨hi, hi'⟩)
  · exact gives_answered htr hpwr hlink hserved (show execGetMeasurements tr i nonce s = _ from rfl) hre (if_neg (by omega))
  · exact gives_answered htr hpwr hlink hserved (show execGetCertificate tr slot off len s = _ from rfl) hre (if_pos h)
  · exact gives_answered htr hpwr hlink hserved (show execGetCertificate tr slot off len s = _ from rfl) hre (if_neg (not_or_intro (Nat.not_lt.mpr hslot) (Nat.not_lt.mpr hoff)))
  · obtain ⟨x, hx, hxid⟩ := hid
    exact gives_answered htr hpwr hlink hserved (show execKeyExchange tr n ex leaf s = _ from rfl) hre (if_pos (any_id_of_mem hx hxid))
  · exact gives_answered htr hpwr hlink hserved (show execKeyExchange tr n ex leaf s = _ from rfl) hre ((if_neg (any_id_of_none hid)).trans (if_pos hfull))
  · exact gives_answered htr hpwr hlink hserved (show execKeyExchange tr n ex leaf s = _ from rfl) hre ((if_neg (any_id_of_none hid)).trans (if_neg (Nat.not_le.mpr hroom)))
  · unfold State.measurement
    simp only [List.append_assoc]

end Sys2Proof.Proofs
end

section
/-! The event recorder, the meters and the measured values (R27, R384, R390 to R396, R411 to R413): their obligation. -/

namespace Sys2Proof.Proofs

open Sys2Proof Sys2Proof.Machine Sys2Proof.Claims

theorem satAdd_eq_min (x k top : Nat) : satAdd x k top = min (x + k) top := by
  unfold satAdd
  split <;> omega

/-! The recorder (R388 to R392). -/

section
variable {r : Recorder} (sec pcc : Nat) (e : Event)

theorem append_of_full (h : r.full = true) : r.append sec pcc e = { r with lost := min (r.lost + 1) 0xFFFFFF } := by
  unfold Recorder.append
  rw [if_pos h, satAdd_eq_min]

theorem append_of_fits (hopen : r.full = false) (h : eventsLen r.log + e.len ≤ 67108800) : r.append sec pcc e = { r with log := r.log ++ [e] } := by
  unfold Recorder.append
  rw [if_neg (by rw [hopen]; decide), if_neg (Nat.not_lt.mpr h)]

theorem append_of_over (hopen : r.full = false) (h : 67108800 < eventsLen r.log + e.len) : r.append sec pcc e = { r with
    log := r.log ++ [⟨.logFull, sec, pcc, [.count (min (r.lost + 1) 0xFFFFFF)]⟩], full := true, lost := min (r.lost + 1) 0xFFFFFF } := by
  unfold Recorder.append
  rw [if_neg (by rw [hopen]; decide), if_pos h, satAdd_eq_min]

end

section
variable {d : Dev}

theorem flushEvents_of_single {e : Event} (h : d.recorder.buf = [e]) :
    d.flushEvents = { d with recorder := ({ d.recorder with buf := [] } : Recorder).append d.sec d.pcc e } := by
  unfold Dev.flushEvents
  rw [h]
  rfl

theorem flushEvents_of_none (h : d.recorder.buf = []) : d.flushEvents = d := by
  have hsame : ({ d.recorder with buf := [] } : Recorder) = d.recorder := by
    rw [← h]
  unfold Dev.flushEvents
  rw [h]
  exact congrArg (fun r => { d with recorder := r }) hsame

theorem recExportTo_failed {bs : List Byte} (hbs : d.logBytes (d.rf 0x5008 31 0) (d.rf 0x5008 63 32) = bs) (h : 8388608 < d.rf 0x5008 63 32 ∨ d.rf 0x5008 31 0 % 4 ≠ 0 ∨
    67108864 < d.rf 0x5008 31 0 + d.rf 0x5008 63 32 ∨ (0 < d.rf 0x5008 63 32 ∧ d.pinnedRange d.recBuf (d.rf 0x5008 63 32) = false)) (c : Instr) :
    d.recExportTo c = d.recErr := by
  unfold Dev.recExportTo
  dsimp only
  rw [hbs]
  obtain hshut | ⟨hpos, hpin⟩ : (8388608 < d.rf 0x5008 63 32 ∨ d.rf 0x5008 31 0 % 4 ≠ 0 ∨ 67108864 < d.rf 0x5008 31 0 + d.rf 0x5008 63 32) ∨
      (0 < d.rf 0x5008 63 32 ∧ d.pinnedRange d.recBuf (d.rf 0x5008 63 32) = false) := by
    rcases h with h | h | h | h
    · exact .inl (.inl h)
    · exact .inl (.inr (.inl h))
    · exact .inl (.inr (.inr h))
    · exact .inr h
  · exact if_pos hshut
  · rw [useBuf_failed hpos hpin]
    exact ite_self _

theorem recExportTo_done {bs : List Byte} {t : Dev} (hbs : d.logBytes (d.rf 0x5008 31 0) (d.rf 0x5008 63 32) = bs) (hlen : d.rf 0x5008 63 32 ≤ 8388608)
    (halign : d.rf 0x5008 31 0 % 4 = 0) (hend : d.rf 0x5008 31 0 + d.rf 0x5008 63 32 ≤ 67108864)
    (hpin : d.rf 0x5008 63 32 = 0 ∨ d.pinnedRange d.recBuf (d.rf 0x5008 63 32) = true) (htry : d.unitTry (wr (d.ownFa d.recBuf) bs) = (.ok (), t)) (c : Instr) :
    d.recExportTo c = t := by
  unfold Dev.recExportTo
  dsimp only
  rw [hbs, useBuf_done hpin htry]
  exact if_neg (not_or_intro (Nat.not_lt.mpr hlen) (not_or_intro (not_not_intro halign) (Nat.not_lt.mpr hend)))

theorem logBytes_setRf_fresh (p : Path) (key hi lo v off n : Nat) : ((fresh d p).setRf key hi lo v).logBytes off n = d.logBytes off n := rfl

theorem requester_of_unnamed {p : Path} (h : ∀ i, p ≠ .mctp (some i)) : d.requester p = none := by
  unfold Dev.requester
  split
  next i => exact absurd rfl (h i)
  · rfl

/-! Meters and windows (R393 to R396). -/

/-- What a frame raises at a tick, by what the map and the records hold at its start. -/
def frameMeter (d e : Dev) (p : Nat × TEntry) : Dev :=
  if d.rooted p.1 = false then e
  else if p.2.tier = 0 ∧ p.2.psn = false then e.meter (pComp (d.precOf p.2)) 0 1
  else if p.2.tier = 1 ∧ p.2.zero = false then e.meter (pComp (d.precOf p.2)) 1 1
  else e

theorem meterFrame_eq (m : Meters) (p : Nat × TEntry) :
    (if Dev.rooted { d with meters := m } p.1 then Dev.meterFrame { d with meters := m } p.2 else { d with meters := m }) = frameMeter d { d with meters := m } p := by
  unfold frameMeter Dev.meterFrame
  by_cases hroot : d.rooted p.1 = true
  · refine (if_pos hroot).trans (Eq.trans ?_ (if_neg (by rw [hroot]; decide)).symm)
    exact ite_eq_ite_of_iff (and_congr_right fun _ => by rw [Bool.not_eq_true]) rfl (ite_eq_ite_of_iff (and_congr_right fun _ => by rw [Bool.not_eq_true]) rfl rfl)
  · exact (if_neg hroot).trans (if_pos (eq_false_of_ne_true hroot)).symm

theorem frameMeter_only (m : Meters) (p : Nat × TEntry) : ∃ m', frameMeter d { d with meters := m } p = { d with meters := m' } := by
  unfold frameMeter
  split
  · exact ⟨m, rfl⟩
  · split
    · exact ⟨_, rfl⟩
    · split
      · exact ⟨_, rfl⟩
      · exact ⟨m, rfl⟩

/-- The frames of the map raise their meters one after the other, and nothing else changes. -/
theorem meterFrames_eq (ps : List (Nat × TEntry)) (m : Meters) : ∃ m',
    ps.foldl (fun (d : Dev) p => if d.rooted p.1 then d.meterFrame p.2 else d) { d with meters := m } = { d with meters := m' } ∧
      ps.foldl (frameMeter d) { d with meters := m } = { d with meters := m' } := by
  induction ps generalizing m with
  | nil => exact ⟨m, rfl, rfl⟩
  | cons p ps ih =>
    obtain ⟨m', hm'⟩ := frameMeter_only (d := d) m p
    obtain ⟨m'', hmodel, hclaim⟩ := ih m'
    refine ⟨m'', ?_, ?_⟩
    · rw [List.foldl_cons, meterFrame_eq, hm', hmodel]
    · rw [List.foldl_cons, hm', hclaim]

theorem showAlert_eq_alerting (d : Dev) : d.showAlert = alerting d := by
  unfold Dev.showAlert alerting
  by_cases h : d.rf 0x2024 2 0 = 0
  · exact (if_neg (by rw [h]; decide)).trans (if_pos h).symm
  · exact (if_pos (bne_iff_ne.mpr h)).trans (if_neg h).symm

theorem requester_setRf_fresh (p q : Path) (key hi lo v : Nat) : ((fresh d p).setRf key hi lo v).requester q = d.requester q := rfl

theorem recClearBy_of_leaf {p : Path} {leaf k n : Nat} {r : Recorder} (hleaf : d.requester p = some leaf) (hsec : d.sec = k) (hpcc : d.pcc = n)
    (hrec : d.recorder = r) : d.recClearBy p = { d with recorder := { r with
      log := [⟨.cleared, k, n, [.text (hexBytes (leBytes 32 leaf)), .count r.log.length]⟩], full := false, lost := 0 } } := by
  subst hsec hpcc hrec
  unfold Dev.recClearBy
  rw [hleaf]
  rfl

theorem recClearBy_of_none {p : Path} (hnone : d.requester p = none) : d.recClearBy p = (d.setRf 0x5018 2 2 1).event .clearDenied [] := by
  unfold Dev.recClearBy
  rw [hnone]
  rfl

theorem opTicks_setRf_fresh (p : Path) (key hi lo v : Nat) : ((fresh d p).setRf key hi lo v).opTicks = d.opTicks := rfl

/-- The path's own function, by which its counter set is reached. -/
theorem gives_pmcEvtWrite {s : State} {path : Path} {own : Option Nat} {i ev : Nat} (hown : ownFn path = own)
    (hpass : s.dev.pathAns path own false false = .pass) (hi : i < 8) :
    Gives (.pmcEvtWrite path i ev) s ((fresh s.dev path).writeEvt (s.dev.pmcSet path) i ev) := by
  subst hown
  refine gives_onPathDev rfl hpass ((if_pos hi).trans ?_)
  cases path <;> rfl

end

theorem b2n_decide (p : Prop) [Decidable p] : b2n (decide p) = if p then 1 else 0 := ite_eq_ite_of_iff decide_eq_true_iff rfl rfl

theorem mul_b2n_decide (k : Nat) (p : Prop) [Decidable p] : k * b2n (decide p) = if p then k else 0 := by
  rw [b2n_decide]
  split
  · rw [Nat.mul_one]
  · rw [Nat.mul_zero]

/-- The second's end, by what the counter shows. -/
def countSecond (ticks : Nat) (e : Dev) : Dev :=
  let e := { e with opTicks := ticks }
  if ticks % 32768 = 0 then { e with recorder := { e.recorder with secondly := [] } } else e

theorem countSecond_congr {n : Nat} {e e' : Dev} (h : e = e') (hn : e.opTicks = n) : countSecond ((e.opTicks + 1) % 2 ^ 48) e = countSecond ((n + 1) % 2 ^ 48) e' := by
  rw [hn, h]

theorem alertLevel_eq {k : Nat} (hk : k ≤ 2) : alertLevel k = if k = 0 then 110 else if k = 1 then 95 else 85 := by
  obtain rfl | rfl | rfl : k = 0 ∨ k = 1 ∨ k = 2 := by omega
  · rfl
  · rfl
  · rfl

/-- Settles O59: each command finds the recorder, the meters and the registers as its hypotheses say. -/
theorem recordsAndMetersAct : Obligations.RecordsAndMetersAct := by
  unfold Obligations.RecordsAndMetersAct
  refine fun s => ⟨fun path i ev hpass hi => ?_, ⟨fun h => ?_, fun e hbuf hcore => ⟨fun hfull hfits => ?_, fun hfull hover => ?_, fun hfull => ?_⟩⟩,
    fun path hpass => ⟨⟨fun h => ?_, fun t hlen halign hend hpin htry => ?_⟩, fun hnone => ?_, fun leaf hleaf => ?_⟩, fun path hpath => ?_, ?_, ?_,
    fun mw die hbm opt hmw hdie hhbm hopt => ?_, fun k temp hk => ⟨fun hlow => ?_, fun hhigh => ?_⟩⟩
  · cases path with
    | fn f =>
      exact gives_pmcEvtWrite (own := if f < 1024 then some f else none) (ite_eq_ite_of_iff decide_eq_true_iff rfl rfl) hpass hi
    | mctp n => exact gives_pmcEvtWrite (own := none) rfl hpass hi
    | fm => exact gives_pmcEvtWrite (own := none) rfl hpass hi
    | mgmt => exact gives_pmcEvtWrite (own := none) rfl hpass hi
  · refine gives_onDev (show execRecorderFlush s = _ from rfl) ?_
    rcases h with h | h
    · rw [flushEvents_of_none h]
      exact ite_self _
    · exact if_pos h
  · refine gives_onDev (show execRecorderFlush s = _ from rfl) ((if_neg (by rw [hcore]; decide)).trans ((flushEvents_of_single hbuf).trans ?_))
    exact congrArg (fun r => { s.dev with recorder := r }) (append_of_fits (r := { s.dev.recorder with buf := [] }) _ _ _ hfull hfits)
  · refine gives_onDev (show execRecorderFlush s = _ from rfl) ((if_neg (by rw [hcore]; decide)).trans ((flushEvents_of_single hbuf).trans ?_))
    exact congrArg (fun r => { s.dev with recorder := r }) (append_of_over (r := { s.dev.recorder with buf := [] }) _ _ _ hfull hover)
  · refine gives_onDev (show execRecorderFlush s = _ from rfl) ((if_neg (by rw [hcore]; decide)).trans ((flushEvents_of_single hbuf).trans ?_))
    exact congrArg (fun r => { s.dev with recorder := r }) (append_of_full (r := { s.dev.recorder with buf := [] }) _ _ _ hfull)
  · exact gives_onPathDev rfl hpass (recExportTo_failed (d := (fresh s.dev path).setRf 0x5004 1 0 1) rfl h _)
  · exact gives_onPathDev rfl hpass (recExportTo_done (d := (fresh s.dev path).setRf 0x5004 1 0 1) (logBytes_setRf_fresh ..) hlen halign hend hpin htry _)
  · exact gives_onPathDev rfl hpass (recClearBy_of_none ((requester_setRf_fresh ..).trans hnone))
  · exact gives_onPathDev rfl hpass (recClearBy_of_leaf ((requester_setRf_fresh ..).trans hleaf) (sec_eq (opTicks_setRf_fresh ..)) rfl rfl)
  · exact requester_of_unnamed hpath
  · refine gives_onDev (show execOperatingTick s = _ from rfl) ?_
    obtain ⟨m, hmodel, hclaim⟩ := meterFrames_eq (d := s.dev) s.dev.tmap s.dev.meters
    by_cases hmap : s.dev.mapOn = true
    · rw [if_pos hmap, if_pos hmap]
      exact (countSecond_congr hmodel (congrArg Dev.opTicks hmodel)).trans (congrArg (countSecond ((s.dev.opTicks + 1) % 2 ^ 48)) hclaim.symm)
    · rw [if_neg hmap, if_neg hmap]
  · refine gives_onDev (f := fun d => d.endWindow) rfl ?_
    refine congrArg (fun e : Dev => e.endWindowEvents.rowDecay.writeWindow) ?_
    by_cases hlog : bits (s.dev.reg 0x5020) 47 16 = 0
    · rw [if_pos hlog, if_neg (not_not_intro hlog), if_neg (not_not_intro hlog)]
    · rw [if_neg hlog, if_pos hlog, if_pos hlog]
      rfl
  · refine gives_onDev (show execPkgPowerUpdate mw die hbm opt s = _ from rfl) ((showAlert_eq_alerting _).trans ?_)
    rw [Nat.min_eq_left (show mw ≤ 2 ^ 32 - 1 by omega), Nat.min_eq_left (show opt ≤ 255 by omega), Nat.min_eq_left (show hbm ≤ 255 by omega),
      Nat.min_eq_left (show die ≤ 255 by omega), b2n_decide, mul_b2n_decide, mul_b2n_decide]
  · refine gives_onDev (show execThermalAlert k temp s = _ from rfl) (if_pos (Or.inr ?_))
    rw [alertLevel_eq hk]
    exact hlow
  · refine gives_onDev (show execThermalAlert k temp s = _ from rfl) ((if_neg ?_).trans (showAlert_eq_alerting _))
    rw [alertLevel_eq hk]
    exact not_or_intro (Nat.not_lt.mpr hk) (Nat.not_lt.mpr hhigh)

end Sys2Proof.Proofs
end

section
/-! SUPPORT. What it is to keep T0's memory in canonical form: of a block, a state, a run, an outcome and a computation; and how the
ways to put computations together keep it. -/

namespace Sys2Proof.Machine

open Sys2Proof

/-- T0's memory is in canonical form: addresses strictly rising, and no byte listed that equals what an unlisted address reads as. -/
def Canon (d : Dev) : Prop := Memory.wf d.mem = true

/-- The same of the block of a state, and of the block of a run. -/
@[reducible] def CanonAt (s : State) : Prop := Canon s.dev
@[reducible] def CanonRun (k : RunSt) : Prop := Canon k.d

/-- A property of a component of a pair, and of what an option holds. -/
@[reducible] def InSnd {α : Type _} {β : Type _} (P : β → Prop) (p : α × β) : Prop := P p.2
@[reducible] def InFst {α : Type _} {β : Type _} (P : α → Prop) (p : α × β) : Prop := P p.1
@[reducible] def InSome {α : Type _} (P : α → Prop) : Option α → Prop
  | some a => P a
  | none => True

/-- The state that an outcome goes on with, where there is one. -/
@[reducible] def CanonNext : Host.Outcome State Fault Refusal → Prop
  | .next t => CanonAt t
  | _ => True

/-- A computation of an engine keeps the canonical form, whether it ends or waits. -/
def KeepsCanon {α : Type} (m : M α) : Prop := ∀ c k, CanonRun k → CanonRun (m c k).2

section
variable {α : Type _} {β : Type _}

theorem ite_holds {P : α → Prop} {c : Prop} [Decidable c] {a b : α} (ha : P a) (hb : P b) : P (if c then a else b) := by
  split
  · exact ha
  · exact hb

theorem holds_of_eq {P : α → Prop} {a b : α} (ha : P a) (h : a = b) : P b := h ▸ ha

/-- A fold keeps what each of its steps keeps. -/
theorem foldl_holds {α β : Type} {P : β → Prop} {f : β → α → β} {l : List α} {b : β} (hb : P b) (hf : ∀ b a, P b → P (f b a)) : P (l.foldl f b) :=
  foldl_keeps P f hf l b hb

theorem inSnd_mk {P : β → Prop} {a : α} {b : β} (h : P b) : InSnd P (a, b) := h

theorem getD_holds {P : α → Prop} {o : Option α} {a : α} (ho : InSome P o) (ha : P a) : P (o.getD a) := by
  cases o with
  | none => exact ha
  | some b => exact ho

end

theorem CanonAt.of_pending {s : State} {cs : List Instr} (h : CanonAt s) : CanonAt { s with pending := cs } := h

theorem CanonAt.of_dev {s : State} {d : Dev} (h : Canon d) : CanonAt { s with dev := d } := h

namespace Canon

variable {d : Dev}

theorem of_mem_eq {e : Dev} (h : Canon d) (hmem : e.mem = d.mem) : Canon e := by
  unfold Canon
  rw [hmem]
  exact h

theorem setByte (h : Canon d) {off : Nat} {b : Byte} : Canon (d.setByte off b) := setByte_wf off b h

theorem poisonWord (h : Canon d) {w : Nat} : Canon (d.poisonWord w) := poisonWord_wf w h

theorem clearFrame (h : Canon d) {f : Nat} : Canon (d.clearFrame f) := clearFrame_wf f h

end Canon

namespace KeepsCanon

variable {α β : Type}

theorem pure (a : α) : KeepsCanon (Pure.pure a : M α) := fun _ _ h => h

theorem bind {m : M α} {f : α → M β} (hm : KeepsCanon m) (hf : ∀ a, KeepsCanon (f a)) : KeepsCanon (m >>= f) := by
  intro c k hk
  have hfirst := hm c k hk
  rw [M.bind_apply]
  generalize m c k = r at hfirst ⊢
  obtain ⟨_ | a, k'⟩ := r
  · exact hfirst
  · exact hf a c k' hfirst

theorem modify {f : RunSt → RunSt} (hf : ∀ k, CanonRun k → CanonRun (f k)) : KeepsCanon (modify f : M PUnit) := fun _ k hk => hf k hk

theorem modDev {f : Dev → Dev} (hf : ∀ d, Canon d → Canon (f d)) : KeepsCanon (modDev f) := fun _ k hk => hf k.d hk

theorem set {k : RunSt} (h : CanonRun k) : KeepsCanon (set k : M PUnit) := fun _ _ _ => h

theorem throw (e : Halt) : KeepsCanon (throw e : M α) := fun _ _ h => h

/-- What catches an end goes on from the run as it ended. -/
theorem tryCatch {m : M α} {f : Halt → M α} (hm : KeepsCanon m) (hf : ∀ e, KeepsCanon (f e)) : KeepsCanon (MonadExcept.tryCatch m f) := by
  intro c k hk
  have hfirst := hm c k hk
  change CanonRun (ExceptT.tryCatch (m c) (fun e => f e c) k).2
  unfold ExceptT.tryCatch ExceptT.mk
  change CanonRun (StateT.bind (m c) _ k).2
  unfold StateT.bind
  generalize m c k = r at hfirst ⊢
  obtain ⟨e | a, k'⟩ := r
  · exact hf e c k' hfirst
  · exact hfirst

theorem get : KeepsCanon (get : M RunSt) := fun _ _ h => h

theorem read : KeepsCanon (read : M Ctx) := fun _ _ h => h

theorem getDev : KeepsCanon getDev := fun _ _ h => h

/-- What is read of a run's block, and of its state, is in canonical form itself. -/
theorem getDev_bind {f : Dev → M β} (hf : ∀ d, Canon d → KeepsCanon (f d)) : KeepsCanon (Machine.getDev >>= f) := fun c k hk => hf k.d hk c k hk

theorem get_bind {f : RunSt → M β} (hf : ∀ k, CanonRun k → KeepsCanon (f k)) : KeepsCanon ((MonadState.get : M RunSt) >>= f) :=
  fun c k hk => hf k hk c k hk

theorem withReader {g : Ctx → Ctx} {m : M α} (hm : KeepsCanon m) : KeepsCanon (withReader g m : M α) := fun c k hk => hm (g c) k hk

end KeepsCanon

/-- A computation run from a block. -/
theorem Canon.runM {α : Type} {d : Dev} {c : Ctx} {m : M α} (h : Canon d) (hm : KeepsCanon m) : InSnd CanonRun (d.runM c m) := hm c _ h

end Sys2Proof.Machine
end

section
/-! SUPPORT. T0's memory stays canonical: the state. -/

namespace Sys2Proof.Machine

open Sys2Proof

theorem CanonAt.dev {self : State} (h : CanonAt self) : Canon (State.dev self) := h

theorem KeepsCanon.reset : Canon Dev.reset := by
  change Memory.wf [] = true
  rfl

end Sys2Proof.Machine
end

section
/-! SUPPORT. T0's memory stays canonical: the register file. -/

namespace Sys2Proof.Machine

open Sys2Proof

theorem Canon.setReg {d : Dev} {key v : Nat} (h : Canon d) : Canon (Dev.setReg d key v) := h
theorem Canon.setRf {d : Dev} {key hi lo v : Nat} (h : Canon d) : Canon (Dev.setRf d key hi lo v) := h.setReg
theorem Canon.stat {d : Dev} {key hi lo k : Nat} (h : Canon d) : Canon (Dev.stat d key hi lo k) := h.setRf
theorem Canon.bump {d : Dev} {set i n : Nat} (h : Canon d) : Canon (Dev.bump d set i n) := ite_holds h.setReg.setReg h.setReg

theorem Canon.count {d : Dev} {set code n : Nat} (h : Canon d) : Canon (Dev.count d set code n) :=
  ite_holds h (foldl_holds (P := Canon) h fun _ _ hi => ite_holds hi.bump hi)

theorem Canon.meter {d : Dev} {comp m n : Nat} (h : Canon d) : Canon (Dev.meter d comp m n) := h
theorem Canon.takeFree {d : Dev} (h : Canon d) : InSnd Canon (Dev.takeFree d) := h
theorem Canon.send {d : Dev} {o : Out} (h : Canon d) : Canon (Dev.send d o) := h
theorem Canon.setSel {d : Dev} {p : Path} {key v : Nat} (h : Canon d) : Canon (Dev.setSel d p key v) := h

end Sys2Proof.Machine
end

section
/-! SUPPORT. T0's memory stays canonical: recording events. -/

namespace Sys2Proof.Machine

open Sys2Proof

theorem Canon.event {d : Dev} {k : Ev} {body : List EvField} (h : Canon d) : Canon (Dev.event d k body) := ite_holds h h

theorem Canon.eventWindow {d : Dev} {k : Ev} {key : Nat} {body : List EvField} (h : Canon d) : Canon (Dev.eventWindow d k key body) :=
  ite_holds h h.event

theorem Canon.eventCounted {d : Dev} {k : Ev} {key : Nat} {body : List EvField} (h : Canon d) : Canon (Dev.eventCounted d k key body) :=
  ite_holds h h

theorem Canon.eventSecond {d : Dev} {k : Ev} {key : Nat} {body : List EvField} (h : Canon d) : Canon (Dev.eventSecond d k key body) :=
  ite_holds h h.event

theorem Canon.flushEvents {d : Dev} (h : Canon d) : Canon (Dev.flushEvents d) := h
theorem Canon.endWindowEvents {d : Dev} (h : Canon d) : Canon (Dev.endWindowEvents d) := foldl_holds (P := Canon) h fun _ _ hw => hw.event

end Sys2Proof.Machine
end

section
/-! SUPPORT. T0's memory stays canonical: the bytes and the poison of T0. -/

namespace Sys2Proof.Machine

open Sys2Proof

theorem Canon.setBytes {l : List Byte} {n : Nat} {d : Dev} (h : Canon d) : Canon (Dev.setBytes l n d) := setBytes_wf _ _ _ h

theorem Canon.applyMask {d : Dev} {off : Nat} {data : Line} {m : LineMask} (h : Canon d) : Canon (Dev.applyMask d off data m) :=
  applyMask_wf _ _ _ h

theorem Canon.wordPoison {d : Dev} {off : Nat} {m : LineMask} {poison : Bool} {c : Nat} (h : Canon d) : Canon (Dev.wordPoison d off m poison c) :=
  ite_holds h (ite_holds h (ite_holds h h))

theorem Canon.writeLine {d : Dev} {off : Nat} {data : Line} {m : LineMask} {poison : Bool} (h : Canon d) :
    Canon (Dev.writeLine d off data m poison) :=
  writeLine_wf _ _ _ _ h

theorem Canon.fillFrame {d : Dev} {f : Nat} {data : List Host.Cell} {pois : NSet} (h : Canon d) : Canon (Dev.fillFrame d f data pois) :=
  fillFrame_wf _ _ _ h

theorem Canon.fillSub {d : Dev} {f sub : Nat} {data : List Host.Cell} {pois : NSet} (h : Canon d) : Canon (Dev.fillSub d f sub data pois) :=
  fillSub_wf _ _ _ _ h

theorem Canon.poisonFrame {d : Dev} {f : Nat} (h : Canon d) : Canon (Dev.poisonFrame d f) := poisonFrame_wf _ h

end Sys2Proof.Machine
end

section
/-! SUPPORT. T0's memory stays canonical: the tier map, the pool and the moves of frames. -/

namespace Sys2Proof.Machine

open Sys2Proof

theorem Canon.setEntry {d : Dev} {f : Nat} {e : TEntry} (h : Canon d) : Canon (Dev.setEntry d f e) := h
theorem Canon.modEntry {d : Dev} {f : Nat} {g : TEntry → TEntry} (h : Canon d) : Canon (Dev.modEntry d f g) := h
theorem Canon.touch {d : Dev} {f : Nat} {w : Bool} (h : Canon d) : Canon (Dev.touch d f w) := h.modEntry
theorem Canon.setSlot {d : Dev} {n : Nat} {s : SlotSt} (h : Canon d) : Canon (Dev.setSlot d n s) := h

theorem Canon.appendRec {d : Dev} {slot : Nat} {r : CaskRec} (h : Canon d) : Canon (Dev.appendRec d slot r) := by
  unfold Dev.appendRec
  extract_lets
  split
  · exact h
  · extract_lets x1
    have hx1 : Canon x1 := Canon.setSlot h
    clear_value x1
    exact hx1.of_mem_eq rfl

theorem Canon.kilnEvent {d : Dev} {f : Nat} {e : TEntry} (h : Canon d) : Canon (Dev.kilnEvent d f e) := by
  unfold Dev.kilnEvent
  split
  · exact ite_holds h.event h
  · exact h

theorem Canon.ringGive {d : Dev} {base log v : Nat} (h : Canon d) : Canon (Dev.ringGive d base log v) := h

theorem Canon.freeGrant {d : Dev} {fa : Nat} (h : Canon d) : Canon (Dev.freeGrant d fa) := by
  unfold Dev.freeGrant
  split <;> exact h

theorem Canon.takeMover {d : Dev} {f : Nat} {e : TEntry} {loc queued : Nat} {demand : Bool} (h : Canon d) :
    Canon (Dev.takeMover d f e loc queued demand) := by
  unfold Dev.takeMover
  extract_lets _ _ x d1
  have hx : Canon x := Canon.modEntry h
  have hd1 : Canon d1 := hx.of_mem_eq rfl
  clear_value x d1
  exact ite_holds (hd1.of_mem_eq rfl) hd1

theorem Canon.startPromotion {d : Dev} {f : Nat} {e : TEntry} {demand : Bool} (h : Canon d) : InSnd Canon (Dev.startPromotion d f e demand) := by
  unfold Dev.startPromotion
  split
  · exact h
  · split
    · exact h
    · exact h
    · refine ite_holds h ?_
      split
      · exact h.takeMover
      · exact ite_holds h (ite_holds h.takeMover h)

theorem Canon.abandonDemotion {d : Dev} {f : Nat} (h : Canon d) : Canon (Dev.abandonDemotion d f) := by
  unfold Dev.abandonDemotion
  split
  · refine ite_holds h ?_
    extract_lets x1 d1
    have hx1 : Canon x1 := Canon.modEntry h
    have hd1 : Canon d1 := hx1.of_mem_eq rfl
    clear_value x1 d1
    exact ite_holds (Canon.ringGive hd1) (ite_holds (Canon.freeGrant hd1) hd1)
  · exact h

theorem Canon.failPromotion {d : Dev} {f : Nat} (h : Canon d) : Canon (Dev.failPromotion d f) := by
  unfold Dev.failPromotion
  split
  · refine ite_holds h ?_
    extract_lets x1
    have hx1 : Canon x1 := Canon.modEntry (Canon.clearFrame h)
    clear_value x1
    exact hx1.of_mem_eq rfl
  · exact h

theorem Canon.psnToT0 {d : Dev} {f loc : Nat} (h : Canon d) : Canon (Dev.psnToT0 d f loc) := by
  unfold Dev.psnToT0
  extract_lets x
  have hx : Canon x := Canon.modEntry (Canon.poisonFrame h)
  clear_value x
  exact hx.of_mem_eq rfl

theorem Canon.dropFrame {d : Dev} {f : Nat} (h : Canon d) : Canon (Dev.dropFrame d f) := by
  unfold Dev.dropFrame
  split
  · exact h
  · exact ite_holds h.clearFrame h.clearFrame

end Sys2Proof.Machine
end

section
/-! SUPPORT. T0's memory stays canonical: the link and the network. -/

namespace Sys2Proof.Machine

open Sys2Proof

theorem Canon.setPort {d : Dev} {p : Nat} {x : PortSt} (h : Canon d) : Canon (Dev.setPort d p x) := h

theorem Canon.setPortSt {d : Dev} {p : Nat} {st : PortState} (h : Canon d) : Canon (Dev.setPortSt d p st) := by
  unfold Dev.setPortSt
  extract_lets _ d1
  have hd1 : Canon d1 := Canon.setPort h
  clear_value d1
  exact hd1.of_mem_eq rfl

theorem Canon.train {d : Dev} {p : Nat} (h : Canon d) : Canon (Dev.train d p) := h.setPortSt.stat
theorem Canon.oweCredits {d : Dev} {p vc n used : Nat} (h : Canon d) : Canon (Dev.oweCredits d p vc n used) := ite_holds h h.setPort

theorem Canon.releaseAll {d : Dev} {l : List Queued} (h : Canon d) : Canon (Dev.releaseAll d l) := by
  induction l generalizing d with
  | nil => exact h
  | cons _ _ ih => exact ih h.oweCredits

theorem Canon.pump {d : Dev} {p : Nat} (h : Canon d) : Canon (Dev.pump d p) := by
  unfold Dev.pump
  extract_lets _ _ _ x2 d1
  have hx2 : Canon x2 := Canon.setPort h
  have hd1 : Canon d1 := hx2.of_mem_eq rfl
  clear_value x2 d1
  exact ite_holds h (Canon.releaseAll (ite_holds hd1 (Canon.stat hd1)))

theorem Canon.enqueue {d : Dev} {p : Nat} {q : Queued} (h : Canon d) : Canon (Dev.enqueue d p q) := h.setPort.pump
theorem Canon.takeUp {d : Dev} {p : Nat} {m : FabMsg} (h : Canon d) : Canon (Dev.takeUp d p m) := ite_holds (Canon.oweCredits (h.of_mem_eq rfl)) h

theorem Canon.sendOn {d : Dev} {q : Queued} (h : Canon d) : Canon (Dev.sendOn d q) := by
  unfold Dev.sendOn
  extract_lets
  split
  · exact h
  · exact h.enqueue
  · exact h.stat.releaseAll

theorem Canon.forward {d : Dev} {i : Nat} {m : FabMsg} (h : Canon d) : Canon (Dev.forward d i m) := h.sendOn

theorem Canon.respond {d : Dev} {req : FabMsg} {type status ord : Nat} {poison : Bool} {body : List Byte} (h : Canon d) :
    Canon (Dev.respond d req type status ord poison body) :=
  ite_holds h.forward h

theorem Canon.countDesc {d : Dev} {i : DescId} {code n : Nat} (h : Canon d) : Canon (Dev.countDesc d i code n) := by
  unfold Dev.countDesc
  split
  · exact h
  · exact h.count

theorem Canon.chargeFab {d : Dev} {i : DescId} {code n : Nat} (h : Canon d) : Canon (Dev.chargeFab d i code n) := by
  unfold Dev.chargeFab
  split
  · exact h
  · exact h.countDesc.meter

theorem Canon.sendOwn {d : Dev} {m : FabMsg} (h : Canon d) : Canon (Dev.sendOwn d m) := by
  unfold Dev.sendOwn
  extract_lets who
  refine Canon.forward ?_
  clear_value who
  split
  · exact h.chargeFab
  · exact h

theorem Canon.request {d : Dev} {dst sidx type : Nat} {body : List Byte} {owner : ReqFor} (h : Canon d) :
    Canon (Dev.request d dst sidx type body owner) :=
  Canon.sendOwn (h.of_mem_eq rfl)

theorem Canon.setFlowOut {d : Dev} {f : FlowOut} (h : Canon d) : Canon (Dev.setFlowOut d f) := ite_holds h h
theorem Canon.sendAll {d : Dev} {ms : List FabMsg} (h : Canon d) : Canon (Dev.sendAll d ms) := foldl_holds (P := Canon) h fun _ _ hm => hm.sendOwn

theorem Canon.writeOut {d : Dev} {dst sidx type : Nat} {body : List Byte} {ack poison : Bool} {owner : ReqFor} (h : Canon d) :
    Canon (Dev.writeOut d dst sidx type body ack poison owner) :=
  ite_holds (Canon.sendOwn (Canon.setFlowOut (h.of_mem_eq rfl))) (Canon.setFlowOut (h.of_mem_eq rfl))

theorem Canon.ackFlow {d : Dev} {dst sidx ord : Nat} (h : Canon d) : InSnd Canon (Dev.ackFlow d dst sidx ord) := by
  unfold Dev.ackFlow
  split
  · exact h
  · split
    · exact h
    · exact h.setFlowOut.sendAll

theorem Canon.resendFrom {d : Dev} {dst sidx i : Nat} {first : Bool} (h : Canon d) : Canon (Dev.resendFrom d dst sidx i first) := by
  unfold Dev.resendFrom
  split
  · exact h
  · exact h.setFlowOut.sendAll

theorem Canon.endFlow {d : Dev} {dst sidx : Nat} (h : Canon d) : InSnd Canon (Dev.endFlow d dst sidx) := by
  unfold Dev.endFlow
  split
  · exact h
  · exact h.setFlowOut

theorem Canon.dropReq {d : Dev} {dst sidx tag : Nat} (h : Canon d) : Canon (Dev.dropReq d dst sidx tag) := h
theorem Canon.modStarted {d : Dev} {q seq : Nat} {g : Started → Started} (h : Canon d) : Canon (Dev.modStarted d q seq g) := h
theorem Canon.noteStatus {d : Dev} {q seq st : Nat} (h : Canon d) : Canon (Dev.noteStatus d q seq st) := h.modStarted

end Sys2Proof.Machine
end

section
/-! SUPPORT. T0's memory stays canonical: home and the directory. -/

namespace Sys2Proof.Machine

open Sys2Proof

theorem Canon.syncExt {d : Dev} {slot : Nat} {bs : List Byte} (h : Canon d) : Canon (Dev.syncExt d slot bs) := h.setBytes
theorem Canon.setExt {d : Dev} {e : Extent} (h : Canon d) : Canon (Dev.setExt d e) := Canon.syncExt (ite_holds h h)
theorem Canon.dropExt {d : Dev} {e : Extent} (h : Canon d) : Canon (Dev.dropExt d e) := Canon.syncExt (h.of_mem_eq rfl)

theorem Canon.extRefusal {d : Dev} {f src : Nat} {body : List EvField} (h : Canon d) : Canon (Dev.extRefusal d f src body) := by
  unfold Dev.extRefusal
  split
  · exact h
  · exact h.eventWindow

theorem Canon.sendParity {d : Dev} {w : List Nat} {role stripe line : Nat} {delta : Line} {poison : Bool} {id : Nat} (h : Canon d) :
    Canon (Dev.sendParity d w role stripe line delta poison id) :=
  h.writeOut

theorem Canon.parityOf {d : Dev} {off : Nat} {old new : Line} {poison : Bool} {req : Option MemReq} (h : Canon d) :
    InFst Canon (Dev.parityOf d off old new poison req) := by
  unfold Dev.parityOf
  extract_lets
  split
  · exact ite_holds h.eventWindow h
  · extract_lets _ _ d1
    have hd1 : Canon d1 := foldl_holds (P := Canon) h fun _ _ hr => hr.sendParity
    clear_value d1
    exact ite_holds hd1 hd1

theorem Canon.raise {d : Dev} {x : Armer} (h : Canon d) : Canon (Dev.raise d x) := ite_holds h h
theorem Canon.raiseLine {d : Dev} {pl : Nat} (h : Canon d) : Canon (Dev.raiseLine d pl) := foldl_holds (P := Canon) h fun _ _ ha => ha.raise
theorem Canon.dropLoc {d : Dev} {loc : Nat} (h : Canon d) : Canon (Dev.dropLoc d loc) := h

theorem Canon.markCopied {d : Dev} {f : Nat} (h : Canon d) : Canon (Dev.markCopied d f) := by
  unfold Dev.markCopied
  split <;> exact h

theorem Canon.dropRows {d : Dev} {off : Nat} {m : LineMask} {req : Option MemReq} (h : Canon d) : Canon (Dev.dropRows d off m req) := h

theorem Canon.applyWrite {d : Dev} {off : Nat} {data : Line} {m : LineMask} {poison : Bool} {req : Option MemReq} (h : Canon d) :
    InFst Canon (Dev.applyWrite d off data m poison req) := by
  unfold Dev.applyWrite
  extract_lets _ _ _ d1
  have hd1 : Canon d1 := h.writeLine.touch.dropRows.markCopied
  clear_value d1
  split
  next d2 _ heq =>
    have hd2 : Canon d2 := holds_of_eq (P := InFst Canon) hd1.parityOf heq
    split
    · exact hd2.raiseLine
    · exact hd2

theorem Canon.applyHalves {d : Dev} {off : Nat} {data : Line} {m : LineMask} {p0 p1 : Bool} {req : Option MemReq} (h : Canon d) :
    InFst Canon (Dev.applyHalves d off data m p0 p1 req) :=
  ite_holds h.applyWrite h.applyWrite.applyWrite

theorem Canon.poisonHome {d : Dev} {off : Nat} (h : Canon d) : Canon (Dev.poisonHome d off) := h.applyWrite

theorem Canon.rebuildReads {d : Dev} {f : Nat} (h : Canon d) : InSome Canon (Dev.rebuildReads d f) := by
  unfold Dev.rebuildReads
  split
  · exact trivial
  · split
    · exact trivial
    · exact ite_holds trivial (foldl_holds (P := Canon) h fun _ _ hi => hi.request)

theorem Canon.fetchSource {d : Dev} {f : Nat} {m : Move} (h : Canon d) : InSome Canon (Dev.fetchSource d f m) := by
  unfold Dev.fetchSource
  refine ite_holds h (ite_holds ?_ ?_)
  · split
    · exact h.request
    · exact ite_holds h.rebuildReads trivial
  · exact ite_holds (ite_holds h.send trivial) h

theorem Canon.beginPromo {d : Dev} {f : Nat} {e : TEntry} {demand : Bool} (h : Canon d) : InSnd Canon (Dev.beginPromo d f e demand) := by
  unfold Dev.beginPromo
  split
  next d1 heq =>
    have hd1 : Canon d1 := holds_of_eq (P := InSnd Canon) h.startPromotion heq
    split
    · exact hd1
    · split
      next heq1 => exact holds_of_eq (P := InSome Canon) hd1.fetchSource heq1
      · exact hd1.failPromotion
  · exact h.startPromotion

theorem Canon.prefetch {d : Dev} {f : Nat} {e : TEntry} (h : Canon d) : Canon (Dev.prefetch d f e) := by
  unfold Dev.prefetch
  extract_lets next
  refine ite_holds ?_ ?_
  · refine foldl_holds (P := Canon) h ?_
    intro _ _ hg
    split
    · split
      next heq => exact holds_of_eq (P := InSnd Canon) hg.beginPromo heq
      next heq => exact holds_of_eq (P := InSnd Canon) hg.beginPromo heq
    · exact hg
  · exact h

theorem Canon.lostCask {d : Dev} {slot : Nat} (h : Canon d) : Canon (Dev.lostCask d slot) := h.eventSecond

theorem Canon.gateTier {d : Dev} {off : Nat} {write : Bool} {e : TEntry} (h : Canon d) : InSnd Canon (Dev.gateTier d off write e) := by
  unfold Dev.gateTier
  extract_lets
  split
  next d1 heq =>
    have hd1 : Canon d1 := holds_of_eq (P := InSnd Canon) h.beginPromo heq
    split
    · exact hd1.prefetch
    · exact hd1
    · exact hd1
    · exact hd1
    · exact ite_holds hd1.lostCask hd1

theorem Canon.gateT0 {d : Dev} {off : Nat} {write : Bool} {e : TEntry} (h : Canon d) : InSnd Canon (Dev.gateT0 d off write e) := by
  unfold Dev.gateT0
  extract_lets _ _ d1
  have hd1 : Canon d1 := ite_holds h.abandonDemotion.touch h
  clear_value d1
  exact ite_holds hd1 (ite_holds hd1.lostCask (ite_holds (ite_holds hd1.eventSecond hd1) hd1.touch))

theorem Canon.gatePsn {d : Dev} {off : Nat} {write : Bool} (h : Canon d) : InSnd Canon (Dev.gatePsn d off write) := by
  unfold Dev.gatePsn
  extract_lets d1
  have hd1 : Canon d1 := h.abandonDemotion
  clear_value d1
  refine ite_holds hd1 ?_
  split
  · exact hd1.psnToT0
  · exact hd1

theorem Canon.gateMap {d : Dev} {off : Nat} {src : List EvField} (h : Canon d) : InSnd Canon (Dev.gateMap d off src) := by
  unfold Dev.gateMap
  extract_lets
  refine ite_holds h (ite_holds h ?_)
  split
  · exact h.eventCounted
  · exact h

theorem Canon.gateFrame {d : Dev} {off : Nat} {write : Bool} (h : Canon d) : InSnd Canon (Dev.gateFrame d off write) := by
  unfold Dev.gateFrame
  split
  · exact h
  · exact ite_holds h.gatePsn (ite_holds h.gateT0 h.gateTier)

theorem Canon.cacheSet {d : Dev} {s : Nat} (h : Canon d) : Canon (Dev.cacheSet d s) := by
  unfold Dev.cacheSet
  refine ite_holds h ?_
  extract_lets
  refine ite_holds h ?_
  split
  next heq => exact holds_of_eq (P := InSnd Canon) h.takeFree heq

theorem Canon.freeEntry {d : Dev} {pl : Nat} {e : DirEntry} (h : Canon d) : Canon (Dev.freeEntry d pl e) := by
  unfold Dev.freeEntry
  split <;> exact h

theorem Canon.putEntry {d : Dev} {pl : Nat} {st : DirState} {ptrs : List Nat} {w : Option Armer} (h : Canon d) :
    Canon (Dev.putEntry d pl st ptrs w) :=
  h

theorem Canon.grantOwned {d : Dev} {pl n : Nat} {w : Option Armer} (h : Canon d) : Canon (Dev.grantOwned d pl n w) :=
  ite_holds ((Canon.of_mem_eq (Canon.putEntry h : Canon (d.putEntry pl DirState.owned [n] w)) rfl)) (Canon.putEntry h)

theorem Canon.startBi {d : Dev} {pl off : Nat} {e : DirEntry} {dests : List Nat} {inv : Bool} {req : Option MemReq} {victim watch : Bool} (h
    : Canon d) :
    Canon (Dev.startBi d pl off e dests inv req victim watch) := by
  unfold Dev.startBi
  extract_lets _ d1 d2
  have hd1 : Canon d1 := h
  have hd2 : Canon d2 := foldl_holds (P := Canon) hd1 fun _ _ hl => hl.send
  clear_value d1 d2
  exact ite_holds hd2.stat hd2

theorem Canon.callBack {d : Dev} {pl off : Nat} {e : DirEntry} {dests : List Nat} (h : Canon d) : Canon (Dev.callBack d pl off e dests) :=
  ite_holds h.freeEntry h.startBi

theorem Canon.settleLine {d : Dev} {pl off : Nat} (h : Canon d) : Canon (Dev.settleLine d pl off) := by
  unfold Dev.settleLine
  split
  · exact h
  · refine ite_holds h ?_
    split
    · exact ite_holds h.poisonHome.freeEntry h
    · exact ite_holds h (ite_holds h.freeEntry h)
    · exact h

theorem Canon.dirRoom {d : Dev} {pl : Nat} {req : MemReq} (h : Canon d) : InSnd Canon (Dev.dirRoom d pl req) := by
  unfold Dev.dirRoom
  extract_lets
  refine ite_holds h (ite_holds h ?_)
  split
  · exact h
  · extract_lets _ d1 d2
    have hd1 : Canon d1 := h
    have hd2 : Canon d2 := hd1.settleLine
    clear_value d1 d2
    split
    · exact hd2
    · exact ite_holds hd2.freeEntry hd2.startBi

theorem Canon.dirStage {d : Dev} {off pl : Nat} {x : Option Nat} {want : Want} {req : MemReq} (h : Canon d) :
    InSnd Canon (Dev.dirStage d off pl x want req) := by
  unfold Dev.dirStage
  extract_lets d1 _ _ snoop
  have hd1 : Canon d1 := h.cacheSet.settleLine
  have hsnoop : ∀ (dests : List Nat) (inv : Bool), InSnd Canon (snoop dests inv) := fun _ _ => ite_holds hd1 (ite_holds hd1 hd1.startBi)
  clear_value d1 snoop
  refine ite_holds hd1 ?_
  split
  · split
    next d2 heq =>
      have hd2 : Canon d2 := holds_of_eq (P := InSnd Canon) (ite_holds hd1 hd1.dirRoom) heq
      exact ite_holds hd2.putEntry hd2
  · split
    next d2 heq =>
      have hd2 : Canon d2 := holds_of_eq (P := InSnd Canon) (ite_holds hd1 hd1.dirRoom) heq
      exact ite_holds hd2.grantOwned hd2
  · exact hd1
  · exact hd1
  · exact ite_holds hd1.grantOwned (hsnoop _ _)
  · exact ite_holds hd1.freeEntry (hsnoop _ _)
  · exact hd1
  · refine ite_holds ?_ ?_
    · split
      · exact hd1.putEntry
      · exact hd1.grantOwned
      · exact hd1.freeEntry
      · exact hd1.freeEntry
    · split <;> exact hsnoop _ _
  · exact hsnoop _ _
  · exact hsnoop _ _

theorem Canon.refuse {d : Dev} {req : MemReq} {line : Nat} (h : Canon d) : Canon (Dev.refuse d req line) := by
  unfold Dev.refuse
  split
  · exact h.of_mem_eq rfl
  · exact ite_holds (Canon.stat (h.of_mem_eq rfl)) (h.of_mem_eq rfl)

theorem Canon.unrefuse {d : Dev} {req : MemReq} (h : Canon d) : Canon (Dev.unrefuse d req) := h
theorem Canon.accepted {d : Dev} {req : MemReq} {line : Nat} (h : Canon d) : Canon (Dev.accepted d req line) := h

theorem Canon.dirGate {d : Dev} {off : Nat} {req : MemReq} (h : Canon d) : InSnd Canon (Dev.dirGate d off req) :=
  ite_holds h (ite_holds h (ite_holds h.refuse (ite_holds h.refuse (ite_holds h.refuse h))))

theorem Canon.dirTry {d : Dev} {off pl : Nat} {x : Option Nat} {want : Want} {req : MemReq} (h : Canon d) :
    InSnd Canon (Dev.dirTry d off pl x want req) := by
  unfold Dev.dirTry
  split
  next d1 heq =>
    have hd1 : Canon d1 := holds_of_eq (P := InSnd Canon) h.dirGate heq
    exact hd1
  next d1 heq =>
    have hd1 : Canon d1 := holds_of_eq (P := InSnd Canon) h.dirGate heq
    split
    next d2 heq1 =>
      have hd2 : Canon d2 := holds_of_eq (P := InSnd Canon) hd1.dirStage heq1
      split
      · exact hd2.unrefuse
      · exact hd2.refuse
      · exact hd2

theorem Canon.biStep {d : Dev} {pl : Nat} {e : DirEntry} (h : Canon d) : InSnd Canon (Dev.biStep d pl e) := by
  unfold Dev.biStep
  split
  · exact h
  · exact ite_holds h (ite_holds (ite_holds h.raiseLine h) (ite_holds (Canon.freeEntry (ite_holds h.raiseLine h)) (ite_holds h.raiseLine h)))

theorem Canon.arm {d : Dev} {who : Armer} {off pl : Nat} (h : Canon d) : InSnd Canon (Dev.arm d who off pl) := by
  unfold Dev.arm
  extract_lets d1
  have hd1 : Canon d1 := h.cacheSet.settleLine
  clear_value d1
  split
  · refine ite_holds hd1 (ite_holds hd1 (ite_holds hd1 ?_))
    extract_lets d2
    have hd2 : Canon d2 := ite_holds (hd1.of_mem_eq rfl) (hd1.of_mem_eq rfl)
    clear_value d2
    exact inSnd_mk (ite_holds (hd2.of_mem_eq rfl) hd2)
  · refine ite_holds hd1 ?_
    split
    next d2 heq =>
      have hd2 : Canon d2 := holds_of_eq (P := InSnd Canon) hd1.dirRoom heq
      split
      · exact inSnd_mk hd2.putEntry
      · exact hd2
      · exact hd2

theorem Canon.disarmLine {d : Dev} {who : Armer} {pl : Nat} (h : Canon d) : Canon (Dev.disarmLine d who pl) := by
  unfold Dev.disarmLine
  extract_lets d1
  have hd1 : Canon d1 := h
  clear_value d1
  split
  · exact hd1
  · refine ite_holds hd1 ?_
    split
    · exact hd1
    · exact ite_holds hd1 hd1

theorem Canon.disarm {d : Dev} {who : Armer} (h : Canon d) : Canon (Dev.disarm d who) := foldl_holds (P := Canon) h fun _ _ hpl => hpl.disarmLine

end Sys2Proof.Machine
end

section
/-! SUPPORT. T0's memory stays canonical: the runs of the engines. -/

namespace Sys2Proof.Machine

open Sys2Proof

theorem KeepsCanon.RunSt_d {self : RunSt} (h : CanonRun self) : Canon (RunSt.d self) := h
theorem KeepsCanon.halt {α : Type} {st : Nat} : KeepsCanon (halt st : M α) := .throw _
theorem KeepsCanon.need {α : Type} : KeepsCanon (need : M α) := .throw _
theorem KeepsCanon.ensure {b : Bool} {st : Nat} : KeepsCanon (ensure b st) := ite_holds (.pure _) .halt
theorem KeepsCanon.waitsOn {α : Type} {fa : Nat} : KeepsCanon (waitsOn fa : M α) := .bind (.modify (fun _ hk => hk)) fun _ => .need
theorem Canon.revokeEvent {d : Dev} {ld : Nat} {r : Revocation} (h : Canon d) : Canon (Dev.revokeEvent d ld r) := h.eventWindow

theorem Canon.extCheck {d : Dev} {c : Ctx} {off : Nat} {write : Bool} (h : Canon d) : InSnd Canon (Dev.extCheck d c off write) := by
  unfold Dev.extCheck
  extract_lets
  refine ite_holds h (ite_holds h ?_)
  split
  · exact h.revokeEvent
  · split
    · exact h
    · exact ite_holds h.extRefusal (ite_holds h h.extRefusal)

theorem Canon.noteFound {d : Dev} {r : MemReq} {v : Nat} {moved : Bool} (h : Canon d) : Canon (Dev.noteFound d r v moved) := h
theorem KeepsCanon.atStage {α : Type} {n : Nat} {m : M α} (h : KeepsCanon m) : KeepsCanon (atStage n m : M α) := .withReader h

theorem KeepsCanon.noteAcc {fa : Nat} {write atomic poison : Bool} : KeepsCanon (noteAcc fa write atomic poison) :=
  .bind .read fun _ => .modify fun _ hk => hk

theorem KeepsCanon.noteStored {fa n : Nat} {who : AccBy} {poison : Bool} : KeepsCanon (noteStored fa n who poison) :=
  .bind .read fun _ => .modify fun _ hk => hk

theorem KeepsCanon.noteCached {fa : Nat} : KeepsCanon (noteCached fa) := .bind .read fun _ => .modify fun _ hk => hk

theorem Canon.countRun {d : Dev} {c : Ctx} {code n : Nat} (h : Canon d) : Canon (Dev.countRun d c code n) := by
  unfold Dev.countRun
  split
  · exact h.countDesc
  · exact h

theorem Canon.awaits {d : Dev} {w : WaitOn} {r : MemReq} (h : Canon d) : Canon (Dev.awaits d w r) := by
  unfold Dev.awaits
  extract_lets add
  have hadd : ∀ (f : Nat), Canon (add f) := fun _ => ite_holds h h
  clear_value add
  split
  · exact hadd _
  · exact hadd _
  · exact h

theorem KeepsCanon.readyLine {off : Nat} {write : Bool} : KeepsCanon (readyLine off write) := by
  unfold Machine.readyLine
  refine .bind .read fun _ => .getDev_bind fun d hd => ?_
  split
  next x _ d1 heq =>
    have hd1 : Canon d1 := holds_of_eq (P := InSnd Canon) hd.gateMap heq
    refine .bind (.modDev (fun _ _ => hd1)) fun _ => ?_
    split
    · exact .halt
    · exact .waitsOn
    · split
      next d2 heq1 =>
        have hd2 : Canon d2 := holds_of_eq (P := InSnd Canon) hd1.extCheck heq1
        refine .bind (.modDev (fun _ _ => hd2)) fun _ => ?_
        extract_lets _ _ _ note jp
        have hnote : ∀ (d : Dev), Canon d → ∀ (moved : Bool), Canon (note d moved) := by
          intro _ hd3 _
          unfold note
          split
          · exact hd3.noteFound
          · exact hd3
        have hjp : ∀ (x : Unit), KeepsCanon (jp x) := by
          intro _
          unfold jp
          split
          next d3 heq2 =>
            have hd3 : Canon d3 := holds_of_eq (P := InSnd Canon) hd2.gateFrame heq2
            extract_lets d4
            have hd4 : Canon d4 := hd3.countRun
            clear_value d4
            refine .bind (.modDev (fun _ _ => hd4)) fun _ => ?_
            split
            · exact .halt
            · exact .bind (.modDev (fun _ hd5 => (hnote _ hd5 _).awaits)) fun _ => .waitsOn
            · split
              · exact .pure _
              · split
                next d5 heq3 =>
                  have hd5 : Canon d5 := holds_of_eq (P := InSnd Canon) hd4.dirTry heq3
                  extract_lets d6
                  have hd6 : Canon d6 := hd5.countRun.countRun
                  clear_value d6
                  exact .bind (.modDev (fun _ _ => ite_holds (hnote _ hd6 _) hd6)) fun _ => ite_holds .waitsOn (.pure _)
        clear_value note jp
        exact ite_holds (.bind .halt (fun _ => hjp _)) (hjp _)

theorem KeepsCanon.fetchLines_go {c : Ctx} {l : List (Nat × Nat)} : KeepsCanon (fetchLines.go c l) := by
  induction l with
  | nil => exact .pure _
  | cons _ _ ih =>
    unfold fetchLines.go
    refine .getDev_bind fun _ _ => ?_
    split
    · exact .halt
    · exact .bind (.modDev (fun _ hd1 => ite_holds hd1.request hd1.request)) fun _ => ih

theorem KeepsCanon.fetchLines {lines : List Nat} : KeepsCanon (fetchLines lines) := by
  unfold Machine.fetchLines
  refine .bind .read fun _ => .getDev_bind fun _ _ => ?_
  extract_lets
  refine ite_holds (.pure _) ?_
  split
  · exact .bind .fetchLines_go fun _ => .bind (.modify (fun _ hk => hk)) fun _ => .need
  · exact .halt

theorem KeepsCanon.rdLine {fa : Nat} : KeepsCanon (rdLine fa) := by
  unfold Machine.rdLine
  refine .bind .read fun _ => .get_bind fun _ _ => ite_holds ?_ ?_
  · exact .bind .readyLine fun _ => .get_bind fun _ _ => .bind .noteAcc fun _ => .pure _
  · split
    next x _ _ =>
      extract_lets jp
      have hjp : ∀ (x : Unit), KeepsCanon (jp x) := fun _ => .bind .noteAcc fun _ => .pure _
      clear_value jp
      exact ite_holds (.bind .halt (fun _ => hjp _)) (hjp _)
    · exact .bind .fetchLines fun _ => .need

theorem KeepsCanon.rdLines {l : List Nat} : KeepsCanon (rdLines l) := by
  induction l with
  | nil => exact .pure _
  | cons _ _ ih => exact .bind .rdLine fun _ => .bind ih fun _ => .pure _

theorem KeepsCanon.rdRaw {fa n : Nat} : KeepsCanon (rdRaw fa n) := .bind .fetchLines fun _ => .bind .rdLines fun _ => .pure _

theorem KeepsCanon.rd {fa n : Nat} : KeepsCanon (rd fa n) := by
  unfold Machine.rd
  refine .bind .rdRaw fun _ => ?_
  split
  · exact ite_holds (.bind .halt (fun _ => .pure _)) (.pure _)

theorem KeepsCanon.wrRun {fa : Nat} {bs : List Byte} {poison : Bool} : KeepsCanon (wrRun fa bs poison) := by
  unfold Machine.wrRun
  refine .getDev_bind fun _ _ => ?_
  extract_lets jp
  have hjp : ∀ (x : Unit), KeepsCanon (jp x) := fun _ => .bind .noteAcc fun _ => .modify fun _ hk => hk
  clear_value jp
  refine ite_holds (.bind .readyLine (fun _ => hjp _)) ?_
  split
  · exact .bind .halt fun _ => hjp _
  · exact hjp _

theorem KeepsCanon.wrRuns {poison : Bool} {l : List (Nat × List Byte)} : KeepsCanon (wrRuns poison l) := by
  induction l with
  | nil => exact .pure _
  | cons _ _ ih => exact .bind .wrRun fun _ => ih

theorem KeepsCanon.wr {fa : Nat} {bs : List Byte} {poison : optParam Bool false} : KeepsCanon (wr fa bs poison) := .wrRuns

theorem KeepsCanon.atomRemote {fa op n b : Nat} : KeepsCanon (atomRemote fa op n b) := by
  unfold Machine.atomRemote
  refine .bind .read fun _ => .get_bind fun _ hk => ?_
  extract_lets _ _ jp
  have hjp : ∀ (x : Unit), KeepsCanon (jp x) := fun _ => .need
  clear_value jp
  refine .bind (.set hk) fun _ => ?_
  split
  next x _ _ =>
    extract_lets _ jp1
    have hjp1 : ∀ (x : Unit), KeepsCanon (jp1 x) := fun _ => .bind .noteAcc fun _ => .pure _
    clear_value jp1
    exact ite_holds (.bind .halt (fun _ => hjp1 _)) (hjp1 _)
  · split
    · exact .halt
    · exact ite_holds (.bind (.modDev (fun _ hd => hd.writeOut)) (fun _ => hjp _)) (hjp _)

theorem KeepsCanon.atomRaw {fa op n b : Nat} : KeepsCanon (atomRaw fa op n b) := by
  unfold Machine.atomRaw
  refine .getDev_bind fun _ _ => ite_holds ?_ ?_
  · refine .bind .rdRaw fun _ => ?_
    split
    next x _ _ =>
      extract_lets _ _ _ jp
      have hjp : ∀ (x : Unit), KeepsCanon (jp x) := fun _ => .bind (.modify (fun _ hk => hk)) fun _ => .pure _
      clear_value jp
      exact ite_holds (.bind .wr (fun _ => hjp _)) (hjp _)
  · exact .atomRemote

theorem KeepsCanon.atom {fa op n b : Nat} : KeepsCanon (atom fa op n b) := by
  unfold Machine.atom
  refine .bind .atomRaw fun _ => ?_
  split
  · exact ite_holds (.bind .halt (fun _ => .pure _)) (.pure _)

theorem Canon.commitRun {c : Ctx} {d : Dev} {r : LogRun} (h : Canon d) : Canon (Dev.commitRun c d r) := by
  unfold Dev.commitRun
  split
  · exact ite_holds h.applyWrite h.writeOut

theorem Canon.commit {c : Ctx} {d : Dev} {log : List LogRun} (h : Canon d) : Canon (Dev.commit c d log) :=
  foldl_holds (P := Canon) h fun _ _ hx => hx.commitRun

theorem Canon.unitRun {α : Type} {d : Dev} {m : M α} (h : Canon d) (h_m : KeepsCanon m) : InSnd Canon (Dev.unitRun d m) := by
  unfold Dev.unitRun
  split
  next s heq =>
    have hs : CanonRun s := holds_of_eq (P := InSnd CanonRun) (h.runM h_m) heq
    exact hs.commit
  next s heq =>
    have hs : CanonRun s := holds_of_eq (P := InSnd CanonRun) (h.runM h_m) heq
    exact hs

/-- `Dev.unitRun` with what it runs left open: in a proof that takes it so, the kernel has no computation to unfold. -/
theorem unitRun_abstract : ∃ run : {α : Type} → Dev → M α → Option α × Dev, @Dev.unitRun = @run ∧
    ∀ {α : Type} {d : Dev} {m : M α}, Canon d → KeepsCanon m → InSnd Canon (run d m) := ⟨_, rfl, fun hd hm => hd.unitRun hm⟩

theorem Canon.unitTry {α : Type} {d : Dev} {m : M α} (h : Canon d) (h_m : KeepsCanon m) : InSnd Canon (Dev.unitTry d m) := by
  unfold Dev.unitTry
  split
  next s heq =>
    have hs : CanonRun s := holds_of_eq (P := InSnd CanonRun) (h.runM h_m) heq
    exact hs.commit
  next s heq =>
    have hs : CanonRun s := holds_of_eq (P := InSnd CanonRun) (h.runM h_m) heq
    exact hs

/-- `Dev.unitTry` with what it runs left open: in a proof that takes it so, the kernel has no computation to unfold. -/
theorem unitTry_abstract : ∃ run : {α : Type} → Dev → M α → Except Halt α × Dev, @Dev.unitTry = @run ∧
    ∀ {α : Type} {d : Dev} {m : M α}, Canon d → KeepsCanon m → InSnd Canon (run d m) := ⟨_, rfl, fun hd hm => hd.unitTry hm⟩

theorem KeepsCanon.takeRing {base log : Nat} : KeepsCanon (takeRing base log) := by
  unfold Machine.takeRing
  refine .getDev_bind fun _ _ => ?_
  extract_lets
  refine .bind .rd fun _ => ?_
  extract_lets
  exact .bind .rd fun _ => ite_holds (.pure _) (.bind .rd (fun _ => .bind .wr (fun _ => .pure _)))

theorem KeepsCanon.giveRing {base log v : Nat} : KeepsCanon (giveRing base log v) :=
  .getDev_bind fun _ _ => .bind .rd fun _ => .bind .wr fun _ => .wr

theorem Canon.giveOwed {d : Dev} (h : Canon d) : Canon (Dev.giveOwed d) := by
  unfold Dev.giveOwed
  refine foldl_holds (P := Canon) h ?_
  intro _ _ hx
  split
  next heq => exact holds_of_eq (P := InSnd Canon) (hx.unitRun .giveRing) heq
  next heq => exact holds_of_eq (P := InSnd Canon) (hx.unitRun .giveRing) heq

end Sys2Proof.Machine
end

section
/-! SUPPORT. T0's memory stays canonical: sampling and charging. -/

namespace Sys2Proof.Machine

open Sys2Proof

theorem Canon.sampleHit {d : Dev} {set kind : Nat} (h : Canon d) : InSnd Canon (Dev.sampleHit d set kind) := by
  unfold Dev.sampleHit
  extract_lets
  refine ite_holds h ?_
  split
  next d1 heq =>
    have hd1 : Canon d1 := by
      refine holds_of_eq (P := InSnd Canon) ?_ heq
      refine ite_holds ?_ ?_
      · split
        next d2 heq1 =>
          have hd2 : Canon d2 := holds_of_eq (P := InSnd Canon) (Canon.takeFree h) heq1
          exact hd2
      · exact h
    exact hd1.of_mem_eq rfl

theorem KeepsCanon.sampleWrite {base n : Nat} {rec_ : Bool → List Byte} {phase many : Bool} : KeepsCanon (sampleWrite base n rec_ phase many) := by
  unfold Machine.sampleWrite
  refine .getDev_bind fun _ _ => .bind .rd fun _ => ?_
  extract_lets
  refine .bind .rd fun _ => ?_
  extract_lets
  exact ite_holds (.bind .rd (fun _ => .bind .wr (fun _ => .pure _))) (.bind .wr (fun _ => .bind .wr (fun _ => .pure _)))

theorem Canon.sampleRate {d : Dev} (h : Canon d) : InSnd Canon (Dev.sampleRate d) := ite_holds h h

theorem Canon.sample {d : Dev} {set : Nat} {x : SampleOf} (h : Canon d) : Canon (Dev.sample d set x) := by
  obtain ⟨run, hrun, hkeeps⟩ := unitRun_abstract
  unfold Dev.sample
  rw [hrun]
  split
  next d1 heq =>
    have hd1 : Canon d1 := holds_of_eq (P := InSnd Canon) h.sampleHit heq
    refine ite_holds hd1 ?_
    extract_lets
    split
    next d2 heq1 =>
      have hd2 : Canon d2 := holds_of_eq (P := InSnd Canon) hd1.takeFree heq1
      split
      next d3 heq2 =>
        have hd3 : Canon d3 := holds_of_eq (P := InSnd Canon) hd2.sampleRate heq2
        extract_lets
        generalize hr : run d3 _ = r
        have hd4 : InSnd Canon r := holds_of_eq (hkeeps hd3 .sampleWrite) hr
        split
        · exact ite_holds (Canon.of_mem_eq hd4 rfl) hd4
        · exact Canon.count hd4

theorem Canon.forgetFound {d : Dev} {c : Ctx} (h : Canon d) : Canon (Dev.forgetFound d c) := h

theorem Canon.chargeAcc {d : Dev} {c : Ctx} {acc : List Acc} (h : Canon d) : Canon (Dev.chargeAcc d c acc) := by
  unfold Dev.chargeAcc
  split
  · split
    · refine foldl_holds (P := Canon) (ite_holds h h.forgetFound) ?_
      intro _ _ ha
      extract_lets _ d2
      have hd2 : Canon d2 := ite_holds ha.count ha
      clear_value d2
      split
      · exact hd2
      · exact hd2.sample
    · exact h
  · exact h

theorem Canon.chargeHost {d : Dev} {ld off : Nat} {write poison : Bool} {tier : Nat} (h : Canon d) :
    Canon (Dev.chargeHost d ld off write poison tier) :=
  h.count.sample

end Sys2Proof.Machine
end

section
/-! SUPPORT. T0's memory stays canonical: translation, faults and signals. -/

namespace Sys2Proof.Machine

open Sys2Proof

theorem Canon.msixSend {d : Dev} {fn v : Nat} (h : Canon d) : Canon (Dev.msixSend d fn v) := ite_holds h h.send
theorem Canon.errPend {d : Dev} {fi : Nat} (h : Canon d) : Canon (Dev.errPend d fi) := ite_holds h (ite_holds h.setReg.msixSend h.setReg)

theorem Canon.queueErr {d : Dev} {q : Nat} (h : Canon d) : Canon (Dev.queueErr d q) := by
  unfold Dev.queueErr
  split
  · exact h
  · exact ite_holds h (Canon.errPend (Canon.event (Canon.setRf (Canon.setRf (h.of_mem_eq rfl)))))

theorem Canon.notifyAt {d : Dev} {q off : Nat} {data : Line} {m : LineMask} (h : Canon d) : InSnd Canon (Dev.notifyAt d q off data m) := by
  unfold Dev.notifyAt
  split
  next d1 heq =>
    have hd1 : Canon d1 := holds_of_eq (P := InSnd Canon) h.gateMap heq
    split
    · exact hd1.queueErr
    · exact hd1
    · refine ite_holds hd1.queueErr ?_
      split
      next d2 heq1 =>
        have hd2 : Canon d2 := holds_of_eq (P := InSnd Canon) hd1.gateFrame heq1
        split
        · exact hd2.queueErr
        · exact hd2
        · split
          · exact hd2
          · split
            next d3 heq2 =>
              have hd3 : Canon d3 := holds_of_eq (P := InSnd Canon) hd2.dirTry heq2
              split
              · exact hd3
              · exact hd3
              · exact hd3.applyWrite

theorem Canon.signal {d : Dev} {qid : Nat} {x : Queue} {fault : Bool} (h : Canon d) : Canon (Dev.signal d qid x fault) := by
  unfold Dev.signal
  extract_lets d1 _ _ _ _ r
  have hd1 : Canon d1 := ite_holds h h.count
  clear_value d1
  refine ite_holds hd1.msixSend (ite_holds ?_ ?_)
  · refine ite_holds hd1 ?_
    split
    next heq => exact holds_of_eq (P := InSnd Canon) hd1.notifyAt heq
    next heq => exact holds_of_eq (P := InSnd Canon) hd1.notifyAt heq
  · split
    · exact hd1.queueErr
    · exact hd1.writeOut

theorem KeepsCanon.rdTab {pasid off n : Nat} : KeepsCanon (rdTab pasid off n) := by
  unfold Machine.rdTab
  refine .getDev_bind fun _ hd => ?_
  split
  next d1 heq =>
    have hd1 : Canon d1 := holds_of_eq (P := InSnd Canon) hd.gateMap heq
    split
    · exact .bind (.modDev (fun _ _ => hd1.eventWindow)) fun _ => .pure _
    · refine .bind (.withReader .rdRaw) fun _ => ?_
      split
      · exact ite_holds (.bind (.modDev (fun _ hd2 => hd2.eventWindow)) (fun _ => .pure _)) (.pure _)

theorem KeepsCanon.pasidCtx {pasid : Nat} : KeepsCanon (pasidCtx pasid) := by
  unfold Machine.pasidCtx
  refine .getDev_bind fun _ _ => ?_
  extract_lets
  refine ite_holds (.pure _) (.bind .rdTab fun _ => ?_)
  split
  · exact .pure _
  · extract_lets
    refine ite_holds (.pure _) (.bind .rdTab fun _ => ?_)
    split
    · exact .pure _
    · split <;> exact .pure _

theorem Canon.cachePut {α : Type _} [BEq α] {d : Dev} {n : Nat} {xs : List α} {x : α} (h : Canon d) : InSnd Canon (Dev.cachePut d n xs x) := by
  unfold Dev.cachePut
  refine ite_holds h ?_
  split
  next d1 heq =>
    have hd1 : Canon d1 := holds_of_eq (P := InSnd Canon) h.takeFree heq
    exact hd1

theorem Canon.keepPtr {d : Dev} {t : TlbPtr} (h : Canon d) : Canon (Dev.keepPtr d t) := by
  unfold Dev.keepPtr
  refine ite_holds h (ite_holds ?_ ?_)
  · split
    next heq => exact holds_of_eq (P := InSnd Canon) h.takeFree heq
  · split
    next heq => exact holds_of_eq (P := InSnd Canon) h.cachePut heq

theorem KeepsCanon.walkFrom {pasid dva : Nat} {cx : PasidCtx} {n n1 : Nat} : KeepsCanon (walkFrom pasid dva cx n n1) := by
  induction n generalizing n1 with
  | zero => exact .pure _
  | succ _ ih =>
    unfold Machine.walkFrom
    extract_lets
    refine .bind .rdTab fun _ => ?_
    split
    · exact .pure _
    · extract_lets
      refine ite_holds ?_ ?_
      · exact ite_holds (.pure _) (ite_holds (.pure _) (ite_holds (.pure _) (.pure _)))
      · exact ite_holds (.pure _) (ite_holds (.pure _) (.bind (.modDev (fun _ hd => hd.keepPtr)) (fun _ => ih)))

theorem Canon.addFault {d : Dev} {pasid dva kind access level : Nat} {who : DescId} {tag eng : Nat} {waits : Bool} (h : Canon d) :
    Canon (Dev.addFault d pasid dva kind access level who tag eng waits) :=
  ite_holds h h

theorem KeepsCanon.writeFaults {base n : Nat} {l : List FaultEntry} {x : FaultFlush} : KeepsCanon (writeFaults base n l x) := by
  induction l generalizing x with
  | nil => exact .getDev_bind fun _ _ => ite_holds (.bind .wr (fun _ => .pure _)) (.pure _)
  | cons _ _ ih =>
    unfold Machine.writeFaults
    refine .getDev_bind fun _ _ => ?_
    extract_lets
    exact ite_holds (.bind .wr (fun _ => .pure _)) (.bind .wr (fun _ => .bind .wr (fun _ => ih)))

theorem KeepsCanon.fillArea {base n : Nat} {fs : List FaultEntry} {x : FaultArea} : KeepsCanon (fillArea base n fs x) :=
  .getDev_bind fun _ _ => .bind .rd fun _ => .writeFaults

theorem Canon.signalFaults {d : Dev} {cx : PasidCtx} (h : Canon d) : Canon (Dev.signalFaults d cx) := by
  unfold Dev.signalFaults
  extract_lets
  refine ite_holds ?_ ?_
  · split
    · exact ite_holds h.signal h
    · exact h
  · exact h

theorem Canon.signalRecord {d : Dev} {pasid : Nat} {cx : PasidCtx} (h : Canon d) : Canon (Dev.signalRecord d pasid cx) := by
  unfold Dev.signalRecord
  split
  · exact h
  · exact ite_holds (h.of_mem_eq rfl) (Canon.signalFaults (h.of_mem_eq rfl))

theorem Canon.armFaults {d : Dev} {pasid head : Nat} (h : Canon d) : Canon (Dev.armFaults d pasid head) := by
  unfold Dev.armFaults
  split
  · exact h
  · extract_lets _ x1
    have hx1 : Canon x1 := h.disarm
    clear_value x1
    refine ite_holds ?_ ?_
    · split
      · exact h
      · split
        next d1 heq =>
          have hd1 : Canon d1 := holds_of_eq (P := InSnd Canon) h.arm heq
          extract_lets d2
          have hd2 : Canon d2 := hd1
          clear_value d2
          split
          · exact ite_holds hd2 hd2
          · exact hd2.refuse
          · exact hd2
          · exact hd2
    · exact hx1

theorem Canon.areaOf {d : Dev} {pasid : Nat} {cx : PasidCtx} (h : Canon d) : InSnd Canon (Dev.areaOf d pasid cx) := by
  unfold Dev.areaOf
  split
  · exact h
  · exact ite_holds h h.disarm

theorem Canon.flushTry {d : Dev} {pasid : Nat} (h : Canon d) : InSnd Canon (Dev.flushTry d pasid) := by
  obtain ⟨run, hrun, hkeeps⟩ := unitRun_abstract
  unfold Dev.flushTry
  rw [hrun]
  generalize hctx : run d _ = r
  have hd1 : InSnd Canon r := holds_of_eq (hkeeps h .pasidCtx) hctx
  split
  · split
    next d2 heq1 =>
      have hd2 : Canon d2 := holds_of_eq (P := InSnd Canon) (Canon.areaOf hd1) heq1
      extract_lets
      generalize harea : run d2 _ = r
      have hd3 : InSnd Canon r := holds_of_eq (hkeeps hd2 .fillArea) harea
      split
      · extract_lets _ d4 _ d5 d6
        have hd4 : Canon d4 := foldl_holds (P := Canon) hd3 fun _ _ hf => hf.countDesc
        have hd5 : Canon d5 := hd4.of_mem_eq rfl
        have hd6 : Canon d6 := ite_holds hd5.signalRecord hd5
        clear_value d4 d5 d6
        exact hd6.armFaults
      · exact Canon.of_mem_eq hd3 rfl
  · exact hd1

theorem Canon.flushFaults {d : Dev} {pasid : Nat} (h : Canon d) : Canon (Dev.flushFaults d pasid) := h.flushTry
theorem Canon.faultStep {d : Dev} (h : Canon d) : Canon (Dev.faultStep d) := foldl_holds (P := Canon) h fun _ _ hx => hx.flushFaults
theorem Canon.modTable {d : Dev} {i : DescId} {g : Timetable → Timetable} (h : Canon d) : Canon (Dev.modTable d i g) := h
theorem Canon.stalls {d : Dev} {c : Ctx} {page kind : Nat} (h : Canon d) : Canon (Dev.stalls d c page kind) := ite_holds h.modStarted h.modTable

theorem KeepsCanon.stallFault {α : Type} {dva kind access level : Nat} : KeepsCanon (stallFault dva kind access level : M α) :=
  .bind .read fun _ => .bind (.modDev (fun _ hd => hd.addFault.stalls)) fun _ => .need

theorem KeepsCanon.startMigration {α : Type} {dva access : Nat} {cx : PasidCtx} {leafAddr entry : Nat} :
    KeepsCanon (startMigration dva access cx leafAddr entry : M α) := by
  unfold Machine.startMigration
  refine .bind .read fun _ => .getDev_bind fun _ hd => ?_
  extract_lets
  refine ite_holds ?_ ?_
  · exact .bind (.modDev (fun _ hd1 => ite_holds (hd1.of_mem_eq rfl) (Canon.stalls (hd1.of_mem_eq rfl)))) fun _ => .need
  · split
    next e heq =>
      have he : Canon e := holds_of_eq (P := InSnd Canon) (Canon.unitTry hd .takeRing) heq
      exact .bind (.modDev (fun _ _ => he)) fun _ => .need
    next e heq =>
      have he : Canon e := holds_of_eq (P := InSnd Canon) (Canon.unitTry hd .takeRing) heq
      exact .bind (.modDev (fun _ _ => he)) fun _ => .halt
    next e heq =>
      have he : Canon e := holds_of_eq (P := InSnd Canon) (Canon.unitTry hd .takeRing) heq
      exact .bind (.modDev (fun _ _ => he)) fun _ => .stallFault
    next e heq =>
      have he : Canon e := holds_of_eq (P := InSnd Canon) (Canon.unitTry hd .takeRing) heq
      exact .bind (.modDev (fun _ _ => ite_holds (Canon.send (he.of_mem_eq rfl)) (Canon.stalls (Canon.send (he.of_mem_eq rfl))))) fun _ => .need

theorem Canon.keepLeaf {d : Dev} {c : Ctx} {t : TlbLeaf} (h : Canon d) : Canon (Dev.keepLeaf d c t) := by
  unfold Dev.keepLeaf
  extract_lets d1
  have hd1 : Canon d1 := by
    unfold d1
    refine ite_holds h ?_
    split
    next heq => exact holds_of_eq (P := InSnd Canon) h.cachePut heq
  clear_value d1
  split
  · exact hd1
  · refine ite_holds hd1 ?_
    extract_lets
    split
    next heq => exact holds_of_eq (P := InSnd Canon) hd1.cachePut heq

theorem KeepsCanon.useLeaf {dva access lvl e : Nat} : KeepsCanon (useLeaf dva access lvl e) := by
  unfold Machine.useLeaf
  refine .bind .read fun _ => ?_
  extract_lets _ jp
  have hjp : ∀ (x : Unit), KeepsCanon (jp x) := fun _ => .bind (.modDev (fun _ hd => ite_holds hd hd.keepLeaf)) fun _ => .bind (.modify (fun _ hk =>
      hk)) fun _ => .pure _
  clear_value jp
  exact ite_holds (.bind .stallFault (fun _ => hjp _)) (hjp _)

theorem KeepsCanon.xlate {dva access : Nat} : KeepsCanon (xlate dva access) := by
  unfold Machine.xlate
  refine .bind .read fun _ => .bind .ensure fun _ => .getDev_bind fun _ _ => ?_
  split
  · exact .bind (.modify (fun _ hk => hk)) fun _ => .pure _
  · exact .useLeaf
  · refine .bind .pasidCtx fun _ => ?_
    split
    · exact .halt
    · refine .getDev_bind fun _ _ => ?_
      split
      · refine .bind .walkFrom fun _ => .bind (.modDev (fun _ hd2 => hd2.countRun)) fun _ => ?_
        split
        · exact .halt
        · exact .stallFault
        · exact .startMigration
        · exact .useLeaf

theorem Canon.setIssued {d : Dev} {c : Ctx} {ts : List Issued} (h : Canon d) : Canon (Dev.setIssued d c ts) := h.modStarted

theorem KeepsCanon.xlateAll {access : Nat} {l : List (Nat × Nat)} : KeepsCanon (xlateAll access l) := by
  induction l with
  | nil => exact .pure _
  | cons _ _ ih => exact .bind .xlate fun _ => .bind ih fun _ => .pure _

theorem KeepsCanon.rdPieces {l : List (Nat × Nat)} : KeepsCanon (rdPieces l) := by
  induction l with
  | nil => exact .pure _
  | cons _ _ ih =>
    unfold Machine.rdPieces
    refine .bind .rdRaw fun _ => ?_
    split
    · refine .bind ih fun _ => ?_
      split
      · exact .pure _

theorem KeepsCanon.rdRawV {dva n : Nat} : KeepsCanon (rdRawV dva n) := .bind .xlateAll fun _ => .rdPieces

theorem KeepsCanon.rdV {dva n : Nat} : KeepsCanon (rdV dva n) := by
  unfold Machine.rdV
  refine .bind .rdRawV fun _ => ?_
  split
  · exact ite_holds (.bind .halt (fun _ => .pure _)) (.pure _)

theorem KeepsCanon.wrPieces {poison : Bool} {l : List (Nat × Nat)} {l1 : List Byte} : KeepsCanon (wrPieces poison l l1) := by
  induction l generalizing l1 with
  | nil => exact .pure _
  | cons _ _ ih => exact .bind .wr fun _ => ih

theorem KeepsCanon.wrV {dva : Nat} {bs : List Byte} {poison : optParam Bool false} : KeepsCanon (wrV dva bs poison) :=
  .bind .xlateAll fun _ => .wrPieces

end Sys2Proof.Machine
end

section
/-! SUPPORT. T0's memory stays canonical: attention partials. -/

namespace Sys2Proof.Machine

open Sys2Proof

theorem KeepsCanon.freeM : KeepsCanon (freeM) := by
  unfold Machine.freeM
  refine .getDev_bind fun _ hd => ?_
  split
  next d1 heq =>
    have hd1 : Canon d1 := holds_of_eq (P := InSnd Canon) hd.takeFree heq
    exact .bind (.modDev (fun _ _ => hd1)) fun _ => .pure _

theorem KeepsCanon.arrivals {α : Type} {xs : List α} : KeepsCanon (arrivals xs : M (List (List α))) :=
  ite_holds (.pure _) (.bind .freeM (fun _ => .bind .freeM (fun _ => .pure _)))

theorem KeepsCanon.stepsM {k n : Nat} : KeepsCanon (stepsM k n) := ite_holds .freeM (.pure _)
theorem KeepsCanon.dotM {f g : Nat} {l b : List Val} : KeepsCanon (dotM f g l b) := .bind .stepsM fun _ => .pure _

theorem KeepsCanon.openInPlace {off : Nat} : KeepsCanon (openInPlace off) := by
  unfold Machine.openInPlace
  refine .bind .read fun _ => .getDev_bind fun _ hd => ?_
  split
  next x _ d1 heq =>
    have hd1 : Canon d1 := holds_of_eq (P := InSnd Canon) hd.gateMap heq
    refine .bind (.modDev (fun _ _ => hd1)) fun _ => ?_
    split
    · exact .halt
    · exact .waitsOn
    · split
      next d2 heq1 =>
        have hd2 : Canon d2 := holds_of_eq (P := InSnd Canon) hd1.extCheck heq1
        refine .bind (.modDev (fun _ _ => hd2)) fun _ => ?_
        extract_lets jp
        have hjp : ∀ (x : Unit), KeepsCanon (jp x) := by
          intro _
          unfold jp
          split
          · exact .waitsOn
          · exact .pure _
          · exact .pure _
        clear_value jp
        exact ite_holds (.bind .halt (fun _ => hjp _)) (hjp _)

theorem KeepsCanon.rdInPlace {off n : Nat} : KeepsCanon (rdInPlace off n) := by
  unfold Machine.rdInPlace
  refine .bind .openInPlace fun _ => ?_
  extract_lets _ _ jp
  have hjp : ∀ (x : Unit), KeepsCanon (jp x) := by
    intro _
    unfold jp
    refine .getDev_bind fun _ _ => ?_
    split
    · exact .halt
    · split
      · exact .halt
      · extract_lets
        exact .bind (.modDev (fun _ hd1 => hd1.kilnEvent)) fun _ => .bind .noteStored fun _ => .pure _
  clear_value jp
  exact ite_holds (.bind .halt (fun _ => hjp _)) (hjp _)

theorem KeepsCanon.caught {α : Type} {m : M α} (h : KeepsCanon m) : KeepsCanon (caught m : M (Except Nat α)) := by
  unfold Machine.caught
  refine .tryCatch (.bind h (fun _ => .pure _)) fun _ => ?_
  split
  · exact .pure _
  · exact .throw _

theorem KeepsCanon.chunkRows {sh : AttnShape} {here : Bool} {fa limit : Nat} : KeepsCanon (chunkRows sh here fa limit) := by
  unfold Machine.chunkRows
  extract_lets _ _ jp
  have hjp : ∀ (x : List Byte × List Bool), KeepsCanon (jp x) := by
    intro x
    unfold jp
    split
    next x _ _ =>
      extract_lets jp1
      have hjp1 : ∀ (x : Unit), KeepsCanon (jp1 x) := by
        intro _
        unfold jp1
        split
        · exact .halt
        · exact .bind .stepsM fun _ => .pure _
      clear_value jp1
      exact ite_holds (.bind .halt (fun _ => hjp1 _)) (hjp1 _)
  clear_value jp
  exact ite_holds (.bind (.atStage .rdInPlace) (fun _ => hjp _)) (.bind (.atStage .rdRaw) (fun _ => hjp _))

theorem KeepsCanon.attnChunk {sh : AttnShape} {inplace : Bool} {fa limit : Nat} : KeepsCanon (attnChunk sh inplace fa limit) := by
  unfold Machine.attnChunk
  extract_lets
  refine .getDev_bind fun _ _ => ?_
  extract_lets
  exact .getDev_bind fun _ _ => .bind (.caught .chunkRows) fun _ => .getDev_bind fun _ _ => .pure _

theorem KeepsCanon.attnChunks {sh : AttnShape} {inplace : Bool} {l : List (Nat × Nat)} : KeepsCanon (attnChunks sh inplace l) := by
  induction l with
  | nil => exact .pure _
  | cons x _ ih =>
    unfold Machine.attnChunks
    extract_lets jp
    have hjp : ∀ (x : List Chunk), KeepsCanon (jp x) := fun _ => .bind ih fun _ => .pure _
    clear_value jp
    exact ite_holds (.bind (.pure _) (fun _ => hjp _)) (.bind (.bind .attnChunk (fun _ => .pure _)) (fun _ => hjp _))

theorem KeepsCanon.mergePart {dim : Nat} {ps : List AttnPart} : KeepsCanon (mergePart dim ps) :=
  .bind .arrivals fun _ => .bind .stepsM fun _ => .pure _

theorem KeepsCanon.partPartials {sh : AttnShape} {g : Nat} {q : List Val} {l : List (List Chunk)} : KeepsCanon (partPartials sh g q l) := by
  induction l with
  | nil => exact .pure _
  | cons _ _ ih => exact .bind .stepsM fun _ => .bind .mergePart fun _ => .bind ih fun _ => .pure _

theorem KeepsCanon.attnHeads {sh : AttnShape} {parts : List (List Chunk)} {peers : Nat → List AttnPart} {n : Nat} {l : List (List Val)} :
    KeepsCanon (attnHeads sh parts peers n l) := by
  induction l generalizing n with
  | nil => exact .pure _
  | cons _ _ ih => exact .bind .partPartials fun _ => .bind .stepsM fun _ => .bind ih fun _ => .pure _

theorem KeepsCanon.runSub {l pl : List Byte} : KeepsCanon (runSub l pl) := by
  unfold Machine.runSub
  extract_lets
  refine .getDev_bind fun _ _ => ?_
  extract_lets jp jp1
  have hjp : ∀ (x : Unit), KeepsCanon (jp x) := by
    intro _
    unfold jp
    split
    · exact .halt
    · refine .bind .attnChunks fun _ => ?_
      extract_lets
      split
      · exact ite_holds (.pure _) (.bind .attnHeads (fun _ => .pure _))
  have hjp1 : ∀ (x : Unit), KeepsCanon (jp1 x) := fun _ => ite_holds (.bind .halt (fun _ => hjp ())) (hjp ())
  clear_value jp jp1
  exact ite_holds (.bind .halt (fun _ => hjp1 _)) (hjp1 _)

end Sys2Proof.Machine
end

section
/-! SUPPORT. T0's memory stays canonical: accesses and requests served at home. -/

namespace Sys2Proof.Machine

open Sys2Proof

theorem Canon.hostPoison {d : Dev} {ld tag : Nat} (h : Canon d) : Canon (Dev.hostPoison d ld tag) := h.send
theorem Canon.hostAck {d : Dev} {ld tag : Nat} (h : Canon d) : Canon (Dev.hostAck d ld tag) := h.send

theorem Canon.hostGate {d : Dev} {ld off : Nat} {write : Bool} {req : MemReq} (h : Canon d) : InSnd Canon (Dev.hostGate d ld off write req) := by
  unfold Dev.hostGate
  extract_lets
  refine ite_holds h (ite_holds h ?_)
  split
  · exact h.revokeEvent
  · split
    next d1 heq =>
      have hd1 : Canon d1 := holds_of_eq (P := InSnd Canon) h.gateMap heq
      split
      · exact hd1
      · exact hd1
      · refine ite_holds hd1.extRefusal (ite_holds hd1 ?_)
        split
        next d2 heq1 =>
          have hd2 : Canon d2 := holds_of_eq (P := InSnd Canon) hd1.gateFrame heq1
          split
          · exact ite_holds hd2.eventSecond hd2
          · exact hd2
          · exact hd2

theorem Canon.hostReadAt {d : Dev} {ld off : Nat} {ask : Ask} {tag : Nat} (h : Canon d) : InSnd Canon (Dev.hostReadAt d ld off ask tag) := by
  unfold Dev.hostReadAt
  extract_lets
  split
  next d1 heq =>
    have hd1 : Canon d1 := holds_of_eq (P := InSnd Canon) h.hostGate heq
    exact hd1.noteFound
  next d1 heq =>
    have hd1 : Canon d1 := holds_of_eq (P := InSnd Canon) h.hostGate heq
    exact hd1.hostPoison
  next d1 heq =>
    have hd1 : Canon d1 := holds_of_eq (P := InSnd Canon) h.hostGate heq
    split
    · exact hd1.hostPoison
    · split
      next d2 heq1 =>
        have hd2 : Canon d2 := holds_of_eq (P := InSnd Canon) hd1.dirTry heq1
        split
        · exact hd2.noteFound
        · exact hd2.noteFound
        · exact hd2.chargeHost.send

theorem Canon.hostWriteAt {d : Dev} {ld off : Nat} {data : Line} {m : LineMask} {poison : Bool} {tag : Nat} (h : Canon d) :
    InSnd Canon (Dev.hostWriteAt d ld off data m poison tag) := by
  unfold Dev.hostWriteAt
  extract_lets
  split
  next d1 heq =>
    have hd1 : Canon d1 := holds_of_eq (P := InSnd Canon) h.hostGate heq
    exact hd1.noteFound
  next d1 heq =>
    have hd1 : Canon d1 := holds_of_eq (P := InSnd Canon) h.hostGate heq
    exact hd1.hostAck
  next d1 heq =>
    have hd1 : Canon d1 := holds_of_eq (P := InSnd Canon) h.hostGate heq
    split
    · exact hd1.hostAck
    · split
      next d2 heq1 =>
        have hd2 : Canon d2 := holds_of_eq (P := InSnd Canon) hd1.dirTry heq1
        split
        · exact hd2.noteFound
        · exact hd2.noteFound
        · split
          next d3 _ heq2 =>
            have hd3 : Canon d3 := holds_of_eq (P := InFst Canon) hd2.chargeHost.applyWrite heq2
            exact ite_holds hd3 hd3.hostAck

theorem Canon.takeWb {d : Dev} {ld off pl : Nat} {data : Line} {poison keepS : Bool} {tag : Nat} (h : Canon d) :
    InSnd Canon (Dev.takeWb d ld off pl data poison keepS tag) := by
  unfold Dev.takeWb
  split
  next d1 _ heq =>
    have hd1 : Canon d1 := holds_of_eq (P := InFst Canon) h.applyWrite heq
    extract_lets d2
    have hd2 : Canon d2 := by
      unfold d2
      split
      · exact hd1
      · exact ite_holds hd1 (ite_holds hd1.putEntry hd1.freeEntry)
    clear_value d2
    exact ite_holds hd2 hd2.hostAck

theorem Canon.hostWbAt {d : Dev} {ld off : Nat} {data : Line} {poison keepS : Bool} {tag : Nat} (h : Canon d) :
    InSnd Canon (Dev.hostWbAt d ld off data poison keepS tag) := by
  unfold Dev.hostWbAt
  extract_lets _ late
  have hlate : ∀ (d : Dev), Canon d → Canon (late d) := fun _ hd1 => hd1.stat.hostAck
  clear_value late
  refine ite_holds (hlate _ h) ?_
  split
  next d1 heq =>
    have hd1 : Canon d1 := holds_of_eq (P := InSnd Canon) (ite_holds h h.gateMap) heq
    split
    · exact hlate _ hd1
    · exact hd1
    · split
      · exact hlate _ hd1
      · extract_lets d2
        have hd2 : Canon d2 := hd1.cacheSet
        clear_value d2
        refine ite_holds (hlate _ hd2) (ite_holds hd2.takeWb ?_)
        split
        next d3 heq1 =>
          have hd3 : Canon d3 := holds_of_eq (P := InSnd Canon) hd2.hostGate heq1
          exact hd3
        next d3 heq1 =>
          have hd3 : Canon d3 := holds_of_eq (P := InSnd Canon) hd2.hostGate heq1
          exact hd3.hostAck
        next d3 heq1 =>
          have hd3 : Canon d3 := holds_of_eq (P := InSnd Canon) hd2.hostGate heq1
          split
          next d4 heq2 =>
            have hd4 : Canon d4 := holds_of_eq (P := InSnd Canon) hd3.dirGate heq2
            exact hd4
          next d4 _ heq2 =>
            have hd4 : Canon d4 := holds_of_eq (P := InSnd Canon) hd3.dirGate heq2
            exact hd4
          next d4 heq2 =>
            have hd4 : Canon d4 := holds_of_eq (P := InSnd Canon) hd3.dirGate heq2
            exact hd4.takeWb

theorem Canon.evictAt {d : Dev} {ld off : Nat} (h : Canon d) : InSnd Canon (Dev.evictAt d ld off) := by
  unfold Dev.evictAt
  extract_lets
  refine ite_holds h ?_
  split
  · exact h
  · split
    next d1 heq =>
      have hd1 : Canon d1 := holds_of_eq (P := InSnd Canon) h.cacheSet.dirGate heq
      exact hd1
    next d1 _ heq =>
      have hd1 : Canon d1 := holds_of_eq (P := InSnd Canon) h.cacheSet.dirGate heq
      exact hd1
    next d1 heq =>
      have hd1 : Canon d1 := holds_of_eq (P := InSnd Canon) h.cacheSet.dirGate heq
      split
      · exact hd1
      · exact ite_holds hd1.refuse (ite_holds hd1 (ite_holds hd1.freeEntry hd1))

theorem Canon.devAt {d : Dev} {off : Nat} {write : Bool} {data : Line} {m : LineMask} {p0 p1 : Bool} {tag : Nat} {req : MemReq} (h : Canon d) :
    InSnd Canon (Dev.devAt d off write data m p0 p1 tag req) := by
  unfold Dev.devAt
  split
  next d1 heq =>
    have hd1 : Canon d1 := holds_of_eq (P := InSnd Canon) h.gateMap heq
    split
    · exact hd1.send
    · exact hd1
    · split
      next d2 heq1 =>
        have hd2 : Canon d2 := holds_of_eq (P := InSnd Canon) hd1.gateFrame heq1
        split
        · exact hd2.send
        · exact hd2
        · split
          · exact ite_holds hd2.send hd2.send
          · split
            next d3 heq2 =>
              have hd3 : Canon d3 := holds_of_eq (P := InSnd Canon) hd2.dirTry heq2
              split
              · exact hd3
              · exact hd3
              · refine ite_holds ?_ ?_
                · split
                  next d4 _ heq3 =>
                    have hd4 : Canon d4 := holds_of_eq (P := InFst Canon) hd3.applyHalves heq3
                    exact ite_holds hd4 hd4.send
                · exact hd3.send

theorem Canon.armAt {d : Dev} {who : Armer} {off : Nat} (h : Canon d) : InSnd Canon (Dev.armAt d who off) := by
  unfold Dev.armAt
  split
  next d1 heq =>
    have hd1 : Canon d1 := holds_of_eq (P := InSnd Canon) h.gateMap heq
    split
    · exact hd1
    · exact hd1
    · split
      next d2 heq1 =>
        have hd2 : Canon d2 := holds_of_eq (P := InSnd Canon) hd1.gateFrame heq1
        split
        · exact hd2
        · exact hd2
        · split
          · exact hd2
          · split
            next d3 heq2 =>
              have hd3 : Canon d3 := holds_of_eq (P := InSnd Canon) hd2.arm heq2
              split
              · exact hd3.raise
              · split
                · exact hd3
                · exact ite_holds hd3 hd3
              · exact hd3.refuse
              · exact hd3

theorem KeepsCanon.serveMsg {m : FabMsg} : KeepsCanon (serveMsg m) := by
  unfold Machine.serveMsg
  extract_lets
  refine .getDev_bind fun _ _ => .bind .ensure fun _ => ite_holds (.bind .rdLine (fun _ => .pure _)) ?_
  refine ite_holds (.bind .wrRuns (fun _ => .pure _)) (ite_holds (.bind .ensure (fun _ => .bind .wr (fun _ => .pure _))) ?_)
  refine ite_holds ?_ ?_
  · refine .bind .ensure fun _ => .bind .atomRaw fun _ => ?_
    split
    · exact .pure _
  · refine ite_holds ?_ ?_
    · refine .bind .ensure fun _ => .bind .rdRaw fun _ => ?_
      split
      · exact .pure _
    · refine ite_holds (.pure _) (ite_holds ?_ ?_)
      · split
        · exact .halt
        · extract_lets
          exact .bind (.withReader (ite_holds .wr (.bind .rdLine (fun _ => ite_holds .wr .wr)))) fun _ => .pure _
      · exact .halt

theorem Canon.setFlowIn {d : Dev} {f : FlowIn} (h : Canon d) : Canon (Dev.setFlowIn d f) := ite_holds h h

theorem Canon.ackWrite {d : Dev} {m : FabMsg} {status : Nat} (h : Canon d) : Canon (Dev.ackWrite d m status) :=
  ite_holds h.setFlowIn.respond (ite_holds h.setFlowIn.respond h.setFlowIn)

theorem Canon.fabDone {d : Dev} {x : FabIn} {status : Nat} {ans : List FabAns} (h : Canon d) : Canon (Dev.fabDone d x status ans) := by
  unfold Dev.fabDone
  extract_lets _ d1 _ d2
  have hd1 : Canon d1 := h
  have hd2 : Canon d2 := foldl_holds (P := Canon) hd1 fun _ _ ha => ha.respond
  clear_value d1 d2
  refine ite_holds ?_ ?_
  · split
    · exact hd2.setFlowIn
    · exact hd2
  · exact ite_holds hd2.ackWrite hd2

theorem Canon.serveFab {d : Dev} {x : FabIn} (h : Canon d) : Canon (Dev.serveFab d x) := by
  unfold Dev.serveFab
  refine ite_holds (ite_holds h h.fabDone) ?_
  extract_lets
  split
  next s heq =>
    have hs : CanonRun s := holds_of_eq (P := InSnd CanonRun) (h.runM .serveMsg) heq
    exact hs
  next s heq =>
    have hs : CanonRun s := holds_of_eq (P := InSnd CanonRun) (h.runM .serveMsg) heq
    exact hs.fabDone
  next s heq =>
    have hs : CanonRun s := holds_of_eq (P := InSnd CanonRun) (h.runM .serveMsg) heq
    exact ite_holds (ite_holds hs.commit.setFlowIn hs.commit) hs.commit.fabDone

theorem Canon.serveFabs {d : Dev} (h : Canon d) : Canon (Dev.serveFabs d) := by
  unfold Dev.serveFabs
  refine foldl_holds (P := Canon) h ?_
  intro _ _ hx
  split
  · exact ite_holds hx hx.serveFab
  · exact hx

theorem Canon.subGone {d : Dev} {x : SubCtx} (h : Canon d) : Canon (Dev.subGone d x) := h

theorem Canon.subAnswer {d : Dev} {x : SubCtx} {st : Nat} {body : List Byte} (h : Canon d) : Canon (Dev.subAnswer d x st body) := by
  unfold Dev.subAnswer
  split
  next d1 heq =>
    have hd1 : Canon d1 := holds_of_eq (P := InSnd Canon) h.subGone.takeFree heq
    exact hd1.meter.meter.respond

theorem Canon.subFail {d : Dev} {x : SubCtx} {st : Nat} (h : Canon d) : Canon (Dev.subFail d x st) := h.subAnswer

theorem Canon.serveSub {d : Dev} {x : SubCtx} (h : Canon d) : Canon (Dev.serveSub d x) := by
  unfold Dev.serveSub
  extract_lets
  split
  next s heq =>
    have hs : CanonRun s := holds_of_eq (P := InSnd CanonRun) (h.runM .runSub) heq
    exact hs
  next s heq =>
    have hs : CanonRun s := holds_of_eq (P := InSnd CanonRun) (h.runM .runSub) heq
    exact hs.subFail
  next s heq =>
    have hs : CanonRun s := holds_of_eq (P := InSnd CanonRun) (h.runM .runSub) heq
    exact hs.subAnswer

theorem Canon.serveSubs {d : Dev} (h : Canon d) : Canon (Dev.serveSubs d) := foldl_holds (P := Canon) h fun _ _ hx => hx.serveSub

theorem Canon.counted {d : Dev} {ld : Nat} {f : Dev → PresAns × Dev} (h : Canon d) (h_f : ∀ y1, Canon y1 → InSnd Canon (f y1)) :
    InSnd Canon (Dev.counted d ld f) := by
  unfold Dev.counted
  split
  next e heq =>
    have he : Canon e := holds_of_eq (P := InSnd Canon) (h_f _ h) heq
    exact he.count.count.count

theorem Canon.present {d : Dev} {r : MemReq} (h : Canon d) : InSnd Canon (Dev.present d r) := by
  unfold Dev.present
  split
  · exact h.counted fun _ hy1 => hy1.hostReadAt
  · exact h.counted fun _ hy1 => hy1.hostWriteAt
  · exact h.counted fun _ hy1 => hy1.hostWbAt
  · exact h.devAt
  · exact h.devAt
  · exact h.armAt
  · exact h.notifyAt
  · exact h.counted fun _ hy1 => hy1.evictAt
  · exact h
  · exact h.serveFabs.serveSubs

theorem Canon.offer {d : Dev} {r : MemReq} (h : Canon d) : InSnd Canon (Dev.offer d r) := by
  unfold Dev.offer
  refine ite_holds h ?_
  split
  next d1 heq =>
    have hd1 : Canon d1 := holds_of_eq (P := InSnd Canon) h.present heq
    exact hd1
  next d1 heq =>
    have hd1 : Canon d1 := holds_of_eq (P := InSnd Canon) h.present heq
    split
    · exact hd1
    · exact hd1
    · exact hd1.unrefuse
  next d1 _ _ heq =>
    have hd1 : Canon d1 := holds_of_eq (P := InSnd Canon) h.present heq
    exact hd1

theorem Canon.freeOrder {d : Dev} {s : Src} (h : Canon d) : Canon (Dev.freeOrder d s) := foldl_holds (P := Canon) h fun _ _ hw => hw.offer

theorem Canon.submit {d : Dev} {r : MemReq} (h : Canon d) : Canon (Dev.submit d r) := by
  unfold Dev.submit
  split
  next d1 _ heq _ =>
    have hd1 : Canon d1 := holds_of_eq (P := InSnd Canon) h.offer heq
    exact ite_holds hd1.freeOrder hd1
  next d1 heq _ =>
    have hd1 : Canon d1 := holds_of_eq (P := InSnd Canon) h.offer heq
    exact hd1

theorem Canon.orderStep {d : Dev} (h : Canon d) : Canon (Dev.orderStep d) := by
  unfold Dev.orderStep
  split
  · exact Canon.submit (h.of_mem_eq rfl)
  · exact h

theorem Canon.countWait {d : Dev} {w : Waiting} (h : Canon d) : Canon (Dev.countWait d w) := by
  unfold Dev.countWait
  extract_lets ld
  clear_value ld
  split
  · split
    next d1 heq =>
      have hd1 : Canon d1 := holds_of_eq (P := InSnd Canon) h.takeFree heq
      exact hd1.count
  · split
    next d1 heq =>
      have hd1 : Canon d1 := holds_of_eq (P := InSnd Canon) h.takeFree heq
      exact hd1.count
  · exact h

theorem Canon.admitHeld {d : Dev} (h : Canon d) : Canon (Dev.admitHeld d) := by
  unfold Dev.admitHeld
  refine foldl_holds (P := Canon) h ?_
  intro _ _ hw
  split
  · exact ite_holds (Canon.submit (hw.of_mem_eq rfl)) hw
  · exact hw

theorem Canon.wake {d : Dev} {p : WaitOn → Bool} (h : Canon d) : Canon (Dev.wake d p) := by
  unfold Dev.wake
  extract_lets _ d1
  have hd1 : Canon d1 := h.of_mem_eq rfl
  clear_value d1
  exact Canon.admitHeld (Canon.serveSubs (Canon.serveFabs (foldl_holds (P := Canon) hd1 fun _ _ hw => Canon.submit (Canon.countWait hw))))

theorem Canon.hostSubmit {d : Dev} {r : MemReq} (h : Canon d) : Canon (Dev.hostSubmit d r) := by
  unfold Dev.hostSubmit
  split
  · exact ite_holds h.submit h
  · exact h.submit

theorem Canon.biFinish {d : Dev} {pl : Nat} {e : DirEntry} (h : Canon d) : Canon (Dev.biFinish d pl e) := by
  unfold Dev.biFinish
  split
  next d1 heq =>
    have hd1 : Canon d1 := holds_of_eq (P := InSnd Canon) h.biStep heq
    refine Canon.admitHeld (Canon.submit ?_)
    split
    · exact hd1
    · exact hd1
    · exact hd1.accepted
  next heq => exact holds_of_eq (P := InSnd Canon) h.biStep heq

theorem Canon.parityAck {d : Dev} {id role : Nat} (h : Canon d) : Canon (Dev.parityAck d id role) := by
  unfold Dev.parityAck
  split
  · exact h
  · extract_lets _ d1
    have hd1 : Canon d1 := h
    clear_value d1
    refine ite_holds h ?_
    split
    · exact hd1.hostAck
    · exact hd1.send
    · exact hd1.serveFabs
    · exact hd1

theorem Canon.parityUnanswered {d : Dev} {id role : Nat} (h : Canon d) : Canon (Dev.parityUnanswered d id role) := by
  unfold Dev.parityUnanswered
  split
  · exact ite_holds h h.parityAck
  · exact h

end Sys2Proof.Machine
end

section
/-! SUPPORT. T0's memory stays canonical: the shape of a command. -/

namespace Sys2Proof.Machine

open Sys2Proof

theorem CanonAt.onDev {s : State} {f : Dev → Dev} (h : CanonAt s) (h_f : ∀ y1, Canon y1 → Canon (f y1)) : CanonNext (State.onDev s f) := h_f _ h

theorem Canon.finish {d : Dev} {q seq st r0 r1 : Nat} (h : Canon d) : Canon (Dev.finish d q seq st r0 r1) :=
  Canon.modStarted (ite_holds h h.noteStatus)

theorem Canon.openResults {d : Dev} {op : Nat} (h : Canon d) : InSnd (InSnd Canon) (Dev.openResults d op) := by
  unfold Dev.openResults
  refine ite_holds h ?_
  split
  next d1 heq =>
    have hd1 : Canon d1 := holds_of_eq (P := InSnd Canon) h.takeFree heq
    split
    next d2 heq1 =>
      have hd2 : Canon d2 := holds_of_eq (P := InSnd Canon) hd1.takeFree heq1
      exact hd2

theorem Canon.finishOpen {d : Dev} {op q seq st : Nat} (h : Canon d) : Canon (Dev.finishOpen d op q seq st) := by
  unfold Dev.finishOpen
  split
  next d1 heq =>
    have hd1 : Canon d1 := holds_of_eq (P := InSnd (InSnd Canon)) h.openResults heq
    exact hd1.finish

theorem Canon.chargeRun {d : Dev} {c : Ctx} {acc : List Acc} (h : Canon d) : Canon (Dev.chargeRun d c acc) := by
  unfold Dev.chargeRun
  extract_lets d1
  have hd1 : Canon d1 := h.chargeAcc
  clear_value d1
  split
  next d2 heq =>
    have hd2 : Canon d2 := holds_of_eq (P := InSnd Canon) hd1.takeFree heq
    split
    next d3 heq1 =>
      have hd3 : Canon d3 := holds_of_eq (P := InSnd Canon) hd2.takeFree heq1
      exact hd3.countRun.countRun.meter

theorem Canon.runDesc {d : Dev} {op q seq : Nat} {m : Line → M (Nat × Nat × Nat)} (h : Canon d) (h_m : ∀ y1, KeepsCanon (m y1)) :
    Canon (Dev.runDesc d op q seq m) := by
  unfold Dev.runDesc
  split
  · exact h
  · split
    · exact h
    · refine ite_holds h ?_
      extract_lets
      split
      next s heq =>
        have hs : CanonRun s := holds_of_eq (P := InSnd CanonRun) (h.runM (h_m _)) heq
        exact hs.commit.chargeRun.finish
      next s heq =>
        have hs : CanonRun s := holds_of_eq (P := InSnd CanonRun) (h.runM (h_m _)) heq
        exact hs.commit.chargeRun.finishOpen
      next s heq =>
        have hs : CanonRun s := holds_of_eq (P := InSnd CanonRun) (h.runM (h_m _)) heq
        exact hs.setIssued.flushFaults

theorem CanonAt.desc {s : State} {op q seq : Nat} {m : Line → M (Nat × Nat × Nat)} (h : CanonAt s) (h_m : ∀ y1, KeepsCanon (m y1)) :
    CanonNext (State.desc s op q seq m) :=
  h.onDev fun _ hy1 => hy1.runDesc fun _ => h_m _

theorem KeepsCanon.openRun {st : Nat} : KeepsCanon (openRun st) := by
  unfold Machine.openRun
  refine .getDev_bind fun _ hd => ?_
  split
  next d1 heq =>
    have hd1 : Canon d1 := holds_of_eq (P := InSnd Canon) hd.takeFree heq
    split
    next d2 heq1 =>
      have hd2 : Canon d2 := holds_of_eq (P := InSnd Canon) hd1.takeFree heq1
      exact .bind (.modDev (fun _ _ => hd2)) fun _ => .pure _

theorem KeepsCanon.okRun : KeepsCanon (okRun) := .pure _

end Sys2Proof.Machine
end

section
/-! SUPPORT. T0's memory stays canonical: code words and location accounts. -/

namespace Sys2Proof.Machine

open Sys2Proof

theorem Canon.setScore {d : Dev} {loc : Nat} {x : LocScore} (h : Canon d) : Canon (Dev.setScore d loc x) := h
theorem Canon.charge {d : Dev} {loc ce ue : Nat} (h : Canon d) : Canon (Dev.charge d loc ce ue) := ite_holds h h.setScore

end Sys2Proof.Machine
end

section
/-! SUPPORT. T0's memory stays canonical: leaving STOP, and register paths. -/

namespace Sys2Proof.Machine

open Sys2Proof

theorem Canon.accountStop {d : Dev} {kind unit : Nat} (h : Canon d) : Canon (Dev.accountStop d kind unit) :=
  Canon.event (ite_holds ((Canon.setRf (ite_holds h.stat h.stat)).setRf) h)

theorem Canon.accountWake {d : Dev} {src idx : Nat} (h : Canon d) : Canon (Dev.accountWake d src idx) :=
  Canon.event (ite_holds h h.setRf.setRf.setRf)

theorem Canon.undoEntry {d : Dev} (h : Canon d) : Canon (Dev.undoEntry d) := foldl_holds (P := Canon) h fun _ _ hp => ite_holds hp.train hp
theorem Canon.abortEntry {d : Dev} {unit : Nat} (h : Canon d) : Canon (Dev.abortEntry d unit) := ite_holds h h.undoEntry.accountStop

theorem Canon.startWake {d : Dev} {src idx : Nat} (h : Canon d) : Canon (Dev.startWake d src idx) :=
  ite_holds h (Canon.accountWake (h.of_mem_eq rfl))

theorem Canon.hostArrives {d : Dev} (h : Canon d) : Canon (Dev.hostArrives d) := h.abortEntry.startWake
theorem Canon.setLatch {d : Dev} {p : Path} {l : Latch} (h : Canon d) : Canon (Dev.setLatch d p l) := h

theorem Canon.nauthCount {d : Dev} {p : Path} (h : Canon d) : Canon (Dev.nauthCount d p) := by
  unfold Dev.nauthCount
  split
  · exact ite_holds h h
  · exact h

theorem CanonAt.onPath {s : State} {p : Path} {own : Option Nat} {go pwr : Bool} {off : Nat} {c : Instr} {f : State → State} (h : CanonAt s) (h_f
    : ∀ y1, CanonAt y1 → CanonAt (f y1)) :
    CanonAt (State.onPath s p own go pwr off c f) := by
  unfold State.onPath
  split
  · exact h_f _ h.setLatch
  · extract_lets x1
    have hx1 : Canon x1 := by
      unfold x1
      split
      · exact h.hostArrives
      · exact h
    clear_value x1
    exact hx1
  · exact h.setLatch.nauthCount.send
  · exact h

theorem CanonAt.onPathDev {s : State} {p : Path} {own : Option Nat} {go pwr : Bool} {off : Nat} {c : Instr} {f : Dev → Dev} (h : CanonAt s) (h_f
    : ∀ y1, Canon y1 → Canon (f y1)) :
    CanonAt (State.onPathDev s p own go pwr off c f) :=
  h.onPath fun _ hy1 => h_f _ hy1

end Sys2Proof.Machine
end

section
/-! SUPPORT. T0's memory stays canonical: the host port, decoders and revocations. -/

namespace Sys2Proof.Machine

open Sys2Proof

theorem Canon.hostMiss {d : Dev} {ld hpa tag : Nat} (h : Canon d) : Canon (Dev.hostMiss d ld hpa tag) := h.send.event
theorem Canon.fresh {d : Dev} {r : MemReq} (h : Canon d) : Canon (Dev.fresh d r) := h

theorem Canon.hostReq {d : Dev} {ld hpa tag : Nat} {r : Nat → MemReq} (h : Canon d) : Canon (Dev.hostReq d ld hpa tag r) := by
  unfold Dev.hostReq
  refine ite_holds h ?_
  split
  · exact h.hostMiss
  · exact h.hostArrives.fresh.hostSubmit

theorem CanonAt.execHostRead {ld hpa : Nat} {ask : Ask} {tag : Nat} {s : State} (h : CanonAt s) : CanonNext (execHostRead ld hpa ask tag s) :=
  h.onDev fun _ hy1 => hy1.hostReq

theorem CanonAt.execHostWrite {ld hpa : Nat} {data : Line} {mask : LineMask} {poison : Bool} {tag : Nat} {s : State} (h : CanonAt s) :
    CanonNext (execHostWrite ld hpa data mask poison tag s) :=
  h.onDev fun _ hy1 => hy1.hostReq

theorem CanonAt.execHostWriteBack {ld hpa : Nat} {data : Line} {poison keepS : Bool} {tag : Nat} {s : State} (h : CanonAt s) :
    CanonNext (execHostWriteBack ld hpa data poison keepS tag s) :=
  h.onDev fun _ hy1 => hy1.hostReq

theorem CanonAt.execCleanEvictionNotice {ld hpa : Nat} {s : State} (h : CanonAt s) : CanonNext (execCleanEvictionNotice ld hpa s) :=
  h.onDev fun _ hy1 => hy1.hostReq

theorem Canon.crossNodes {d : Dev} {data : Line} {p0 p1 : Bool} {hops : List Hop} (h : Canon d) : InSnd Canon (Dev.crossNodes d data p0 p1 hops) :=
  foldl_holds (P := InSnd Canon) h fun _ _ hh1 => ite_holds hh1.charge hh1

theorem CanonAt.execDeviceAccess {eng : Engine} {off : Nat} {write : Bool} {data : Payload} {mask : LineMask} {poison : Bool} {tag : Nat} {s
    : State} (h : CanonAt s) :
    CanonNext (execDeviceAccess eng off write data mask poison tag s) := by
  unfold Machine.execDeviceAccess
  extract_lets
  refine CanonAt.onDev h fun _ hy1 => ?_
  split
  next d heq =>
    have hd : Canon d := holds_of_eq (P := InSnd Canon) hy1.crossNodes heq
    exact hd.submit

theorem Canon.biRsp {d : Dev} {ld off : Nat} {keepS : Bool} {wb : Option Line} {poison : Bool} (h : Canon d) :
    Canon (Dev.biRsp d ld off keepS wb poison) := by
  unfold Dev.biRsp
  extract_lets late d1
  have hlate : Canon late := Canon.stat h
  have hd1 : Canon d1 := by
    unfold d1
    split
    · exact Canon.applyWrite h
    · exact h
  clear_value late d1
  split
  · exact hlate
  · refine ite_holds (hlate.of_mem_eq rfl) ?_
    split
    · exact hlate
    · exact ite_holds hlate (Canon.biFinish hd1)

theorem CanonAt.execBirsp {ld hpa : Nat} {keepS : Bool} {wb : Option Line} {poison : Bool} {s : State} (h : CanonAt s) :
    CanonNext (execBirsp ld hpa keepS wb poison s) := by
  unfold Machine.execBirsp
  refine CanonAt.onDev h fun _ hy1 => ite_holds hy1 ?_
  split
  · exact hy1.stat
  · exact hy1.biRsp

theorem CanonAt.execBiconflict {ld hpa : Nat} {s : State} (h : CanonAt s) : CanonNext (execBiconflict ld hpa s) := by
  unfold Machine.execBiconflict
  refine CanonAt.onDev h fun _ hy1 => ite_holds hy1 ?_
  split
  · exact hy1.hostMiss
  · exact hy1.send

theorem CanonAt.execRequestRepresent {i : Nat} {s : State} (h : CanonAt s) : CanonNext (execRequestRepresent i s) := by
  unfold Machine.execRequestRepresent
  refine CanonAt.onDev h fun _ hy1 => ?_
  split
  · exact hy1
  · exact ite_holds hy1 hy1.submit.admitHeld

theorem CanonAt.execStarvationTicketGrant {line : Nat} {s : State} (h : CanonAt s) : CanonNext (execStarvationTicketGrant line s) := by
  unfold Machine.execStarvationTicketGrant
  refine CanonAt.onDev h fun _ hy1 => ?_
  split
  · exact hy1
  · exact ite_holds hy1 (Canon.admitHeld (Canon.submit (Canon.stat (hy1.of_mem_eq rfl))))

theorem Canon.silence {d : Dev} {ld : Nat} (h : Canon d) : Canon (Dev.silence d ld) := h

theorem CanonAt.execBisnpTimeout {ld off : Nat} {s : State} (h : CanonAt s) : CanonNext (execBisnpTimeout ld off s) := by
  unfold Machine.execBisnpTimeout
  refine CanonAt.onDev h fun _ hy1 => ?_
  split
  · exact hy1
  · split
    · exact hy1
    · refine ite_holds hy1 ?_
      extract_lets _ d d1 d2
      have hd : Canon d := Canon.poisonHome hy1
      have hd1 : Canon d1 := hd.of_mem_eq rfl
      have hd2 : Canon d2 := Canon.biFinish hd1
      clear_value d d1 d2
      exact Canon.event (Canon.stat (Canon.silence hd2))

theorem Canon.sweepLine {d : Dev} {pl : Nat} (h : Canon d) : Canon (Dev.sweepLine d pl) := by
  unfold Dev.sweepLine
  extract_lets
  split
  · exact h
  · split
    · exact h.settleLine
    · exact ite_holds h (Canon.biFinish (ite_holds h.poisonHome h))

theorem CanonAt.execSweepEnd {s : State} (h : CanonAt s) : CanonNext (execSweepEnd s) := by
  unfold Machine.execSweepEnd
  refine CanonAt.onDev h fun _ hy1 => ?_
  split
  · exact hy1
  · exact Canon.wake (foldl_holds (P := Canon) hy1 fun _ _ hx1 => hx1.sweepLine)

theorem CanonAt.execWatchSnoop {off : Nat} {s : State} (h : CanonAt s) : CanonNext (execWatchSnoop off s) := by
  unfold Machine.execWatchSnoop
  refine CanonAt.onDev h fun _ hy1 => ?_
  split
  · exact hy1
  · refine ite_holds hy1 ?_
    extract_lets d d1
    have hd : Canon d := hy1
    have hd1 : Canon d1 := hd.settleLine
    clear_value d d1
    split
    · exact hd1
    · refine ite_holds hd1 ?_
      split
      · exact hd1
      · exact hd1.startBi

theorem CanonAt.execHdmDecoderCommit {ld n base size ways : Nat} {biEnable : Bool} {s : State} (h : CanonAt s) :
    CanonNext (execHdmDecoderCommit ld n base size ways biEnable s) :=
  CanonAt.onDev h fun _ hy1 => ite_holds hy1 (ite_holds (Canon.send (hy1.of_mem_eq rfl)) (Canon.send hy1))

theorem Canon.freeRevs {d : Dev} {ld : Nat} (h : Canon d) : Canon (Dev.freeRevs d ld) := h
theorem Canon.uncommit {d : Dev} {ld n : Nat} (h : Canon d) : Canon (Dev.uncommit d ld n) := Canon.freeRevs (h.of_mem_eq rfl)

theorem CanonAt.execHdmDecoderUncommit {ld n : Nat} {s : State} (h : CanonAt s) : CanonNext (execHdmDecoderUncommit ld n s) :=
  h.onDev fun _ hy1 => ite_holds hy1 hy1.uncommit

theorem Canon.noteAsked {d : Dev} {extent pl : Nat} (h : Canon d) : Canon (Dev.noteAsked d extent pl) := h

theorem Canon.revokeLine {d : Dev} {r : Revocation} {pl : Nat} (h : Canon d) : Canon (Dev.revokeLine d r pl) := by
  unfold Dev.revokeLine
  extract_lets _ d1
  have hd1 : Canon d1 := h.settleLine
  clear_value d1
  split
  · exact hd1
  · exact ite_holds hd1 (ite_holds hd1.startBi.noteAsked hd1.startBi)

theorem Canon.revokeLines {d : Dev} {r : Revocation} (h : Canon d) : Canon (Dev.revokeLines d r) :=
  foldl_holds (P := Canon) h fun _ _ hpl => hpl.revokeLine

theorem Canon.revokeEnds {d : Dev} {r : Revocation} {st : Nat} (h : Canon d) : Canon (Dev.revokeEnds d r st) := by
  unfold Dev.revokeEnds
  extract_lets d1
  have hd1 : Canon d1 := foldl_holds (P := Canon) h fun _ _ hx => hx.freeRevs
  clear_value d1
  split
  · exact hd1.finish
  · exact hd1

theorem Canon.drainEnded {d : Dev} {extent : Nat} (h : Canon d) : Canon (Dev.drainEnded d extent) := h

theorem CanonAt.execRevokeDrainEnd {extent : Nat} {s : State} (h : CanonAt s) : CanonNext (execRevokeDrainEnd extent s) := by
  unfold Machine.execRevokeDrainEnd
  refine CanonAt.onDev h fun _ hy1 => ?_
  split
  · exact hy1
  · exact ite_holds hy1 (ite_holds hy1.revokeLines hy1.revokeLines.drainEnded.revokeEnds)

theorem CanonAt.execExtRevokeTmoExpiry {extent : Nat} {s : State} (h : CanonAt s) : CanonNext (execExtRevokeTmoExpiry extent s) := by
  unfold Machine.execExtRevokeTmoExpiry
  refine CanonAt.onDev h fun _ hy1 => ?_
  split
  · exact hy1
  · extract_lets d
    have hd : Canon d := by
      unfold d
      refine foldl_holds (P := Canon) hy1 ?_
      intro _ _ hpl
      split
      · exact hpl
      · extract_lets _ _ d2
        have hd2 : Canon d2 := hpl.poisonHome
        clear_value d2
        refine ite_holds hpl ?_
        split
        · exact ite_holds hd2.freeEntry hd2
        · exact hd2.biFinish
    clear_value d
    exact hd.drainEnded.revokeEnds

end Sys2Proof.Machine
end

section
/-! SUPPORT. T0's memory stays canonical: the queue front end. -/

namespace Sys2Proof.Machine

open Sys2Proof

theorem Canon.setQ {d : Dev} {q : Nat} {x : Queue} (h : Canon d) : Canon (Dev.setQ d q x) := h

theorem Canon.fetchSlots {q n : Nat} {d : Dev} (h : Canon d) : InSnd Canon (Dev.fetchSlots q n d) := by
  obtain ⟨run, hrun, hkeeps⟩ := unitTry_abstract
  delta Dev.fetchSlots Dev.fetchSlots._f
  rw [hrun]
  induction n generalizing d with
  | zero => exact h
  | succ n ih =>
    dsimp only
    split
    · exact h
    next x _ =>
      refine ite_holds h ?_
      generalize hr : run d _ = r
      have hd : InSnd Canon r := holds_of_eq (hkeeps h .rdRaw) hr
      split
      · exact hd
      · exact ih (Canon.setQ hd)
      · exact ih (Canon.setQ hd)

theorem Canon.takeDoorbell {d : Dev} {q : Nat} {x : Queue} {tail head : Nat} (h : Canon d) : InSnd Canon (Dev.takeDoorbell d q x tail head) := by
  unfold Dev.takeDoorbell
  extract_lets
  split
  · exact ite_holds h.queueErr h.setQ.fetchSlots
  · exact ite_holds h.setQ h

theorem Canon.readDoorbell {d : Dev} {q : Nat} (h : Canon d) : InSnd Canon (Dev.readDoorbell d q) := by
  obtain ⟨run, hrun, hkeeps⟩ := unitTry_abstract
  unfold Dev.readDoorbell
  rw [hrun]
  split
  · exact h
  · generalize hr : run d _ = r
    have hd1 : InSnd Canon r := holds_of_eq (hkeeps h .rdRaw) hr
    split
    · exact hd1
    · exact Canon.queueErr hd1
    · exact ite_holds (Canon.queueErr hd1) (Canon.takeDoorbell hd1)

theorem KeepsCanon.startNote {l : Line} : KeepsCanon (startNote l) := by
  unfold Machine.startNote
  refine .getDev_bind fun _ _ => ?_
  split
  · exact .pure _
  · refine .bind .rdRaw fun _ => ?_
    split
    · exact .pure _

theorem KeepsCanon.startChecks {d : Dev} {x : Queue} {l : Line} (h : Canon d) : KeepsCanon (startChecks d x l) := by
  unfold Machine.startChecks
  extract_lets
  refine ite_holds (.pure _) (.bind .pasidCtx fun _ => ?_)
  split
  · exact .pure _
  · exact ite_holds (.pure _) (.bind .startNote (fun _ => .pure _))

theorem Canon.pickBay {d : Dev} {fi : Nat} (h : Canon d) : InSnd Canon (Dev.pickBay d fi) := by
  unfold Dev.pickBay
  split
  next d1 heq =>
    have hd1 : Canon d1 := by
      refine holds_of_eq (P := InSnd Canon) ?_ heq
      refine ite_holds h ?_
      split
      next d2 heq1 =>
        have hd2 : Canon d2 := holds_of_eq (P := InSnd Canon) h.takeFree heq1
        exact hd2
    split <;> exact hd1

theorem Canon.startResults {d : Dev} {s : Staged} {st : Nat} (h : Canon d) : InSnd (InSnd Canon) (Dev.startResults d s st) :=
  ite_holds h h.openResults

theorem Canon.begin_ {d : Dev} {q : Nat} {x : Queue} {s : Staged} {comp st : Nat} {note : List Nat} (h : Canon d) :
    Canon (Dev.begin_ d q x s comp st note) := by
  unfold Dev.begin_
  split
  next d1 heq =>
    have hd1 : Canon d1 := holds_of_eq (P := InSnd (InSnd Canon)) (Canon.startResults h) heq
    split
    next d2 heq1 =>
      have hd2 : Canon d2 := holds_of_eq (P := InSnd Canon) (ite_holds (Canon.pickBay hd1) hd1) heq1
      exact Canon.setQ (hd2.of_mem_eq rfl)

theorem Canon.abortNext {d : Dev} {q : Nat} (h : Canon d) : Canon (Dev.abortNext d q) := by
  unfold Dev.abortNext
  split
  · exact h
  · split
    · refine ite_holds ?_ ?_
      · split
        next d1 heq =>
          have hd1 : Canon d1 := holds_of_eq (P := InSnd (InSnd Canon)) h.startResults heq
          exact hd1.setQ
      · exact h
    · exact h

theorem Canon.startNext {d : Dev} {q : Nat} (h : Canon d) : Canon (Dev.startNext d q) := by
  unfold Dev.startNext
  split
  · exact h
  · split
    · exact h
    · refine ite_holds h.abortNext (ite_holds h ?_)
      split
      · exact h
      · extract_lets d1
        have hd1 : Canon d1 := h
        clear_value d1
        refine ite_holds hd1.begin_ ?_
        split
        next heq => exact holds_of_eq (P := InSnd Canon) (hd1.unitTry (.startChecks hd1)) heq
        next d2 heq =>
          have hd2 : Canon d2 := holds_of_eq (P := InSnd Canon) (hd1.unitTry (.startChecks hd1)) heq
          exact hd2.begin_
        next d2 heq =>
          have hd2 : Canon d2 := holds_of_eq (P := InSnd Canon) (hd1.unitTry (.startChecks hd1)) heq
          exact hd2.begin_

theorem CanonAt.execDescriptorStart {q : Nat} {s : State} (h : CanonAt s) : CanonNext (execDescriptorStart q s) :=
  h.onDev fun _ hy1 => ite_holds hy1.startNext hy1

theorem KeepsCanon.postM {x : Queue} {bs : List Byte} : KeepsCanon (postM x bs) := by
  unfold Machine.postM
  refine .getDev_bind fun _ _ => ?_
  extract_lets
  exact .bind .readyLine fun _ => .getDev_bind fun _ _ => ite_holds .wr .wr

theorem Canon.sendPending {d : Dev} {q : Nat} {x : Queue} (h : Canon d) : Canon (Dev.sendPending d q x) := h.setQ.signal

theorem Canon.signalPosted {d : Dev} {q : Nat} {x : Queue} {quiet : Bool} (h : Canon d) : Canon (Dev.signalPosted d q x quiet) :=
  ite_holds h.setQ (ite_holds h.sendPending h.setQ)

theorem Canon.endDelete {d : Dev} {q : Nat} (h : Canon d) : Canon (Dev.endDelete d q) := by
  unfold Dev.endDelete
  split
  · exact h
  · split
    · exact h
    · refine ite_holds h ?_
      extract_lets d1 d2 _ d3
      have hd1 : Canon d1 := ite_holds h.sendPending h
      have hd2 : Canon d2 := hd1.disarm
      have hd3 : Canon d3 := hd2
      clear_value d1 d2 d3
      split
      · exact hd3.finish
      · exact hd3

theorem Canon.postFailed {d : Dev} {q : Nat} {x : Queue} {seq : Nat} (h : Canon d) : Canon (Dev.postFailed d q x seq) := by
  unfold Dev.postFailed
  split
  · exact h.queueErr
  · exact h.setQ.endDelete

theorem Canon.complete {d : Dev} {q n : Nat} (h : Canon d) : Canon (Dev.complete d q n) := by
  unfold Dev.complete
  split
  · exact h
  · split
    · exact h
    · refine ite_holds h ?_
      split
      next heq => exact holds_of_eq (P := InSnd Canon) (Canon.unitTry h .postM) heq
      next d1 heq =>
        have hd1 : Canon d1 := holds_of_eq (P := InSnd Canon) (Canon.unitTry h .postM) heq
        exact Canon.postFailed hd1
      next d1 heq =>
        have hd1 : Canon d1 := holds_of_eq (P := InSnd Canon) (Canon.unitTry h .postM) heq
        extract_lets d2 _ d3 d4
        have hd2 : Canon d2 := Canon.count (Canon.count hd1)
        have hd3 : Canon d3 := Canon.stat (Canon.stat hd2)
        have hd4 : Canon d4 := hd3.of_mem_eq rfl
        clear_value d2 d3 d4
        exact Canon.endDelete (Canon.abortNext (Canon.signalPosted hd4))

theorem CanonAt.execDescriptorComplete {q n : Nat} {s : State} (h : CanonAt s) : CanonNext (execDescriptorComplete q n s) :=
  h.onDev fun _ hy1 => hy1.complete

theorem CanonAt.execCoalNsExpiry {q : Nat} {s : State} (h : CanonAt s) : CanonNext (execCoalNsExpiry q s) := by
  unfold Machine.execCoalNsExpiry
  refine CanonAt.onDev h fun _ hy1 => ?_
  split
  · exact hy1
  · exact ite_holds hy1.sendPending hy1

theorem Canon.openQueue {d : Dev} {q : Nat} {x : Queue} (h : Canon d) : InSnd Canon (Dev.openQueue d q x) := by
  unfold Dev.openQueue
  refine ite_holds h ?_
  split
  next d1 heq =>
    have hd1 : Canon d1 := holds_of_eq (P := InSnd Canon) h.gateFrame heq
    exact hd1
  next d1 heq =>
    have hd1 : Canon d1 := holds_of_eq (P := InSnd Canon) h.gateFrame heq
    exact hd1
  next d1 heq =>
    have hd1 : Canon d1 := holds_of_eq (P := InSnd Canon) h.gateFrame heq
    split
    · exact hd1
    · split
      next d2 heq1 =>
        have hd2 : Canon d2 := holds_of_eq (P := InSnd Canon) hd1.arm heq1
        exact hd2
      next d2 heq1 =>
        have hd2 : Canon d2 := holds_of_eq (P := InSnd Canon) hd1.arm heq1
        split
        next d3 heq2 =>
          have hd3 : Canon d3 := holds_of_eq (P := InSnd Canon) hd2.setQ.readDoorbell heq2
          exact ite_holds hd3 hd3.raise
      next d2 _ _ heq1 =>
        have hd2 : Canon d2 := holds_of_eq (P := InSnd Canon) hd1.arm heq1
        exact hd2

theorem Canon.createQueue {d : Dev} {fi lq : Nat} (h : Canon d) : InSnd Canon (Dev.createQueue d fi lq) := by
  unfold Dev.createQueue
  extract_lets
  refine ite_holds h ?_
  split
  next d1 heq =>
    have hd1 : Canon d1 := holds_of_eq (P := InSnd Canon) (h.unitTry .rdRaw) heq
    exact hd1
  next d1 heq =>
    have hd1 : Canon d1 := holds_of_eq (P := InSnd Canon) (h.unitTry .rdRaw) heq
    exact hd1
  next d1 heq =>
    have hd1 : Canon d1 := holds_of_eq (P := InSnd Canon) (h.unitTry .rdRaw) heq
    exact ite_holds hd1 hd1.openQueue

theorem Canon.drain {d : Dev} {q : Nat} {abort : Bool} {admin : Option DescId} (h : Canon d) : Canon (Dev.drain d q abort admin) := by
  unfold Dev.drain
  split
  · exact h
  · exact Canon.endDelete (foldl_holds (P := Canon) h.setQ fun _ _ hx2 => hx2.abortNext)

theorem Canon.beginDelete {d : Dev} {q : Nat} {abort : Bool} {admin : Option DescId} (h : Canon d) :
    InSnd Canon (Dev.beginDelete d q abort admin) := by
  unfold Dev.beginDelete
  split
  · exact h
  · refine ite_holds h.drain ?_
    split
    next d1 heq =>
      have hd1 : Canon d1 := holds_of_eq (P := InSnd Canon) h.readDoorbell heq
      exact ite_holds hd1.drain hd1

theorem Canon.abortDrain {d : Dev} {q : Nat} (h : Canon d) : Canon (Dev.abortDrain d q) := by
  unfold Dev.abortDrain
  split
  · exact h
  · exact Canon.endDelete (foldl_holds (P := Canon) h.setQ fun _ _ hx2 => hx2.abortNext)

theorem Canon.deleteAll {d : Dev} {fi : Nat} (h : Canon d) : Canon (Dev.deleteAll d fi) := by
  unfold Dev.deleteAll
  refine foldl_holds (P := Canon) h ?_
  intro _ _ hp
  refine ite_holds hp.abortDrain ?_
  split
  next heq => exact holds_of_eq (P := InSnd Canon) hp.beginDelete heq
  next d2 heq =>
    have hd2 : Canon d2 := holds_of_eq (P := InSnd Canon) hp.beginDelete heq
    exact hd2.drain

end Sys2Proof.Machine
end

section
/-! SUPPORT. T0's memory stays canonical: admin commands and the registers of functions. -/

namespace Sys2Proof.Machine

open Sys2Proof

theorem KeepsCanon.runFn : KeepsCanon (runFn) := by
  unfold Machine.runFn
  refine .bind .read fun _ => .getDev_bind fun _ _ => ?_
  split <;> exact .pure _

theorem KeepsCanon.localQueue {l : Line} : KeepsCanon (localQueue l) := .getDev_bind fun _ _ => .bind .runFn fun _ => .bind .ensure fun _ => .pure _

theorem KeepsCanon.queueCreateM {l : Line} : KeepsCanon (queueCreateM l) := by
  unfold Machine.queueCreateM
  refine .bind .localQueue fun _ => .bind .runFn fun _ => .getDev_bind fun _ hd => ?_
  split
  next d1 heq =>
    have hd1 : Canon d1 := holds_of_eq (P := InSnd Canon) hd.createQueue heq
    refine .bind (.modDev (fun _ _ => hd1)) fun _ => ?_
    split
    · exact .need
    · exact .bind .ensure fun _ => .pure _

theorem CanonAt.execQueueCreate {q n : Nat} {s : State} (h : CanonAt s) : CanonNext (execQueueCreate q n s) := h.desc fun _ => .queueCreateM

theorem KeepsCanon.queueDeleteM {mode : Nat} {l : Line} : KeepsCanon (queueDeleteM mode l) := by
  unfold Machine.queueDeleteM
  refine .bind .localQueue fun _ => ?_
  extract_lets _ jp
  have hjp : ∀ (x : Unit), KeepsCanon (jp x) := by
    intro _
    unfold jp
    refine .bind .runFn fun _ => .bind .read fun _ => .getDev_bind fun _ _ => ?_
    split
    · exact .halt
    · split
      · exact ite_holds .need .halt
      · exact .bind (.modDev (fun _ hd1 => hd1.beginDelete)) fun _ => .need
  clear_value jp
  exact .bind .ensure fun _ => ite_holds (.bind .need (fun _ => hjp _)) (hjp _)

theorem CanonAt.execQueueDeleteDrain {q n : Nat} {s : State} (h : CanonAt s) : CanonNext (execQueueDeleteDrain q n s) :=
  h.desc fun _ => .queueDeleteM

theorem CanonAt.execQueueDeleteAbort {q n : Nat} {s : State} (h : CanonAt s) : CanonNext (execQueueDeleteAbort q n s) :=
  h.desc fun _ => .queueDeleteM

theorem CanonAt.execGetInfo {q n : Nat} {s : State} (h : CanonAt s) : CanonNext (execGetInfo q n s) :=
  h.desc fun _ => .getDev_bind fun _ _ => .bind .runFn fun _ => .bind .wrV fun _ => .okRun

theorem Canon.writeRange {d : Dev} {fi value : Nat} (h : Canon d) : Canon (Dev.writeRange d fi value) := ite_holds h (ite_holds h.setRf h.setReg)

theorem CanonAt.execQctRangeWrite {path : Path} {fn value : Nat} {s : State} (h : CanonAt s) : CanonNext (execQctRangeWrite path fn value s) :=
  h.onPathDev fun _ hy1 => hy1.writeRange

theorem Canon.openAdmin {d : Dev} {fi : Nat} (h : Canon d) : Canon (Dev.openAdmin d fi) := by
  unfold Dev.openAdmin
  refine ite_holds h.setRf ?_
  split
  next d1 heq =>
    have hd1 : Canon d1 := holds_of_eq (P := InSnd Canon) h.createQueue heq
    exact hd1.setRf
  next d1 heq =>
    have hd1 : Canon d1 := holds_of_eq (P := InSnd Canon) h.createQueue heq
    exact hd1.setRf
  next d1 _ heq =>
    have hd1 : Canon d1 := holds_of_eq (P := InSnd Canon) h.createQueue heq
    exact hd1.setRf.setRf.setRf.errPend

theorem Canon.writeEn {d : Dev} {fi : Nat} {en : Bool} (h : Canon d) : Canon (Dev.writeEn d fi en) :=
  ite_holds (ite_holds (ite_holds h.openAdmin h) (ite_holds h h.setRf.openAdmin)) (ite_holds h h.setRf.setRf.deleteAll)

theorem Canon.adminStep {d : Dev} (h : Canon d) : Canon (Dev.adminStep d) := foldl_holds (P := Canon) h fun _ _ hp => ite_holds hp.openAdmin hp

theorem CanonAt.execQctCtrlEn {path : Path} {fn : Nat} {en : Bool} {s : State} (h : CanonAt s) : CanonNext (execQctCtrlEn path fn en s) := by
  unfold Machine.execQctCtrlEn
  refine CanonAt.onPathDev h fun _ hy1 => ?_
  split
  · exact hy1.writeEn
  · exact ite_holds hy1 hy1.writeEn

theorem Canon.resetFns {d : Dev} {sel : Nat → Bool} (h : Canon d) : Canon (Dev.resetFns d sel) := h

theorem CanonAt.execFunctionLevelReset {fn : Nat} {s : State} (h : CanonAt s) : CanonNext (execFunctionLevelReset fn s) :=
  h.onDev fun _ hy1 => ite_holds hy1.deleteAll.resetFns hy1

theorem Canon.unmask {d : Dev} {fn v : Nat} (h : Canon d) : Canon (Dev.unmask d fn v) := by
  unfold Dev.unmask
  extract_lets _ _ d1
  have hd1 : Canon d1 := h.of_mem_eq rfl
  clear_value d1
  exact ite_holds (Canon.send (hd1.of_mem_eq rfl)) hd1

theorem CanonAt.execMsixVectorUnmask {fn vector : Nat} {s : State} (h : CanonAt s) : CanonNext (execMsixVectorUnmask fn vector s) :=
  h.onPathDev fun _ hy1 => ite_holds hy1.unmask hy1

end Sys2Proof.Machine
end

section
/-! SUPPORT. T0's memory stays canonical: plain descriptors, invalidations, faults and migrations. -/

namespace Sys2Proof.Machine

open Sys2Proof

theorem CanonAt.execNop {q n : Nat} {s : State} (h : CanonAt s) : CanonNext (execNop q n s) := h.desc fun _ => .okRun
theorem KeepsCanon.scopeM {b : Nat} : KeepsCanon (scopeM b) := .bind .ensure fun _ => .pure _

theorem KeepsCanon.fenceM {l : Line} : KeepsCanon (fenceM l) := by
  unfold Machine.fenceM
  refine .bind .scopeM fun _ => .bind .read fun _ => .getDev_bind fun _ _ => ?_
  split
  · exact ite_holds (.bind .need (fun _ => .okRun)) .okRun
  · exact .okRun

theorem CanonAt.execFence {q n : Nat} {s : State} (h : CanonAt s) : CanonNext (execFence q n s) := h.desc fun _ => .fenceM

theorem KeepsCanon.writeAckM {l : Line} : KeepsCanon (writeAckM l) := by
  unfold Machine.writeAckM
  extract_lets _ _ _ jp
  have hjp : ∀ (x : Unit), KeepsCanon (jp x) := fun _ => .okRun
  clear_value jp
  refine .bind .ensure fun _ => .bind .scopeM fun _ => .bind .xlate fun _ => .getDev_bind fun _ _ => ?_
  refine ite_holds (.bind .wr (fun _ => hjp _)) (.bind .read fun _ => ?_)
  split
  · exact .bind .halt fun _ => hjp _
  · split
    · exact .bind .noteAcc fun _ => .bind (.modDev (fun _ hd1 => hd1.writeOut)) fun _ => hjp _

theorem CanonAt.execWriteAck {q n : Nat} {s : State} (h : CanonAt s) : CanonNext (execWriteAck q n s) := h.desc fun _ => .writeAckM

theorem KeepsCanon.wrMixed {fa : Nat} {l : List (Bool × List Byte)} : KeepsCanon (wrMixed fa l) := by
  induction l generalizing fa with
  | nil => exact .pure _
  | cons _ _ ih => exact .bind .wr fun _ => ih

theorem KeepsCanon.wrPiecesMixed {l : List (Nat × Nat)} {l1 : List (Byte × Bool)} : KeepsCanon (wrPiecesMixed l l1) := by
  induction l generalizing l1 with
  | nil => exact .pure _
  | cons _ _ ih => exact .bind .wrMixed fun _ => ih

theorem KeepsCanon.movedByBays {len : Nat} : KeepsCanon (movedByBays len) := .getDev_bind fun _ _ => .ensure

theorem KeepsCanon.copyM {l : Line} : KeepsCanon (copyM l) := by
  unfold Machine.copyM
  extract_lets
  refine .bind .ensure fun _ => .bind .ensure fun _ => .bind .ensure fun _ => .bind .movedByBays fun _ => ?_
  refine .bind (.atStage .rdRawV) fun _ => ?_
  split
  · exact .bind .xlateAll fun _ => .bind (.atStage .wrPiecesMixed) fun _ => .openRun

theorem CanonAt.execCopy {q n : Nat} {s : State} (h : CanonAt s) : CanonNext (execCopy q n s) := h.desc fun _ => .copyM

theorem KeepsCanon.fillM {l : Line} : KeepsCanon (fillM l) := by
  unfold Machine.fillM
  extract_lets
  exact .bind .ensure fun _ => .bind .ensure fun _ => .bind .ensure fun _ => .bind .movedByBays fun _ => .bind (.atStage .wrV) fun _ => .openRun

theorem CanonAt.execFill {q n : Nat} {s : State} (h : CanonAt s) : CanonNext (execFill q n s) := h.desc fun _ => .fillM

theorem KeepsCanon.otherFns {pasid : Nat} : KeepsCanon (otherFns pasid) := by
  unfold Machine.otherFns
  refine .bind .runFn fun _ => .getDev_bind fun _ _ => ite_holds (.pure _) (.bind .pasidCtx fun _ => ?_)
  split <;> exact .pure _

theorem Canon.withdraw {d : Dev} {i : Invalidation} (h : Canon d) : Canon (Dev.withdraw d i) := h

theorem KeepsCanon.invalidateM {l : Line} : KeepsCanon (invalidateM l) := by
  unfold Machine.invalidateM
  refine .bind .read fun _ => .getDev_bind fun _ _ => ?_
  extract_lets _ jp
  have hjp : ∀ (x : Unit), KeepsCanon (jp x) := by
    intro x
    unfold jp
    refine .bind .rdV fun _ => ?_
    extract_lets _ _ _ jp1 jp2
    have hjp1 : ∀ (x : Unit), KeepsCanon (jp1 x) := by
      intro _
      unfold jp1
      refine .getDev_bind fun _ _ => ?_
      extract_lets _ jp2
      have hjp2 : ∀ (x : Unit), KeepsCanon (jp2 x) := fun _ => .bind (.modDev (fun _ hd2 => hd2.withdraw)) fun _ => .need
      clear_value jp2
      exact ite_holds (.bind .need (fun _ => hjp2 _)) (hjp2 _)
    have hjp2 : ∀ (x : Unit), KeepsCanon (jp2 x) := fun _ => ite_holds (.bind .otherFns (fun _ => ite_holds (.bind .halt (fun _ => hjp1 ())) (hjp1
        ()))) (hjp1 ())
    clear_value jp1 jp2
    exact .bind .ensure fun _ => .bind .runFn fun _ => ite_holds (.bind .halt (fun _ => hjp2 _)) (hjp2 _)
  clear_value jp
  exact ite_holds (.bind .need (fun _ => hjp _)) (hjp _)

theorem CanonAt.execInvalidateRange {q n : Nat} {s : State} (h : CanonAt s) : CanonNext (execInvalidateRange q n s) := h.desc fun _ => .invalidateM

theorem CanonAt.execInvalidationAck {q n : Nat} {s : State} (h : CanonAt s) : CanonNext (execInvalidationAck q n s) := by
  unfold Machine.execInvalidationAck
  refine CanonAt.onDev h fun _ hy1 => ?_
  split
  · exact hy1
  · exact ite_holds hy1 (Canon.finish (hy1.of_mem_eq rfl))

theorem Canon.resumeWaiters {d : Dev} {ws : List DescId} {page kind : Nat} (h : Canon d) : Canon (Dev.resumeWaiters d ws page kind) :=
  foldl_holds (P := Canon) h fun _ _ hi => hi.modStarted.modTable

theorem Canon.tableEnds {d : Dev} {i : DescId} (h : Canon d) : Canon (Dev.tableEnds d i) := by
  unfold Dev.tableEnds
  split
  · exact h
  · exact ite_holds h (Canon.finish (foldl_holds (P := Canon) h.disarm fun _ _ hst => hst.noteStatus))

theorem Canon.failEntries {d : Dev} {i : DescId} {page kind : Nat} (h : Canon d) : Canon (Dev.failEntries d i page kind) := h.modTable.tableEnds

theorem Canon.failWaiters {d : Dev} {f : FaultEntry} (h : Canon d) : Canon (Dev.failWaiters d f) := by
  unfold Dev.failWaiters
  refine foldl_holds (P := Canon) h ?_
  intro _ _ hi
  split
  · exact ite_holds hi.finishOpen hi.failEntries
  · exact hi

theorem Canon.dropFault {d : Dev} {id : Nat} (h : Canon d) : Canon (Dev.dropFault d id) := h

theorem KeepsCanon.faultResumeM {action : Nat} {l : Line} : KeepsCanon (faultResumeM action l) := by
  unfold Machine.faultResumeM
  extract_lets _ _ jp jp1
  have hjp : ∀ (x : Unit), KeepsCanon (jp x) := by
    intro _
    unfold jp
    refine .getDev_bind fun _ _ => ?_
    split
    · exact .halt
    · exact .bind (.modDev (fun _ hd1 => ite_holds hd1.dropFault.resumeWaiters hd1.dropFault.failWaiters)) fun _ => .okRun
  have hjp1 : ∀ (x : Unit), KeepsCanon (jp1 x) := fun _ => .bind .otherFns fun _ => ite_holds (.bind .halt (fun _ => hjp ())) (hjp ())
  clear_value jp jp1
  exact .bind .ensure fun _ => ite_holds (.bind .need (fun _ => hjp1 _)) (hjp1 _)

theorem CanonAt.execFaultResumeRetry {q n : Nat} {s : State} (h : CanonAt s) : CanonNext (execFaultResumeRetry q n s) :=
  h.desc fun _ => .faultResumeM

theorem CanonAt.execFaultResumeFail {q n : Nat} {s : State} (h : CanonAt s) : CanonNext (execFaultResumeFail q n s) := h.desc fun _ => .faultResumeM

theorem CanonAt.execFaultSignalExpiry {pasid : Nat} {s : State} (h : CanonAt s) : CanonNext (execFaultSignalExpiry pasid s) := by
  unfold Machine.execFaultSignalExpiry
  refine CanonAt.onDev h fun _ hy1 => ?_
  split
  · exact hy1
  · refine ite_holds hy1 (ite_holds (hy1.of_mem_eq rfl) ?_)
    split
    next d heq =>
      have hd : Canon d := holds_of_eq (P := InSnd Canon) (Canon.unitRun hy1 .pasidCtx) heq
      exact Canon.signalFaults (hd.of_mem_eq rfl)
    next heq => exact holds_of_eq (P := InSnd Canon) (Canon.unitRun hy1 .pasidCtx) heq

theorem CanonAt.execFaultHeadPoll {pasid : Nat} {s : State} (h : CanonAt s) : CanonNext (execFaultHeadPoll pasid s) :=
  h.onDev fun _ hy1 => ite_holds hy1.flushFaults hy1

theorem CanonAt.execFaultTmoExpiry {id : Nat} {s : State} (h : CanonAt s) : CanonNext (execFaultTmoExpiry id s) := by
  unfold Machine.execFaultTmoExpiry
  refine CanonAt.onDev h fun _ hy1 => ?_
  split
  · exact hy1
  · exact ite_holds hy1 hy1.dropFault.failWaiters.event.flushFaults

theorem KeepsCanon.migrateCommit {m : Migration} {data : List Byte} {cx : PasidCtx} : KeepsCanon (migrateCommit m data cx) :=
  .getDev_bind fun _ _ => .bind .wr fun _ => .bind .rd fun _ => ite_holds (.bind .wr (fun _ => .pure _)) (.bind .giveRing (fun _ => .pure _))

theorem Canon.endMigration {d : Dev} {m : Migration} (h : Canon d) : Canon (Dev.endMigration d m) := h
theorem Canon.migrationOver {d : Dev} {m : Migration} (h : Canon d) : Canon (Dev.migrationOver d m) := h.endMigration.resumeWaiters

theorem Canon.migrateFails {d : Dev} {m : Migration} {cx : PasidCtx} (h : Canon d) : Canon (Dev.migrateFails d m cx) := by
  obtain ⟨run, hrun, hkeeps⟩ := unitRun_abstract
  obtain ⟨f, hf⟩ : ∃ f, f = Dev.migrateFails := ⟨_, rfl⟩
  rw [← hf]
  delta Dev.migrateFails at hf
  rw [hrun] at hf
  subst hf
  dsimp only
  have hd1 : InSnd Canon (run d (giveRing cx.mpool cx.mpoolLog m.frame)) := hkeeps h .giveRing
  generalize run d _ = r at hd1 ⊢
  split
  · exact hd1
  · exact ite_holds (Canon.migrationOver hd1) (Canon.flushFaults
      (foldl_holds (P := Canon) (Canon.endMigration hd1) fun _ _ hi => Canon.modStarted (Canon.addFault hi)))

theorem Canon.migrated {d : Dev} {m : Migration} {ok : Bool} {data : List Byte} {cx : PasidCtx} (h : Canon d) :
    Canon (Dev.migrated d m ok data cx) := by
  unfold Dev.migrated
  extract_lets
  refine ite_holds h.migrateFails ?_
  split
  next heq => exact holds_of_eq (P := InSnd Canon) (h.unitTry .migrateCommit) heq
  next d1 heq =>
    have hd1 : Canon d1 := holds_of_eq (P := InSnd Canon) (h.unitTry .migrateCommit) heq
    exact hd1.migrateFails
  next d1 heq =>
    have hd1 : Canon d1 := holds_of_eq (P := InSnd Canon) (h.unitTry .migrateCommit) heq
    exact hd1.migrationOver.addFault.flushFaults
  next d1 heq =>
    have hd1 : Canon d1 := holds_of_eq (P := InSnd Canon) (h.unitTry .migrateCommit) heq
    exact hd1.migrationOver

theorem CanonAt.execMigrationDmaDone {pasid page : Nat} {ok : Bool} {data : List Byte} {s : State} (h : CanonAt s) :
    CanonNext (execMigrationDmaDone pasid page ok data s) := by
  unfold Machine.execMigrationDmaDone
  refine CanonAt.onDev h fun _ hy1 => ?_
  split
  · exact hy1
  · split
    next d heq =>
      have hd : Canon d := holds_of_eq (P := InSnd Canon) (hy1.unitRun .pasidCtx) heq
      exact hd.migrated
    next heq => exact holds_of_eq (P := InSnd Canon) (hy1.unitRun .pasidCtx) heq

end Sys2Proof.Machine
end

section
/-! SUPPORT. T0's memory stays canonical: promotions, demotions and relocations. -/

namespace Sys2Proof.Machine

open Sys2Proof

theorem Canon.answerHost {d : Dev} {ld off st : Nat} (h : Canon d) : Canon (Dev.answerHost d ld off st) := ite_holds h.eventSecond h

theorem Canon.answerWith {d : Dev} {st : Nat} {r : MemReq} (h : Canon d) : Canon (Dev.answerWith d st r) := by
  unfold Dev.answerWith
  split
  · exact h.answerHost.hostPoison
  · exact h.answerHost.hostAck
  · exact h.answerHost.hostAck
  · exact h.send
  · exact h.send
  · exact h
  · exact h
  next r _ _ _ _ =>
    exact h.queueErr
  · split
    · exact ite_holds h.finishOpen h
    · exact h
  · split
    · exact h.fabDone
    · split
      · exact h.subFail
      · exact h

theorem Canon.answerFailed {d : Dev} {r : MemReq} (h : Canon d) : Canon (Dev.answerFailed d r) := h.answerWith

theorem Canon.promoEndsWith {d : Dev} {f st : Nat} (h : Canon d) : Canon (Dev.promoEndsWith d f st) :=
  Canon.wake (foldl_holds (P := Canon) h.failPromotion fun _ _ hr => hr.answerWith)

theorem Canon.promoFailed {d : Dev} {f : Nat} (h : Canon d) : Canon (Dev.promoFailed d f) := h.promoEndsWith

theorem Canon.giveRoom {n : Nat} {d : Dev} (h : Canon d) : Canon (Dev.giveRoom n d) := by
  induction n generalizing d with
  | zero => exact h
  | succ _ ih =>
    unfold Dev.giveRoom
    split
    · exact h
    · split
      · extract_lets _ e
        have he : Canon e := h
        clear_value e
        refine ih ?_
        split
        next heq => exact holds_of_eq (P := InSome Canon) he.fetchSource heq
        · exact he.promoFailed
      · exact ite_holds (ih h.promoEndsWith) h

theorem Canon.land {d : Dev} {f sub : Nat} {m : Move} {content : List Host.Cell × NSet} (h : Canon d) : Canon (Dev.land d f sub m content) :=
  Canon.of_mem_eq (Canon.fillSub h : Canon (d.fillSub f sub content.1 content.2)) rfl

theorem Canon.subLands {d : Dev} {f sub : Nat} {data : List Byte} (h : Canon d) : Canon (Dev.subLands d f sub data) := by
  unfold Dev.subLands
  split
  · refine ite_holds h ?_
    extract_lets content
    clear_value content
    split
    · exact h.promoFailed
    · exact h.land.wake
  · exact h

theorem CanonAt.execPromotionSubblockLand {frame sub : Nat} {data : List Byte} {s : State} (h : CanonAt s) :
    CanonNext (execPromotionSubblockLand frame sub data s) :=
  h.onDev fun _ hy1 => hy1.subLands

theorem Canon.landRest {d : Dev} {f : Nat} {m : Move} {c : List Host.Cell × NSet} (h : Canon d) : Canon (Dev.landRest d f m c) :=
  foldl_holds (P := Canon) h fun _ _ hj => ite_holds hj hj.fillSub

theorem Canon.freeSource {d : Dev} {e : TEntry} {m : Move} (h : Canon d) : Canon (Dev.freeSource d e m) :=
  ite_holds (Canon.freeGrant (h.of_mem_eq rfl)) (ite_holds (Canon.ringGive (h.of_mem_eq rfl)) h)

theorem Canon.tryWanted {d : Dev} (h : Canon d) : Canon (Dev.tryWanted d) := by
  unfold Dev.tryWanted
  refine ite_holds h (foldl_holds (P := Canon) h ?_)
  intro _ _ hf
  split
  · exact hf
  · refine ite_holds hf ?_
    split
    next heq => exact holds_of_eq (P := InSnd Canon) hf.beginPromo heq
    next heq => exact holds_of_eq (P := InSnd Canon) hf.beginPromo heq

theorem Canon.promoEnds {d : Dev} {f : Nat} (h : Canon d) : Canon (Dev.promoEnds d f) := by
  unfold Dev.promoEnds
  split
  · refine ite_holds h ?_
    split
    · exact Canon.promoFailed h
    · extract_lets d1 d2 _ d3 d4
      have hd1 : Canon d1 := ite_holds h (Canon.landRest h)
      have hd2 : Canon d2 := Canon.kilnEvent hd1
      have hd3 : Canon d3 := Canon.freeSource (Canon.setEntry hd2)
      have hd4 : Canon d4 := hd3.of_mem_eq rfl
      clear_value d1 d2 d3 d4
      exact Canon.tryWanted (Canon.wake (Canon.giveOwed hd4))
  · exact h

theorem CanonAt.execPromotionComplete {frame : Nat} {s : State} (h : CanonAt s) : CanonNext (execPromotionComplete frame s) :=
  h.onDev fun _ hy1 => hy1.promoEnds

theorem Canon.openDurable {d : Dev} {f : Nat} (h : Canon d) : Canon (Dev.openDurable d f) := by
  unfold Dev.openDurable
  split
  next e _ _ =>
    split
    · exact h
    next j _ =>
      exact Canon.wake ((Canon.of_mem_eq (Canon.appendRec h : Canon (d.appendRec j (frameRec 4 f (d.precOf e) e))) rfl))
  · exact h

theorem CanonAt.execOpenRecordDurable {frame : Nat} {s : State} (h : CanonAt s) : CanonNext (execOpenRecordDurable frame s) :=
  h.onDev fun _ hy1 => hy1.openDurable

theorem Canon.openEvents {d : Dev} (h : Canon d) : Canon (Dev.openEvents d) := by
  unfold Dev.openEvents
  split
  · exact h.eventSecond
  · exact h

theorem Canon.clearLines {d : Dev} {f loc : Nat} (h : Canon d) : Canon (Dev.clearLines d f loc) := by
  unfold Dev.clearLines
  refine foldl_holds (P := Canon) h ?_
  intro _ _ hpl
  extract_lets _ d2
  have hd2 : Canon d2 := hpl.settleLine
  clear_value d2
  split
  · exact hd2
  · exact ite_holds hd2 hd2.callBack

theorem Canon.endEmptyBi {d : Dev} {loc : Nat} (h : Canon d) : Canon (Dev.endEmptyBi d loc) := by
  unfold Dev.endEmptyBi
  refine foldl_holds (P := Canon) h ?_
  intro _ _ hpl
  split
  · exact hpl
  · split
    · exact ite_holds hpl.biFinish hpl
    · exact hpl

theorem Canon.callLines {d : Dev} {f : Nat} {e : TEntry} (h : Canon d) : Canon (Dev.callLines d f e) := ite_holds h h.clearLines.endEmptyBi

theorem Canon.beginDemotion {d : Dev} {f : Nat} {e : TEntry} (h : Canon d) : Canon (Dev.beginDemotion d f e) := by
  unfold Dev.beginDemotion
  extract_lets r
  refine ite_holds h ?_
  split
  · exact h
  · extract_lets start
    have hstart : ∀ (d : Dev), Canon d → ∀ (k : Nat) (rem : Remote), Canon (start d k rem) := by
      intro _ hd1 _ _
      unfold start
      extract_lets _ x1 d2
      have hx1 : Canon x1 := hd1.modEntry
      have hd2 : Canon d2 := hx1.of_mem_eq rfl
      clear_value x1 d2
      exact hd2.callLines
    clear_value start
    refine ite_holds (hstart _ h _ _) (ite_holds ?_ ?_)
    · split
      · exact h
      · split
        · exact h
        · refine hstart _ ?_ _ _
          exact h.of_mem_eq rfl
    · split
      next d1 heq => exact hstart _ (holds_of_eq (P := InSnd Canon) (h.unitRun .takeRing) heq) _ _
      next d1 _ heq => exact holds_of_eq (P := InSnd Canon) (h.unitRun .takeRing) heq

theorem Canon.evict {n : Nat} {d : Dev} (h : Canon d) : Canon (Dev.evict n d) := by
  induction n generalizing d with
  | zero => exact h
  | succ _ ih =>
    unfold Dev.evict
    refine ite_holds h ?_
    split
    · exact h
    · split
      · exact h
      · exact ih h.beginDemotion

theorem Canon.tryDemotes {d : Dev} (h : Canon d) : Canon (Dev.tryDemotes d) := by
  unfold Dev.tryDemotes
  refine ite_holds h (foldl_holds (P := Canon) h ?_)
  intro _ _ hf
  split
  · exact hf
  · exact ite_holds hf.beginDemotion hf

theorem Canon.startDemotions {d : Dev} (h : Canon d) : Canon (Dev.startDemotions d) :=
  ite_holds h (ite_holds (Canon.evict (Canon.tryDemotes (h.of_mem_eq rfl))) (Canon.tryDemotes (h.of_mem_eq rfl)))

theorem CanonAt.execDemotionStart {s : State} (h : CanonAt s) : CanonNext (execDemotionStart s) := h.onDev fun _ hy1 => hy1.startDemotions

theorem Canon.copyOut {d : Dev} {f addr : Nat} {data : List Host.Cell} {pois : NSet} {owner : ReqFor} (h : Canon d) :
    Canon (Dev.copyOut d f addr data pois owner) := by
  unfold Dev.copyOut
  extract_lets
  refine foldl_holds (P := Canon) h ?_
  intro _ _ hx
  split
  · exact ite_holds hx.writeOut (foldl_holds (P := Canon) hx fun _ _ hc => hc.writeOut)

theorem Canon.sendFrame {d : Dev} {f addr : Nat} (h : Canon d) : Canon (Dev.sendFrame d f addr) := h.copyOut

theorem Canon.demoted {d : Dev} {f : Nat} {e : TEntry} (h : Canon d) : Canon (Dev.demoted d f e) := by
  unfold Dev.demoted
  extract_lets x d1 d2 d3 d4
  have hx : Canon x := h.clearFrame.setEntry
  have hd1 : Canon d1 := hx
  have hd2 : Canon d2 := ite_holds hd1 hd1
  have hd3 : Canon d3 := hd2.giveRoom.wake
  have hd4 : Canon d4 := hd3.tryWanted.tryDemotes
  clear_value x d1 d2 d3 d4
  exact ite_holds hd4 hd4

theorem Canon.remoteCommit {d : Dev} {f : Nat} {e : TEntry} {m : Move} (h : Canon d) : Canon (Dev.remoteCommit d f e m) :=
  Canon.demoted (Canon.appendRec (h.of_mem_eq rfl))

theorem Canon.commitDemotion {d : Dev} {f : Nat} (h : Canon d) : Canon (Dev.commitDemotion d f) := by
  unfold Dev.commitDemotion
  split
  · refine ite_holds h ?_
    extract_lets
    refine ite_holds (Canon.abandonDemotion h) (ite_holds (Canon.callLines h) ?_)
    refine ite_holds h (ite_holds ?_ ?_)
    · split
      · exact Canon.demoted (Canon.appendRec h)
    · refine ite_holds ?_ ?_
      · refine ite_holds ?_ ?_
        · split
          · exact Canon.abandonDemotion h
          · exact Canon.sendFrame (h.of_mem_eq rfl)
        · exact ite_holds h (Canon.remoteCommit h)
      · exact ite_holds (Canon.abandonDemotion h) (Canon.remoteCommit (Canon.send h))
  · exact h

theorem CanonAt.execDemotionCommit {frame : Nat} {s : State} (h : CanonAt s) : CanonNext (execDemotionCommit frame s) :=
  h.onDev fun _ hy1 => hy1.commitDemotion

theorem Canon.beginRelocation {d : Dev} {f : Nat} {e : TEntry} (h : Canon d) : InSome Canon (Dev.beginRelocation d f e) := by
  unfold Dev.beginRelocation
  refine ite_holds trivial ?_
  split
  · exact trivial
  · extract_lets _ x d1
    have hx : Canon x := Canon.modEntry h
    have hd1 : Canon d1 := hx.of_mem_eq rfl
    clear_value x d1
    exact Canon.endEmptyBi (Canon.clearLines hd1)

theorem Canon.relocated {d : Dev} {f : Nat} (h : Canon d) : Canon (Dev.relocated d f) := by
  unfold Dev.relocated
  split
  · refine ite_holds h ?_
    extract_lets _ _ x2 d1 d2 d3
    have hx2 : Canon x2 := h.dropLoc
    have hd1 : Canon d1 := hx2
    have hd2 : Canon d2 := hd1.setEntry
    have hd3 : Canon d3 := by
      unfold d3
      refine foldl_holds (P := Canon) hd2 ?_
      intro _ _ hx3
      split
      · exact hx3.submit
    clear_value x2 d1 d2 d3
    exact ite_holds h.clearLines.endEmptyBi hd3.wake.tryWanted.tryDemotes
  · exact h

theorem CanonAt.execRelocationCommit {frame : Nat} {s : State} (h : CanonAt s) : CanonNext (execRelocationCommit frame s) :=
  h.onDev fun _ hy1 => hy1.relocated

theorem Canon.nextWindow {d : Dev} (h : Canon d) : Canon (Dev.nextWindow d) := h
theorem CanonAt.execAgeWindowBoundary {s : State} (h : CanonAt s) : CanonNext (execAgeWindowBoundary s) := h.onDev fun _ hy1 => hy1.nextWindow

end Sys2Proof.Machine
end

section
/-! SUPPORT. T0's memory stays canonical: the copies and leaves of the tier map. -/

namespace Sys2Proof.Machine

open Sys2Proof

theorem Canon.loseCopies {d : Dev} {st : Nat} (h : Canon d) : Canon (Dev.loseCopies d st) := by
  unfold Dev.loseCopies
  extract_lets _ d1
  have hd1 : Canon d1 := foldl_holds (P := Canon) h fun _ _ hl => ite_holds hl hl
  clear_value d1
  exact ite_holds hd1 hd1.event

theorem CanonAt.execTierMapCopyLoss {stack : Nat} {s : State} (h : CanonAt s) : CanonNext (execTierMapCopyLoss stack s) :=
  h.onDev fun _ hy1 => ite_holds hy1.loseCopies hy1

theorem Canon.mendLeaves {d : Dev} (h : Canon d) : Canon (Dev.mendLeaves d) := by
  unfold Dev.mendLeaves
  refine foldl_holds (P := Canon) h ?_
  intro _ _ hl
  refine ite_holds hl ?_
  extract_lets
  refine foldl_holds (P := Canon) hl ?_
  intro _ _ hc
  split <;> exact hc

theorem Canon.entryFromLog {d : Dev} {f : Nat} (h : Canon d) : Canon (Dev.entryFromLog d f) := by
  unfold Dev.entryFromLog
  split
  · exact h
  · exact ite_holds (Canon.setEntry (Canon.clearFrame h)) (ite_holds (Canon.setEntry (h.of_mem_eq rfl)) (Canon.setEntry h))

theorem Canon.buildLeaf {d : Dev} {root : Nat} (h : Canon d) : Canon (Dev.buildLeaf d root) :=
  foldl_holds (P := Canon) h fun _ _ hf => hf.entryFromLog

theorem Canon.leafFromLog {d : Dev} {root : Nat} (h : Canon d) : Canon (Dev.leafFromLog d root) := Canon.buildLeaf (h.of_mem_eq rfl)

theorem CanonAt.execLeafBuildDone {root : Nat} {s : State} (h : CanonAt s) : CanonNext (execLeafBuildDone root s) :=
  CanonAt.onDev h fun y1 hy1 => ite_holds hy1 (Canon.wake ((Canon.of_mem_eq (Canon.buildLeaf hy1 : Canon (y1.buildLeaf root)) rfl)))

theorem Canon.beginRebuild {d : Dev} {f : Nat} (h : Canon d) : Canon (Dev.beginRebuild d f) := by
  unfold Dev.beginRebuild
  extract_lets gone waits
  have hgone : Canon gone := h
  have hwaits : Canon waits := h
  clear_value gone waits
  refine ite_holds hgone (ite_holds hwaits ?_)
  split
  · exact ite_holds hgone hwaits
  · split
    · exact hgone
    next heq => exact holds_of_eq (P := InSome Canon) hgone.rebuildReads heq

theorem Canon.startRebuilds {d : Dev} (h : Canon d) : Canon (Dev.startRebuilds d) := foldl_holds (P := Canon) h fun _ _ hf => hf.beginRebuild

theorem Canon.endRebuild {d : Dev} {f : Nat} (h : Canon d) : Canon (Dev.endRebuild d f) := by
  unfold Dev.endRebuild
  split
  · refine ite_holds h ?_
    extract_lets x2
    have hx2 : Canon x2 := Canon.setEntry (Canon.fillFrame h)
    clear_value x2
    exact hx2.of_mem_eq rfl
  · exact h

theorem Canon.dropRebuild {d : Dev} {f : Nat} (h : Canon d) : Canon (Dev.dropRebuild d f) := by
  unfold Dev.dropRebuild
  split
  · exact ite_holds h h
  · exact h

theorem Canon.rewriteLeaf {d : Dev} {leaf root : Nat} (h : Canon d) : Canon (Dev.rewriteLeaf d leaf root) := by
  unfold Dev.rewriteLeaf
  extract_lets _ _ d1 _ _ d2 d3 d4 d5 d6
  have hd1 : Canon d1 := foldl_holds (P := Canon) h fun _ _ hx => hx.clearLines.endEmptyBi
  have hd2 : Canon d2 := foldl_holds (P := Canon) hd1 fun _ _ hx => hx.dropLoc
  have hd3 : Canon d3 := foldl_holds (P := Canon) hd2 fun _ _ ha => ha.raise
  have hd4 : Canon d4 := foldl_holds (P := Canon) hd3 fun _ _ hf => hf.clearFrame
  have hd5 : Canon d5 := hd4.leafFromLog
  have hd6 : Canon d6 := hd5
  clear_value d1 d2 d3 d4 d5 d6
  refine ite_holds hd1 (foldl_holds (P := Canon) hd6 ?_)
  intro _ _ hf
  split
  · exact ite_holds hf.beginRebuild hf
  · exact hf

theorem Canon.finishLeaf {d : Dev} {leaf root : Nat} (h : Canon d) : Canon (Dev.finishLeaf d leaf root) :=
  Canon.wake (Canon.event (h.of_mem_eq rfl))

theorem CanonAt.execTierMapRebuild {leaf : Nat} {s : State} (h : CanonAt s) : CanonNext (execTierMapRebuild leaf s) := by
  unfold Machine.execTierMapRebuild
  refine CanonAt.onDev h fun _ hy1 => ?_
  split
  · exact hy1
  · refine ite_holds hy1 ?_
    extract_lets d
    have hd : Canon d := ite_holds hy1 hy1.rewriteLeaf
    clear_value d
    exact ite_holds hd (ite_holds hd hd.finishLeaf)

theorem Canon.writeMapCfg {d : Dev} {v : Nat} (h : Canon d) : Canon (Dev.writeMapCfg d v) := by
  unfold Dev.writeMapCfg
  extract_lets _ _ d1
  have hd1 : Canon d1 := Canon.setReg h
  clear_value d1
  exact ite_holds hd1 (ite_holds (hd1.of_mem_eq rfl) (hd1.of_mem_eq rfl))

theorem CanonAt.execTierMapEnable {path : Path} {value : Nat} {s : State} (h : CanonAt s) : CanonNext (execTierMapEnable path value s) :=
  h.onPath fun _ hy1 => ite_holds hy1 hy1.writeMapCfg

theorem Canon.writeRoot {d : Dev} {root v : Nat} (h : Canon d) : Canon (Dev.writeRoot d root v) := by
  unfold Dev.writeRoot
  extract_lets d1 _ refuse d2
  have hd1 : Canon d1 := ite_holds h.setReg h
  have hrefuse : Canon refuse := hd1.setReg
  have hd2 : Canon d2 := hd1
  clear_value d1 refuse d2
  split
  · exact ite_holds hd1 hrefuse
  · exact hd1
  · exact ite_holds (ite_holds hd2 hd2) hrefuse
  · exact ite_holds hd1 hrefuse

theorem CanonAt.execTierRootWrite {path : Path} {value : Nat} {s : State} (h : CanonAt s) : CanonNext (execTierRootWrite path value s) :=
  h.onPathDev fun _ hy1 => hy1.writeRoot

theorem Canon.writeQuota {d : Dev} {comp v : Nat} (h : Canon d) : Canon (Dev.writeQuota d comp v) := ite_holds h.setRf h

theorem CanonAt.execPinQuotaWrite {path : Path} {value : Nat} {s : State} (h : CanonAt s) : CanonNext (execPinQuotaWrite path value s) :=
  h.onPathDev fun _ hy1 => hy1.writeQuota

end Sys2Proof.Machine
end

section
/-! SUPPORT. T0's memory stays canonical: OPT_STEP. -/

namespace Sys2Proof.Machine

open Sys2Proof

theorem KeepsCanon.noteAll {sts : List Nat} : KeepsCanon (noteAll sts) := by
  unfold Machine.noteAll
  refine .bind .read fun _ => .modDev fun _ hd => ?_
  split
  · exact foldl_holds (P := Canon) hd fun _ _ hst => hst.noteStatus
  · exact hd

theorem KeepsCanon.endRun {sts : List Nat} {r0 r1 : Nat} : KeepsCanon (endRun sts r0 r1) := .bind .noteAll fun _ => .pure _

theorem KeepsCanon.mixedEnds {good : Bool} {sts : List Nat} : KeepsCanon (mixedEnds good sts) :=
  ite_holds (.pure _) (.bind .freeM (fun _ => .pure _))

theorem KeepsCanon.allOrNone {α : Type} {m : M α} (h : KeepsCanon m) : KeepsCanon (allOrNone m : M α) :=
  .get_bind fun _ _ => .tryCatch h fun _ => .bind (.modify (fun _ hk1 => hk1)) fun _ => .throw _

theorem KeepsCanon.waitRow {fa : Nat} : KeepsCanon (waitRow fa) := .bind .read fun _ => .getDev_bind fun _ _ => ite_holds .need (.pure _)

theorem KeepsCanon.waitLock {fa : Nat} : KeepsCanon (waitLock fa) :=
  .bind .waitRow fun _ => .bind .read fun _ => .getDev_bind fun _ _ => ite_holds .need (.pure _)

theorem Canon.lockRow {d : Dev} {who : DescId} {fa : Nat} (h : Canon d) : Canon (Dev.lockRow d who fa) := ite_holds h h

theorem KeepsCanon.lockRows {fas : List Nat} : KeepsCanon (lockRows fas) :=
  .bind .read fun _ => .modDev fun _ hd => foldl_holds (P := Canon) hd fun _ _ hfa => hfa.lockRow

theorem Canon.unlockRow {d : Dev} {fa : Nat} (h : Canon d) : Canon (Dev.unlockRow d fa) := h

theorem KeepsCanon.readState {fmt n at_ : Nat} : KeepsCanon (readState fmt n at_) := by
  unfold Machine.readState
  refine .bind .rdRawV fun _ => ?_
  split
  · exact .pure _

theorem KeepsCanon.writeState {fmt at_ : Nat} {vs : List Val} : KeepsCanon (writeState fmt at_ vs) := .wrV

theorem KeepsCanon.rowCompute {s : OptState} {algo : Nat} {x : OptHyp} {step r : Nat} {g : List Val} {skipnf : Bool} :
    KeepsCanon (rowCompute s algo x step r g skipnf) := by
  unfold Machine.rowCompute
  refine .bind .xlate fun _ => .bind .waitLock fun _ => ?_
  extract_lets jp
  have hjp : ∀ (x : List Byte × List Bool), KeepsCanon (jp x) := by
    intro _
    unfold jp
    refine ite_holds (.pure _) (ite_holds (.pure _) ?_)
    refine ite_holds (.pure _) (.bind .readState fun _ => ?_)
    extract_lets jp1
    have hjp1 : ∀ (x : Option (List Val)), KeepsCanon (jp1 x) := by
      intro _
      unfold jp1
      extract_lets jp2
      have hjp2 : ∀ (x : Option (List Val)), KeepsCanon (jp2 x) := by
        intro _
        unfold jp2
        split <;> exact .pure _
      clear_value jp2
      exact ite_holds (.bind .readState (fun _ => hjp2 _)) (.bind (.pure _) (fun _ => hjp2 _))
    clear_value jp1
    exact ite_holds (.bind .readState (fun _ => hjp1 _)) (.bind .readState (fun _ => hjp1 _))
  clear_value jp
  exact ite_holds (.bind (.pure _) (fun _ => hjp _)) (.bind .rdRawV (fun _ => hjp _))

theorem KeepsCanon.rowStore {s : OptState} {algo step r : Nat} {x : OptRow} : KeepsCanon (rowStore s algo step r x) := by
  unfold Machine.rowStore
  refine .bind .writeState fun _ => ?_
  extract_lets jp jp1
  have hjp : ∀ (x : Unit), KeepsCanon (jp x) := fun _ => ite_holds .wrV (.pure _)
  have hjp1 : ∀ (x : Unit), KeepsCanon (jp1 x) := fun _ => ite_holds (.bind .writeState (fun _ => hjp ())) (hjp ())
  clear_value jp jp1
  exact ite_holds (.bind .writeState (fun _ => hjp1 _)) (.bind .writeState (fun _ => hjp1 _))

theorem KeepsCanon.sendAcked {poison : Bool} {n : Nat} {l : List (Nat × List Byte)} : KeepsCanon (sendAcked poison n l) := by
  induction l generalizing n with
  | nil => exact .pure _
  | cons x _ ih =>
    unfold Machine.sendAcked
    refine .bind .read fun _ => .getDev_bind fun _ _ => ?_
    extract_lets jp
    have hjp : ∀ (x : Unit), KeepsCanon (jp x) := fun _ => ih
    clear_value jp
    split
    · exact .bind (.modDev (fun _ hd1 => hd1.modStarted)) fun _ => hjp _
    · split
      · exact .bind .noteAcc fun _ => .bind (.modDev (fun _ hd1 => hd1.writeOut)) fun _ => hjp _

theorem KeepsCanon.ackedAll {n : Nat} : KeepsCanon (ackedAll n) := .bind .read fun _ => .getDev_bind fun _ _ => .pure _
theorem KeepsCanon.stepOf : KeepsCanon (stepOf) := .bind .read fun _ => .getDev_bind fun _ _ => .pure _
theorem KeepsCanon.setStep {step : Nat} {note : List Nat} : KeepsCanon (setStep step note) := .bind .read fun _ => .modDev fun _ hd => hd.modStarted
theorem KeepsCanon.commitNow : KeepsCanon (commitNow) := .bind .read fun _ => .get_bind fun _ hk => .set hk.commit.chargeAcc

/-- The jobs of an optimizer run carry the computations of their gradients. -/
def GradsKeep (jobs : List OptJob) : Prop := ∀ j ∈ jobs, KeepsCanon j.grad

theorem KeepsCanon.atNext {α : Type} {m : M α} (h : KeepsCanon m) : KeepsCanon (atNext m : M α) := .bind .read fun _ => .atStage h

theorem KeepsCanon.emitStore {s : OptState} {algo step : Nat} {j : OptJob} {t : OptTally} {locks : List Nat} {fa : Nat} {x : OptRow} {car
    : List Val} :
    KeepsCanon (emitStore s algo step j t locks fa x car) := by
  unfold Machine.emitStore
  split
  · exact .rowStore
  · split
    · exact .halt
    · refine .bind .xlateAll fun _ => .getDev_bind fun _ _ => ite_holds (.bind (.atNext .wrPieces) (fun _ => .rowStore)) ?_
      extract_lets
      exact .bind .commitNow fun _ => .bind (.atNext .wrRuns) fun _ => .bind .commitNow fun _ => .bind (.atNext .sendAcked) fun _ =>
          .bind .lockRows fun _ => .bind .setStep fun _ => .need

theorem KeepsCanon.optRows {s : OptState} {algo : Nat} {x : OptHyp} {step : Nat} {skipnf : Bool} {l : List OptJob} {l1 : List Nat} {x1 : OptTally}
    (hl : GradsKeep l) :
    KeepsCanon (optRows s algo x step skipnf l l1 x1) := by
  induction l generalizing l1 x1 with
  | nil => exact .bind .lockRows fun _ => .pure _
  | cons _ _ ih =>
    unfold Machine.optRows
    refine .bind ?_ fun _ => ?_
    · refine .caught (.allOrNone ?_)
      refine .bind (hl _ List.mem_cons_self) fun _ => ?_
      split
      · exact .pure _
      · refine .bind .rowCompute fun _ => ?_
        split
        · exact .bind .emitStore fun _ => .pure _
        · exact .pure _
    · split
      · exact .bind .lockRows fun _ => .pure _
      · exact ih fun j hj => hl j (List.mem_cons_of_mem _ hj)

theorem KeepsCanon.endEmission {t : OptTally} : KeepsCanon (endEmission t) :=
  .bind .read fun _ => .bind (.modDev (fun _ hd => hd.modStarted)) fun _ => .setStep

theorem KeepsCanon.optResume {s : OptState} {algo step : Nat} {jobs : List OptJob} : KeepsCanon (optResume s algo step jobs) := by
  unfold Machine.optResume
  refine .bind .stepOf fun _ => ?_
  split
  · refine ite_holds (.pure _) ?_
    split
    · refine ite_holds (.pure _) (.bind .ackedAll fun _ => ?_)
      split
      · exact .need
      · exact .need
      · exact ite_holds (.pure _) (.bind .rowStore (fun _ => .bind .commitNow (fun _ => .bind .endEmission (fun _ => .pure _))))

theorem KeepsCanon.optAll {s : OptState} {algo : Nat} {x : OptHyp} {step : Nat} {skipnf : Bool} {jobs : List OptJob} {sts : List Nat} (h
    : GradsKeep jobs) :
    KeepsCanon (optAll s algo x step skipnf jobs sts) := by
  unfold Machine.optAll
  refine .bind .optResume fun _ => ?_
  split
  · exact ite_holds (.bind (.pure _) (fun _ => .pure _))
      (.bind (.optRows fun j hj => h j (List.mem_of_mem_drop hj)) (fun _ => .pure _))

/-- The gradients of OPT_STEP's rows, and of STREAM's vectors. -/
theorem GradsKeep.optJobs {s : OptState} {x : OptHyp} {gfmt : Nat} {grad : List Byte} {bad : List Bool} {rows : List (Nat × List Nat)} :
    GradsKeep (optJobs s x gfmt grad bad rows) := by
  intro j hj
  obtain ⟨r, -, rfl⟩ := List.mem_map.1 hj
  exact ite_holds (.bind (.pure _) fun _ => .pure _) (.bind .arrivals fun _ => .pure _)

theorem GradsKeep.updateJobs {s sink : Stage} {len sp size rows : Nat} {vs : List SVec} : GradsKeep (updateJobs s sink len sp size rows vs) := by
  intro j hj
  obtain ⟨r, -, rfl⟩ := List.mem_map.1 hj
  refine ite_holds (.pure _) ?_
  split
  · exact .pure _
  · exact .bind .ensure fun _ => .pure _

theorem KeepsCanon.optStepM {l : Line} : KeepsCanon (optStepM l) := by
  unfold Machine.optStepM
  extract_lets
  refine .bind .ensure fun _ => .bind .rdV fun _ => ?_
  extract_lets
  refine .bind .rdV fun _ => ?_
  extract_lets _ _ jp
  have hjp : ∀ (x : Unit), KeepsCanon (jp x) := by
    intro x
    unfold jp
    refine .bind (.atStage .rdRawV) fun _ => ?_
    split
    · extract_lets jp1
      have hjp1 : ∀ (x : List Byte × List Bool), KeepsCanon (jp1 x) := by
        intro _
        unfold jp1
        split
        · extract_lets
          exact .bind (.atStage (.optAll GradsKeep.optJobs)) fun _ => .bind .mixedEnds fun _ => .endRun
      clear_value jp1
      exact ite_holds (.bind (.pure _) (fun _ => hjp1 _)) (.bind (.atStage .rdRawV) (fun _ => hjp1 _))
  clear_value jp
  exact .bind .ensure fun _ => .bind .ensure fun _ => .getDev_bind fun _ _ => ite_holds (.bind .halt (fun _ => hjp _)) (hjp _)

theorem CanonAt.execOptStep {q n : Nat} {s : State} (h : CanonAt s) : CanonNext (execOptStep q n s) := h.desc fun _ => .optStepM

end Sys2Proof.Machine
end

section
/-! SUPPORT. T0's memory stays canonical: embedding tables. -/

namespace Sys2Proof.Machine

open Sys2Proof

theorem KeepsCanon.rdOwn {off n : Nat} : KeepsCanon (rdOwn off n) := .getDev_bind fun _ _ => .withReader .rd
theorem KeepsCanon.wrOwn {off : Nat} {bs : List Byte} : KeepsCanon (wrOwn off bs) := .getDev_bind fun _ _ => .withReader .wr
theorem KeepsCanon.handleRec {n : Nat} : KeepsCanon (handleRec n) := .getDev_bind fun _ _ => .bind .rdOwn fun _ => .pure _

theorem KeepsCanon.remapFind {at_ n g n1 n2 : Nat} {x : Option Nat} : KeepsCanon (remapFind at_ n g n1 n2 x) := by
  induction n1 generalizing n2 x with
  | zero => exact .pure _
  | succ _ ih => exact .bind .rdOwn fun _ => ite_holds (.pure _) ih

theorem KeepsCanon.rowFa {t : TableRec} {g : Nat} : KeepsCanon (rowFa t g) := by
  unfold Machine.rowFa
  refine ite_holds (.pure _) (.bind .remapFind fun _ => ?_)
  split
  · split
    · exact .pure _
    · exact .bind .ensure fun _ => .pure _

theorem KeepsCanon.bindTable {expect : Nat} {fields fmts : Bool} : KeepsCanon (bindTable expect fields fmts) := by
  unfold Machine.bindTable
  refine .bind .read fun _ => .bind .stepOf fun _ => ?_
  split
  · refine .bind .ensure fun _ => ?_
    split
    · extract_lets
      exact .bind .ensure fun _ => .bind .ensure fun _ => .bind .ensure fun _ => .bind .ensure fun _ => .pure _
    · exact .halt
    · exact .halt

theorem KeepsCanon.occurrences {t : TableRec} {ifmt n : Nat} {skip : Bool} {bs : List Byte} {ps : List Bool} :
    KeepsCanon (occurrences t ifmt n skip bs ps) :=
  .bind .ensure fun _ => .pure _

theorem KeepsCanon.placeRows {t : TableRec} {l : List Nat} : KeepsCanon (placeRows t l) := by
  induction l with
  | nil => exact .pure _
  | cons _ _ ih => exact .bind .rowFa fun _ => .bind .read fun _ => .getDev_bind fun _ _ => .bind ih fun _ => .pure _

theorem Canon.combine {d : Dev} {x : Placed} (h : Canon d) : Canon (Dev.combine d x) := by
  unfold Dev.combine
  extract_lets
  split
  · exact ite_holds h.writeLine.touch h

theorem Canon.combineRound {d : Dev} {rows : List Placed} (h : Canon d) : Canon (Dev.combineRound d rows) :=
  foldl_holds (P := Canon) h fun _ _ hx => hx.combine

theorem Canon.batchDone {d : Dev} {c : Ctx} {x : BatchAcct} (h : Canon d) : Canon (Dev.batchDone d c x) :=
  foldl_holds (P := Canon) h.stat.stat.stat.countRun.countRun fun _ _ hx1 => hx1.combineRound

theorem KeepsCanon.batchEnds {x : BatchAcct} : KeepsCanon (batchEnds x) := .bind .read fun _ => .modDev fun _ hd => hd.batchDone

theorem KeepsCanon.placeAgain {t : TableRec} {seen : List Nat} {l : List Placed} : KeepsCanon (placeAgain t seen l) := by
  induction l with
  | nil => exact .pure _
  | cons x _ ih =>
    unfold Machine.placeAgain
    extract_lets jp
    have hjp : ∀ (x : Nat), KeepsCanon (jp x) := fun _ => .bind ih fun _ => .pure _
    clear_value jp
    exact ite_holds (.bind .rowFa (fun _ => hjp _)) (.bind (.pure _) (fun _ => hjp _))

theorem KeepsCanon.fetchRows {rc : List RowLine} {n : Nat} {t : TableRec} {l : List Placed} : KeepsCanon (fetchRows rc n t l) := by
  induction l with
  | nil => exact .pure _
  | cons x _ ih =>
    unfold Machine.fetchRows
    refine .bind .waitRow fun _ => .getDev_bind fun _ hd => ?_
    extract_lets jp
    have hjp : ∀ (x : Fetched), KeepsCanon (jp x) := fun _ => .bind ih fun _ => .pure _
    clear_value jp
    split
    · refine .bind .read fun _ => ?_
      split
      next d1 heq =>
        have hd1 : Canon d1 := holds_of_eq (P := InSnd Canon) hd.extCheck heq
        refine .bind (.modDev (fun _ _ => hd1)) fun _ => ?_
        extract_lets jp1
        have hjp1 : ∀ (x : Unit), KeepsCanon (jp1 x) := fun _ => .bind .noteCached fun _ => .bind (.pure _) fun _ => hjp _
        clear_value jp1
        exact ite_holds (.bind .halt (fun _ => hjp1 _)) (hjp1 _)
    · refine .bind .rdRaw fun _ => ?_
      split
      · exact .bind (.pure _) fun _ => hjp _

theorem KeepsCanon.askRows {t : TableRec} {ps : List Placed} : KeepsCanon (askRows t ps) := .fetchLines

theorem KeepsCanon.bagTerms_go {ws : List (Nat × Val)} {l : List Nat} : KeepsCanon (bagTerms.go ws l) := by
  induction l with
  | nil => exact .pure _
  | cons _ _ ih => exact .bind .arrivals fun _ => .bind ih fun _ => .pure _

theorem KeepsCanon.bagTerms {ws : List (Nat × Val)} : KeepsCanon (bagTerms ws) := .bind .bagTerms_go fun _ => .pure _

theorem KeepsCanon.poolBag {t : TableRec} {p : PoolOp} {b : Pooling} : KeepsCanon (poolBag t p b) := by
  unfold Machine.poolBag
  refine .bind .arrivals fun _ => ?_
  split
  · exact ite_holds (.pure _) (.pure _)

theorem KeepsCanon.poolSeg {t : TableRec} {p : PoolOp} {rows : List (Nat × List Val)} {bad : List Nat} {s : Seg (Bool × Option Val)} {y
    : PoolTally} :
    KeepsCanon (poolSeg t p rows bad s y) := by
  unfold Machine.poolSeg
  extract_lets
  refine .bind .bagTerms fun _ => ?_
  extract_lets
  refine ite_holds (.pure _) (ite_holds (.pure _) ?_)
  refine .bind (.caught (.allOrNone (.bind .poolBag (fun _ => .atStage .wrV)))) fun _ => ?_
  split <;> exact .pure _

theorem KeepsCanon.poolSegs {t : TableRec} {p : PoolOp} {rows : List (Nat × List Val)} {bad : List Nat} {l : List (Seg (Bool × Option Val))} {x
    : PoolTally} :
    KeepsCanon (poolSegs t p rows bad l x) := by
  induction l generalizing x with
  | nil => exact .pure _
  | cons _ _ ih => exact .bind .poolSeg fun _ => ite_holds (.pure _) ih

theorem KeepsCanon.poolRound {n sets : Nat} {t : TableRec} {p : PoolOp} {r : Round (Bool × Option Val)} {x : BatchAcct} {y : PoolTally} :
    KeepsCanon (poolRound n sets t p r x y) := by
  unfold Machine.poolRound
  refine .bind (.caught .placeAgain) fun _ => ?_
  split
  · exact .pure _
  · refine .getDev_bind fun _ _ => ?_
    extract_lets
    refine .bind (.caught (.atStage .fetchRows)) fun _ => ?_
    split
    · exact .pure _
    · exact .bind .poolSegs fun _ => .pure _

theorem KeepsCanon.poolRounds {n sets : Nat} {t : TableRec} {p : PoolOp} {l : List (Round (Bool × Option Val))} {x : BatchAcct} {x1 : PoolTally} :
    KeepsCanon (poolRounds n sets t p l x x1) := by
  induction l generalizing x x1 with
  | nil => exact .pure _
  | cons _ _ ih =>
    unfold Machine.poolRounds
    refine .bind .poolRound fun _ => ?_
    split
    · exact ite_holds (.pure _) ih

theorem KeepsCanon.gatherPoolM {l : Line} : KeepsCanon (gatherPoolM l) := by
  unfold Machine.gatherPoolM
  extract_lets
  refine .getDev_bind fun _ _ => .bind .ensure fun _ => .bind .rdV fun _ => .bind .bindTable fun _ => ?_
  extract_lets _ jp
  have hjp : ∀ (x : Unit), KeepsCanon (jp x) := by
    intro x
    unfold jp
    refine .bind (.atStage .rdV) fun _ => ?_
    extract_lets
    refine .bind .ensure fun _ => .bind (.atStage .rdRawV) fun _ => ?_
    split
    · refine .bind .occurrences fun _ => ?_
      extract_lets _ jp1
      have hjp1 : ∀ (x : List Byte × List Bool), KeepsCanon (jp1 x) := by
        intro _
        unfold jp1
        split
        · extract_lets
          refine .bind .placeRows fun _ => .bind .askRows fun _ => .getDev_bind fun _ _ => ?_
          extract_lets
          refine .bind .poolRounds fun _ => ?_
          split
          · exact .bind .batchEnds fun _ => .bind .mixedEnds fun _ => .endRun
      clear_value jp1
      exact ite_holds (.bind (.pure _) (fun _ => hjp1 _)) (.bind (.atStage .rdRawV) (fun _ => hjp1 _))
  clear_value jp
  exact ite_holds (.bind .halt (fun _ => hjp _)) (hjp _)

theorem CanonAt.execGatherPool {q n : Nat} {s : State} (h : CanonAt s) : CanonNext (execGatherPool q n s) := h.desc fun _ => .gatherPoolM

theorem KeepsCanon.waitMoved {n row : Nat} : KeepsCanon (waitMoved n row) := by
  unfold Machine.waitMoved
  refine .bind .read fun _ => .getDev_bind fun _ _ => ?_
  split
  · exact .pure _
  · exact .bind (.modDev (fun _ hd1 => hd1)) fun _ => ite_holds .need (.pure _)

theorem KeepsCanon.addRow {o : AddOp} {g : Nat} {is : List Nat} : KeepsCanon (addRow o g is) := by
  unfold Machine.addRow
  extract_lets
  refine .bind .waitMoved fun _ => .bind .rowFa fun _ => .bind .waitLock fun _ => ?_
  extract_lets jp
  have hjp : ∀ (x : Unit), KeepsCanon (jp x) := by
    intro x
    unfold jp
    refine .bind .arrivals fun _ => ?_
    extract_lets
    refine .bind .rdRaw fun _ => ?_
    split
    · extract_lets jp1
      have hjp1 : ∀ (x : Unit), KeepsCanon (jp1 x) := by
        intro _
        unfold jp1
        split
        · exact .halt
        · exact .bind .wr fun _ => .pure _
      clear_value jp1
      exact ite_holds (.bind .halt (fun _ => hjp1 _)) (hjp1 _)
  clear_value jp
  exact ite_holds (.bind .halt (fun _ => hjp _)) (hjp _)

theorem KeepsCanon.addRows {o : AddOp} {l : List (Nat × List Nat)} {x : AddTally} : KeepsCanon (addRows o l x) := by
  induction l generalizing x with
  | nil => exact .pure _
  | cons x _ ih =>
    unfold Machine.addRows
    refine .bind (.caught (.allOrNone .addRow)) fun _ => ?_
    extract_lets jp
    have hjp : ∀ (x : AddTally), KeepsCanon (jp x) := fun _ => ih
    clear_value jp
    split <;> exact .bind (.pure _) fun _ => hjp _

theorem KeepsCanon.addRounds {o : AddOp} {sets : Nat} {l : List (Round Nat)} {x : BatchAcct} {x1 : AddTally} :
    KeepsCanon (addRounds o sets l x x1) := by
  induction l generalizing x x1 with
  | nil => exact .pure _
  | cons _ _ ih => exact .getDev_bind fun _ _ => .bind (.atStage .addRows) fun _ => ih

theorem KeepsCanon.scatterAddM {l : Line} : KeepsCanon (scatterAddM l) := by
  unfold Machine.scatterAddM
  extract_lets
  refine .getDev_bind fun _ _ => .bind .bindTable fun _ => ?_
  extract_lets jp
  have hjp : ∀ (x : Unit), KeepsCanon (jp x) := by
    intro _
    unfold jp
    refine .bind (.atStage .rdRawV) fun _ => ?_
    split
    · refine .bind .occurrences fun _ => .bind (.atStage .rdRawV) fun _ => ?_
      split
      · refine .bind .placeRows fun _ => .bind .askRows fun _ => .getDev_bind fun _ _ => ?_
        extract_lets
        refine .bind .addRounds fun _ => ?_
        split
        · exact .bind .lockRows fun _ => .bind .batchEnds fun _ => .bind .mixedEnds fun _ => .endRun
  clear_value jp
  exact ite_holds (.bind .halt (fun _ => hjp _)) (hjp _)

theorem CanonAt.execScatterAdd {q n : Nat} {s : State} (h : CanonAt s) : CanonNext (execScatterAdd q n s) := h.desc fun _ => .scatterAddM

theorem CanonAt.execRowLockRelease {row : Nat} {s : State} (h : CanonAt s) : CanonNext (execRowLockRelease row s) :=
  h.onDev fun _ hy1 => hy1.unlockRow

theorem KeepsCanon.switchChecks {l : Line} {old : TableRec} {compOk : Bool} : KeepsCanon (switchChecks l old compOk) :=
  .bind .ensure fun _ => .ensure

theorem Canon.reshare {d : Dev} {n : Nat} {t : TableRec} (h : Canon d) : Canon (Dev.reshare d n t) := h

theorem KeepsCanon.tableSwitchM {l : Line} : KeepsCanon (tableSwitchM l) := by
  unfold Machine.tableSwitchM
  extract_lets
  refine .bind .read fun _ => .getDev_bind fun _ _ => .bind .stepOf fun _ => ?_
  split
  next x _ _ =>
    refine .bind .ensure fun _ => ?_
    extract_lets _ jp jp1 jp2
    have hjp : ∀ (x : Unit), KeepsCanon (jp x) := fun _ => .pure _
    have hjp1 : ∀ (x : Unit), KeepsCanon (jp1 x) := by
      intro _
      unfold jp1
      refine .bind .rdV fun _ => ?_
      extract_lets
      refine .bind .ensure fun _ => .bind .handleRec fun _ => .bind .switchChecks fun _ => ?_
      extract_lets _ jp2
      have hjp2 : ∀ (x : Unit), KeepsCanon (jp2 x) := fun _ => .pure _
      clear_value jp2
      exact .bind .wrOwn fun _ => .bind (.modDev (fun _ hd1 => hd1.reshare)) fun _ => ite_holds (.bind .commitNow (fun _ => .bind .setStep (fun _ =>
          .bind .need (fun _ => hjp2 _)))) (hjp2 _)
    have hjp2 : ∀ (x : Unit), KeepsCanon (jp2 x) := fun _ => ite_holds (ite_holds (.bind .need (fun _ => hjp ())) (hjp ())) (ite_holds (.bind .need
        (fun _ => hjp1 ())) (hjp1 ()))
    clear_value jp jp1 jp2
    exact ite_holds (.bind .need (fun _ => hjp2 _)) (hjp2 _)

theorem CanonAt.execTableSwitch {q n : Nat} {s : State} (h : CanonAt s) : CanonNext (execTableSwitch q n s) := h.desc fun _ => .tableSwitchM

theorem KeepsCanon.freezeRows {n : Nat} {t : TableRec} {l : List (Nat × Nat)} : KeepsCanon (freezeRows n t l) := by
  induction l with
  | nil => exact .pure _
  | cons _ _ ih => exact .bind .read fun _ => .getDev_bind fun _ _ => ite_holds (.pure _) (.bind .rowFa (fun _ => .bind (.modDev (fun _ hd1 => hd1))
        (fun _ => .bind ih (fun _ => .pure _))))

theorem KeepsCanon.tableMoveM {l : Line} : KeepsCanon (tableMoveM l) := by
  unfold Machine.tableMoveM
  extract_lets
  refine .bind .read fun _ => .getDev_bind fun _ _ => .bind .stepOf fun _ => ?_
  split
  next x _ _ =>
    refine .bind .ensure fun _ => ?_
    extract_lets jp jp1
    have hjp : ∀ (x : Unit), KeepsCanon (jp x) := by
      intro _
      unfold jp
      refine .bind .handleRec fun _ => ite_holds ?_ ?_
      · refine .bind .ensure fun _ => .bind .switchChecks fun _ => .bind .rdV fun _ => ?_
        extract_lets
        exact .bind .ensure fun _ => .bind .freezeRows fun _ => .bind .setStep fun _ => .need
      · exact .bind .freezeRows fun _ => .bind .setStep fun _ => .getDev_bind fun _ _ => ite_holds (.pure _) .need
    have hjp1 : ∀ (x : Unit), KeepsCanon (jp1 x) := fun _ => ite_holds (.bind .need (fun _ => hjp ())) (hjp ())
    clear_value jp jp1
    exact ite_holds (.bind .need (fun _ => hjp1 _)) (hjp1 _)

theorem CanonAt.execTableMove {q n : Nat} {s : State} (h : CanonAt s) : CanonNext (execTableMove q n s) := h.desc fun _ => .tableMoveM
theorem Canon.setMove {d : Dev} {m x : RowMove} (h : Canon d) : Canon (Dev.setMove d m x) := h

theorem Canon.moveFails {d : Dev} {i : DescId} {st : Nat} (h : Canon d) : Canon (Dev.moveFails d i st) := by
  unfold Dev.moveFails
  split
  · exact h
  · exact ite_holds h (Canon.finish (h.of_mem_eq rfl))

theorem Canon.moveStep {d : Dev} {m : RowMove} {f : Ctx → RunSt → Dev} {p : M Unit} (h : Canon d) (h_f : ∀ y1, ∀ y2, CanonRun y2 → Canon (f y1 y2))
    (h_p : KeepsCanon p) :
    Canon (Dev.moveStep d m f p) := by
  unfold Dev.moveStep
  split
  · exact h
  · extract_lets
    split
    next s heq =>
      have hs : CanonRun s := holds_of_eq (P := InSnd CanonRun) (h.runM h_p) heq
      exact hs.setIssued
    next s heq =>
      have hs : CanonRun s := holds_of_eq (P := InSnd CanonRun) (h.runM h_p) heq
      exact hs.moveFails
    next s heq =>
      have hs : CanonRun s := holds_of_eq (P := InSnd CanonRun) (h.runM h_p) heq
      exact h_f _ _ hs

theorem KeepsCanon.copyRowM {t : TableRec} {m : RowMove} : KeepsCanon (copyRowM t m) := by
  unfold Machine.copyRowM
  refine .bind .rdRaw fun _ => ?_
  split
  · exact .wrMixed

theorem Canon.copyOutRow {d : Dev} {c : Ctx} {m : RowMove} {log : List LogRun} (h : Canon d) : Canon (Dev.copyOutRow d c m log) := by
  unfold Dev.copyOutRow
  refine foldl_holds (P := Canon) h ?_
  intro _ _ hr
  refine ite_holds hr.commitRun ?_
  split
  · exact hr.writeOut

theorem KeepsCanon.remapRowM {t : TableRec} {m : RowMove} : KeepsCanon (remapRowM t m) := by
  unfold Machine.remapRowM
  refine .bind .remapFind fun _ => ?_
  split
  · refine ite_holds ?_ ?_
    · split
      · exact .wrOwn
      · exact .pure _
    · split
      · exact .wrOwn
      · exact .halt

theorem Canon.rowMoved {d : Dev} {n row : Nat} (h : Canon d) : Canon (Dev.rowMoved d n row) := by
  unfold Dev.rowMoved
  split
  · exact h
  · extract_lets
    refine ite_holds ?_ ?_
    · exact Canon.moveStep h (fun _ _ hy2 => Canon.modStarted (Canon.setMove (Canon.chargeAcc (Canon.copyOutRow hy2)))) .copyRowM
    · refine ite_holds ?_ ?_
      · refine ite_holds h (Canon.moveStep h ?_ .remapRowM)
        intro _ _ hy2
        extract_lets d1
        have hd1 : Canon d1 := Canon.setMove (Canon.chargeAcc (Canon.commit hy2))
        clear_value d1
        exact hd1.of_mem_eq rfl
      · exact ite_holds h (h.of_mem_eq rfl)

theorem CanonAt.execRowMoveStep {handle row : Nat} {s : State} (h : CanonAt s) : CanonNext (execRowMoveStep handle row s) :=
  h.onDev fun _ hy1 => hy1.rowMoved

theorem Canon.zeroRange {d : Dev} {off n : Nat} (h : Canon d) : Canon (Dev.zeroRange d off n) := memory_wf_filter _ h

theorem Canon.writeHtab {d : Dev} {v : Nat} (h : Canon d) : Canon (Dev.writeHtab d v) := by
  unfold Dev.writeHtab
  extract_lets d1 d2
  have hd1 : Canon d1 := Canon.setReg h
  have hd2 : Canon d2 := Canon.zeroRange (hd1.of_mem_eq rfl)
  clear_value d1 d2
  exact ite_holds hd1 (Canon.zeroRange hd2)

theorem CanonAt.execEmbHtabEnable {path : Path} {value : Nat} {s : State} (h : CanonAt s) : CanonNext (execEmbHtabEnable path value s) :=
  h.onPath fun _ hy1 => ite_holds hy1 hy1.writeHtab

theorem Canon.rowDecay {d : Dev} (h : Canon d) : Canon (Dev.rowDecay d) := h

end Sys2Proof.Machine
end

section
/-! SUPPORT. T0's memory stays canonical: STREAM. -/

namespace Sys2Proof.Machine

open Sys2Proof

theorem KeepsCanon.srcPieces {place : Bool} {l : List (Nat × Nat)} : KeepsCanon (srcPieces place l) := by
  induction l with
  | nil => exact .pure _
  | cons x _ ih =>
    unfold Machine.srcPieces
    refine .getDev_bind fun _ _ => ?_
    extract_lets jp
    have hjp : ∀ (x : List Byte × List Bool), KeepsCanon (jp x) := by
      intro _
      unfold jp
      split
      · refine .bind ih fun _ => ?_
        split
        · exact .pure _
    clear_value jp
    exact ite_holds (.bind (.atStage .rdInPlace) (fun _ => hjp _)) (.bind .rdRaw (fun _ => hjp _))

theorem KeepsCanon.srcV {place : Bool} {dva n : Nat} : KeepsCanon (srcV place dva n) := .bind .xlateAll fun _ => .srcPieces

theorem KeepsCanon.vectorsAt {rd1 : Nat → M (List Byte × List Bool)} {n : Nat} {l : List (Option Nat)} (h_rd1 : ∀ y1, KeepsCanon (rd1 y1)) :
    KeepsCanon (vectorsAt rd1 n l) := by
  induction l generalizing n with
  | nil => exact .pure _
  | cons a _ ih =>
    cases a with
    | none => exact .bind ih fun _ => .pure _
    | some a => exact .bind (h_rd1 a) fun _ => .bind ih fun _ => .pure _

theorem KeepsCanon.streamIndices {b w n rows : Nat} : KeepsCanon (streamIndices b w n rows) := by
  unfold Machine.streamIndices
  extract_lets
  refine .bind .rdRawV fun _ => ?_
  split
  · exact .bind .ensure fun _ => .pure _

theorem KeepsCanon.listedBlocks {s : Stage} {n rows : Nat} {limits : Bool} : KeepsCanon (listedBlocks s n rows limits) := by
  unfold Machine.listedBlocks
  refine .bind .rdRawV fun _ => ?_
  split
  next x _ _ =>
    extract_lets jp
    have hjp : ∀ (x : List Byte × List Bool), KeepsCanon (jp x) := by
      intro _
      unfold jp
      split
      · exact .bind .ensure fun _ => .pure _
    clear_value jp
    exact ite_holds (.bind .rdRawV (fun _ => hjp _)) (.bind (.pure _) (fun _ => hjp _))

theorem KeepsCanon.blockRows {place kv : Bool} {rows rb n n1 : Nat} {l : List Block} : KeepsCanon (blockRows place kv rows rb n n1 l) := by
  induction l generalizing n n1 with
  | nil => exact .pure _
  | cons _ _ ih =>
    unfold Machine.blockRows
    extract_lets _ one
    have hone : ∀ (r : Nat), KeepsCanon (one r) := by
      intro _
      unfold one
      refine .bind .srcPieces fun _ => ?_
      split
      · refine ite_holds (.pure _) (.bind .srcPieces fun _ => ?_)
        split
        · exact .pure _
    clear_value one
    exact .bind (.vectorsAt (fun _ => hone _)) fun _ => .bind ih fun _ => .pure _

theorem KeepsCanon.blockColumns {place : Bool} {f n : Nat} {l : List Block} : KeepsCanon (blockColumns place f n l) := by
  induction l with
  | nil => exact .pure _
  | cons x _ ih =>
    unfold Machine.blockColumns
    extract_lets _ _ _ jp
    have hjp : ∀ (x : Option (List Val × List Bool)), KeepsCanon (jp x) := fun _ => .bind ih fun _ => .pure _
    clear_value jp
    refine ite_holds (.bind (.pure _) (fun _ => hjp _)) (.bind .srcPieces fun _ => ?_)
    split
    · split
      · exact .bind .halt fun _ => hjp _
      · exact .bind (.pure _) fun _ => hjp _

theorem KeepsCanon.sourceVecs {s : Stage} {place : Bool} {elems vecs vb : Nat} : KeepsCanon (sourceVecs s place elems vecs vb) := by
  unfold Machine.sourceVecs
  refine ite_holds (.bind .streamIndices (fun _ => .vectorsAt (fun _ => .srcV))) (ite_holds ?_ ?_)
  · refine ite_holds ?_ ?_
    · exact .bind .listedBlocks fun _ => .bind .blockColumns fun _ => .pure _
    · exact .bind .ensure fun _ => .bind .listedBlocks fun _ => .blockRows
  · refine ite_holds (.bind .ensure (fun _ => .vectorsAt (fun _ => .srcPieces))) ?_
    refine ite_holds (.bind .ensure (fun _ => .vectorsAt (fun _ => .srcV))) (.bind .ensure fun _ => ?_)
    refine .bind .srcV fun _ => ?_
    split
    · exact .pure _

theorem KeepsCanon.operandOf {s : Stage} {e : Emits} : KeepsCanon (operandOf s e) := by
  unfold Machine.operandOf
  extract_lets get2 n
  have hget2 : ∀ (a n b k : Nat), KeepsCanon (get2 a n b k) := by
    intro _ _ _ _
    unfold get2
    extract_lets jp
    have hjp : ∀ (x : List Byte × List Bool), KeepsCanon (jp x) := by
      intro x
      unfold jp
      split
      next x _ _ =>
        extract_lets jp1
        have hjp1 : ∀ (x : List Byte × List Bool), KeepsCanon (jp1 x) := by
          intro _
          unfold jp1
          split
          · exact .pure _
        clear_value jp1
        exact ite_holds (.bind (.pure _) (fun _ => hjp1 _)) (.bind .rdRawV (fun _ => hjp1 _))
    clear_value jp
    exact ite_holds (.bind (.pure _) (fun _ => hjp _)) (.bind .rdRawV (fun _ => hjp _))
  clear_value get2
  refine ite_holds (hget2 _ _ _ _) (ite_holds (hget2 _ _ _ _) ?_)
  refine ite_holds (hget2 _ _ _ _) (ite_holds ?_ ?_)
  · exact .bind .ensure fun _ => .bind .rdV fun _ => .bind .rdV fun _ => .bind .ensure fun _ => .bind .ensure fun _ => .pure _
  · exact .pure _

theorem KeepsCanon.operands {l : List (Stage × Emits)} : KeepsCanon (operands l) := by
  induction l with
  | nil => exact .pure _
  | cons _ _ ih => exact .bind (.atStage .operandOf) fun _ => .bind ih fun _ => .pure _

theorem KeepsCanon.dotStage {s : Stage} {sp : Nat} {o : Operand} {raw : List Byte} {x : List Val} : KeepsCanon (dotStage s sp o raw x) :=
  ite_holds (.pure _) (ite_holds (.pure _) (.bind .stepsM (fun _ => .pure _)))

theorem KeepsCanon.stageVec {s : Stage} {len sp : Nat} {o : Operand} {v : SVec} : KeepsCanon (stageVec s len sp o v) := by
  unfold Machine.stageVec
  refine ite_holds (.pure _) (ite_holds (.pure _) ?_)
  split
  · exact .pure _
  · extract_lets
    refine ite_holds (.pure _) (ite_holds ?_ ?_)
    · refine .bind .dotStage fun _ => ?_
      split <;> exact .pure _
    · refine ite_holds ?_ ?_
      · split <;> exact .pure _
      · refine ite_holds ?_ ?_
        · refine .bind .rdRawV fun _ => ?_
          split
          · exact ite_holds (.pure _) (.pure _)
        · refine ite_holds ?_ ?_
          · refine .bind .rdRawV fun _ => ?_
            split
            · exact ite_holds (.pure _) (.pure _)
          · exact .pure _

theorem KeepsCanon.stageVecs {s : Stage} {len sp : Nat} {o : Operand} {l : List SVec} : KeepsCanon (stageVecs s len sp o l) := by
  induction l with
  | nil => exact .pure _
  | cons _ _ ih => exact .bind (.atStage .stageVec) fun _ => .bind ih fun _ => .pure _

theorem KeepsCanon.reduceGroups {s : Stage} {vs : List SVec} : KeepsCanon (reduceGroups s vs) := by
  unfold Machine.reduceGroups
  extract_lets
  exact ite_holds (.bind .ensure (fun _ => .bind .rdV (fun _ => .bind .ensure (fun _ => .pure _)))) (ite_holds (.pure _) (.pure _))

theorem KeepsCanon.intMean {sum w : Int} : KeepsCanon (intMean sum w) := ite_holds (.bind .freeM (fun _ => .pure _)) (.pure _)

theorem KeepsCanon.eachM {α : Type _} {β : Type} {f : α → M β} {l : List α} (h_f : ∀ y1, KeepsCanon (f y1)) :
    KeepsCanon (eachM f l : M (List β)) := by
  induction l with
  | nil => exact .pure _
  | cons _ _ ih => exact .bind (h_f _) fun _ => .bind ih fun _ => .pure _

theorem KeepsCanon.reduceGroup {s : Stage} {sp : Nat} {xs : List (List Val × Val)} : KeepsCanon (reduceGroup s sp xs) := by
  unfold Machine.reduceGroup
  extract_lets
  refine ite_holds (.pure _) (ite_holds (.pure _) ?_)
  refine .bind .arrivals fun _ => ite_holds (.pure _) (ite_holds (ite_holds (.eachM (fun _ => .intMean)) (.pure _)) ?_)
  split
  · exact .pure _

theorem KeepsCanon.weightAt {s : Stage} {v : SVec} : KeepsCanon (weightAt s v) := by
  unfold Machine.weightAt
  refine ite_holds (.pure _) ?_
  extract_lets
  refine .bind .rdRawV fun _ => ?_
  split
  · exact .pure _

theorem KeepsCanon.reduceVecs {s : Stage} {len sp n : Nat} {l : List (List SVec)} : KeepsCanon (reduceVecs s len sp n l) := by
  induction l generalizing n with
  | nil => exact .pure _
  | cons x _ ih =>
    unfold Machine.reduceVecs
    refine .bind (.eachM (fun _ => .weightAt)) fun _ => ?_
    extract_lets _ jp
    have hjp : ∀ (x : SVec), KeepsCanon (jp x) := fun _ => .bind ih fun _ => .pure _
    clear_value jp
    refine ite_holds ?_ ?_
    · exact .bind (.pure _) fun _ => hjp _
    · exact ite_holds (.bind (.pure _) (fun _ => hjp _)) (.bind .reduceGroup (fun _ => .bind (.pure _) (fun _ => hjp _)))

theorem KeepsCanon.topKey {s : Stage} {v : SVec} : KeepsCanon (topKey s v) := ite_holds (.bind .freeM (fun _ => .pure _)) (.pure _)

theorem KeepsCanon.topkVecs {s : Stage} {len : Nat} {vs : List SVec} : KeepsCanon (topkVecs s len vs) := by
  unfold Machine.topkVecs
  extract_lets
  exact ite_holds (.pure _) (.bind (.eachM (fun _ => .topKey)) (fun _ => .bind .arrivals (fun _ => .pure _)))

theorem KeepsCanon.mergeVecs {e m : Stage} {len g : Nat} {vs : List SVec} : KeepsCanon (mergeVecs e m len g vs) :=
  ite_holds (.pure _) (ite_holds (.pure _) (.bind .arrivals (fun _ => .pure _)))

theorem KeepsCanon.runStages {x : Emits} {l : List (Stage × Emits × Operand)} {l1 : List SVec} : KeepsCanon (runStages x l l1) := by
  induction hn : l.length using Nat.strongRecOn generalizing x l l1 with
  | _ n ih =>
    cases l with
    | nil => exact .pure _
    | cons a rest =>
      have hrest : ∀ {y : Emits} {m : List (Stage × Emits × Operand)} {vs : List SVec}, m.length ≤ rest.length → KeepsCanon
          (Machine.runStages y m vs) :=
        fun hm => ih _ (by rw [← hn]; exact Nat.lt_succ_of_le hm) rfl
      unfold Machine.runStages
      refine ite_holds ?_ (ite_holds ?_ (ite_holds ?_ ?_))
      · cases rest with
        | nil => exact .pure _
        | cons b rest => exact .bind .mergeVecs fun _ => hrest (Nat.le_succ _)
      · exact .bind .topkVecs fun _ => .bind (hrest (Nat.le_refl _)) fun _ => .pure _
      · exact .bind (.atStage .reduceGroups) fun _ => .bind (.atStage .reduceVecs) fun _ => hrest (Nat.le_refl _)
      · exact .bind .stageVecs fun _ => hrest (Nat.le_refl _)

theorem KeepsCanon.sinkWrite {fa : Bool} {n size n1 : Nat} {l : List SVec} : KeepsCanon (sinkWrite fa n size n1 l) := by
  induction l generalizing n1 with
  | nil => exact .pure _
  | cons x _ ih =>
    unfold Machine.sinkWrite
    extract_lets _ _ jp
    have hjp : ∀ (x : Unit), KeepsCanon (jp x) := fun _ => .bind ih fun _ => .pure _
    clear_value jp
    exact ite_holds (ite_holds (.bind .wrMixed (fun _ => hjp _)) (.bind .xlateAll (fun _ => .bind .wrPiecesMixed (fun _ => hjp _)))) (hjp _)

theorem KeepsCanon.sinkBits {n : Nat} {l : List (Option Nat)} : KeepsCanon (sinkBits n l) := by
  induction l with
  | nil => exact .pure _
  | cons i _ ih =>
    cases i with
    | none => exact .bind ih fun _ => .pure _
    | some i => exact .bind .xlate fun _ => .bind .atom fun _ => ih

theorem KeepsCanon.sinkRows {s : Stage} {vs : List SVec} {l : List (Nat × List Nat)} : KeepsCanon (sinkRows s vs l) := by
  induction l with
  | nil => exact .pure _
  | cons x _ ih =>
    unfold Machine.sinkRows
    extract_lets jp jp1
    have hjp : ∀ (x : Unit), KeepsCanon (jp x) := fun _ => ih
    have hjp1 : ∀ (x : Nat), KeepsCanon (jp1 x) := by
      intro _
      unfold jp1
      split
      · exact .bind .xlateAll fun _ => .bind .wrPiecesMixed fun _ => ih
      · exact ih
    clear_value jp jp1
    exact ite_holds (.bind (.pure _) (fun _ => hjp1 _)) (.bind .freeM (fun _ => hjp1 _))

theorem KeepsCanon.sinkAdd {s : Stage} {len : Nat} {vs : List SVec} {l : List (Nat × List Nat)} : KeepsCanon (sinkAdd s len vs l) := by
  induction l with
  | nil => exact .pure _
  | cons x _ ih =>
    unfold Machine.sinkAdd
    extract_lets _ _ jp
    have hjp : ∀ (x : List Nat), KeepsCanon (jp x) := fun _ => .bind ih fun _ => .pure _
    clear_value jp
    refine .bind .arrivals fun _ => .bind .rdRawV fun _ => ?_
    split
    · refine ite_holds (.bind (.pure _) (fun _ => hjp _)) ?_
      split
      · exact .bind (.pure _) fun _ => hjp _
      · exact .bind .wrV fun _ => .bind (.pure _) fun _ => hjp _

theorem KeepsCanon.sinkVecs {s : Stage} {e : Emits} {vs : List SVec} : KeepsCanon (sinkVecs s e vs) := by
  unfold Machine.sinkVecs
  extract_lets
  refine ite_holds .sinkWrite (ite_holds (.bind .ensure (fun _ => .sinkWrite)) ?_)
  refine .bind .streamIndices fun _ => ite_holds (.bind .sinkBits (fun _ => .pure _)) ?_
  extract_lets
  exact ite_holds (.bind .sinkRows (fun _ => .pure _)) (.bind .sinkAdd (fun _ => .pure _))

theorem KeepsCanon.updateStream {s sink : Stage} {len sp size : Nat} {o : Operand} {vs : List SVec} {sts : List Nat} {source : Nat} :
    KeepsCanon (updateStream s sink len sp size o vs sts source) := by
  unfold Machine.updateStream
  extract_lets
  exact .bind (.atStage (.optAll GradsKeep.updateJobs)) fun _ => .bind .mixedEnds fun _ => .endRun

theorem KeepsCanon.streamM {l : Line} : KeepsCanon (streamM l) := by
  unfold Machine.streamM
  extract_lets
  refine .bind .ensure fun _ => .bind .rdV fun _ => ?_
  extract_lets ss
  split
  · exact .halt
  next x _ _ =>
    refine .getDev_bind fun _ _ => ?_
    extract_lets jp
    have hjp : ∀ (x : Unit), KeepsCanon (jp x) := by
      intro _
      unfold jp
      clear_value ss
      split
      · extract_lets
        refine .bind .operands fun _ => .bind (.atStage .sourceVecs) fun _ => ?_
        extract_lets
        split
        · refine .bind .runStages fun _ => ?_
          split
          · exact .updateStream
        · refine .bind .runStages fun _ => ?_
          split
          · exact .bind (.atStage .sinkVecs) fun _ => .bind .mixedEnds fun _ => .endRun
      · exact .halt
    clear_value jp
    exact ite_holds (.bind .halt (fun _ => hjp _)) (hjp _)

theorem Canon.writeMode {d : Dev} {v : Nat} (h : Canon d) : Canon (Dev.writeMode d v) :=
  Canon.of_mem_eq (Canon.setRf h : Canon (d.setRf 36864 2 1 (bits v 2 1))) rfl

theorem CanonAt.execModeSwitch {path : Path} {value : Nat} {s : State} (h : CanonAt s) : CanonNext (execModeSwitch path value s) :=
  h.onPathDev fun _ hy1 => hy1.writeMode

theorem CanonAt.execModeSwitchDone {s : State} (h : CanonAt s) : CanonNext (execModeSwitchDone s) := h.onDev fun _ hy1 => ite_holds hy1 hy1
theorem CanonAt.execStreamRun {q n : Nat} {s : State} (h : CanonAt s) : CanonNext (execStreamRun q n s) := h.desc fun _ => .streamM

end Sys2Proof.Machine
end

section
/-! SUPPORT. T0's memory stays canonical: attention descriptors. -/

namespace Sys2Proof.Machine

open Sys2Proof

theorem Canon.sendSub {d : Dev} {dst sidx : Nat} {frags : List (List Byte)} {owner : ReqFor} (h : Canon d) :
    Canon (Dev.sendSub d dst sidx frags owner) :=
  ite_holds (Canon.setFlowOut (h.of_mem_eq rfl)) (Canon.sendAll (Canon.setFlowOut (h.of_mem_eq rfl)))

theorem KeepsCanon.partsOf : KeepsCanon (partsOf) := .bind .read fun _ => .getDev_bind fun _ _ => .pure _
theorem Canon.notePart {d : Dev} {i : DescId} {p : PartIn} (h : Canon d) : Canon (Dev.notePart d i p) := h.modStarted

theorem KeepsCanon.sendParts {sh : AttnShape} {queries : List Byte} {limits inplace : Bool} {l : List PeerPart} :
    KeepsCanon (sendParts sh queries limits inplace l) := by
  induction l with
  | nil => exact .pure _
  | cons x _ ih =>
    unfold Machine.sendParts
    refine .bind .read fun _ => .getDev_bind fun _ _ => .bind .partsOf fun _ => ?_
    split
    · extract_lets jp
      have hjp : ∀ (x : Unit), KeepsCanon (jp x) := fun _ => ih
      clear_value jp
      refine ite_holds ?_ ?_
      · refine .bind (.modDev (fun _ hd1 => hd1.modStarted)) fun _ => ?_
        split
        · exact .bind (.modDev (fun _ hd1 => hd1.notePart)) fun _ => hjp _
        · exact .bind (.modDev (fun _ hd1 => hd1.sendSub)) fun _ => hjp _
      · exact hjp _

theorem KeepsCanon.forwardCheck {fa : Nat} {x : BlockAt} : KeepsCanon (forwardCheck fa x) := by
  unfold Machine.forwardCheck
  split
  · refine .bind .read fun _ => .getDev_bind fun _ hd => ite_holds (.pure _) ?_
    split
    next d1 heq =>
      have hd1 : Canon d1 := holds_of_eq (P := InSnd Canon) hd.extCheck heq
      exact .bind (.modDev (fun _ _ => hd1)) fun _ => .pure _
  · exact .pure _

theorem KeepsCanon.sortBlocks {size : Nat} {l : List (Nat × Nat)} {x : Sorted} : KeepsCanon (sortBlocks size l x) := by
  induction l generalizing x with
  | nil => exact .pure _
  | cons _ _ ih =>
    unfold Machine.sortBlocks
    refine ite_holds ih (ite_holds ih ?_)
    refine .getDev_bind fun _ _ => .bind .forwardCheck fun _ => ?_
    split <;> exact ih

theorem KeepsCanon.splitOnce {sh : AttnShape} {queries : List Byte} {limits inplace : Bool} {blocks : List (Nat × Nat)} :
    KeepsCanon (splitOnce sh queries limits inplace blocks) := by
  unfold Machine.splitOnce
  refine .bind .stepOf fun _ => ?_
  split
  · exact ite_holds (.bind .sortBlocks (fun _ => .bind .sendParts (fun _ => .bind .setStep (fun _ => .pure _)))) (.pure _)

theorem KeepsCanon.writeRecords {result ofmt size n : Nat} {l : List AttnPart} : KeepsCanon (writeRecords result ofmt size n l) := by
  induction l generalizing n with
  | nil => exact .pure _
  | cons _ _ ih => exact .bind .wrV fun _ => ih

theorem KeepsCanon.attnPartialM {l : Line} : KeepsCanon (attnPartialM l) := by
  unfold Machine.attnPartialM
  extract_lets
  refine .bind .ensure fun _ => .bind .rdV fun _ => ?_
  extract_lets _ _ _ _ _ jp
  have hjp : ∀ (x : Unit), KeepsCanon (jp x) := by
    intro x
    unfold jp
    refine .bind (.atStage .rdV) fun _ => .bind (.atStage .rdV) fun _ => ?_
    extract_lets jp1
    have hjp1 : ∀ (x : List Byte), KeepsCanon (jp1 x) := by
      intro _
      unfold jp1
      extract_lets
      split
      · exact .halt
      · refine .bind .splitOnce fun _ => ?_
        split
        · refine .bind .attnChunks fun _ => .bind .partsOf fun _ => ?_
          split
          · extract_lets _ _ jp2 jp3
            have hjp2 : ∀ (x : Unit), KeepsCanon (jp2 x) := by
              intro _
              unfold jp2
              refine .bind .attnHeads fun _ => .bind (.atStage (.allOrNone .writeRecords)) fun _ => ?_
              split
              · exact .endRun
            have hjp3 : ∀ (x : Unit), KeepsCanon (jp3 x) := by
              intro _
              unfold jp3
              refine ite_holds ?_ ?_
              · exact .bind .read fun _ => .bind (.modDev (fun _ hd => foldl_holds (P := Canon) hd fun _ _ hst1 => hst1.noteStatus)) fun _ =>
                    .bind .halt fun _ => hjp2 ()
              · exact hjp2 ()
            clear_value jp2 jp3
            exact ite_holds (.bind .need (fun _ => hjp3 _)) (hjp3 _)
    clear_value jp1
    exact ite_holds (.bind (.atStage .rdV) (fun _ => hjp1 _)) (.bind (.pure _) (fun _ => hjp1 _))
  clear_value jp
  exact .bind .ensure fun _ => .getDev_bind fun _ _ => ite_holds (.bind .halt (fun _ => hjp _)) (hjp _)

theorem CanonAt.execAttnPartial {q n : Nat} {s : State} (h : CanonAt s) : CanonNext (execAttnPartial q n s) := h.desc fun _ => .attnPartialM
theorem KeepsCanon.bucketOf {fp : List Byte} : KeepsCanon (bucketOf fp) := .getDev_bind fun _ _ => .bind .rdOwn fun _ => .pure _
theorem KeepsCanon.wrEntry {fp : List Byte} {i : Nat} {bs : List Byte} : KeepsCanon (wrEntry fp i bs) := .getDev_bind fun _ _ => .wrOwn

theorem KeepsCanon.sameBlock {e : RegEntry} {bs : List Byte} : KeepsCanon (sameBlock e bs) :=
  .getDev_bind fun _ _ => ite_holds (.pure _) (.bind .rd (fun _ => .pure _))

theorem KeepsCanon.moreRefs {refs : Nat} : KeepsCanon (moreRefs refs) := ite_holds (.pure _) (.bind .freeM (fun _ => .pure _))

theorem KeepsCanon.shareBlock {fa : Nat} {fp bs : List Byte} : KeepsCanon (shareBlock fa fp bs) := by
  unfold Machine.shareBlock
  refine .bind .read fun _ => .bind .bucketOf fun _ => ?_
  split
  · extract_lets
    refine .bind .sameBlock fun _ => ite_holds ?_ ?_
    · exact .bind .moreRefs fun _ => .bind .wrEntry fun _ => .bind (.modDev (fun _ hd => hd.stat)) fun _ => .pure _
    · exact .bind (.modDev (fun _ hd => hd.stat)) fun _ => .pure _
  · split
    · exact .bind .wrEntry fun _ => .pure _
    · exact .bind (.modDev (fun _ hd => hd.stat)) fun _ => .pure _

theorem KeepsCanon.sealResults {l : Line} {fa size : Nat} : KeepsCanon (sealResults l fa size) := by
  unfold Machine.sealResults
  extract_lets _ _ _ jp
  have hjp : ∀ (x : List Byte), KeepsCanon (jp x) := by
    intro _
    unfold jp
    refine .bind .rd fun _ => ?_
    extract_lets _ jp1
    have hjp1 : ∀ (x : Unit), KeepsCanon (jp1 x) := fun _ => ite_holds .shareBlock (.bind .freeM (fun _ => .pure _))
    clear_value jp1
    exact ite_holds (.bind .wrV (fun _ => hjp1 _)) (hjp1 _)
  clear_value jp
  exact ite_holds (.bind .freeM (fun _ => .pure _)) (ite_holds (.bind (.pure _) (fun _ => hjp _)) (.bind .rdV (fun _ => hjp _)))

theorem KeepsCanon.sealBlock {l : Line} {fa size : Nat} : KeepsCanon (sealBlock l fa size) :=
  .bind .sealResults fun _ => .bind (.modDev (fun _ hd => hd.stat)) fun _ => .pure _

theorem KeepsCanon.kvAppendM {l : Line} : KeepsCanon (kvAppendM l) := by
  unfold Machine.kvAppendM
  extract_lets _ _ _ _ _ _ _ _ _ _ _ jp
  have hjp : ∀ (x : Unit), KeepsCanon (jp x) := by
    intro x
    unfold jp
    refine .bind .ensure fun _ => .bind .ensure fun _ => .bind .ensure fun _ => .bind .xlate fun _ => .getDev_bind fun _ _ => ?_
    refine .bind .ensure fun _ => ?_
    split
    · exact .halt
    · refine .bind .ensure fun _ => .bind .ensure fun _ => ?_
      extract_lets jp1
      have hjp1 : ∀ (x : Unit), KeepsCanon (jp1 x) := by
        intro _
        unfold jp1
        refine .bind (.atStage .rdV) fun _ => ?_
        split
        · exact .halt
        · refine .bind (.atStage (.bind .wr (fun _ => .wr))) fun _ => ite_holds .okRun (.bind .sealBlock fun _ => ?_)
          split
          · exact .pure _
      clear_value jp1
      exact ite_holds (.bind .halt (fun _ => hjp1 _)) (hjp1 _)
  clear_value jp
  exact .bind .ensure fun _ => ite_holds (.bind .need (fun _ => hjp _)) (hjp _)

theorem CanonAt.execKvAppend {q n : Nat} {s : State} (h : CanonAt s) : CanonNext (execKvAppend q n s) := h.desc fun _ => .kvAppendM

theorem KeepsCanon.kvReleaseM {l : Line} : KeepsCanon (kvReleaseM l) := by
  unfold Machine.kvReleaseM
  refine .bind .ensure fun _ => ?_
  extract_lets jp
  have hjp : ∀ (x : Unit), KeepsCanon (jp x) := by
    intro _
    unfold jp
    refine .bind .read fun _ => .getDev_bind fun _ _ => .bind .ensure fun _ => .bind .rdV fun _ => .bind .xlate fun _ => ?_
    refine .bind .bucketOf fun _ => ?_
    split
    · exact .halt
    · extract_lets e
      refine .bind .ensure fun _ => .getDev_bind fun _ hd1 => ?_
      split
      next d2 heq =>
        have hd2 : Canon d2 := holds_of_eq (P := InSnd Canon) hd1.takeFree heq
        exact .bind (.modDev (fun _ _ => hd2)) fun _ => ite_holds (.bind .wrEntry (fun _ => .pure _)) (.bind .wrEntry (fun _ => .pure _))
  clear_value jp
  exact ite_holds (.bind .need (fun _ => hjp _)) (hjp _)

theorem CanonAt.execKvRelease {q n : Nat} {s : State} (h : CanonAt s) : CanonNext (execKvRelease q n s) := h.desc fun _ => .kvReleaseM
theorem Canon.writeAtn {d : Dev} {v : Nat} (h : Canon d) : Canon (Dev.writeAtn d v) := ite_holds h.setReg h.setReg.zeroRange

theorem CanonAt.execAtnRegEnable {path : Path} {value : Nat} {s : State} (h : CanonAt s) : CanonNext (execAtnRegEnable path value s) :=
  h.onPath fun _ hy1 => ite_holds hy1 hy1.writeAtn

end Sys2Proof.Machine
end

section
/-! SUPPORT. T0's memory stays canonical: vector search. -/

namespace Sys2Proof.Machine

open Sys2Proof

theorem KeepsCanon.boundIndex : KeepsCanon (boundIndex) := by
  unfold Machine.boundIndex
  refine .getDev_bind fun _ _ => .bind .stepOf fun _ => ?_
  split
  · split
    · exact .bind .ensure fun _ => .pure _
    · exact .halt
    · exact .halt

theorem KeepsCanon.centroid {x : IndexRec} {c : Nat} : KeepsCanon (centroid x c) := .bind .rd fun _ => .pure _
theorem KeepsCanon.centDot {x : IndexRec} {q : Query} {row : List Val} : KeepsCanon (centDot x q row) := .dotM

theorem KeepsCanon.centDist {x : IndexRec} {q : Query} {c : Nat} : KeepsCanon (centDist x q c) :=
  .bind .centroid fun _ => .bind .centDot fun _ => ite_holds (.bind .rd (fun _ => .pure _)) (.pure _)

theorem KeepsCanon.orderKey {v : Val} : KeepsCanon (orderKey v) := ite_holds (.bind .freeM (fun _ => .pure _)) (.pure _)
theorem KeepsCanon.centTomb {x : IndexRec} {c : Nat} : KeepsCanon (centTomb x c) := .bind .rd fun _ => .pure _

theorem KeepsCanon.liveCents {x : IndexRec} {l : List Nat} : KeepsCanon (liveCents x l) := by
  induction l with
  | nil => exact .pure _
  | cons _ _ ih => exact .bind .centTomb fun _ => .bind ih fun _ => .pure _

theorem KeepsCanon.scoreInto {x : IndexRec} {q : Query} {n : Nat} {l : List Nat} {l1 : List Beam} : KeepsCanon (scoreInto x q n l l1) := by
  induction l generalizing l1 with
  | nil => exact .pure _
  | cons _ _ ih => exact .bind .centDist fun _ => .bind .orderKey fun _ => ih

theorem KeepsCanon.flatProbe {x : IndexRec} {q : Query} {most : Nat} : KeepsCanon (flatProbe x q most) :=
  .bind .liveCents fun _ => .bind .arrivals fun _ => .bind .scoreInto fun _ => .pure _

theorem KeepsCanon.walkEdges {x : IndexRec} {q : Query} {n : Nat} {l : List Nat} {x1 : Walk} : KeepsCanon (walkEdges x q n l x1) := by
  induction l generalizing x1 with
  | nil => exact .pure _
  | cons _ _ ih =>
    unfold Machine.walkEdges
    extract_lets
    exact ite_holds ih (ite_holds ih (.bind .rd (fun _ => ite_holds ih (ite_holds ih (.bind .scoreInto (fun _ => ih))))))

theorem KeepsCanon.walkNodes {x : IndexRec} {q : Query} {n : Nat} {l : List Nat} {x1 : Walk} : KeepsCanon (walkNodes x q n l x1) := by
  induction l generalizing x1 with
  | nil => exact .pure _
  | cons _ _ ih => exact .bind .rd fun _ => .bind .walkEdges fun _ => ih

theorem KeepsCanon.walkHops {x : IndexRec} {q : Query} {n n1 : Nat} {x1 : Walk} : KeepsCanon (walkHops x q n n1 x1) := by
  induction n1 generalizing x1 with
  | zero => exact .pure _
  | succ _ ih => exact ite_holds (.pure _) (.bind .arrivals (fun _ => .bind .walkNodes (fun _ => ih)))

theorem KeepsCanon.beamProbe {x : IndexRec} {q : Query} {beam hops most : Nat} : KeepsCanon (beamProbe x q beam hops most) := by
  unfold Machine.beamProbe
  extract_lets
  exact .bind .scoreInto fun _ => .bind .walkHops fun _ => .bind .liveCents fun _ => .pure _

theorem KeepsCanon.roundParts {x : IndexRec} {l : List Nat} : KeepsCanon (roundParts x l) := by
  induction l with
  | nil => exact .pure _
  | cons _ _ ih => exact .bind .rd fun _ => .bind ih fun _ => .pure _

theorem KeepsCanon.codebook {x : IndexRec} : KeepsCanon (codebook x) := .rd

theorem KeepsCanon.listQuery {x : IndexRec} {q : Query} {c : Nat} : KeepsCanon (listQuery x q c) :=
  ite_holds (.pure _) (.bind .centroid (fun _ => ite_holds (.pure _) (.bind .centDot (fun _ => .pure _))))

theorem KeepsCanon.entryLive {x : IndexRec} {idw : Nat} : KeepsCanon (entryLive x idw) := by
  unfold Machine.entryLive
  extract_lets
  exact ite_holds (.pure _) (.bind .rd (fun _ => ite_holds (.pure _) (.bind .rd (fun _ => .pure _))))

theorem KeepsCanon.filterPass {filter id : Nat} : KeepsCanon (filterPass filter id) :=
  ite_holds (.pure _) (.bind .xlate (fun _ => .getDev_bind (fun _ _ => .bind .ensure (fun _ => .bind .rd (fun _ => .pure _)))))

theorem KeepsCanon.scanEntry {s : Scan} {l : List Cand} {bs : List Byte} {bad : Bool} : KeepsCanon (scanEntry s l bs bad) := by
  unfold Machine.scanEntry
  refine ite_holds (.bind .ensure (fun _ => .pure _)) ?_
  extract_lets
  refine ite_holds (.pure _) (.bind .orderKey fun _ => ?_)
  extract_lets
  exact ite_holds (.pure _) (.bind .entryLive (fun _ => ite_holds (.pure _) (.bind .filterPass (fun _ => ite_holds (.pure _) (.pure _)))))

theorem KeepsCanon.scanEntries {s : Scan} {l : List (List Byte × Bool)} {l1 : List Cand} {n : Nat} : KeepsCanon (scanEntries s l l1 n) := by
  induction l generalizing l1 n with
  | nil => exact .pure _
  | cons _ _ ih =>
    unfold Machine.scanEntries
    refine .bind .scanEntry fun _ => ?_
    split
    · exact ih

theorem KeepsCanon.partBytes {fa n : Nat} : KeepsCanon (partBytes fa n) := by
  unfold Machine.partBytes
  refine .getDev_bind fun _ _ => .bind .ensure fun _ => ?_
  extract_lets
  split
  · exact .halt
  · refine ite_holds ?_ ?_
    · refine .bind .openInPlace fun _ => .getDev_bind fun _ _ => ?_
      extract_lets
      split
      · exact .bind (.modDev (fun _ hd2 => ite_holds hd2.kilnEvent hd2)) fun _ => .bind .noteStored fun _ => .pure _
    · refine .bind .rdRaw fun _ => ?_
      split
      · exact .pure _

theorem Canon.modSearch {d : Dev} {i : DescId} {f : Search → Search} (h : Canon d) : Canon (Dev.modSearch d i f) := h
theorem KeepsCanon.chargeNow : KeepsCanon (chargeNow) := .bind .read fun _ => .get_bind fun _ hk => .set hk.chargeAcc

theorem KeepsCanon.scanPart {s : Search} {p : SearchPart} : KeepsCanon (scanPart s p) := by
  unfold Machine.scanPart
  refine .bind .read fun _ => ?_
  extract_lets x
  refine .bind .listQuery fun _ => ?_
  split
  · refine .bind .codebook fun _ => ?_
    extract_lets jp
    have hjp : ∀ (x : List Byte), KeepsCanon (jp x) := by
      intro _
      unfold jp
      refine .bind .partBytes fun _ => ?_
      split
      · refine .bind (.modDev (fun _ hd => hd.countRun)) fun _ => ?_
        extract_lets _ jp1
        have hjp1 : ∀ (x : List (List (List Byte × Bool))), KeepsCanon (jp1 x) := fun _ => .bind .freeM fun _ => .scanEntries
        clear_value jp1
        exact ite_holds (.bind (.pure _) (fun _ => hjp1 _)) (.bind .arrivals (fun _ => hjp1 _))
    clear_value jp
    refine ite_holds ?_ ?_
    · refine .bind ?_ fun _ => hjp _
      split
      · exact .pure _
      · exact .halt
    · exact .bind (.pure _) fun _ => hjp _

theorem KeepsCanon.endPart {i : Nat} : KeepsCanon (endPart i) := by
  unfold Machine.endPart
  refine .bind .read fun _ => .getDev_bind fun _ _ => ?_
  split
  · exact .pure _
  · split
    · exact .pure _
    · refine ite_holds (.pure _) (.bind (.caught .scanPart) fun _ => ?_)
      split
      · exact .bind .chargeNow fun _ => .modDev fun _ hd1 => hd1.stat.modSearch

theorem KeepsCanon.endParts {l : List Nat} : KeepsCanon (endParts l) := by
  induction l with
  | nil => exact .pure _
  | cons _ _ ih => exact .bind .endPart fun _ => ih

theorem KeepsCanon.startSearch {l : Line} : KeepsCanon (startSearch l) := by
  unfold Machine.startSearch
  refine .bind .read fun _ => ?_
  extract_lets
  refine .bind .ensure fun _ => .bind .boundIndex fun _ => ?_
  extract_lets x
  refine .bind .rdV fun _ => ?_
  extract_lets _ jp jp1
  have hjp : ∀ (x : Unit), KeepsCanon (jp x) := by
    intro _
    unfold jp
    refine .bind (.atStage .rdV) fun _ => ?_
    extract_lets
    refine .bind (.atStage (ite_holds (.bind .flatProbe (fun _ => .pure _)) .beamProbe)) fun _ => ?_
    split
    · exact .bind (.atStage .roundParts) fun _ => .modDev fun _ hd => Canon.stat (hd.of_mem_eq rfl)
  have hjp1 : ∀ (x : Unit), KeepsCanon (jp1 x) := fun _ => .bind .ensure fun _ => .bind .ensure fun _ => .getDev_bind fun _ _ => ite_holds
      (.bind .halt (fun _ => hjp ())) (hjp ())
  clear_value jp jp1
  exact .bind .ensure fun _ => ite_holds (.bind .xlate (fun _ => .getDev_bind (fun _ _ => .bind .ensure (fun _ => hjp1 _)))) (hjp1 _)

theorem KeepsCanon.vsearchM {l : Line} : KeepsCanon (vsearchM l) :=
  .bind .read fun _ => .getDev_bind fun _ _ => ite_holds (.bind .startSearch (fun _ => .need)) .need

theorem CanonAt.execVsearch {q n : Nat} {s : State} (h : CanonAt s) : CanonNext (execVsearch q n s) := h.desc fun _ => .vsearchM

theorem CanonAt.execScannerPartEnd {q n part : Nat} {s : State} (h : CanonAt s) : CanonNext (execScannerPartEnd q n part s) :=
  h.desc fun _ => .bind (.atStage .endPart) fun _ => .need

theorem KeepsCanon.rerankCands {x : IndexRec} {q : Query} {l : List Cand} : KeepsCanon (rerankCands x q l) := by
  induction l with
  | nil => exact .pure _
  | cons _ _ ih =>
    unfold Machine.rerankCands
    extract_lets
    refine .bind .rd fun _ => ?_
    extract_lets
    exact .bind .stepsM fun _ => .bind .orderKey fun _ => .bind ih fun _ => .pure _

theorem KeepsCanon.finishSearch {l : Line} {s : Search} : KeepsCanon (finishSearch l s) := by
  unfold Machine.finishSearch
  extract_lets x _ _ jp
  have hjp : ∀ (x : List Cand), KeepsCanon (jp x) := fun _ => .bind (.atStage .wrV) fun _ => .endRun
  clear_value jp
  exact ite_holds (.bind (.pure _) (fun _ => hjp _)) (.bind (.atStage .rerankCands) (fun _ => .bind (.pure _) (fun _ => hjp _)))

theorem KeepsCanon.roundEndM {l : Line} : KeepsCanon (roundEndM l) := by
  unfold Machine.roundEndM
  refine .bind .read fun _ => .getDev_bind fun _ _ => ?_
  split
  · exact .need
  next x _ _ =>
    refine .bind .arrivals fun _ => .bind (.atStage .endParts) fun _ => .getDev_bind fun _ _ => ?_
    split
    · exact .need
    · extract_lets _ _ _ jp
      have hjp : ∀ (x : Unit), KeepsCanon (jp x) := fun _ => ite_holds (.bind .roundParts (fun _ => .bind (.modDev (fun _ hd2 => hd2.modSearch))
          (fun _ => .need))) .finishSearch
      clear_value jp
      exact ite_holds (.bind (.modDev (fun _ hd2 => foldl_holds (P := Canon) hd2 fun _ _ hst => hst.noteStatus)) (fun _ => .bind .halt (fun _ =>
          hjp _))) (hjp _)

theorem CanonAt.execVsearchRoundEnd {q n : Nat} {s : State} (h : CanonAt s) : CanonNext (execVsearchRoundEnd q n s) := h.desc fun _ => .roundEndM

theorem KeepsCanon.insertOne {x : IndexRec} {book : List Byte} {idw list : Nat} {v : List Val} {y : InsTally} :
    KeepsCanon (insertOne x book idw list v y) := by
  unfold Machine.insertOne
  extract_lets _ jp
  have hjp : ∀ (x : List Val), KeepsCanon (jp x) := by
    intro _
    unfold jp
    split
    · exact .pure _
    · exact .pure _
    · refine .bind .rd fun _ => ?_
      extract_lets
      refine .bind .rd fun _ => ?_
      extract_lets
      refine ite_holds ?_ ?_
      · exact .pure _
      · exact .getDev_bind fun _ _ => .bind .ensure fun _ => .bind .wr fun _ => .bind .wr fun _ => .bind .wr fun _ => .bind .rd fun _ =>
            .bind .wr fun _ => .pure _
  clear_value jp
  exact ite_holds (.pure _) (ite_holds (.bind (.bind .centroid (fun _ => .pure _)) (fun _ => hjp _)) (.bind (.pure _) (fun _ => hjp _)))

theorem KeepsCanon.insertAll {x : IndexRec} {book : List Byte} {l : List (Nat × Nat × List Val)} {x1 : InsTally} :
    KeepsCanon (insertAll x book l x1) := by
  induction l generalizing x1 with
  | nil => exact .pure _
  | cons _ _ ih =>
    unfold Machine.insertAll
    refine .bind (.caught .insertOne) fun _ => ?_
    split
    · exact .pure _
    · exact ih

theorem KeepsCanon.vinsertM {l : Line} : KeepsCanon (vinsertM l) := by
  unfold Machine.vinsertM
  refine .bind .read fun _ => ?_
  extract_lets
  refine .bind .ensure fun _ => .bind .boundIndex fun _ => ?_
  extract_lets x _ jp
  have hjp : ∀ (x : Unit), KeepsCanon (jp x) := by
    intro _
    unfold jp
    refine .bind (.atStage .rdV) fun _ => .bind (.atStage .rdV) fun _ => .bind (.atStage .rdV) fun _ => ?_
    refine .bind (.atStage .codebook) fun _ => ?_
    extract_lets
    exact .bind (.atStage .insertAll) fun _ => .bind .mixedEnds fun _ => .endRun
  clear_value jp
  exact .bind .ensure fun _ => .bind .ensure fun _ => .getDev_bind fun _ _ => ite_holds (.bind .halt (fun _ => hjp _)) (hjp _)

theorem CanonAt.execVinsert {q n : Nat} {s : State} (h : CanonAt s) : CanonNext (execVinsert q n s) := h.desc fun _ => .vinsertM
theorem KeepsCanon.deleteOne {x : IndexRec} {id : Nat} : KeepsCanon (deleteOne x id) := .bind .rd fun _ => .wr

theorem KeepsCanon.deleteAllIds {x : IndexRec} {l : List Nat} {x1 : Nat × Nat × List Nat} : KeepsCanon (deleteAllIds x l x1) := by
  induction l generalizing x1 with
  | nil => exact .pure _
  | cons _ _ ih =>
    unfold Machine.deleteAllIds
    refine ite_holds ih (.bind (.caught .deleteOne) fun _ => ?_)
    split <;> exact ih

theorem KeepsCanon.vdeleteM {l : Line} : KeepsCanon (vdeleteM l) := by
  unfold Machine.vdeleteM
  refine .bind .read fun _ => ?_
  extract_lets
  refine .bind .ensure fun _ => .bind .boundIndex fun _ => ?_
  extract_lets x jp
  have hjp : ∀ (x : Unit), KeepsCanon (jp x) := by
    intro _
    unfold jp
    refine .bind (.atStage .rdV) fun _ => .bind (.atStage .deleteAllIds) fun _ => ?_
    split
    · exact .bind .mixedEnds fun _ => .endRun
  clear_value jp
  exact .bind .ensure fun _ => .getDev_bind fun _ _ => ite_holds (.bind .halt (fun _ => hjp _)) (hjp _)

theorem CanonAt.execVdelete {q n : Nat} {s : State} (h : CanonAt s) : CanonNext (execVdelete q n s) := h.desc fun _ => .vdeleteM

end Sys2Proof.Machine
end

section
/-! SUPPORT. T0's memory stays canonical: timetables and watch events. -/

namespace Sys2Proof.Machine

open Sys2Proof

theorem Canon.forgetRead {d : Dev} {id : DescId} {acc : List Acc} (h : Canon d) : Canon (Dev.forgetRead d id acc) := h.modStarted

theorem Canon.tableRun {α : Type} {d : Dev} {id : DescId} {k : Nat} {eng : Nat → Engine} {m : M α} (h : Canon d) (h_m : KeepsCanon m) :
    InSnd Canon (Dev.tableRun d id k eng m) := by
  unfold Dev.tableRun
  split
  · split
    · exact h
    · refine ite_holds h ?_
      extract_lets
      split
      next s heq =>
        have hs : CanonRun s := holds_of_eq (P := InSnd CanonRun) (h.runM h_m) heq
        exact hs.commit.chargeRun.setIssued.forgetRead.modTable
      next s heq =>
        have hs : CanonRun s := holds_of_eq (P := InSnd CanonRun) (h.runM h_m) heq
        exact hs.commit.chargeRun.setIssued.forgetRead
      next s heq =>
        have hs : CanonRun s := holds_of_eq (P := InSnd CanonRun) (h.runM h_m) heq
        exact hs.setIssued.flushFaults
  · exact h

theorem Canon.entryFails {d : Dev} {id : DescId} {k st : Nat} (h : Canon d) : Canon (Dev.entryFails d id k st) := h.modTable.tableEnds

theorem KeepsCanon.semaphoreM {dva : Nat} : KeepsCanon (semaphoreM dva) :=
  .bind .xlate fun _ => .getDev_bind fun _ _ => .bind .ensure fun _ => .bind .rd fun _ => .pure _

theorem Canon.evalWait {d : Dev} {id : DescId} {k : Nat} (h : Canon d) : InSnd Canon (Dev.evalWait d id k) := by
  unfold Dev.evalWait
  split
  · exact h
  · refine ite_holds h ?_
    split
    next d1 heq =>
      have hd1 : Canon d1 := holds_of_eq (P := InSnd Canon) (h.tableRun .semaphoreM) heq
      exact hd1
    next d1 heq =>
      have hd1 : Canon d1 := holds_of_eq (P := InSnd Canon) (h.tableRun .semaphoreM) heq
      exact hd1.entryFails
    next d1 heq =>
      have hd1 : Canon d1 := holds_of_eq (P := InSnd Canon) (h.tableRun .semaphoreM) heq
      exact ite_holds hd1.modTable (ite_holds hd1 hd1.submit)

theorem Canon.disarmRest {d : Dev} {id : DescId} {lines : List Nat} (h : Canon d) : Canon (Dev.disarmRest d id lines) :=
  foldl_holds (P := Canon) h fun _ _ hpl => hpl.disarmLine

theorem Canon.tableWaits {d : Dev} {id : DescId} (h : Canon d) : Canon (Dev.tableWaits d id) := by
  unfold Dev.tableWaits
  split
  · exact h
  · split
    next d1 heq =>
      have hd1 : Canon d1 := by
        refine holds_of_eq (P := InSnd Canon) ?_ heq
        refine foldl_holds (P := InSnd Canon) h ?_
        intro _ _ hk
        split
        next d2 heq1 =>
          have hd2 : Canon d2 := holds_of_eq (P := InSnd Canon) hk.evalWait heq1
          exact hd2
      split
      · exact hd1
      · exact ite_holds hd1 hd1.disarmRest

theorem KeepsCanon.timetableRunM {l : Line} : KeepsCanon (timetableRunM l) := by
  unfold Machine.timetableRunM
  refine .bind .read fun _ => .getDev_bind fun _ _ => ?_
  extract_lets _ _ jp
  have hjp : ∀ (x : Unit), KeepsCanon (jp x) := by
    intro x
    unfold jp
    refine .bind .ensure fun _ => .bind .rdRawV fun _ => ?_
    split
    · extract_lets _ jp1
      have hjp1 : ∀ (x : Unit), KeepsCanon (jp1 x) := fun _ => .bind .ensure fun _ => .bind (.modDev (fun _ hd1 => hd1)) fun _ => .need
      clear_value jp1
      exact ite_holds (.bind .halt (fun _ => hjp1 _)) (hjp1 _)
  clear_value jp
  exact ite_holds (.bind .need (fun _ => hjp _)) (hjp _)

theorem CanonAt.execTimetableRun {q n : Nat} {s : State} (h : CanonAt s) : CanonNext (execTimetableRun q n s) := by
  unfold Machine.execTimetableRun
  refine CanonAt.onDev h fun _ hy1 => ?_
  extract_lets _ d
  have hd : Canon d := hy1.runDesc fun _ => .timetableRunM
  clear_value d
  exact ite_holds hd hd.tableWaits

theorem KeepsCanon.promoteFrames {e : TtEntry} : KeepsCanon (promoteFrames e) :=
  .bind .read fun _ => .bind .ensure fun _ => .bind .xlateAll fun _ => .getDev_bind fun _ _ => .bind .ensure fun _ => .bind .ensure fun _ => .pure _

theorem KeepsCanon.startEntryM {e : TtEntry} : KeepsCanon (startEntryM e) := by
  unfold Machine.startEntryM
  extract_lets jp
  have hjp : ∀ (x : Unit), KeepsCanon (jp x) := by
    intro _
    unfold jp
    refine ite_holds ?_ ?_
    · exact ite_holds (.bind .ensure (fun _ => .bind .xlateAll (fun _ => .bind .xlateAll (fun _ => .pure _)))) (.pure _)
    · refine .bind .promoteFrames fun _ => .modDev fun _ hd => ?_
      extract_lets d1
      have hd1 : Canon d1 := by
        unfold d1
        refine foldl_holds (P := Canon) hd ?_
        intro _ _ hf
        split
        · exact ite_holds hf hf
        · exact hf
      clear_value d1
      exact hd1.tryWanted
  clear_value jp
  exact ite_holds (.bind .xlate (fun _ => .getDev_bind (fun _ _ => .bind .ensure (fun _ => hjp _)))) (hjp _)

theorem CanonAt.execTimetableEntryStart {q n i : Nat} {s : State} (h : CanonAt s) : CanonNext (execTimetableEntryStart q n i s) := by
  unfold Machine.execTimetableEntryStart
  refine CanonAt.onDev h fun _ hy1 => ?_
  split
  · refine ite_holds hy1 ?_
    split
    next heq => exact holds_of_eq (P := InSnd Canon) (hy1.tableRun .startEntryM) heq
    next d heq =>
      have hd : Canon d := holds_of_eq (P := InSnd Canon) (hy1.tableRun .startEntryM) heq
      exact hd.entryFails
    next d heq =>
      have hd : Canon d := holds_of_eq (P := InSnd Canon) (hy1.tableRun .startEntryM) heq
      exact hd.modTable
  · exact hy1

theorem KeepsCanon.framesOpen {l : List Nat} : KeepsCanon (framesOpen l) := by
  induction l with
  | nil => exact .pure _
  | cons _ _ ih =>
    unfold Machine.framesOpen
    refine .bind .read fun _ => .getDev_bind fun _ hd => ?_
    split
    next d1 heq =>
      have hd1 : Canon d1 := holds_of_eq (P := InSnd Canon) hd.extCheck heq
      exact .bind (.modDev (fun _ _ => hd1)) fun _ => ite_holds (.bind .halt (fun _ => ih)) ih

theorem KeepsCanon.allInT0 {l : List Nat} : KeepsCanon (allInT0 l) := by
  induction l with
  | nil => exact .pure _
  | cons _ _ ih =>
    unfold Machine.allInT0
    refine .getDev_bind fun _ _ => ?_
    split
    · exact ih
    · exact ite_holds ih (.bind .readyLine (fun _ => ite_holds (.bind .halt (fun _ => .need)) .need))

theorem KeepsCanon.workEntryM {e : TtEntry} : KeepsCanon (workEntryM e) := by
  unfold Machine.workEntryM
  refine ite_holds ?_ ?_
  · exact .bind .promoteFrames fun _ => .bind .framesOpen fun _ => .bind .allInT0 fun _ => .pure _
  · refine ite_holds (.pure _) (.bind .movedByBays fun _ => ?_)
    refine .bind .rdRawV fun _ => ?_
    split
    · exact .bind .xlateAll fun _ => .bind .wrPiecesMixed fun _ => .pure _

theorem KeepsCanon.incrementM {e : TtEntry} : KeepsCanon (incrementM e) :=
  ite_holds (.bind .xlate (fun _ => .getDev_bind (fun _ _ => .bind .ensure (fun _ => .bind .atom (fun _ => .pure _))))) (.pure _)

theorem Canon.entryEnds {d : Dev} {id : DescId} {i : Nat} (h : Canon d) : Canon (Dev.entryEnds d id i) := by
  unfold Dev.entryEnds
  split
  · exact h
  · refine ite_holds h ?_
    split
    next heq => exact holds_of_eq (P := InSnd Canon) (h.tableRun .incrementM) heq
    next d1 heq =>
      have hd1 : Canon d1 := holds_of_eq (P := InSnd Canon) (h.tableRun .incrementM) heq
      exact hd1.entryFails
    next d1 heq =>
      have hd1 : Canon d1 := holds_of_eq (P := InSnd Canon) (h.tableRun .incrementM) heq
      exact hd1.modTable.tableWaits.tableEnds

theorem CanonAt.execTimetableEntryComplete {q n i : Nat} {s : State} (h : CanonAt s) : CanonNext (execTimetableEntryComplete q n i s) := by
  unfold Machine.execTimetableEntryComplete
  refine CanonAt.onDev h fun _ hy1 => ?_
  split
  · exact hy1
  · refine ite_holds ?_ ?_
    · split
      next heq => exact holds_of_eq (P := InSnd Canon) (hy1.tableRun .workEntryM) heq
      next d heq =>
        have hd : Canon d := holds_of_eq (P := InSnd Canon) (hy1.tableRun .workEntryM) heq
        exact hd.entryFails
      next d heq =>
        have hd : Canon d := holds_of_eq (P := InSnd Canon) (hy1.tableRun .workEntryM) heq
        exact ite_holds hd.entryFails hd.modTable.entryEnds
    · exact hy1.entryEnds

theorem CanonAt.execSemaphorePoll {q n i : Nat} {s : State} (h : CanonAt s) : CanonNext (execSemaphorePoll q n i s) :=
  h.onDev fun _ hy1 => ite_holds hy1.evalWait hy1

theorem CanonAt.execTimetableWaitTmo {q n i : Nat} {s : State} (h : CanonAt s) : CanonNext (execTimetableWaitTmo q n i s) := by
  unfold Machine.execTimetableWaitTmo
  refine CanonAt.onDev h fun _ hy1 => ?_
  split
  · exact hy1
  · exact ite_holds hy1.entryFails hy1

theorem Canon.watchEvent {d : Dev} {x : Armer} (h : Canon d) : Canon (Dev.watchEvent d x) := by
  unfold Dev.watchEvent
  extract_lets gone
  have hgone : ∀ (d : Dev), Canon d → Canon (gone d) := fun _ hd1 => hd1
  clear_value gone
  refine ite_holds h ?_
  split
  · split
    next d1 heq =>
      have hd1 : Canon d1 := holds_of_eq (P := InSnd Canon) h.readDoorbell heq
      exact ite_holds (hgone _ hd1) hd1
  · split
    next d1 heq =>
      have hd1 : Canon d1 := holds_of_eq (P := InSnd Canon) h.flushTry heq
      exact ite_holds (hgone _ hd1) hd1
  · exact (hgone _ h).tableWaits

theorem CanonAt.execWatchEvent {armer : Armer} {s : State} (h : CanonAt s) : CanonNext (execWatchEvent armer s) :=
  h.onDev fun _ hy1 => hy1.watchEvent

end Sys2Proof.Machine
end

section
/-! SUPPORT. T0's memory stays canonical: ports. -/

namespace Sys2Proof.Machine

open Sys2Proof

theorem Canon.requeue {d : Dev} {p : Nat} (h : Canon d) : Canon (Dev.requeue d p) := foldl_holds (P := Canon) h.setPort fun _ _ hq => hq.sendOn

theorem Canon.leavePort {d : Dev} {p : Nat} {st : PortState} (h : Canon d) : Canon (Dev.leavePort d p st) :=
  Canon.requeue (ite_holds h.setPort.train h.setPort.setPortSt)

theorem Canon.restPort {d : Dev} {p : Nat} (h : Canon d) : Canon (Dev.restPort d p) := ite_holds h.leavePort (ite_holds h.leavePort h.leavePort)

theorem Canon.writePortCfg {d : Dev} {p v : Nat} (h : Canon d) : Canon (Dev.writePortCfg d p v) := by
  unfold Dev.writePortCfg
  extract_lets _ d1
  have hd1 : Canon d1 := h.setRf
  clear_value d1
  split
  · exact hd1
  · exact ite_holds hd1.leavePort (ite_holds (ite_holds hd1 hd1.leavePort) (ite_holds (ite_holds hd1 hd1.leavePort) (ite_holds hd1.restPort hd1)))

theorem CanonAt.execPortEnWrite {path : Path} {port : Nat} {en : Bool} {s : State} (h : CanonAt s) : CanonNext (execPortEnWrite path port en s) :=
  h.onPathDev fun _ hy1 => ite_holds hy1 hy1.writePortCfg

theorem CanonAt.execPortFenceWrite {path : Path} {port : Nat} {fence : Bool} {s : State} (h : CanonAt s) :
    CanonNext (execPortFenceWrite path port fence s) :=
  h.onPathDev fun _ hy1 => ite_holds hy1 hy1.writePortCfg

theorem CanonAt.execModuleInsert {port : Nat} {s : State} (h : CanonAt s) : CanonNext (execModuleInsert port s) :=
  h.onDev fun _ hy1 => ite_holds hy1 hy1.setPort.restPort

theorem CanonAt.execModuleRemove {port : Nat} {s : State} (h : CanonAt s) : CanonNext (execModuleRemove port s) :=
  h.onDev fun _ hy1 => ite_holds hy1 hy1.setPort.leavePort

theorem Canon.sendNeigh {d : Dev} {p : Nat} {stopping : Bool} (h : Canon d) : Canon (Dev.sendNeigh d p stopping) := by
  unfold Dev.sendNeigh
  extract_lets
  refine ite_holds h (ite_holds (Canon.setPort h) ?_)
  split
  next y _ _ =>
    exact Canon.of_mem_eq (Canon.setPort h : Canon (d.setPort p y)) rfl

theorem CanonAt.execNeighSend {port : Nat} {s : State} (h : CanonAt s) : CanonNext (execNeighSend port s) := h.onDev fun _ hy1 => hy1.sendNeigh
theorem Canon.noteNeigh {d : Dev} {p : Nat} {n : Neighbour} (h : Canon d) : Canon (Dev.noteNeigh d p n) := ite_holds h.setPort.leavePort h.setPort

theorem CanonAt.execPortTrainSuccess {port lambda : Nat} {nbr : Neighbour} {credits : List Nat} {s : State} (h : CanonAt s) :
    CanonNext (execPortTrainSuccess port lambda nbr credits s) :=
  h.onDev fun _ hy1 => ite_holds hy1 hy1.setPort.setPortSt.send.sendNeigh.noteNeigh.pump

theorem CanonAt.execPortTrainFail {port : Nat} {s : State} (h : CanonAt s) : CanonNext (execPortTrainFail port s) :=
  h.onDev fun _ hy1 => ite_holds hy1 (ite_holds hy1.setPort.train hy1.leavePort.event)

theorem CanonAt.execPortLinkLoss {port : Nat} {s : State} (h : CanonAt s) : CanonNext (execPortLinkLoss port s) :=
  h.onDev fun _ hy1 => ite_holds hy1.leavePort hy1

theorem Canon.dozePort {d : Dev} {p : Nat} (h : Canon d) : Canon (Dev.dozePort d p) :=
  ite_holds h ((Canon.of_mem_eq (Canon.leavePort (Canon.sendNeigh h) : Canon ((d.sendNeigh p true).leavePort p PortState.doze)) rfl))

theorem CanonAt.execPortDoze {port : Nat} {s : State} (h : CanonAt s) : CanonNext (execPortDoze port s) := by
  unfold Machine.execPortDoze
  refine CanonAt.onDev h fun _ hy1 => ?_
  extract_lets
  refine ite_holds hy1 (ite_holds hy1.dozePort ?_)
  split
  · exact ite_holds hy1.leavePort hy1
  · exact hy1

theorem CanonAt.execPortWake {port : Nat} {cause : WakeCause} {s : State} (h : CanonAt s) : CanonNext (execPortWake port cause s) := by
  unfold Machine.execPortWake
  refine CanonAt.onDev h fun _ hy1 => ?_
  extract_lets
  refine ite_holds hy1 ?_
  split
  · exact ite_holds hy1 hy1.send
  · exact ite_holds ((Canon.setPort (ite_holds hy1 hy1.abortEntry.startWake)).train) (ite_holds hy1 hy1.abortEntry.startWake)

theorem Canon.admits {d : Dev} {m : FabMsg} (h : Canon d) : InSnd Canon (Dev.admits d m) := by
  unfold Dev.admits
  refine ite_holds h ?_
  split
  · exact h
  · exact ite_holds h (ite_holds h.stat h)

theorem Canon.freeBuf {d : Dev} {p : Nat} {m : FabMsg} (h : Canon d) : Canon (Dev.freeBuf d p m) := h.oweCredits

theorem Canon.receive {d : Dev} {p : Nat} {m : FabMsg} (h : Canon d) : Canon (Dev.receive d p m) := by
  unfold Dev.receive
  split
  next d1 heq =>
    have hd1 : Canon d1 := holds_of_eq (P := InSnd Canon) h.admits heq
    exact hd1.freeBuf
  next d1 heq =>
    have hd1 : Canon d1 := holds_of_eq (P := InSnd Canon) h.admits heq
    extract_lets keep
    have hkeep : ∀ (d : Dev), Canon d → Canon (keep d) := fun _ hd2 => hd2.abortEntry
    clear_value keep
    refine ite_holds hd1 ?_
    split
    · exact hkeep _ hd1
    · exact hd1.forward

theorem Canon.sendAck {d : Dev} {p : Nat} {nak : Bool} (h : Canon d) : Canon (Dev.sendAck d p nak) := by
  unfold Dev.sendAck
  split
  next y _ _ =>
    split
    · exact Canon.of_mem_eq (Canon.setPort h : Canon (d.setPort p y)) rfl
    · exact h

theorem Canon.askAgain {d : Dev} {p : Nat} (h : Canon d) : Canon (Dev.askAgain d p) := ite_holds h.setPort h.setPort.sendAck

theorem Canon.resendFlits {d : Dev} {p : Nat} (h : Canon d) : Canon (Dev.resendFlits d p) :=
  ite_holds h (ite_holds h.leavePort (foldl_holds (P := Canon) h.setPort.stat fun _ _ hf => hf.send))

theorem Canon.takeFlit {d : Dev} {p : Nat} {f : Flit} {space : List (Byte × Bool)} (h : Canon d) : Canon (Dev.takeFlit d p f space) := by
  unfold Dev.takeFlit
  extract_lets d1 d2 d3
  have hd1 : Canon d1 := h.setPort
  have hd2 : Canon d2 := ite_holds hd1.resendFlits hd1
  have hd3 : Canon d3 := ite_holds hd2.askAgain hd2
  clear_value d1 d2 d3
  refine ite_holds hd3.pump ?_
  split
  · exact Canon.pump (foldl_holds (P := Canon) hd3.setPort fun _ _ hm => hm.receive)

theorem CanonAt.execFlitReceive {port : Nat} {words : List (List Byte)} {s : State} (h : CanonAt s) : CanonNext (execFlitReceive port words s) :=
  h.onDev fun _ hy1 => ite_holds hy1 (ite_holds (ite_holds hy1.charge hy1.charge.askAgain) hy1.charge.takeFlit)

end Sys2Proof.Machine
end

section
/-! SUPPORT. T0's memory stays canonical: messages, flows and their timers. -/

namespace Sys2Proof.Machine

open Sys2Proof

theorem Canon.arrive {d : Dev} {p : Nat} {m : FabMsg} {f : Dev → Dev} (h : Canon d) (h_f : ∀ y1, Canon y1 → Canon (f y1)) :
    Canon (Dev.arrive d p m f) := by
  unfold Dev.arrive
  refine ite_holds (h_f _ h.takeUp) (ite_holds h ?_)
  split
  next d1 heq =>
    have hd1 : Canon d1 := holds_of_eq (P := InSnd Canon) h.admits heq
    exact hd1.freeBuf
  next d1 heq =>
    have hd1 : Canon d1 := holds_of_eq (P := InSnd Canon) h.admits heq
    refine ite_holds (h_f _ hd1.freeBuf) ?_
    split
    · exact h_f _ hd1.freeBuf.abortEntry
    · exact hd1.forward

theorem CanonAt.message {s : State} {type p : Nat} {m : FabMsg} {f : Dev → Dev} (h : CanonAt s) (h_f : ∀ y1, Canon y1 → Canon (f y1)) :
    CanonNext (State.message s type p m f) :=
  h.onDev fun _ hy1 => ite_holds (hy1.arrive (fun _ hy11 => h_f _ hy11)) hy1

theorem Canon.hold {d : Dev} {m : FabMsg} (h : Canon d) : Canon (Dev.hold d m) := Canon.serveFabs (h.of_mem_eq rfl)
theorem Canon.accept {d : Dev} {m : FabMsg} (h : Canon d) : Canon (Dev.accept d m) := ite_holds h h.hold
theorem CanonAt.execRd {port : Nat} {m : FabMsg} {s : State} (h : CanonAt s) : CanonNext (execRd port m s) := h.message fun _ hy1 => hy1.accept

theorem CanonAt.execBulkRd {port : Nat} {m : FabMsg} {s : State} (h : CanonAt s) : CanonNext (execBulkRd port m s) :=
  h.message fun _ hy1 => hy1.accept

theorem CanonAt.execEcho {port : Nat} {m : FabMsg} {s : State} (h : CanonAt s) : CanonNext (execEcho port m s) := h.message fun _ hy1 => hy1.respond
theorem Canon.flowNak {d : Dev} {m : FabMsg} {reason expect : Nat} (h : Canon d) : Canon (Dev.flowNak d m reason expect) := h.stat.respond

theorem Canon.ackAgain {d : Dev} {f : FlowIn} {m : FabMsg} (h : Canon d) : Canon (Dev.ackAgain d f m) := by
  unfold Dev.ackAgain
  refine ite_holds h (ite_holds ?_ ?_)
  · split
    · exact ite_holds h.respond h
    · exact h
  · exact ite_holds h.respond h.respond

theorem Canon.takeFragment {d : Dev} {m : FabMsg} (h : Canon d) : InSome Canon (Dev.takeFragment d m) := by
  unfold Dev.takeFragment
  extract_lets _ taken
  have htaken : ∀ (d : Dev), Canon d → Canon (taken d) := fun _ hd1 => Canon.meter hd1
  clear_value taken
  exact ite_holds (htaken _ (h.of_mem_eq rfl)) (ite_holds (htaken _ h) (ite_holds trivial (htaken _ (h.of_mem_eq rfl))))

theorem Canon.inOrder {d : Dev} {f : FlowIn} {m : FabMsg} (h : Canon d) : Canon (Dev.inOrder d f m) := by
  unfold Dev.inOrder
  extract_lets
  refine ite_holds ?_ ?_
  · split
    · exact h.setFlowIn.flowNak
    next d1 heq =>
      have hd1 : Canon d1 := holds_of_eq (P := InSome Canon) h.takeFragment heq
      exact hd1.setFlowIn.hold.serveSubs
  · exact h.setFlowIn.accept

theorem Canon.writeClassIn {d : Dev} {m : FabMsg} (h : Canon d) : Canon (Dev.writeClassIn d m) := by
  unfold Dev.writeClassIn
  split
  · exact ite_holds h.flowNak (ite_holds h.flowNak h.inOrder)
  · exact ite_holds h.inOrder (ite_holds h.ackAgain (ite_holds (ite_holds h h.setFlowIn.flowNak) h))

theorem CanonAt.execWr {port : Nat} {m : FabMsg} {s : State} (h : CanonAt s) : CanonNext (execWr port m s) :=
  h.message fun _ hy1 => hy1.writeClassIn

theorem CanonAt.execWrn {port : Nat} {m : FabMsg} {s : State} (h : CanonAt s) : CanonNext (execWrn port m s) :=
  h.message fun _ hy1 => hy1.writeClassIn

theorem CanonAt.execAtom {port : Nat} {m : FabMsg} {s : State} (h : CanonAt s) : CanonNext (execAtom port m s) :=
  h.message fun _ hy1 => hy1.writeClassIn

theorem CanonAt.execSubdesc {port : Nat} {m : FabMsg} {s : State} (h : CanonAt s) : CanonNext (execSubdesc port m s) :=
  h.message fun _ hy1 => hy1.writeClassIn

theorem CanonAt.execParityMsg {port : Nat} {m : FabMsg} {s : State} (h : CanonAt s) : CanonNext (execParityMsg port m s) :=
  h.message fun _ hy1 => hy1.writeClassIn

theorem CanonAt.execWrdoneTimer {src sidx : Nat} {s : State} (h : CanonAt s) : CanonNext (execWrdoneTimer src sidx s) := by
  unfold Machine.execWrdoneTimer
  refine CanonAt.onDev h fun _ hy1 => ?_
  split
  · exact hy1
  · exact ite_holds hy1.setFlowIn hy1.setFlowIn.respond

theorem CanonAt.execFlowExpiry {here : Bool} {node sidx : Nat} {s : State} (h : CanonAt s) : CanonNext (execFlowExpiry here node sidx s) :=
  h.onDev fun _ hy1 => ite_holds (ite_holds hy1 hy1) hy1

theorem Canon.dropOut {d : Dev} {o : FabOut} (h : Canon d) : Canon (Dev.dropOut d o) := h.dropReq
theorem Canon.giveLines {d : Dev} {i : DescId} {ls : List RemoteLine} (h : Canon d) : Canon (Dev.giveLines d i ls) := h.modStarted

theorem Canon.descStatus {d : Dev} {i : DescId} {tag st : Nat} (h : Canon d) : Canon (Dev.descStatus d i tag st) := by
  unfold Dev.descStatus
  split
  · exact h.noteStatus
  · split
    · exact h.entryFails
    · exact h.noteStatus

theorem Canon.sourceLost {d : Dev} {f : Nat} (h : Canon d) : Canon (Dev.sourceLost d f) := by
  unfold Dev.sourceLost
  split
  · exact h
  · extract_lets d1
    have hd1 : Canon d1 := h
    clear_value d1
    refine ite_holds ?_ ?_
    · split
      next heq => exact holds_of_eq (P := InSome Canon) hd1.rebuildReads heq
      · exact hd1.promoFailed
    · exact hd1.promoFailed

theorem Canon.outFails {d : Dev} {o : FabOut} {st : Nat} (h : Canon d) : Canon (Dev.outFails d o st) := by
  unfold Dev.outFails
  extract_lets d1
  have hd1 : Canon d1 := h.dropOut
  clear_value d1
  split
  · exact ite_holds hd1.descStatus (ite_holds hd1.giveLines hd1.giveLines)
  · exact hd1.notePart
  · exact ite_holds hd1.sourceLost hd1.promoFailed
  · split
    · exact ite_holds hd1.dropRebuild hd1.promoFailed
    · exact hd1
  · exact hd1.abandonDemotion
  · exact ite_holds hd1.parityUnanswered hd1.parityAck
  · exact hd1.queueErr
  · exact hd1
  · exact hd1
  · exact hd1
  · exact hd1.moveFails

theorem Canon.acked {d : Dev} {ms : List FabMsg} (h : Canon d) : Canon (Dev.acked d ms) := by
  unfold Dev.acked
  refine foldl_holds (P := Canon) h ?_
  intro _ _ hm
  refine ite_holds hm ?_
  split
  · exact hm
  · extract_lets d2
    have hd2 : Canon d2 := hm.dropOut
    clear_value d2
    split
    · exact hd2.parityAck
    · exact ite_holds hd2.giveLines hd2
    · exact hd2

theorem Canon.chargeIn {d : Dev} {m : FabMsg} (h : Canon d) : Canon (Dev.chargeIn d m) := by
  unfold Dev.chargeIn
  split
  · exact h.chargeFab
  · exact h

theorem Canon.answer {d : Dev} {m : FabMsg} {type : Nat} {f : FabOut → Dev → Dev} (h : Canon d) (h_f : ∀ y1, ∀ y2, Canon y2 → Canon (f y1 y2)) :
    Canon (Dev.answer d m type f) := by
  unfold Dev.answer
  split
  · exact h
  · exact ite_holds (h_f _ _ h.chargeIn) h

theorem CanonAt.execRdData {port : Nat} {m : FabMsg} {s : State} (h : CanonAt s) : CanonNext (execRdData port m s) := by
  unfold Machine.execRdData
  refine CanonAt.message h fun _ hy1 => Canon.answer hy1 fun _ _ hy2 => ite_holds hy2.outFails ?_
  split
  · exact hy2.dropOut.giveLines
  · exact hy2.dropOut

theorem Canon.bulkDone {d : Dev} {o : FabOut} {ls : List (List Byte × Bool)} (h : Canon d) : Canon (Dev.bulkDone d o ls) := by
  unfold Dev.bulkDone
  extract_lets d1
  have hd1 : Canon d1 := Canon.dropOut h
  clear_value d1
  split
  · split
    · exact Canon.giveLines hd1
    · exact hd1.of_mem_eq rfl
    · exact Canon.endRebuild (hd1.of_mem_eq rfl)
    · exact hd1

theorem CanonAt.execBulkData {port : Nat} {m : FabMsg} {s : State} (h : CanonAt s) : CanonNext (execBulkData port m s) :=
  h.message fun _ hy1 => hy1.answer fun _ _ hy2 => ite_holds hy2.outFails (ite_holds hy2.bulkDone hy2)

theorem CanonAt.execAtomData {port : Nat} {m : FabMsg} {s : State} (h : CanonAt s) : CanonNext (execAtomData port m s) := by
  unfold Machine.execAtomData
  refine CanonAt.message h fun _ hy1 => Canon.answer hy1 fun _ _ hy2 => ?_
  split
  next d heq =>
    have hd : Canon d := holds_of_eq (P := InSnd Canon) hy2.ackFlow heq
    extract_lets d1
    have hd1 : Canon d1 := hd.acked.dropOut
    clear_value d1
    split
    · exact hd1.giveLines
    · exact hd1

theorem CanonAt.execWrdone {port : Nat} {m : FabMsg} {s : State} (h : CanonAt s) : CanonNext (execWrdone port m s) := by
  unfold Machine.execWrdone
  refine CanonAt.message h fun _ hy1 => ?_
  split
  next d heq =>
    have hd : Canon d := holds_of_eq (P := InSnd Canon) hy1.ackFlow heq
    exact hd.acked

theorem CanonAt.execWrack {port : Nat} {m : FabMsg} {s : State} (h : CanonAt s) : CanonNext (execWrack port m s) := by
  unfold Machine.execWrack
  refine CanonAt.message h fun _ hy1 => ?_
  split
  next d heq =>
    have hd : Canon d := holds_of_eq (P := InSnd Canon) hy1.chargeIn.ackFlow heq
    refine ite_holds hd.acked ?_
    extract_lets d1
    have hd1 : Canon d1 := hd.acked
    clear_value d1
    split
    · exact hd1.outFails
    · exact hd1

theorem CanonAt.execPartialMsg {port : Nat} {m : FabMsg} {s : State} (h : CanonAt s) : CanonNext (execPartialMsg port m s) := by
  unfold Machine.execPartialMsg
  refine CanonAt.message h fun _ hy1 => Canon.answer hy1 fun _ _ hy2 => ?_
  extract_lets d
  have hd : Canon d := hy2.dropOut
  clear_value d
  split
  · exact hd.notePart
  · exact hd

theorem CanonAt.execEchoRsp {port : Nat} {m : FabMsg} {s : State} (h : CanonAt s) : CanonNext (execEchoRsp port m s) := by
  unfold Machine.execEchoRsp
  refine CanonAt.message h fun _ hy1 => Canon.answer hy1 fun _ _ hy2 => ?_
  extract_lets d
  have hd : Canon d := hy2.dropOut
  clear_value d
  split
  · split <;> exact hd
  · exact hd

theorem CanonAt.execFlownak {port : Nat} {m : FabMsg} {s : State} (h : CanonAt s) : CanonNext (execFlownak port m s) := by
  unfold Machine.execFlownak
  refine CanonAt.message h fun _ hy1 => ?_
  extract_lets
  refine ite_holds ?_ ?_
  · split
    · exact hy1.resendFrom
    · exact hy1
  · exact ite_holds hy1.resendFrom hy1

theorem CanonAt.execE2eResend {dst sidx tag : Nat} {s : State} (h : CanonAt s) : CanonNext (execE2eResend dst sidx tag s) := by
  unfold Machine.execE2eResend
  refine CanonAt.onDev h fun _ hy1 => ?_
  split
  · exact hy1
  · exact ite_holds hy1.resendFrom hy1.sendOwn

theorem CanonAt.execFabReqTmoExpiry {dst sidx tag : Nat} {s : State} (h : CanonAt s) : CanonNext (execFabReqTmoExpiry dst sidx tag s) := by
  unfold Machine.execFabReqTmoExpiry
  refine CanonAt.onDev h fun _ hy1 => ?_
  split
  · exact hy1
  · refine ite_holds hy1.outFails ?_
    split
    next d heq =>
      have hd : Canon d := holds_of_eq (P := InSnd Canon) hy1.endFlow heq
      extract_lets d1
      have hd1 : Canon d1 := by
        unfold d1
        refine foldl_holds (P := Canon) hd ?_
        intro _ _ hm
        split
        · exact hm.outFails
        · exact hm
      clear_value d1
      split
      · exact hd1.outFails
      · exact hd1

theorem Canon.unqueue {d : Dev} {p : Nat} {q : Queued} (h : Canon d) : Canon (Dev.unqueue d p q) := h.setPort.releaseAll

theorem CanonAt.execAgeDiscard {port : Nat} {m : FabMsg} {s : State} (h : CanonAt s) : CanonNext (execAgeDiscard port m s) := by
  unfold Machine.execAgeDiscard
  refine CanonAt.onDev h fun _ hy1 => ite_holds hy1 ?_
  split
  · exact hy1.unqueue.stat
  · exact hy1

theorem CanonAt.execNeigh {port : Nat} {m : FabMsg} {s : State} (h : CanonAt s) : CanonNext (execNeigh port m s) :=
  h.message fun _ hy1 => ite_holds hy1.noteNeigh hy1

theorem Canon.startBringup {d : Dev} (h : Canon d) : Canon (Dev.startBringup d) := by
  unfold Dev.startBringup
  refine ite_holds h ?_
  extract_lets _ d1
  have hd1 : Canon d1 := h.of_mem_eq rfl
  clear_value d1
  exact foldl_holds (P := Canon) hd1 fun _ _ hn => ite_holds hn (foldl_holds (P := Canon) hn fun _ _ hx => Canon.request (hx.of_mem_eq rfl))

theorem Canon.writeFabCtrl {d : Dev} {v : Nat} (h : Canon d) : Canon (Dev.writeFabCtrl d v) := ite_holds h.setRf.startBringup h.setRf
theorem CanonAt.execBringup {path : Path} {s : State} (h : CanonAt s) : CanonNext (execBringup path s) := h.onPathDev fun _ hy1 => hy1.writeFabCtrl

theorem Canon.applyBringup {d : Dev} {span worst : Nat} (h : Canon d) : Canon (Dev.applyBringup d span worst) := by
  unfold Dev.applyBringup
  extract_lets d1 _ d2 d3
  have hd1 : Canon d1 := Canon.setRf (Canon.setRf h)
  have hd2 : Canon d2 := ite_holds hd1 (hd1.of_mem_eq rfl)
  have hd3 : Canon d3 := hd2.of_mem_eq rfl
  clear_value d1 d2 d3
  exact Canon.setReg hd3

theorem CanonAt.execBringupComplete {s : State} (h : CanonAt s) : CanonNext (execBringupComplete s) := by
  unfold Machine.execBringupComplete
  refine CanonAt.onDev h fun _ hy1 => ?_
  split
  · exact hy1
  · refine ite_holds hy1 ?_
    extract_lets _ _ _ d d1
    have hd : Canon d := foldl_holds (P := Canon) hy1 fun _ _ hn => Canon.event hn
    have hd1 : Canon d1 := Canon.applyBringup (hd.of_mem_eq rfl)
    clear_value d d1
    exact ite_holds (Canon.setRf hd1) hd1

end Sys2Proof.Machine
end

section
/-! SUPPORT. T0's memory stays canonical: PLACE. -/

namespace Sys2Proof.Machine

open Sys2Proof

theorem KeepsCanon.placeOp {l : Line} : KeepsCanon (placeOp l) := .bind .rdV fun _ => .pure _
theorem KeepsCanon.placeRange {p : PlaceOp} : KeepsCanon (placeRange p) := .getDev_bind fun _ _ => .ensure

theorem KeepsCanon.placeFrames {p : PlaceOp} : KeepsCanon (placeFrames p) :=
  .bind .placeRange fun _ => .bind .read fun _ => .getDev_bind fun _ _ => .bind .ensure fun _ => .bind .ensure fun _ => .bind .xlateAll fun _ =>
      .getDev_bind fun _ _ => .bind .ensure fun _ => .bind .ensure fun _ => .pure _

theorem Canon.pinFrame {d : Dev} {f : Nat} {e : TEntry} (h : Canon d) : Canon (Dev.pinFrame d f e) := by
  unfold Dev.pinFrame
  extract_lets d1
  have hd1 : Canon d1 := Canon.modEntry (Canon.abandonDemotion h)
  clear_value d1
  exact ite_holds hd1 (hd1.of_mem_eq rfl)

theorem KeepsCanon.writeRecordM {p : PlaceOp} : KeepsCanon (writeRecordM p) := by
  unfold Machine.writeRecordM
  refine .bind .read fun _ => .getDev_bind fun _ hd => .bind .ensure fun _ => ?_
  extract_lets _ _ _ d1 d2
  have hd1 : Canon d1 := hd
  have hd2 : Canon d2 := foldl_holds (P := Canon) hd1 fun _ _ hx => ite_holds (ite_holds (ite_holds hx hx.pinFrame) hx.modEntry) (ite_holds
      (ite_holds hx hx.pinFrame) hx.modEntry)
  clear_value d1 d2
  exact .bind .ensure fun _ => .bind .ensure fun _ => ite_holds (.pure _) (.bind (.modDev (fun _ _ => ite_holds hd2.tryWanted hd2)) (fun _ =>
      .pure _))

theorem Canon.bindOld {d : Dev} {f prec : Nat} {e : TEntry} (h : Canon d) : Canon (Dev.bindOld d f prec e) := by
  unfold Dev.bindOld
  extract_lets _ d1
  have hd1 : Canon d1 := Canon.modEntry h
  clear_value d1
  exact ite_holds (Canon.pinFrame hd1) (ite_holds hd1 (hd1.of_mem_eq rfl))

theorem Canon.bindAll {prec n : Nat} {l : List Nat} {d : Dev} (h : Canon d) : InSnd (InSnd Canon) (Dev.bindAll prec n l d) := by
  induction l generalizing n d with
  | nil => exact h
  | cons _ _ ih =>
    unfold Dev.bindAll
    split
    · exact ih h.bindOld
    · split
      · exact ih h.setEntry
      · exact h

theorem KeepsCanon.bindM {p : PlaceOp} : KeepsCanon (bindM p) := by
  unfold Machine.bindM
  refine .bind .read fun _ => .bind .placeFrames fun _ => .getDev_bind fun _ hd => .bind .ensure fun _ => ?_
  extract_lets _ jp
  have hjp : ∀ (x : Unit), KeepsCanon (jp x) := by
    intro _
    unfold jp
    refine ite_holds (.pure _) ?_
    split
    next d1 heq =>
      have hd1 : Canon d1 := holds_of_eq (P := InSnd (InSnd Canon)) hd.bindAll heq
      refine .bind (.modDev (fun _ _ => hd1.tryWanted)) fun _ => ?_
      split
      · exact .pure _
      · exact .pure _
      · exact .need
  clear_value jp
  exact ite_holds (.bind .need (fun _ => hjp _)) (hjp _)

theorem KeepsCanon.demoteM {p : PlaceOp} : KeepsCanon (demoteM p) := by
  unfold Machine.demoteM
  refine .bind .placeFrames fun _ => .bind ?_ fun _ => .pure _
  refine .modDev fun _ hd => ?_
  extract_lets d1
  have hd1 : Canon d1 := by
    unfold d1
    refine foldl_holds (P := Canon) hd ?_
    intro _ _ hf
    split
    · exact ite_holds hf hf
    · exact hf
  clear_value d1
  exact hd1.tryDemotes

theorem KeepsCanon.promoteM {p : PlaceOp} : KeepsCanon (promoteM p) := by
  unfold Machine.promoteM
  refine .bind .placeFrames fun _ => .bind ?_ fun _ => .pure _
  refine .modDev fun _ hd => ?_
  extract_lets d1
  have hd1 : Canon d1 := by
    unfold d1
    refine foldl_holds (P := Canon) hd ?_
    intro _ _ hf
    split
    · exact ite_holds hf hf
    · exact hf
  clear_value d1
  exact hd1.tryWanted

theorem KeepsCanon.placeM {action : Nat} {m : PlaceOp → M (Nat × Nat × Nat)} {l : Line} (h_m : ∀ y1, KeepsCanon (m y1)) :
    KeepsCanon (placeM action m l) :=
  .bind .placeOp fun _ => .bind .ensure fun _ => ite_holds (.bind .need (fun _ => h_m _)) (h_m _)

theorem CanonAt.execPlaceWriteRecord {q n : Nat} {s : State} (h : CanonAt s) : CanonNext (execPlaceWriteRecord q n s) :=
  h.desc fun _ => .placeM fun _ => .writeRecordM

theorem CanonAt.execPlaceBind {q n : Nat} {s : State} (h : CanonAt s) : CanonNext (execPlaceBind q n s) := h.desc fun _ => .placeM fun _ => .bindM

theorem CanonAt.execPlaceDemote {q n : Nat} {s : State} (h : CanonAt s) : CanonNext (execPlaceDemote q n s) :=
  h.desc fun _ => .placeM fun _ => .demoteM

theorem CanonAt.execPlacePromote {q n : Nat} {s : State} (h : CanonAt s) : CanonNext (execPlacePromote q n s) :=
  h.desc fun _ => .placeM fun _ => .promoteM

end Sys2Proof.Machine
end

section
/-! SUPPORT. T0's memory stays canonical: extents and their transfers. -/

namespace Sys2Proof.Machine

open Sys2Proof

theorem Canon.writeExtBase {d : Dev} {v : Nat} (h : Canon d) : Canon (Dev.writeExtBase d v) := by
  unfold Dev.writeExtBase
  extract_lets base d1
  have hd1 : Canon d1 := h.setReg
  clear_value d1
  refine ite_holds hd1 ?_
  change Memory.wf (smEraseRange base (base + 2097152) d1.mem) = true
  exact memory_wf_filter _ hd1

theorem CanonAt.execExtTabEnable {path : Path} {value : Nat} {s : State} (h : CanonAt s) : CanonNext (execExtTabEnable path value s) :=
  h.onPath fun _ hy1 => ite_holds hy1 hy1.writeExtBase

theorem Canon.setLease {d : Dev} {l : Lease} (h : Canon d) : Canon (Dev.setLease d l) := h

theorem Canon.askLedger {d : Dev} {e : Extent} {op : Nat} (h : Canon d) : Canon (Dev.askLedger d e op) := by
  unfold Dev.askLedger
  split
  · exact h
  · exact ite_holds h.setLease h.setLease.request

theorem Canon.acquire {d : Dev} {e : Extent} (h : Canon d) : Canon (Dev.acquire d e) := h.askLedger
theorem Canon.startExt {d : Dev} {e : Extent} (h : Canon d) : Canon (Dev.startExt d e) := ite_holds h.setExt.setLease.acquire h.setExt

theorem CanonAt.execLeaseRenew {extent : Nat} {s : State} (h : CanonAt s) : CanonNext (execLeaseRenew extent s) := by
  unfold Machine.execLeaseRenew
  refine CanonAt.onDev h fun _ hy1 => ?_
  split
  · exact ite_holds hy1.acquire hy1
  · exact hy1

theorem Canon.markEarly {d : Dev} {e : Extent} (h : Canon d) : Canon (Dev.markEarly d e) := h

theorem Canon.lapse {d : Dev} {e : Extent} (h : Canon d) : Canon (Dev.lapse d e) := by
  unfold Dev.lapse
  extract_lets d1
  have hd1 : Canon d1 := Canon.markEarly (Canon.setExt h)
  clear_value d1
  exact hd1.of_mem_eq rfl

theorem CanonAt.execLeaseExpire {extent : Nat} {s : State} (h : CanonAt s) : CanonNext (execLeaseExpire extent s) := by
  unfold Machine.execLeaseExpire
  refine CanonAt.onDev h fun _ hy1 => ?_
  split
  · exact ite_holds hy1 (ite_holds hy1.setLease.lapse hy1.setLease)
  · exact hy1

theorem CanonAt.execLapsedAcquire {extent : Nat} {s : State} (h : CanonAt s) : CanonNext (execLapsedAcquire extent s) := by
  unfold Machine.execLapsedAcquire
  refine CanonAt.onDev h fun _ hy1 => ?_
  split
  · exact ite_holds hy1.acquire hy1
  · exact hy1

theorem CanonAt.execLedgerLost {s : State} (h : CanonAt s) : CanonNext (execLedgerLost s) := h.onDev fun _ hy1 => ite_holds hy1.setRf hy1

theorem CanonAt.execDoubtStallExpiry {extent : Nat} {s : State} (h : CanonAt s) : CanonNext (execDoubtStallExpiry extent s) := by
  unfold Machine.execDoubtStallExpiry
  refine CanonAt.onDev h fun _ hy1 => ?_
  split
  · exact ite_holds hy1.setLease.askLedger hy1
  · exact hy1

theorem Canon.endXfer {d : Dev} {id : Nat} (h : Canon d) : Canon (Dev.endXfer d id) := h

theorem Canon.granted {d : Dev} {e : Extent} {b : LeaseBody} (h : Canon d) : Canon (Dev.granted d e b) :=
  ite_holds h (ite_holds (ite_holds h.setLease h.setLease.setExt) h)

theorem Canon.resolved {d : Dev} {e : Extent} {b : LeaseBody} (h : Canon d) : Canon (Dev.resolved d e b) :=
  ite_holds h (ite_holds (ite_holds h.startExt h) (ite_holds (ite_holds h.setExt (ite_holds
      (ite_holds h.endXfer.setExt.acquire h.endXfer.startExt) h)) h))

theorem Canon.ledgerAnswer {d : Dev} {id : Nat} {b : LeaseBody} (h : Canon d) : Canon (Dev.ledgerAnswer d id b) := by
  unfold Dev.ledgerAnswer
  extract_lets _ d1
  have hd1 : Canon d1 := h.setRf.setLease
  clear_value d1
  split
  · exact hd1
  · exact ite_holds hd1.granted (ite_holds hd1.resolved hd1)

theorem CanonAt.execLeaseRsp {port : Nat} {m : FabMsg} {s : State} (h : CanonAt s) : CanonNext (execLeaseRsp port m s) := by
  unfold Machine.execLeaseRsp
  refine CanonAt.message h fun _ hy1 => Canon.answer hy1 fun _ _ hy2 => ?_
  extract_lets d
  have hd : Canon d := hy2.dropOut
  clear_value d
  split
  · exact ite_holds hd.ledgerAnswer hd
  · exact hd.giveLines
  · exact hd

theorem Canon.removeFrame {d : Dev} {f : Nat} (h : Canon d) : Canon (Dev.removeFrame d f) := by
  unfold Dev.removeFrame
  extract_lets d1 d2
  have hd1 : Canon d1 := h.abandonDemotion
  have hd2 : Canon d2 := by
    unfold d2
    split
    · exact ite_holds hd1.promoFailed hd1
    · exact hd1
  clear_value d1 d2
  split
  · exact hd2
  · extract_lets _ _ d3 _ d4 d5
    have hd3 : Canon d3 := ite_holds hd2.dropLoc hd2
    have hd4 : Canon d4 := ite_holds hd3.freeSource hd3
    have hd5 : Canon d5 := hd4
    clear_value d3 d4 d5
    exact foldl_holds (P := Canon) hd5.dropFrame fun _ _ hr => hr.submit

theorem Canon.removeFrames {d : Dev} {first n : Nat} (h : Canon d) : Canon (Dev.removeFrames d first n) :=
  ((Canon.giveRoom (foldl_holds (P := Canon) h fun _ _ hf => hf.removeFrame)).wake).tryWanted

theorem Canon.defErr {d : Dev} (h : Canon d) : Canon (Dev.defErr d) := h.setRf
theorem Canon.defineExt {d : Dev} {leased : Bool} {comp : Nat} (h : Canon d) : Canon (Dev.defineExt d leased comp) := ite_holds h.defErr h.startExt

theorem Canon.undefineExt {d : Dev} (h : Canon d) : Canon (Dev.undefineExt d) := by
  unfold Dev.undefineExt
  split
  · exact Canon.defErr h
  · refine ite_holds (Canon.defErr h) ?_
    extract_lets d1 x1
    have hd1 : Canon d1 := Canon.dropExt (Canon.removeFrames h)
    have hx1 : Canon x1 := Canon.endXfer hd1
    clear_value d1 x1
    exact hx1.of_mem_eq rfl

theorem Canon.reassignExt {d : Dev} {leased : Bool} {comp : Nat} (h : Canon d) : Canon (Dev.reassignExt d leased comp) := by
  unfold Dev.reassignExt
  split
  · exact h.defErr
  · exact ite_holds h.defErr h.startExt

theorem Canon.writeDefCtrl {d : Dev} {v : Nat} (h : Canon d) : Canon (Dev.writeDefCtrl d v) := by
  unfold Dev.writeDefCtrl
  extract_lets d1
  have hd1 : Canon d1 := h.setRf.setRf
  clear_value d1
  exact ite_holds hd1 (ite_holds hd1.defineExt (ite_holds hd1.undefineExt (ite_holds hd1.reassignExt hd1.defErr)))

theorem CanonAt.execDefine {path : Path} {leased : Bool} {comp : Nat} {s : State} (h : CanonAt s) : CanonNext (execDefine path leased comp s) :=
  h.onPathDev fun _ hy1 => hy1.writeDefCtrl

theorem CanonAt.execUndefine {path : Path} {s : State} (h : CanonAt s) : CanonNext (execUndefine path s) :=
  h.onPathDev fun _ hy1 => hy1.writeDefCtrl

theorem CanonAt.execReassign {path : Path} {leased : Bool} {comp : Nat} {s : State} (h : CanonAt s) : CanonNext (execReassign path leased comp s) :=
  h.onPathDev fun _ hy1 => hy1.writeDefCtrl

theorem Canon.dropLostParity {d : Dev} {w : List Nat} (h : Canon d) : Canon (Dev.dropLostParity d w) := by
  unfold Dev.dropLostParity
  extract_lets _ d1
  have hd1 : Canon d1 := by
    unfold d1
    refine foldl_holds (P := Canon) h ?_
    intro _ _ ho
    split
    · exact ite_holds ho.dropOut ho
    · exact ho
  clear_value d1
  exact foldl_holds (P := Canon) hd1 fun _ _ hp => ite_holds hp (foldl_holds (P := Canon) hp fun _ _ hr => hr.parityAck)

theorem Canon.writeEgData {d : Dev} {p : Path} {v : Nat} (h : Canon d) : Canon (Dev.writeEgData d p v) := by
  unfold Dev.writeEgData
  extract_lets _ _ _ d1
  have hd1 : Canon d1 := h.of_mem_eq rfl
  clear_value d1
  exact ite_holds h (ite_holds hd1 (Canon.dropLostParity (hd1.of_mem_eq rfl)))

theorem CanonAt.execEgRecordWrite {path : Path} {value : Nat} {s : State} (h : CanonAt s) : CanonNext (execEgRecordWrite path value s) :=
  h.onPathDev fun _ hy1 => hy1.writeEgData

theorem Canon.prepareDest {d : Dev} {b : LeaseBody} {src : Nat} (h : Canon d) : InSnd Canon (Dev.prepareDest d b src) := by
  unfold Dev.prepareDest
  extract_lets
  split
  · exact ite_holds h h
  · refine ite_holds h (ite_holds h ?_)
    refine ite_holds h ?_
    split
    next d1 heq =>
      have hd1 : Canon d1 := holds_of_eq (P := InSnd (InSnd Canon)) h.bindAll heq
      exact hd1.setExt
    next d1 heq =>
      have hd1 : Canon d1 := holds_of_eq (P := InSnd (InSnd Canon)) h.bindAll heq
      exact hd1.removeFrames

theorem Canon.openXfer {d : Dev} {e : Extent} {dst dfirst : Nat} (h : Canon d) : InSnd Canon (Dev.openXfer d e dst dfirst) := by
  unfold Dev.openXfer
  refine ite_holds h ?_
  split <;> exact h

theorem Canon.refillXfer {d : Dev} {e : Extent} (h : Canon d) : Canon (Dev.refillXfer d e) := h

theorem Canon.copyContent {d : Dev} {f : Nat} (h : Canon d) : InSnd Canon (Dev.copyContent d f) := by
  unfold Dev.copyContent
  split
  · exact h
  · extract_lets
    refine ite_holds h ?_
    split
    · exact h
    · refine ite_holds h (ite_holds h.kilnEvent ?_)
      split
      next d1 heq =>
        have hd1 : Canon d1 := holds_of_eq (P := InSnd Canon) h.beginPromo heq
        exact hd1
      next d1 _ heq =>
        have hd1 : Canon d1 := holds_of_eq (P := InSnd Canon) h.beginPromo heq
        exact hd1

theorem Canon.copyPass {d : Dev} {e : Extent} {x : Xfer} (h : Canon d) : Canon (Dev.copyPass d e x) := by
  unfold Dev.copyPass
  extract_lets d1
  have hd1 : Canon d1 := h.of_mem_eq rfl
  clear_value d1
  refine foldl_holds (P := Canon) hd1 ?_
  intro _ _ hi
  extract_lets
  split
  next heq => exact holds_of_eq (P := InSnd Canon) (Canon.copyContent hi) heq
  next d3 heq =>
    have hd3 : Canon d3 := holds_of_eq (P := InSnd Canon) (Canon.copyContent hi) heq
    exact Canon.copyOut (hd3.of_mem_eq rfl)

theorem Canon.installRev {d : Dev} {e : Extent} {lds : Nat} {desc : Option DescId} (h : Canon d) : Canon (Dev.installRev d e lds desc) :=
  ite_holds (Canon.revokeLines (h.of_mem_eq rfl)) (h.of_mem_eq rfl)

theorem Canon.driveCopy {d : Dev} {e : Extent} (h : Canon d) : InSnd Canon (Dev.driveCopy d e) := by
  unfold Dev.driveCopy
  split
  · exact h
  · refine ite_holds h (ite_holds h (ite_holds ?_ ?_))
    · extract_lets d1
      have hd1 : Canon d1 := h.copyPass
      clear_value d1
      split
      · exact hd1
      · exact ite_holds hd1 (ite_holds hd1 (inSnd_mk hd1.setExt.markEarly.installRev))
    · exact ite_holds (ite_holds h (ite_holds h.copyPass (ite_holds h h))) h

theorem Canon.releaseSource {d : Dev} {e : Extent} (h : Canon d) : Canon (Dev.releaseSource d e) := by
  unfold Dev.releaseSource
  extract_lets d1
  have hd1 : Canon d1 := Canon.endXfer (Canon.dropExt (Canon.removeFrames h))
  clear_value d1
  exact hd1.of_mem_eq rfl

theorem Canon.abortSource {d : Dev} {e : Extent} (h : Canon d) : Canon (Dev.abortSource d e) :=
  ite_holds (ite_holds h.endXfer.setExt h.endXfer.startExt) h.endXfer

theorem Canon.abortDest {d : Dev} {e : Extent} (h : Canon d) : Canon (Dev.abortDest d e) := ite_holds h.removeFrames.dropExt h

theorem Canon.xstep {d : Dev} {b : LeaseBody} (h : Canon d) : InSnd (InSnd Canon) (Dev.xstep d b) := by
  unfold Dev.xstep
  refine ite_holds ?_ ?_
  · refine ite_holds ?_ ?_
    · refine ite_holds h ?_
      split
      next d1 heq =>
        have hd1 : Canon d1 := holds_of_eq (P := InSnd Canon) h.prepareDest heq
        exact hd1
    · split
      · split
        next d1 heq =>
          have hd1 : Canon d1 := holds_of_eq (P := InSnd Canon) h.openXfer heq
          exact hd1
      · exact h
  · refine ite_holds ?_ ?_
    · split
      · exact h
      · refine ite_holds ?_ ?_
        · split
          next d1 heq =>
            have hd1 : Canon d1 := holds_of_eq (P := InSnd Canon) h.openXfer heq
            refine ite_holds hd1 (ite_holds hd1.setExt ?_)
            split
            next d2 heq1 =>
              have hd2 : Canon d2 := holds_of_eq (P := InSnd Canon) hd1.driveCopy heq1
              exact hd2
            next d2 heq1 =>
              have hd2 : Canon d2 := holds_of_eq (P := InSnd Canon) hd1.driveCopy heq1
              exact hd2
            next d2 heq1 =>
              have hd2 : Canon d2 := holds_of_eq (P := InSnd Canon) hd1.driveCopy heq1
              exact hd2.refillXfer
        · exact h
    · refine ite_holds ?_ ?_
      · split
        · exact ite_holds h.setExt h
        · exact ite_holds h.startExt (ite_holds h h)
        · exact h
      · refine ite_holds ?_ ?_
        · split
          · exact ite_holds h.releaseSource h
          · exact ite_holds h h
        · exact h

theorem Canon.xabort {d : Dev} {b : LeaseBody} (h : Canon d) : InSnd Canon (Dev.xabort d b) := by
  unfold Dev.xabort
  split
  · exact h.abortSource
  · exact ite_holds h.abortDest h
  · exact h

theorem CanonAt.execLeaseMsg {port : Nat} {m : FabMsg} {s : State} (h : CanonAt s) : CanonNext (execLeaseMsg port m s) := by
  unfold Machine.execLeaseMsg
  refine CanonAt.message h fun _ hy1 => ?_
  extract_lets _ rsp
  have hrsp : ∀ (d : Dev), Canon d → ∀ (result st : Nat), Canon (rsp d result st) := fun _ hd _ _ => hd.respond
  clear_value rsp
  refine ite_holds (hrsp _ hy1 _ _) (ite_holds ?_ ?_)
  · split
    next d heq =>
      have hd : Canon d := holds_of_eq (P := InSnd (InSnd Canon)) hy1.xstep heq
      exact hrsp _ hd _ _
  · refine ite_holds ?_ ?_
    · split
      next d heq =>
        have hd : Canon d := holds_of_eq (P := InSnd Canon) hy1.xabort heq
        exact hrsp _ hd _ _
    · exact hrsp _ hy1 _ _

theorem KeepsCanon.askLease {k node : Nat} {b : LeaseBody} : KeepsCanon (askLease k node b) := by
  unfold Machine.askLease
  refine .bind .read fun _ => .getDev_bind fun _ _ => ?_
  extract_lets
  split
  · exact .pure _
  · refine ite_holds .need ?_
    split
    · exact .pure _
    · exact .bind (.modDev (fun _ hd1 => hd1.request)) fun _ => .need

theorem KeepsCanon.forgetLease {k : Nat} : KeepsCanon (forgetLease k) := .bind .read fun _ => .modDev fun _ hd => hd.modStarted

theorem KeepsCanon.ledgerStep {k op phase epoch owner : Nat} {peer : Option Nat} {x : XferOp} {comp : Nat} :
    KeepsCanon (ledgerStep k op phase epoch owner peer x comp) := by
  unfold Machine.ledgerStep
  refine .getDev_bind fun _ _ => ?_
  split
  · exact .halt
  · refine .bind .askLease fun _ => ?_
    split
    · exact .ensure

theorem KeepsCanon.peerStep {k node op phase : Nat} {x : XferOp} {frames comp : Nat} : KeepsCanon (peerStep k node op phase x frames comp) := by
  unfold Machine.peerStep
  refine .bind .askLease fun _ => ?_
  split
  · extract_lets jp
    have hjp : ∀ (x : Unit), KeepsCanon (jp x) := fun _ => .bind .ensure fun _ => .pure _
    clear_value jp
    exact ite_holds (.bind .halt (fun _ => hjp _)) (hjp _)

theorem KeepsCanon.xferChecks {x : XferOp} : KeepsCanon (xferChecks x) := by
  unfold Machine.xferChecks
  refine .bind .read fun _ => .getDev_bind fun _ _ => .bind .ensure fun _ => ?_
  split
  · exact .pure _
  · exact .bind .ensure fun _ => .bind .runFn fun _ => .ensure

theorem KeepsCanon.revokeFree {x : XferOp} : KeepsCanon (revokeFree x) := by
  unfold Machine.revokeFree
  refine .getDev_bind fun _ _ => .bind .ensure fun _ => ?_
  split
  · exact .ensure
  · exact .pure _

theorem KeepsCanon.readLedger {x : XferOp} : KeepsCanon (readLedger x) := by
  unfold Machine.readLedger
  refine .getDev_bind fun _ _ => ?_
  split
  · exact .halt
  · refine .bind .askLease fun _ => ?_
    split
    · exact .bind .ensure fun _ => .bind .ensure fun _ => .bind .read fun _ => .getDev_bind fun _ _ => .bind .runFn fun _ => .bind .ensure fun _ =>
          .pure _

theorem KeepsCanon.sourceEntry {x : XferOp} : KeepsCanon (sourceEntry x) := by
  unfold Machine.sourceEntry
  refine .getDev_bind fun _ _ => ?_
  split
  · exact ite_holds (.pure _) .halt
  · exact .halt

theorem KeepsCanon.stepPrepare {x : XferOp} {r : LeaseBody} : KeepsCanon (stepPrepare x r) := by
  unfold Machine.stepPrepare
  refine .getDev_bind fun _ hd => ite_holds ?_ ?_
  · refine .bind .sourceEntry fun _ => ?_
    split
    next d1 heq =>
      have hd1 : Canon d1 := holds_of_eq (P := InSnd Canon) hd.openXfer heq
      refine .bind (.modDev (fun _ _ => hd1)) fun _ => ?_
      extract_lets jp
      have hjp : ∀ (x : Unit), KeepsCanon (jp x) := fun _ => .bind .peerStep fun _ => .pure _
      clear_value jp
      exact ite_holds (.bind .halt (fun _ => hjp _)) (hjp _)
  · refine .bind .peerStep fun _ => .getDev_bind fun _ hd1 => ?_
    extract_lets
    split
    next d2 heq =>
      have hd2 : Canon d2 := holds_of_eq (P := InSnd Canon) hd1.prepareDest heq
      exact .bind (.modDev (fun _ _ => hd2)) fun _ => ite_holds .halt (.pure _)

theorem KeepsCanon.stepCopy {x : XferOp} {r : LeaseBody} : KeepsCanon (stepCopy x r) := by
  unfold Machine.stepCopy
  refine .getDev_bind fun _ hd => ite_holds ?_ ?_
  · refine .bind .sourceEntry fun _ => ?_
    extract_lets jp jp1
    have hjp : ∀ (x : Unit), KeepsCanon (jp x) := by
      intro _
      unfold jp
      split
      next d1 heq =>
        have hd1 : Canon d1 := holds_of_eq (P := InSnd Canon) hd.openXfer heq
        refine .bind (.modDev (fun _ _ => hd1)) fun _ => ?_
        extract_lets jp1
        have hjp1 : ∀ (x : Unit), KeepsCanon (jp1 x) := by
          intro _
          unfold jp1
          split
          next d2 heq1 =>
            have hd2 : Canon d2 := holds_of_eq (P := InSnd Canon) hd1.driveCopy heq1
            refine .bind (.modDev (fun _ _ => hd2)) fun _ => ?_
            split
            · exact .need
            · exact .pure _
            · exact .bind (.modDev (fun _ hd3 => hd3.refillXfer)) fun _ => .halt
        clear_value jp1
        exact ite_holds (.bind .halt (fun _ => hjp1 _)) (hjp1 _)
    have hjp1 : ∀ (x : Unit), KeepsCanon (jp1 x) := fun _ => .bind .need fun _ => hjp ()
    clear_value jp jp1
    refine ite_holds ?_ ?_
    · split
      next d1 heq =>
        have hd1 : Canon d1 := holds_of_eq (P := InSnd Canon) hd.openXfer heq
        exact .bind (.modDev (fun _ _ => hd1.setExt)) fun _ => ite_holds (.bind .halt (fun _ => hjp1 _)) (hjp1 _)
    · exact hjp _
  · exact .bind .peerStep fun _ => ite_holds (.bind .forgetLease (fun _ => .need)) (.pure _)

theorem KeepsCanon.stepCommit {x : XferOp} {comp : Nat} : KeepsCanon (stepCommit x comp) := by
  unfold Machine.stepCommit
  refine .getDev_bind fun _ _ => ?_
  extract_lets
  refine .bind .peerStep fun _ => .modDev fun _ hd1 => ?_
  split
  · exact hd1
  · exact ite_holds (ite_holds hd1.setExt hd1) (ite_holds hd1.startExt hd1)

theorem KeepsCanon.stepRelease {x : XferOp} {comp : Nat} : KeepsCanon (stepRelease x comp) := by
  unfold Machine.stepRelease
  refine .getDev_bind fun _ _ => ?_
  extract_lets jp
  have hjp : ∀ (x : Unit), KeepsCanon (jp x) := fun _ => .bind .ledgerStep fun _ => .ledgerStep
  clear_value jp
  refine ite_holds ?_ ?_
  · refine .bind ?_ fun _ => hjp _
    refine .modDev fun _ hd1 => ?_
    split
    · exact ite_holds hd1.releaseSource hd1
    · exact hd1
  · exact .bind .peerStep fun _ => hjp _

theorem KeepsCanon.copiedFrames {x : XferOp} : KeepsCanon (copiedFrames x) := by
  unfold Machine.copiedFrames
  refine .bind .read fun _ => .getDev_bind fun _ hd => ?_
  split
  · exact .pure _
  · split
    · exact .bind (.modDev (fun _ hd1 => hd1.modStarted)) fun _ => .pure _
    · refine ite_holds (.pure _) ?_
      split
      next d1 heq =>
        have hd1 : Canon d1 := holds_of_eq (P := InSnd Canon) hd.takeFree heq
        exact .bind (.modDev (fun _ _ => hd1)) fun _ => .pure _

theorem KeepsCanon.once {k : Nat} {m : M Unit} (h : KeepsCanon m) : KeepsCanon (once k m) := by
  unfold Machine.once
  refine .bind .stepOf fun _ => ?_
  split
  · refine ite_holds ?_ ?_
    · refine .bind h fun _ => .bind .stepOf fun _ => ?_
      split
      · exact .setStep
    · exact .pure _

theorem KeepsCanon.stepRefill {x : XferOp} : KeepsCanon (stepRefill x) := by
  unfold Machine.stepRefill
  refine .getDev_bind fun _ _ => ?_
  split
  · exact ite_holds (.modDev (fun _ hd1 => hd1.refillXfer)) (.pure _)
  · exact .pure _

theorem KeepsCanon.moveM {x : XferOp} : KeepsCanon (moveM x) := by
  unfold Machine.moveM
  refine .bind .xferChecks fun _ => .bind .readLedger fun _ => .getDev_bind fun _ _ => .bind .stepOf fun _ => ?_
  split
  · extract_lets
    split
    · exact .halt
    · refine .bind .revokeFree fun _ => ?_
      extract_lets jp jp1 jp2 jp3 jp4
      have hjp : ∀ (x : Unit), KeepsCanon (jp x) := by
        intro _
        unfold jp
        refine .bind .copiedFrames fun _ => ?_
        extract_lets jp1 jp2
        have hjp1 : ∀ (x : Unit), KeepsCanon (jp1 x) := fun _ => .pure _
        have hjp2 : ∀ (x : Unit), KeepsCanon (jp2 x) := fun _ => ite_holds (.bind (.once (ite_holds .stepCommit (.pure _))) (fun _ =>
            .bind .stepRelease (fun _ => hjp1 ()))) (hjp1 ())
        clear_value jp1 jp2
        exact ite_holds (.bind .ledgerStep (fun _ => hjp2 _)) (hjp2 _)
      have hjp1 : ∀ (x : Unit), KeepsCanon (jp1 x) := fun _ => ite_holds (.bind (.once .stepCopy) (fun _ => hjp ())) (hjp ())
      have hjp2 : ∀ (x : Unit), KeepsCanon (jp2 x) := fun _ => ite_holds (.bind (.once .stepRefill) (fun _ => hjp1 ())) (hjp1 ())
      have hjp3 : ∀ (x : Unit), KeepsCanon (jp3 x) := fun _ => ite_holds (.bind .ledgerStep (fun _ => hjp2 ())) (hjp2 ())
      have hjp4 : ∀ (x : Unit), KeepsCanon (jp4 x) := fun _ => ite_holds (.bind (.once .stepPrepare) (fun _ => hjp3 ())) (hjp3 ())
      clear_value jp jp1 jp2 jp3 jp4
      exact ite_holds (.bind .ledgerStep (fun _ => hjp4 _)) (hjp4 _)

theorem KeepsCanon.abortM {x : XferOp} : KeepsCanon (abortM x) := by
  unfold Machine.abortM
  refine .bind .xferChecks fun _ => .bind .readLedger fun _ => .bind .ensure fun _ => .bind .revokeFree fun _ => ?_
  refine .bind .ledgerStep fun _ => .bind .copiedFrames fun _ => .bind ?_ fun _ => .getDev_bind fun _ _ => .bind .peerStep fun _ => .pure _
  refine .modDev fun _ hd => ?_
  split
  · exact hd
  · exact ite_holds (ite_holds hd.abortSource hd) (ite_holds hd.abortDest hd)

theorem KeepsCanon.xferM {mode : Nat} {m : XferOp → M (Nat × Nat × Nat)} {l : Line} (h_m : ∀ y1, KeepsCanon (m y1)) : KeepsCanon (xferM mode m l) :=
  .bind .ensure fun _ => ite_holds (.bind .need (fun _ => h_m _)) (h_m _)

theorem CanonAt.execExtentXferMove {q n : Nat} {s : State} (h : CanonAt s) : CanonNext (execExtentXferMove q n s) :=
  h.desc fun _ => .xferM fun _ => .moveM

theorem CanonAt.execExtentXferAbort {q n : Nat} {s : State} (h : CanonAt s) : CanonNext (execExtentXferAbort q n s) :=
  h.desc fun _ => .xferM fun _ => .abortM

theorem Canon.unpinRange {d : Dev} {first n : Nat} (h : Canon d) : Canon (Dev.unpinRange d first n) :=
  foldl_holds (P := Canon) h fun _ _ hf => hf.modEntry

theorem KeepsCanon.revokeM {comp : Bool} {l : Line} : KeepsCanon (revokeM comp l) := by
  unfold Machine.revokeM
  refine .bind .read fun _ => .getDev_bind fun _ _ => ?_
  extract_lets _ _ jp
  have hjp : ∀ (x : Unit), KeepsCanon (jp x) := by
    intro x
    unfold jp
    split
    · exact .halt
    · refine .bind .ensure fun _ => ?_
      extract_lets jp1
      have hjp1 : ∀ (x : Unit), KeepsCanon (jp1 x) := fun _ => .bind .runFn fun _ => .bind .ensure fun _ => .bind .ensure fun _ =>
          .bind .ensure fun _ => .bind (.modDev (fun _ hd1 => ite_holds hd1.installRev
          (ite_holds hd1.setExt.markEarly.unpinRange.installRev.setLease.askLedger hd1.setExt.markEarly.unpinRange.installRev))) fun _ => .need
      clear_value jp1
      exact ite_holds (.bind .need (fun _ => hjp1 _)) (hjp1 _)
  clear_value jp
  exact ite_holds (.bind .need (fun _ => hjp _)) (hjp _)

theorem CanonAt.execExtentRevokeHosts {q n : Nat} {s : State} (h : CanonAt s) : CanonNext (execExtentRevokeHosts q n s) := h.desc fun _ => .revokeM
theorem CanonAt.execExtentRevokeComp {q n : Nat} {s : State} (h : CanonAt s) : CanonNext (execExtentRevokeComp q n s) := h.desc fun _ => .revokeM
theorem KeepsCanon.readUnit {w : List Nat} {i s : Nat} : KeepsCanon (readUnit w i s) := .rdRaw

theorem KeepsCanon.readUnits {w : List Nat} {s : Nat} {l : List Nat} : KeepsCanon (readUnits w s l) := by
  induction l with
  | nil => exact .pure _
  | cons _ _ ih => exact .bind .readUnit fun _ => .bind ih fun _ => .pure _

theorem KeepsCanon.writeUnit {dva : Nat} {u : EcUnit} : KeepsCanon (writeUnit dva u) := by
  unfold Machine.writeUnit
  refine .bind .xlateAll fun _ => ?_
  split
  · exact .bind .wrPiecesMixed fun _ => .pure _

theorem KeepsCanon.rebuildStripes_write {n k : Nat} {all : List (Nat × EcUnit)} {l : List (Nat × Nat)} :
    KeepsCanon (rebuildStripes.write n k all l) := by
  induction l with
  | nil => exact .pure _
  | cons _ _ ih => exact .bind (.atStage .writeUnit) fun _ => .bind ih fun _ => .pure _

theorem KeepsCanon.rebuildStripes {w lost : List Nat} {outs : List (Nat × Nat)} {first n : Nat} :
    KeepsCanon (rebuildStripes w lost outs first n) := by
  induction n with
  | zero => exact .pure _
  | succ _ ih =>
    unfold Machine.rebuildStripes
    refine .bind ih fun _ => ?_
    split
    · extract_lets
      exact .bind (.atStage .readUnits) fun _ => .bind .rebuildStripes_write fun _ => .pure _

theorem KeepsCanon.rebuildM {parity : Bool} {l : Line} : KeepsCanon (rebuildM parity l) := by
  unfold Machine.rebuildM
  extract_lets _ _ _ _ _ _ jp
  have hjp : ∀ (x : Unit), KeepsCanon (jp x) := by
    intro _
    unfold jp
    refine .getDev_bind fun _ _ => ?_
    split
    · exact .halt
    · extract_lets
      refine .bind .ensure fun _ => .bind .ensure fun _ => .bind .ensure fun _ => .bind .ensure fun _ => .bind .fetchLines fun _ => ?_
      refine .bind .rebuildStripes fun _ => ?_
      split
      · exact .pure _
  clear_value jp
  exact .bind .ensure fun _ => ite_holds (.bind .need (fun _ => hjp _)) (hjp _)

theorem CanonAt.execEcRebuildData {q n : Nat} {s : State} (h : CanonAt s) : CanonNext (execEcRebuildData q n s) := h.desc fun _ => .rebuildM
theorem CanonAt.execEcRebuildParity {q n : Nat} {s : State} (h : CanonAt s) : CanonNext (execEcRebuildParity q n s) := h.desc fun _ => .rebuildM

end Sys2Proof.Machine
end

section
/-! SUPPORT. T0's memory stays canonical: casks. -/

namespace Sys2Proof.Machine

open Sys2Proof

theorem Canon.modSlot {d : Dev} {n : Nat} {g : SlotSt → SlotSt} (h : Canon d) : Canon (Dev.modSlot d n g) := h.setSlot
theorem Canon.modCask {d : Dev} {n : Nat} {g : Cask → Cask} (h : Canon d) : Canon (Dev.modCask d n g) := h.modSlot
theorem Canon.cskErr {d : Dev} {n : Nat} (h : Canon d) : Canon (Dev.cskErr d n) := h.modSlot

theorem Canon.stopDemotions {d : Dev} {n : Nat} (h : Canon d) : Canon (Dev.stopDemotions d n) :=
  foldl_holds (P := Canon) h fun _ _ hf => hf.abandonDemotion

theorem Canon.caskEvent {d : Dev} {n : Nat} (h : Canon d) : Canon (Dev.caskEvent d n) := h.event

theorem Canon.adopt {d : Dev} {n : Nat} (h : Canon d) : Canon (Dev.adopt d n) := by
  unfold Dev.adopt
  extract_lets
  split
  · exact ite_holds h.setSlot.wake h.cskErr
  · exact h.cskErr

theorem Canon.raiseCask {d : Dev} {n : Nat} (h : Canon d) : Canon (Dev.raiseCask d n) := by
  unfold Dev.raiseCask
  extract_lets
  split
  · exact h
  · extract_lets _ _ _ d1 d2 d3
    have hd1 : Canon d1 := h.setSlot
    have hd2 : Canon d2 := ite_holds hd1 hd1.caskEvent
    have hd3 : Canon d3 := ite_holds hd2.adopt hd2
    clear_value d1 d2 d3
    exact ite_holds hd1 hd3.wake

theorem Canon.raiseRails {d : Dev} (h : Canon d) : Canon (Dev.raiseRails d) :=
  ite_holds h (foldl_holds (P := Canon) h fun _ _ hn => ite_holds hn.raiseCask hn)

theorem Canon.unpromote {d : Dev} {f : Nat} (h : Canon d) : Canon (Dev.unpromote d f) := by
  unfold Dev.unpromote
  split
  · exact h
  · extract_lets d1 _ _ x1 d2 d3
    have hd1 : Canon d1 := h.clearLines.endEmptyBi
    have hx1 : Canon x1 := hd1.dropLoc
    have hd2 : Canon d2 := hx1
    have hd3 : Canon d3 := hd2.clearFrame.setEntry
    clear_value d1 x1 d2 d3
    exact ite_holds hd1 (Canon.wake (foldl_holds (P := Canon) hd3 fun _ _ ha => ha.raise))

theorem Canon.unpromoteAll {d : Dev} (h : Canon d) : Canon (Dev.unpromoteAll d) := foldl_holds (P := Canon) h fun _ _ hp => hp.unpromote

theorem Canon.losesCask {d : Dev} {n : Nat} {gone : SlotSt} (h : Canon d) : Canon (Dev.losesCask d n gone) := by
  unfold Dev.losesCask
  extract_lets _ _ _ d1 d2 d3 _ d4 d5
  have hd1 : Canon d1 := ite_holds h h.lostCask
  have hd2 : Canon d2 := hd1.setSlot.stopDemotions
  have hd3 : Canon d3 := foldl_holds (P := Canon) hd2 fun _ _ hf => hf.promoFailed
  have hd4 : Canon d4 := hd3
  have hd5 : Canon d5 := foldl_holds (P := Canon) hd4 fun _ _ hr => hr.answerFailed
  clear_value d1 d2 d3 d4 d5
  exact hd5.unpromoteAll.wake

theorem Canon.insertCask {d : Dev} {n : Nat} {c : Cask} (h : Canon d) : Canon (Dev.insertCask d n c) := by
  unfold Dev.insertCask
  refine ite_holds h ?_
  extract_lets _ _ x1 _ d1 d2 d3
  have hx1 : Canon x1 := h.losesCask
  clear_value x1
  have hd1 : Canon d1 := ite_holds (hx1.of_mem_eq rfl) h
  clear_value d1
  have hd2 : Canon d2 := hd1.setSlot
  clear_value d2
  have hd3 : Canon d3 := ite_holds (Canon.startWake (Canon.abortEntry hd2)) hd2
  clear_value d3
  exact ite_holds hd3.raiseCask hd3

theorem CanonAt.execCaskInsert {slot : Nat} {cask : Cask} {s : State} (h : CanonAt s) : CanonNext (execCaskInsert slot cask s) :=
  h.onDev fun _ hy1 => hy1.insertCask

theorem CanonAt.execCaskFtlLoaded {slot : Nat} {s : State} (h : CanonAt s) : CanonNext (execCaskFtlLoaded slot s) :=
  h.onDev fun _ hy1 => ite_holds hy1 hy1.modSlot.caskEvent.wake

theorem Canon.pullCask {d : Dev} {n : Nat} (h : Canon d) : Canon (Dev.pullCask d n) := by
  unfold Dev.pullCask
  extract_lets _ x
  have hx : Canon x := Canon.setSlot h
  clear_value x
  exact ite_holds h (ite_holds (hx.of_mem_eq rfl) (Canon.losesCask h))

theorem CanonAt.execCaskPull {slot : Nat} {s : State} (h : CanonAt s) : CanonNext (execCaskPull slot s) := h.onDev fun _ hy1 => hy1.pullCask

theorem CanonAt.execCaskBranchOvercurrent {slot : Nat} {s : State} (h : CanonAt s) : CanonNext (execCaskBranchOvercurrent slot s) :=
  h.onDev fun _ hy1 => ite_holds hy1 hy1.event.losesCask

theorem CanonAt.execVcaskOutOfRange {s : State} (h : CanonAt s) : CanonNext (execVcaskOutOfRange s) :=
  h.onDev fun _ hy1 => foldl_holds (P := Canon) hy1 fun _ _ hn => ite_holds hn.losesCask hn

theorem CanonAt.execCaskRetrainDone {s : State} (h : CanonAt s) : CanonNext (execCaskRetrainDone s) :=
  h.onDev fun _ hy1 => foldl_holds (P := Canon) hy1 fun _ _ hn => ite_holds hn.modSlot.wake hn

theorem Canon.evacStep {d : Dev} (h : Canon d) : Canon (Dev.evacStep d) := by
  unfold Dev.evacStep
  refine foldl_holds (P := Canon) h ?_
  intro _ _ hn
  refine ite_holds hn ?_
  extract_lets
  refine ite_holds hn.modSlot (foldl_holds (P := Canon) hn ?_)
  intro _ _ hf
  split
  · exact ite_holds hf hf.beginPromo
  · exact hf

theorem Canon.evacuate {d : Dev} {n : Nat} (h : Canon d) : Canon (Dev.evacuate d n) := by
  unfold Dev.evacuate
  extract_lets _ x d1
  have hx : Canon x := Canon.setSlot h
  have hd1 : Canon d1 := hx.of_mem_eq rfl
  clear_value x d1
  exact ite_holds (Canon.evacStep (Canon.stopDemotions hd1)) (Canon.cskErr h)

theorem Canon.releaseStep {d : Dev} {n : Nat} (h : Canon d) : Canon (Dev.releaseStep d n) := ite_holds h h.setSlot.wake
theorem Canon.release {d : Dev} {n : Nat} (h : Canon d) : Canon (Dev.release d n) := ite_holds h.setSlot.stopDemotions.releaseStep h.cskErr
theorem Canon.retire {d : Dev} {n : Nat} (h : Canon d) : Canon (Dev.retire d n) := ite_holds h.setSlot h.cskErr

theorem Canon.erase {d : Dev} {n : Nat} (h : Canon d) : Canon (Dev.erase d n) := by
  unfold Dev.erase
  extract_lets
  split
  · exact Canon.cskErr h
  · refine ite_holds (Canon.cskErr h) (ite_holds ?_ ?_)
    · extract_lets x1
      have hx1 : Canon x1 := Canon.setSlot h
      clear_value x1
      exact hx1.of_mem_eq rfl
    · exact ite_holds (Canon.setSlot h) (Canon.cskErr h)

theorem Canon.forget {d : Dev} {n : Nat} (h : Canon d) : Canon (Dev.forget d n) := by
  unfold Dev.forget
  extract_lets
  split
  · exact h.cskErr
  · exact ite_holds h h.cskErr

theorem Canon.importFrom {c : Cask} {slot prec n n1 n2 : Nat} {d : Dev} (h : Canon d) : Canon (Dev.importFrom c slot prec n n1 n2 d) := by
  induction n generalizing c slot prec n1 n2 d with
  | zero => exact h
  | succ _ ih =>
    unfold Dev.importFrom
    split
    · exact ih (h.of_mem_eq rfl)
    · extract_lets r
      split
      · exact Canon.cskErr h
      · extract_lets _ d1 d2 x2
        have hd1 : Canon d1 := Canon.setEntry h
        have hd2 : Canon d2 := ite_holds (Canon.event hd1) hd1
        have hx2 : Canon x2 := Canon.fillFrame hd2
        clear_value d1 d2 x2
        exact ih (hx2.of_mem_eq rfl)

theorem Canon.importCask {d : Dev} {n : Nat} (h : Canon d) : Canon (Dev.importCask d n) := by
  unfold Dev.importCask
  extract_lets
  split
  · exact Canon.cskErr h
  · exact ite_holds (Canon.importFrom (h.of_mem_eq rfl)) (Canon.cskErr h)

theorem Canon.cskGo {d : Dev} {n op : Nat} (h : Canon d) : Canon (Dev.cskGo d n op) := by
  unfold Dev.cskGo
  extract_lets d1
  have hd1 : Canon d1 := h.setRf
  clear_value d1
  split
  · exact hd1.adopt
  · exact hd1.evacuate
  · exact hd1.release
  · exact hd1.retire
  · exact hd1.erase
  · exact hd1.importCask
  · exact hd1.forget
  · exact hd1.cskErr

theorem CanonAt.cskCommand {s : State} {path : Path} {slot op : Nat} {c : Instr} (h : CanonAt s) : CanonNext (State.cskCommand s path slot op c) :=
  h.onPathDev fun _ hy1 => ite_holds hy1.cskGo hy1

theorem CanonAt.execAdoptCask {path : Path} {slot : Nat} {s : State} (h : CanonAt s) : CanonNext (execAdoptCask path slot s) := h.cskCommand
theorem CanonAt.execEvacuateCask {path : Path} {slot : Nat} {s : State} (h : CanonAt s) : CanonNext (execEvacuateCask path slot s) := h.cskCommand
theorem CanonAt.execReleaseCask {path : Path} {slot : Nat} {s : State} (h : CanonAt s) : CanonNext (execReleaseCask path slot s) := h.cskCommand
theorem CanonAt.execRetireCask {path : Path} {slot : Nat} {s : State} (h : CanonAt s) : CanonNext (execRetireCask path slot s) := h.cskCommand
theorem CanonAt.execEraseCask {path : Path} {slot : Nat} {s : State} (h : CanonAt s) : CanonNext (execEraseCask path slot s) := h.cskCommand
theorem CanonAt.execImportCask {path : Path} {slot : Nat} {s : State} (h : CanonAt s) : CanonNext (execImportCask path slot s) := h.cskCommand
theorem CanonAt.execForgetCask {path : Path} {slot : Nat} {s : State} (h : CanonAt s) : CanonNext (execForgetCask path slot s) := h.cskCommand

theorem Canon.dieShared {d : Dev} {n n1 b : Nat} (h : Canon d) : Canon (Dev.dieShared d n n1 b) := by
  unfold Dev.dieShared
  split
  · exact h
  · extract_lets
    split
    next d1 heq =>
      have hd1 : Canon d1 := by
        refine holds_of_eq (P := InSnd Canon) ?_ heq
        refine foldl_holds (P := InSnd Canon) h ?_
        intro _ _ hr
        refine ite_holds hr ?_
        split
        next d2 heq1 =>
          have hd2 : Canon d2 := holds_of_eq (P := InSnd Canon) hr.takeFree heq1
          exact ite_holds hd2 hd2.event
      exact hd1.modCask

theorem Canon.rebuildDie {d : Dev} {n : Nat} (h : Canon d) : Canon (Dev.rebuildDie d n) := by
  unfold Dev.rebuildDie
  split
  next d1 heq =>
    have hd1 : Canon d1 := holds_of_eq (P := InSnd Canon) h.takeFree heq
    split
    next d2 heq1 =>
      have hd2 : Canon d2 := holds_of_eq (P := InSnd Canon) hd1.takeFree heq1
      exact hd2.modCask

theorem Canon.dieFails {d : Dev} {n die : Nat} (h : Canon d) : Canon (Dev.dieFails d n die) := by
  unfold Dev.dieFails
  split
  · exact h
  · refine ite_holds h ?_
    extract_lets _ d1 d2
    have hd1 : Canon d1 := h.charge.modCask
    have hd2 : Canon d2 := by
      unfold d2
      refine foldl_holds (P := Canon) hd1 ?_
      intro _ _ hm
      split
      next d4 heq =>
        have hd4 : Canon d4 := holds_of_eq (P := InSnd Canon) hm.takeFree heq
        exact ite_holds hd4.dieShared hd4
    clear_value d1 d2
    exact hd2.rebuildDie

theorem CanonAt.execCaskDieFail {slot die : Nat} {s : State} (h : CanonAt s) : CanonNext (execCaskDieFail slot die s) :=
  h.onDev fun _ hy1 => hy1.dieFails

theorem Canon.caskWears {d : Dev} {n : Nat} (h : Canon d) : Canon (Dev.caskWears d n) := by
  unfold Dev.caskWears
  extract_lets
  refine ite_holds h ?_
  split
  next d1 heq =>
    have hd1 : Canon d1 := holds_of_eq (P := InSnd Canon) h.takeFree heq
    split
    next d2 heq1 =>
      have hd2 : Canon d2 := holds_of_eq (P := InSnd Canon) hd1.takeFree heq1
      exact ite_holds hd2.modCask.stopDemotions.evacuate hd2.modCask.stopDemotions

theorem CanonAt.execCaskWorn {slot : Nat} {s : State} (h : CanonAt s) : CanonNext (execCaskWorn slot s) := h.onDev fun _ hy1 => hy1.caskWears

theorem CanonAt.execCaskLifeReached {slot : Nat} {s : State} (h : CanonAt s) : CanonNext (execCaskLifeReached slot s) := by
  unfold Machine.execCaskLifeReached
  refine CanonAt.onDev h fun _ hy1 => ?_
  split
  · exact ite_holds hy1 hy1.modSlot.event
  · exact hy1

theorem CanonAt.execCaskCounterWrite {slot : Nat} {s : State} (h : CanonAt s) : CanonNext (execCaskCounterWrite slot s) :=
  h.onDev fun _ hy1 => ite_holds hy1.modCask hy1

theorem CanonAt.execCaskPageScrub {_slot _frame _corrections _refresh : Nat} {s : State} (h : CanonAt s) :
    CanonNext (execCaskPageScrub _slot _frame _corrections _refresh s) :=
  h.onDev fun _ hy1 => hy1

end Sys2Proof.Machine
end

section
/-! SUPPORT. T0's memory stays canonical: errors, fences, retirement and margins. -/

namespace Sys2Proof.Machine

open Sys2Proof

theorem Canon.modLoop {d : Dev} {g : VLoop → VLoop} (h : Canon d) : Canon (Dev.modLoop d g) := h
theorem Canon.fenceUnit {d : Dev} {unit : Nat} (h : Canon d) : Canon (Dev.fenceUnit d unit) := ite_holds (ite_holds h h) (ite_holds h h)
theorem Canon.redAtTop {d : Dev} {m : Nat} (h : Canon d) : Canon (Dev.redAtTop d m) := ite_holds h.fenceUnit (ite_holds h.modLoop h.modLoop.event)

theorem Canon.sampleMargins {d : Dev} {bands : List (Nat × Band)} {headroom : Bool} (h : Canon d) : Canon (Dev.sampleMargins d bands headroom) := by
  unfold Dev.sampleMargins
  refine ite_holds h ?_
  extract_lets _ _ _ _ d1 d2 d3 _ d4
  have hd1 : Canon d1 := h.modLoop
  have hd2 : Canon d2 := ite_holds (foldl_holds (P := Canon) hd1 fun _ _ hm => hm.redAtTop) hd1
  have hd3 : Canon d3 := hd1.modLoop
  have hd4 : Canon d4 := ite_holds hd3.modLoop hd3
  clear_value d1 d2 d3 d4
  exact ite_holds (ite_holds h h.modLoop) (ite_holds hd2.modLoop (ite_holds hd1.modLoop (ite_holds hd3.modLoop
      (ite_holds hd4.modLoop hd4.modLoop))))

theorem CanonAt.execMarginSample {bands : List (Nat × Band)} {headroom : Bool} {s : State} (h : CanonAt s) :
    CanonNext (execMarginSample bands headroom s) :=
  h.onDev fun _ hy1 => hy1.sampleMargins

theorem CanonAt.execLoweringHoldEnd {s : State} (h : CanonAt s) : CanonNext (execLoweringHoldEnd s) := h.onDev fun _ hy1 => hy1.modLoop

theorem CanonAt.execCapMissWindow {s : State} (h : CanonAt s) : CanonNext (execCapMissWindow s) :=
  h.onDev fun _ hy1 => ite_holds hy1 hy1.modLoop.setRf.event

theorem KeepsCanon.resultWork {op : Nat} : InSome ((fun f => ∀ x0, KeepsCanon (f x0))) (resultWork op) := by
  unfold Machine.resultWork
  refine ite_holds (fun _ => .copyM) (ite_holds (fun _ => .fillM) ?_)
  refine ite_holds ?_ ?_
  · exact fun _ => .attnPartialM
  · exact ite_holds (fun _ => .kvAppendM) (ite_holds (fun _ => .gatherPoolM) (ite_holds (fun _ => .roundEndM) (ite_holds (fun _ =>
        .streamM) trivial)))

theorem Canon.openRuns {l : List LogRun} {d : Dev} (h : Canon d) : InSnd Canon (openRuns l d) := by
  induction l generalizing d with
  | nil => exact h
  | cons _ _ ih =>
    unfold Machine.openRuns
    split
    next d1 heq =>
      have hd1 : Canon d1 := holds_of_eq (P := InSnd Canon) h.takeFree heq
      split
      next d2 heq1 =>
        have hd2 : Canon d2 := holds_of_eq (P := InSnd Canon) (ih hd1) heq1
        exact hd2

theorem Canon.spoilResults {d : Dev} {q : Nat} {r : Started} (h : Canon d) : Canon (Dev.spoilResults d q r) := by
  unfold Dev.spoilResults
  split
  next m x hwork _ =>
    have hm : ∀ l, KeepsCanon (m l) := holds_of_eq (P := InSome fun f => ∀ l, KeepsCanon (f l)) KeepsCanon.resultWork hwork
    extract_lets c
    split
    next k heq =>
      have hk : CanonRun k := holds_of_eq (P := InSnd CanonRun) (h.runM (hm _)) heq
      split
      next d1 heq1 =>
        have hd1 : Canon d1 := holds_of_eq (P := InSnd Canon) (Canon.openRuns hk) heq1
        exact hd1.commit
    · exact h
  · exact h

theorem Canon.endsResidue {d : Dev} {q n : Nat} {r : Started} (h : Canon d) : Canon (Dev.endsResidue d q n r) := by
  unfold Dev.endsResidue
  extract_lets d1
  have hd1 : Canon d1 := h.stat
  clear_value d1
  split
  · exact foldl_holds (P := Canon) hd1 fun _ _ hk => hk.entryFails
  · exact hd1.spoilResults.finishOpen

theorem Canon.checkFails {d : Dev} {csum : Bool} {loc q n : Nat} (h : Canon d) : Canon (Dev.checkFails d csum loc q n) := by
  unfold Dev.checkFails
  refine ite_holds h ?_
  extract_lets d1 d2 d3 d4
  have hd1 : Canon d1 := ite_holds h.stat h.stat
  have hd2 : Canon d2 := hd1.charge.modLoop
  have hd3 : Canon d3 := by
    unfold d3
    split
    · exact hd2.count
    · exact hd2
  have hd4 : Canon d4 := hd3.modStarted
  clear_value d1 d2 d3 d4
  split
  · exact hd2
  · exact ite_holds hd3 (ite_holds hd4 hd4.endsResidue)

theorem CanonAt.execCheckFailure {loc : CheckAt} {q n : Nat} {s : State} (h : CanonAt s) : CanonNext (execCheckFailure loc q n s) :=
  h.onDev fun _ hy1 => hy1.checkFails

theorem Canon.scrub {d : Dev} {word : Nat} {sym : List Byte} (h : Canon d) : Canon (Dev.scrub d word sym) := by
  unfold Dev.scrub
  split
  · exact h
  · exact ite_holds h (ite_holds h.charge.poisonWord (ite_holds h.charge h.charge.setBytes))

theorem Canon.scrubSram {d : Dev} {region : Nat} {sym : List Byte} (h : Canon d) : Canon (Dev.scrubSram d region sym) := ite_holds h h.charge

theorem CanonAt.execStackScrub {word : ScrubAt} {symbols : List Byte} {s : State} (h : CanonAt s) : CanonNext (execStackScrub word symbols s) := by
  unfold Machine.execStackScrub
  refine CanonAt.onDev h fun _ hy1 => ?_
  split
  · exact hy1.scrub
  · exact hy1.scrubSram

theorem Canon.beginRetire {d : Dev} {ch : Nat} (h : Canon d) : Canon (Dev.beginRetire d ch) := ite_holds h (Canon.event (h.of_mem_eq rfl))

theorem Canon.retireStep {d : Dev} (h : Canon d) : Canon (Dev.retireStep d) := by
  unfold Dev.retireStep
  refine ite_holds (ite_holds (h.of_mem_eq rfl) h) ?_
  extract_lets _ d1
  have hd1 : Canon d1 := by
    unfold d1
    refine foldl_holds (P := Canon) h ?_
    intro _ _ hf
    split
    · exact hf
    · refine ite_holds hf ?_
      split
      next heq => exact holds_of_eq (P := InSome Canon) (Canon.beginRelocation hf) heq
      · exact ite_holds (Canon.beginDemotion hf) hf
  clear_value d1
  exact ite_holds (Canon.eventSecond (hd1.of_mem_eq rfl)) (hd1.of_mem_eq rfl)

theorem CanonAt.execChannelRetireDone {ch : Nat} {s : State} (h : CanonAt s) : CanonNext (execChannelRetireDone ch s) :=
  CanonAt.onDev h fun _ hy1 => ite_holds hy1 (Canon.retireStep (hy1.of_mem_eq rfl))

theorem Canon.settleLost {d : Dev} {f : Nat} {e : TEntry} (h : Canon d) : Canon (Dev.settleLost d f e) := by
  unfold Dev.settleLost
  extract_lets d1 _ _ free
  have hd1 : Canon d1 := h.clearLines.endEmptyBi
  have hfree : ∀ (d : Dev), Canon d → Canon (free d) := fun _ hd2 => foldl_holds (P := Canon) hd2.dropLoc fun _ _ ha => ha.raise
  clear_value d1 free
  refine ite_holds hd1 (ite_holds (((hfree _ hd1).clearFrame).setEntry) ?_)
  refine ite_holds (((hfree _ hd1).setEntry).beginRebuild) ?_
  split
  · exact (hfree _ hd1).setEntry
  · exact hd1

theorem Canon.settleAll {d : Dev} (h : Canon d) : Canon (Dev.settleAll d) := by
  unfold Dev.settleAll
  refine foldl_holds (P := Canon) h ?_
  intro _ _ hp
  split
  · exact hp.settleLost
  · exact hp

theorem Canon.loseReserved {d : Dev} {ch : Nat} (h : Canon d) : Canon (Dev.loseReserved d ch) := by
  unfold Dev.loseReserved
  extract_lets
  split
  next d1 heq =>
    have hd1 : Canon d1 := by
      refine holds_of_eq (P := InSnd Canon) ?_ heq
      refine foldl_holds (P := InSnd Canon) h ?_
      intro _ _ hl
      split
      next d2 heq1 =>
        have hd2 : Canon d2 := holds_of_eq (P := InSnd Canon) hl.takeFree heq1
        exact hd2
    extract_lets d2 d3
    have hd2 : Canon d2 := foldl_holds (P := Canon) hd1 fun _ _ hl => ite_holds hl hl
    have hd3 : Canon d3 := ite_holds hd2 hd2.event
    clear_value d2 d3
    refine foldl_holds (P := Canon) hd3 ?_
    intro _ _ hs
    split
    next d5 heq1 =>
      have hd5 : Canon d5 := holds_of_eq (P := InSnd Canon) hs.takeFree heq1
      exact ite_holds hd5 (foldl_holds (P := Canon) hd5 fun _ _ hp => ite_holds hp.raiseLine hp.raiseLine.callBack)

theorem Canon.loseChannel {d : Dev} {ch : Nat} (h : Canon d) : Canon (Dev.loseChannel d ch) := by
  unfold Dev.loseChannel
  refine ite_holds h ?_
  extract_lets _ d1 _ d2 d3 _ d4 d5
  have hd1 : Canon d1 := by
    unfold d1
    refine foldl_holds (P := Canon) h ?_
    intro _ _ hf
    extract_lets d3 x
    have hd3 : Canon d3 := hf.abandonDemotion
    have hx : Canon x := hd3.modEntry
    clear_value d3 x
    split
    · exact ite_holds hx hd3
    · exact hd3
  have hd2 : Canon d2 := hd1
  have hd3 : Canon d3 := by
    unfold d3
    refine foldl_holds (P := Canon) hd2 ?_
    intro _ _ hf
    split
    · exact hf
    · exact hf.promoFailed
  have hd4 : Canon d4 := foldl_holds (P := Canon) hd3 fun _ _ hf => hf.modEntry.poisonFrame
  have hd5 : Canon d5 := foldl_holds (P := Canon) hd4 fun _ _ hr => hr.event
  clear_value d1 d2 d3 d4 d5
  exact hd5.loseReserved.settleAll.wake

theorem CanonAt.execChannelLoss {ch : Nat} {s : State} (h : CanonAt s) : CanonNext (execChannelLoss ch s) := h.onDev fun _ hy1 => hy1.loseChannel
theorem CanonAt.execScoreHalving {s : State} (h : CanonAt s) : CanonNext (execScoreHalving s) := h.onDev fun _ hy1 => hy1

theorem Canon.warnAt {d : Dev} {loc : Nat} (h : Canon d) : Canon (Dev.warnAt d loc) := by
  unfold Dev.warnAt
  extract_lets _ d1
  have hd1 : Canon d1 := h.event.setScore
  clear_value d1
  refine ite_holds h ?_
  split
  · exact ite_holds hd1 hd1
  · exact ite_holds hd1.leavePort hd1

theorem CanonAt.execScoreWarn {loc : Nat} {s : State} (h : CanonAt s) : CanonNext (execScoreWarn loc s) := h.onDev fun _ hy1 => hy1.warnAt

theorem Canon.limitAt {d : Dev} {loc : Nat} (h : Canon d) : Canon (Dev.limitAt d loc) := by
  unfold Dev.limitAt
  extract_lets _ _ d1 d2
  have hd1 : Canon d1 := Canon.event h
  have hd2 : Canon d2 := hd1.of_mem_eq rfl
  clear_value d1 d2
  refine ite_holds h ?_
  split
  · exact Canon.retireStep (Canon.beginRetire hd1)
  · exact hd1.of_mem_eq rfl
  · exact hd1.of_mem_eq rfl
  · exact ite_holds (Canon.restPort hd2) hd2
  · exact Canon.rebuildDie (hd1.of_mem_eq rfl)

theorem CanonAt.execScoreLimit {loc : Nat} {s : State} (h : CanonAt s) : CanonNext (execScoreLimit loc s) := h.onDev fun _ hy1 => hy1.limitAt

theorem Canon.unfence {d : Dev} {loc : Nat} (h : Canon d) : Canon (Dev.unfence d loc) := by
  unfold Dev.unfence
  extract_lets _ zero _ d1
  have hzero : ∀ (d : Dev), Canon d → Canon (zero d) := fun _ hd1 => hd1.setScore
  have hd1 : Canon d1 := hzero _ h
  clear_value zero d1
  refine ite_holds h ?_
  split
  · exact hzero _ h
  · exact hzero _ h
  · exact ite_holds hd1.restPort hd1
  · exact hzero _ h
  · exact h

theorem CanonAt.execMgtUnfence {path : Path} {loc : Nat} {s : State} (h : CanonAt s) : CanonNext (execMgtUnfence path loc s) :=
  h.onPathDev fun _ hy1 => hy1.unfence

end Sys2Proof.Machine
end

section
/-! SUPPORT. T0's memory stays canonical: calibration. -/

namespace Sys2Proof.Machine

open Sys2Proof

theorem Canon.calCommit {d : Dev} {u : Nat} (h : Canon d) : Canon (Dev.calCommit d u) := h

theorem Canon.calTake {d : Dev} {u : Nat} {recs : List CalRec} (h : Canon d) : Canon (Dev.calTake d u recs) :=
  ite_holds (Canon.calCommit (h.of_mem_eq rfl)) (h.of_mem_eq rfl)

theorem Canon.calibrate {d : Dev} {u : Nat} {result : Option (List Byte)} (h : Canon d) : Canon (Dev.calibrate d u result) := by
  unfold Dev.calibrate
  extract_lets d1
  have hd1 : Canon d1 := ite_holds h.leavePort h
  clear_value d1
  split
  · exact hd1.fenceUnit.event
  · extract_lets
    split
    next d2 heq =>
      have hd2 : Canon d2 := holds_of_eq (P := InSnd Canon) hd1.takeFree heq
      exact hd2.calTake.modLoop

theorem Canon.calErr {d : Dev} (h : Canon d) : Canon (Dev.calErr d) := h.setRf

theorem Canon.calRun {d : Dev} {u : Nat} {result : Option (List Byte)} (h : Canon d) : Canon (Dev.calRun d u result) :=
  ite_holds (Canon.calibrate (h.of_mem_eq rfl)) (Canon.calErr h)

theorem CanonAt.execCalRun {path : Path} {unit : Nat} {result : Option (List Byte)} {s : State} (h : CanonAt s) :
    CanonNext (execCalRun path unit result s) :=
  h.onPathDev fun _ hy1 => hy1.setRf.setRf.calRun

theorem CanonAt.execCalScheduledRun {unit : Nat} {result : Option (List Byte)} {s : State} (h : CanonAt s) :
    CanonNext (execCalScheduledRun unit result s) :=
  h.onDev fun _ hy1 => ite_holds hy1.calRun hy1

theorem Canon.useBuf {α : Type} {d : Dev} {base n : Nat} {m : M α} (h : Canon d) (h_m : KeepsCanon m) : InSnd Canon (Dev.useBuf d base n m) := by
  unfold Dev.useBuf
  refine ite_holds h ?_
  split
  next d1 heq =>
    have hd1 : Canon d1 := holds_of_eq (P := InSnd Canon) (h.unitTry h_m) heq
    exact hd1
  next d1 heq =>
    have hd1 : Canon d1 := holds_of_eq (P := InSnd Canon) (h.unitTry h_m) heq
    exact hd1
  next d1 heq =>
    have hd1 : Canon d1 := holds_of_eq (P := InSnd Canon) (h.unitTry h_m) heq
    exact hd1

theorem Canon.keep {d : Dev} {c : Instr} (h : Canon d) : Canon (Dev.keep d c) := h

theorem Canon.calExportTo {d : Dev} {c : Instr} (h : Canon d) : Canon (Dev.calExportTo d c) := by
  unfold Dev.calExportTo
  extract_lets
  refine ite_holds h.calErr ?_
  split
  next d1 heq =>
    have hd1 : Canon d1 := holds_of_eq (P := InSnd Canon) (h.useBuf .wr) heq
    exact hd1.setRf
  next d1 heq =>
    have hd1 : Canon d1 := holds_of_eq (P := InSnd Canon) (h.useBuf .wr) heq
    exact hd1.calErr
  next d1 heq =>
    have hd1 : Canon d1 := holds_of_eq (P := InSnd Canon) (h.useBuf .wr) heq
    exact hd1.keep

theorem CanonAt.execCalExport {path : Path} {s : State} (h : CanonAt s) : CanonNext (execCalExport path s) :=
  h.onPathDev fun _ hy1 => hy1.setRf.calExportTo

theorem Canon.calTakeSet {d : Dev} {bs : List Byte} (h : Canon d) : Canon (Dev.calTakeSet d bs) := by
  unfold Dev.calTakeSet
  split
  · exact h.calErr
  · exact ite_holds (foldl_holds (P := Canon) h fun _ _ hu => hu.calTake) h.calErr

theorem Canon.calWriteFrom {d : Dev} {c : Instr} (h : Canon d) : Canon (Dev.calWriteFrom d c) := by
  unfold Dev.calWriteFrom
  extract_lets
  refine ite_holds h.calErr ?_
  split
  next d1 heq =>
    have hd1 : Canon d1 := holds_of_eq (P := InSnd Canon) (h.useBuf .rd) heq
    exact hd1.calTakeSet
  next d1 heq =>
    have hd1 : Canon d1 := holds_of_eq (P := InSnd Canon) (h.useBuf .rd) heq
    exact hd1.calErr
  next d1 heq =>
    have hd1 : Canon d1 := holds_of_eq (P := InSnd Canon) (h.useBuf .rd) heq
    exact hd1.keep

theorem CanonAt.execCalWrite {path : Path} {s : State} (h : CanonAt s) : CanonNext (execCalWrite path s) :=
  h.onPathDev fun _ hy1 => hy1.setRf.calWriteFrom

theorem CanonAt.execCalNorWrite {s : State} (h : CanonAt s) : CanonNext (execCalNorWrite s) :=
  h.onDev fun _ hy1 => foldl_holds (P := Canon) hy1 fun _ _ hu => hu.calCommit

end Sys2Proof.Machine
end

section
/-! SUPPORT. T0's memory stays canonical: identity and live update. -/

namespace Sys2Proof.Machine

open Sys2Proof

theorem CanonAt.writeLock {s : State} {value : Nat} (h : CanonAt s) : CanonAt (State.writeLock s value) := h

theorem CanonAt.execSecLockWrite {path : Path} {value : Nat} {s : State} (h : CanonAt s) : CanonNext (execSecLockWrite path value s) :=
  h.onPath fun _ hy1 => CanonAt.writeLock hy1

theorem KeepsCanon.readImage {base : Nat} : KeepsCanon (readImage base) :=
  .getDev_bind fun _ _ => .bind .rd fun _ => ite_holds (.bind (.pure _) (fun _ => .pure _)) (.bind .rd (fun _ => .pure _))

theorem Canon.fwFail {d : Dev} {reason : Nat} (h : Canon d) : Canon (Dev.fwFail d reason) :=
  Canon.of_mem_eq (Canon.setRf h : Canon (d.setRf 4124 8 8 1)) rfl

theorem Canon.modFw {d : Dev} {g : FwState → FwState} (h : Canon d) : Canon (Dev.modFw d g) := h

theorem CanonAt.stage {s : State} {slot : Bool} {c : Instr} (h : CanonAt s) : CanonAt (State.stage s slot c) := by
  unfold State.stage
  extract_lets d
  have hd : Canon d := h
  clear_value d
  refine ite_holds hd.fwFail (ite_holds hd.fwFail ?_)
  split
  next d1 heq =>
    have hd1 : Canon d1 := holds_of_eq (P := InSnd Canon) (hd.useBuf .readImage) heq
    exact hd1.keep
  next d1 heq =>
    have hd1 : Canon d1 := holds_of_eq (P := InSnd Canon) (hd.useBuf .readImage) heq
    exact hd1.modFw.fwFail
  next d1 heq =>
    have hd1 : Canon d1 := holds_of_eq (P := InSnd Canon) (hd.useBuf .readImage) heq
    split
    · exact hd1.modFw.fwFail
    · exact hd1.modFw

theorem Canon.beginRestart {d : Dev} {slot : Bool} (h : Canon d) : Canon (Dev.beginRestart d slot) := h.modFw.modLoop

theorem CanonAt.activateSlot {s : State} {slot : Bool} (h : CanonAt s) : CanonAt (State.activateSlot s slot) :=
  ite_holds h.fwFail (ite_holds h.fwFail h.beginRestart)

theorem CanonAt.confirmSlot {s : State} (h : CanonAt s) : CanonAt (State.confirmSlot s) := ite_holds h.fwFail (ite_holds h.fwFail h.modFw)
theorem CanonAt.revertSlot {s : State} (h : CanonAt s) : CanonAt (State.revertSlot s) := ite_holds h.fwFail (ite_holds h.fwFail h.beginRestart)

theorem CanonAt.fwGo {s : State} {op : Nat} {slot : Bool} {c : Instr} (h : CanonAt s) : CanonAt (State.fwGo s op slot c) := by
  unfold State.fwGo
  extract_lets s1
  have hs1 : CanonAt s1 := h.setRf.setRf
  clear_value s1
  split
  · exact CanonAt.stage hs1
  · exact CanonAt.activateSlot hs1
  · exact CanonAt.confirmSlot hs1
  · exact CanonAt.revertSlot hs1
  · exact hs1

theorem CanonAt.execStageImage {path : Path} {slot : Bool} {s : State} (h : CanonAt s) : CanonNext (execStageImage path slot s) :=
  h.onPath fun _ hy1 => CanonAt.fwGo hy1

theorem CanonAt.execActivate {path : Path} {slot : Bool} {s : State} (h : CanonAt s) : CanonNext (execActivate path slot s) :=
  h.onPath fun _ hy1 => CanonAt.fwGo hy1

theorem CanonAt.execConfirm {path : Path} {s : State} (h : CanonAt s) : CanonNext (execConfirm path s) := h.onPath fun _ hy1 => CanonAt.fwGo hy1
theorem CanonAt.execRevert {path : Path} {s : State} (h : CanonAt s) : CanonNext (execRevert path s) := h.onPath fun _ hy1 => CanonAt.fwGo hy1
theorem CanonAt.endRestart {s : State} (h : CanonAt s) : CanonAt (State.endRestart s) := ite_holds h (ite_holds h.modFw.fwFail h.modFw)

theorem CanonAt.execMicrocodeRollout {bay : Nat} {s : State} (h : CanonAt s) : CanonNext (execMicrocodeRollout bay s) :=
  h.onDev fun _ hy1 => ite_holds hy1 hy1.modFw

theorem Canon.spdmError {d : Dev} {transport code : Nat} {data : List Byte} (h : Canon d) : Canon (Dev.spdmError d transport code data) := h.send

theorem CanonAt.spdm {s : State} {transport : Nat} {c : Instr} {f : State → Dev} (h : CanonAt s) (h_f : ∀ y1, CanonAt y1 → Canon (f y1)) :
    CanonNext (State.spdm s transport c f) :=
  ite_holds h (ite_holds h.hostArrives.keep (ite_holds h.spdmError (h_f _ h)))

theorem CanonAt.execChallenge {transport slot : Nat} {nonce : List Byte} {s : State} (h : CanonAt s) :
    CanonNext (execChallenge transport slot nonce s) :=
  h.spdm fun _ hy1 => ite_holds hy1.spdmError hy1.send

theorem CanonAt.execGetMeasurements {transport index : Nat} {nonce : List Byte} {s : State} (h : CanonAt s) :
    CanonNext (execGetMeasurements transport index nonce s) :=
  h.spdm fun _ hy1 => ite_holds hy1.spdmError hy1.send

theorem CanonAt.execGetCertificate {transport slot off len : Nat} {s : State} (h : CanonAt s) :
    CanonNext (execGetCertificate transport slot off len s) :=
  h.spdm fun _ hy1 => ite_holds hy1.spdmError hy1.send

theorem CanonAt.execKeyExchange {transport id : Nat} {exchange : List Byte} {leaf : Option Nat} {s : State} (h : CanonAt s) :
    CanonNext (execKeyExchange transport id exchange leaf s) := by
  unfold Machine.execKeyExchange
  refine CanonAt.spdm h fun _ hy1 => ?_
  extract_lets d
  have hd : Canon d := hy1
  clear_value d
  refine ite_holds hd.spdmError (ite_holds hd.spdmError ?_)
  split
  · exact hd.modFw.send

end Sys2Proof.Machine
end

section
/-! SUPPORT. T0's memory stays canonical: counters, the recorder and meters. -/

namespace Sys2Proof.Machine

open Sys2Proof

theorem Canon.writeEvt {d : Dev} {set i v : Nat} (h : Canon d) : Canon (Dev.writeEvt d set i v) := h.setRf.setReg

theorem CanonAt.execPmcEvtWrite {path : Path} {i event : Nat} {s : State} (h : CanonAt s) : CanonNext (execPmcEvtWrite path i event s) :=
  h.onPathDev fun _ hy1 => ite_holds hy1.writeEvt hy1

theorem CanonAt.execRecorderFlush {s : State} (h : CanonAt s) : CanonNext (execRecorderFlush s) :=
  h.onDev fun _ hy1 => ite_holds hy1 hy1.flushEvents

theorem Canon.recErr {d : Dev} (h : Canon d) : Canon (Dev.recErr d) := h.setRf

theorem Canon.recExportTo {d : Dev} {c : Instr} (h : Canon d) : Canon (Dev.recExportTo d c) := by
  unfold Dev.recExportTo
  extract_lets
  refine ite_holds h.recErr ?_
  split
  next heq => exact holds_of_eq (P := InSnd Canon) (h.useBuf .wr) heq
  next d1 heq =>
    have hd1 : Canon d1 := holds_of_eq (P := InSnd Canon) (h.useBuf .wr) heq
    exact hd1.recErr
  next d1 heq =>
    have hd1 : Canon d1 := holds_of_eq (P := InSnd Canon) (h.useBuf .wr) heq
    exact hd1.keep

theorem CanonAt.execRecExport {path : Path} {s : State} (h : CanonAt s) : CanonNext (execRecExport path s) :=
  h.onPathDev fun _ hy1 => hy1.setRf.recExportTo

theorem Canon.recClearBy {d : Dev} {p : Path} (h : Canon d) : Canon (Dev.recClearBy d p) := by
  unfold Dev.recClearBy
  split
  · exact h.recErr.event
  · exact h

theorem CanonAt.execRecClear {path : Path} {s : State} (h : CanonAt s) : CanonNext (execRecClear path s) :=
  h.onPathDev fun _ hy1 => hy1.setRf.recClearBy

theorem Canon.meterFrame {d : Dev} {e : TEntry} (h : Canon d) : Canon (Dev.meterFrame d e) := ite_holds h.meter (ite_holds h.meter h)

theorem CanonAt.execOperatingTick {s : State} (h : CanonAt s) : CanonNext (execOperatingTick s) := by
  refine CanonAt.onDev h fun d hd => ?_
  extract_lets d1 d2
  have hd1 : Canon d1 := ite_holds (foldl_holds (P := Canon) hd fun _ _ hp => ite_holds hp.meterFrame hp) hd
  have hd2 : Canon d2 := hd1.of_mem_eq rfl
  exact ite_holds (hd2.of_mem_eq rfl) hd2

theorem Canon.writeWindow {d : Dev} (h : Canon d) : Canon (Dev.writeWindow d) := by
  unfold Dev.writeWindow
  split
  · exact h
  · extract_lets _ gone
    have hgone : ∀ (d : Dev), Canon d → Canon (gone d) := fun _ hd1 => hd1
    clear_value gone
    refine ite_holds h (ite_holds (hgone _ h) ?_)
    split
    next d1 heq =>
      have hd1 : Canon d1 := holds_of_eq (P := InSnd Canon) (h.useBuf .wr) heq
      exact (hgone _ hd1).setReg
    next d1 heq =>
      have hd1 : Canon d1 := holds_of_eq (P := InSnd Canon) (h.useBuf .wr) heq
      exact hgone _ hd1
    next heq => exact holds_of_eq (P := InSnd Canon) (h.useBuf .wr) heq

theorem Canon.endWindow {d : Dev} (h : Canon d) : Canon (Dev.endWindow d) := by
  unfold Dev.endWindow
  extract_lets _ d1 _ _ _ d2
  have hd1 : Canon d1 := ite_holds h (h.of_mem_eq rfl)
  have hd2 : Canon d2 := hd1.of_mem_eq rfl
  clear_value d1 d2
  exact Canon.writeWindow (Canon.rowDecay (Canon.endWindowEvents hd2))

theorem CanonAt.execAccountingWindowEnd {s : State} (h : CanonAt s) : CanonNext (execAccountingWindowEnd s) := h.onDev fun _ hy1 => hy1.endWindow
theorem Canon.showAlert {d : Dev} (h : Canon d) : Canon (Dev.showAlert d) := ite_holds (Canon.eventSecond (h.of_mem_eq rfl)) (h.of_mem_eq rfl)

theorem CanonAt.execPkgPowerUpdate {mw die hbm opt : Nat} {s : State} (h : CanonAt s) : CanonNext (execPkgPowerUpdate mw die hbm opt s) :=
  h.onDev fun _ hy1 => hy1.setReg.setReg.showAlert

theorem CanonAt.execThermalAlert {cls temp : Nat} {s : State} (h : CanonAt s) : CanonNext (execThermalAlert cls temp s) :=
  h.onDev fun _ hy1 => ite_holds hy1 hy1.setRf.showAlert

end Sys2Proof.Machine
end

section
/-! SUPPORT. T0's memory stays canonical: the reading of registers. -/

namespace Sys2Proof.Machine

open Sys2Proof

theorem CanonAt.readReg {s : State} {p : Path} {off width : Nat} (h : CanonAt s) : InSnd CanonAt (State.readReg s p off width) := by
  unfold State.readReg
  extract_lets r _ leave
  have hleave : ∀ (l : Latch), CanonAt (leave l) := fun _ => h.setLatch
  clear_value leave
  split
  · exact ite_holds (hleave _) (hleave _)
  · refine ite_holds (hleave _) ?_
    clear_value r
    split
    · exact hleave _
    · refine ite_holds (hleave _) (ite_holds (hleave _) ?_)
      split <;> exact hleave _

end Sys2Proof.Machine
end

section
/-! SUPPORT. T0's memory stays canonical: power states, resets and boot. -/

namespace Sys2Proof.Machine

open Sys2Proof

theorem Canon.requestStop {d : Dev} (h : Canon d) : Canon (Dev.requestStop d) := by
  unfold Dev.requestStop
  split
  · split
    · exact h.accountStop
    · exact h
  · exact h.accountStop
  · exact h

theorem CanonAt.execStopRequest {path : Path} {s : State} (h : CanonAt s) : CanonNext (execStopRequest path s) :=
  h.onPathDev fun _ hy1 => hy1.requestStop

theorem CanonAt.execStopL1Timeout {s : State} (h : CanonAt s) : CanonNext (execStopL1Timeout s) :=
  h.onDev fun _ hy1 => ite_holds hy1.undoEntry.accountStop hy1

theorem CanonAt.execStopAbort {unit : Nat} {s : State} (h : CanonAt s) : CanonNext (execStopAbort unit s) :=
  h.onDev fun _ hy1 => ite_holds hy1.abortEntry hy1

theorem Canon.saveCounters {d : Dev} (h : Canon d) : Canon (Dev.saveCounters d) := foldl_holds (P := Canon) h fun _ _ hn => ite_holds hn.modCask hn
theorem Canon.dropCaches {d : Dev} (h : Canon d) : Canon (Dev.dropCaches d) := h

theorem CanonAt.entryStep {s : State} (h : CanonAt s) : CanonAt (State.entryStep s) := by
  unfold State.entryStep
  extract_lets d at_ x x1
  have hd : Canon d := h
  have hat_ : ∀ {d : Dev} {n : Nat}, Canon d → Canon (at_ d n) := fun hd => hd.of_mem_eq rfl
  clear_value d at_
  split
  · exact CanonAt.of_dev (hat_ hd.saveCounters)
  · exact CanonAt.of_dev (hat_ hd.dropCaches)
  · exact CanonAt.of_dev (hat_ (hd.of_mem_eq rfl))
  · exact CanonAt.of_dev (hat_ (foldl_holds (P := Canon) hd fun _ _ hp => hp.dozePort))
  · exact CanonAt.of_dev (hat_ hd)
  · exact CanonAt.of_dev (hat_ (hd.of_mem_eq rfl))
  · exact CanonAt.of_dev (hd.of_mem_eq rfl)

theorem Canon.cleared {d : Dev} (h : Canon d) : Canon (Dev.cleared d) := KeepsCanon.reset
theorem CanonAt.deviceReset {s : State} (h : CanonAt s) : CanonAt (State.deviceReset s) := h.cleared
theorem Canon.zeroMeters {d : Dev} (h : Canon d) : Canon (Dev.zeroMeters d) := h
theorem CanonAt.coldReset {s : State} {found : PowerOn} (h : CanonAt s) : CanonAt (State.coldReset s found) := h.cleared.zeroMeters
theorem CanonAt.execColdReset {found : PowerOn} {s : State} (h : CanonAt s) : CanonNext (execColdReset found s) := h.coldReset
theorem CanonAt.execDeviceReset {_cause : Nat} {s : State} (h : CanonAt s) : CanonNext (execDeviceReset _cause s) := ite_holds h.deviceReset h
theorem CanonAt.execWatchdogExpiry {s : State} (h : CanonAt s) : CanonNext (execWatchdogExpiry s) := ite_holds h.deviceReset h

theorem Canon.bootWith {d : Dev} {slot : Bool} (h : Canon d) : Canon (Dev.bootWith d slot) := by
  unfold Dev.bootWith
  extract_lets d1 _ d2 x _ d3 _ d4 d5 d6
  have hd1 : Canon d1 := ite_holds h (Canon.setRf h)
  have hd2 : Canon d2 := Canon.modFw hd1
  have hx : Canon x := Canon.modLoop hd2
  have hd3 : Canon d3 := hx.of_mem_eq rfl
  have hd4 : Canon d4 := by
    unfold d4
    split
    · exact Canon.event (hd3.of_mem_eq rfl)
    · exact Canon.event (hd3.of_mem_eq rfl)
    · exact hd3
  have hd5 : Canon d5 := ite_holds (Canon.event hd4) hd4
  have hd6 : Canon d6 := foldl_holds (P := Canon) hd5 fun _ _ hp => ite_holds (Canon.restPort hp) hp
  clear_value d1 d2 x d3 d4 d5 d6
  exact Canon.raiseRails hd6

theorem CanonAt.boot {s : State} (h : CanonAt s) : CanonAt (State.boot s) := by
  unfold State.boot
  extract_lets d
  have hd : Canon d := h
  clear_value d
  refine ite_holds h (ite_holds (CanonAt.of_dev (hd.of_mem_eq rfl)) ?_)
  split
  · exact CanonAt.of_dev hd.bootWith
  · exact CanonAt.of_dev (hd.of_mem_eq rfl)

theorem CanonAt.execCxlLinkUp {s : State} (h : CanonAt s) : CanonNext (execCxlLinkUp s) := h.onDev fun _ hy1 => ite_holds hy1 hy1.hostArrives

theorem Canon.logicReady {d : Dev} (h : Canon d) : Canon (Dev.logicReady d) := by
  unfold Dev.logicReady
  extract_lets _ _ d1 _ d2 d3 d4 d5
  have hd1 : Canon d1 := h
  have hd2 : Canon d2 := foldl_holds (P := Canon) hd1 fun _ _ hn => hn.losesCask
  have hd3 : Canon d3 := foldl_holds (P := Canon) hd2 fun _ _ hn => ite_holds hn.modSlot hn
  have hd4 : Canon d4 := hd3.raiseRails
  have hd5 : Canon d5 := foldl_holds (P := Canon) hd4 fun _ _ hp => ite_holds hp.raise hp
  clear_value d1 d2 d3 d4 d5
  exact hd5.wake.writeWindow

theorem CanonAt.wakeFails {s : State} {step : Nat} (h : CanonAt s) : CanonAt (State.wakeFails s step) := CanonAt.deviceReset h.event.flushEvents

theorem CanonAt.wakeStep {s : State} (h : CanonAt s) : CanonAt (State.wakeStep s) := by
  unfold State.wakeStep
  extract_lets d
  have hd : Canon d := h
  clear_value d
  exact ite_holds (CanonAt.of_dev (hd.of_mem_eq rfl)) (ite_holds (CanonAt.wakeFails h) (CanonAt.of_dev hd.logicReady))

theorem Canon.wakeSource {d : Dev} {src idx : Nat} (h : Canon d) : Canon (Dev.wakeSource d src idx) := ite_holds h.abortEntry.startWake h

theorem CanonAt.execWakeUp {source index : Nat} {s : State} (h : CanonAt s) : CanonNext (execWakeUp source index s) :=
  h.onDev fun _ hy1 => hy1.wakeSource

theorem CanonAt.execManagementExit {path : Path} {s : State} (h : CanonAt s) : CanonNext (execManagementExit path s) :=
  h.onPathDev fun _ hy1 => hy1.wakeSource

theorem CanonAt.execWakeStepTimeout {step : Nat} {s : State} (h : CanonAt s) : CanonNext (execWakeStepTimeout step s) := ite_holds h.wakeFails h
theorem Canon.writePwrCtrl {d : Dev} {v : Nat} (h : Canon d) : Canon (Dev.writePwrCtrl d v) := ite_holds h.setRf.requestStop h.setRf.wakeSource
theorem Canon.writePwrMode {d : Dev} {v : Nat} (h : Canon d) : Canon (Dev.writePwrMode d v) := ite_holds h.setRf h

theorem CanonAt.execPwrModeTest {path : Path} {s : State} (h : CanonAt s) : CanonNext (execPwrModeTest path s) :=
  h.onPath fun _ hy1 => ite_holds hy1 hy1.writePwrMode

theorem Canon.dropHost {d : Dev} {lds : List Nat} (h : Canon d) : Canon (Dev.dropHost d lds) := h

theorem Canon.resetLds {d : Dev} {lds : List Nat} (h : Canon d) : Canon (Dev.resetLds d lds) := by
  unfold Dev.resetLds
  extract_lets _ d1 _ d2 d3 d4
  have hd1 : Canon d1 := foldl_holds (P := Canon) h.dropHost fun _ _ hl => hl.silence
  have hd2 : Canon d2 := foldl_holds (P := Canon) hd1 fun _ _ hf => hf.deleteAll
  have hd3 : Canon d3 := foldl_holds (P := Canon) hd2 fun _ _ hl => foldl_holds (P := Canon) hl fun _ _ hn => hn.uncommit
  have hd4 : Canon d4 := hd3.resetFns
  clear_value d1 d2 d3 d4
  exact hd4

theorem Canon.dropHeld {d : Dev} {lds : List Nat} (h : Canon d) : Canon (Dev.dropHeld d lds) := h

theorem CanonAt.execHostPortReset {s : State} (h : CanonAt s) : CanonNext (execHostPortReset s) := by
  unfold Machine.execHostPortReset
  refine CanonAt.onDev h fun _ hy1 => ite_holds hy1 ?_
  extract_lets d
  have hd : Canon d := Canon.dropHeld (Canon.resetLds hy1)
  clear_value d
  exact hd.of_mem_eq rfl

theorem CanonAt.execLdReset {ld : Nat} {s : State} (h : CanonAt s) : CanonNext (execLdReset ld s) :=
  h.onDev fun _ hy1 => ite_holds hy1 hy1.resetLds.dropHeld

theorem Canon.losePower {d : Dev} (h : Canon d) : Canon (Dev.losePower d) := h.cleared
theorem CanonAt.execPowerLoss {s : State} (h : CanonAt s) : CanonNext (execPowerLoss s) := h.onDev fun _ hy1 => ite_holds hy1.losePower hy1
theorem CanonAt.execPwrgdFall {s : State} (h : CanonAt s) : CanonNext (execPwrgdFall s) := h.onDev fun _ hy1 => ite_holds hy1 hy1.losePower
theorem CanonAt.execVddAonLoss {s : State} (h : CanonAt s) : CanonNext (execVddAonLoss s) := h.onDev fun _ hy1 => hy1

theorem CanonAt.execThermalTrip {sensor temp : Nat} {s : State} (h : CanonAt s) : CanonNext (execThermalTrip sensor temp s) :=
  h.onDev fun _ hy1 => ite_holds hy1 hy1.losePower

end Sys2Proof.Machine
end

section
/-! SUPPORT. T0's memory stays canonical: the writing of registers. -/

namespace Sys2Proof.Machine

open Sys2Proof

theorem CanonAt.storeReg {s : State} {key m v : Nat} (h : CanonAt s) : CanonAt (State.storeReg s key m v) := by
  unfold State.storeReg
  split
  · exact h
  · exact h.setReg

theorem Canon.measured {d : Dev} (h : Canon d) : InSnd Canon (Dev.measured d) := by
  unfold Dev.measured
  split
  next d1 heq =>
    have hd1 : Canon d1 := holds_of_eq (P := InSnd Canon) h.takeFree heq
    split
    next d2 heq1 =>
      have hd2 : Canon d2 := holds_of_eq (P := InSnd Canon) hd1.takeFree heq1
      split
      next d3 heq2 =>
        have hd3 : Canon d3 := holds_of_eq (P := InSnd Canon) hd2.takeFree heq2
        exact hd3

theorem Canon.writeCalCmd {d : Dev} {p : Path} {v : Nat} (h : Canon d) : Canon (Dev.writeCalCmd d p v) := by
  unfold Dev.writeCalCmd
  extract_lets d1
  have hd1 : Canon d1 := h.setRf.setRf
  clear_value d1
  refine ite_holds hd1 ?_
  split
  · split
    next d2 heq =>
      have hd2 : Canon d2 := holds_of_eq (P := InSnd Canon) hd1.measured heq
      exact hd2.calRun
  · exact hd1.calExportTo
  · exact hd1.calWriteFrom
  · exact hd1.calErr

theorem Canon.writeRecCmd {d : Dev} {p : Path} {v : Nat} (h : Canon d) : Canon (Dev.writeRecCmd d p v) := by
  unfold Dev.writeRecCmd
  extract_lets d1
  have hd1 : Canon d1 := h.setRf
  clear_value d1
  refine ite_holds hd1 ?_
  split
  · exact hd1.recExportTo
  · exact hd1.recClearBy
  · exact hd1.recErr

theorem CanonAt.writeFwCmd {s : State} {p : Path} {v : Nat} (h : CanonAt s) : CanonAt (State.writeFwCmd s p v) := ite_holds h.fwGo h.setRf.setRf
theorem Canon.writeGrant {d : Dev} {sel m v : Nat} (h : Canon d) : Canon (Dev.writeGrant d sel m v) := h

theorem CanonAt.writeBase {s : State} {key lock m v : Nat} {f : Dev → Nat → Dev} (h : CanonAt s) (h_f : ∀ y1, Canon y1 → ∀ y2, Canon (f y1 y2)) :
    CanonAt (State.writeBase s key lock m v f) :=
  ite_holds h (ite_holds h.storeReg (h_f _ h _))

theorem CanonAt.arrayStore {s : State} {off m v : Nat} (h : CanonAt s) : CanonAt (State.arrayStore s off m v) := by
  unfold State.arrayStore
  extract_lets d
  have hd : Canon d := h
  clear_value d
  refine ite_holds (ite_holds (ite_holds hd.cskGo hd.setRf) (ite_holds (ite_holds hd.modSlot hd) h)) (ite_holds hd.writePortCfg ?_)
  refine ite_holds ?_ ?_
  · split
    · exact hd.writeRange
    · exact h.storeReg
    · exact ite_holds h h.storeReg
    · exact ite_holds h hd.writeEn
    · exact h
  · exact h.storeReg

theorem CanonAt.pmcStore {s : State} {set o m v : Nat} (h : CanonAt s) : CanonAt (State.pmcStore s set o m v) := ite_holds h.writeEvt h.storeReg

theorem CanonAt.mgmtStore {s : State} {p : Path} {off m v : Nat} (h : CanonAt s) : CanonAt (State.mgmtStore s p off m v) := by
  unfold State.mgmtStore
  extract_lets d
  have hd : Canon d := h
  clear_value d
  refine ite_holds hd.setSel (ite_holds h.pmcStore ?_)
  split
  · exact h.writeLock
  · exact h.writeFwCmd
  · exact hd.writePwrCtrl
  · exact ite_holds h hd.writePwrMode
  · exact ite_holds h.deviceReset h
  · exact h.storeReg
  · exact ite_holds hd.unfence h
  · exact hd.writeCalCmd
  · exact hd.writeRecCmd
  · exact ite_holds h hd.writeMapCfg
  · exact ite_holds h hd.writeQuota
  · exact hd.writeRoot
  · exact hd.writeMode
  · exact h.writeBase fun _ hy1 _ => hy1.writeAtn
  · exact h.writeBase fun _ hy1 _ => hy1.writeHtab
  · exact h.writeBase fun _ hy1 _ => hy1.writeExtBase
  · exact hd.writeDefCtrl
  · exact hd
  · exact hd.writeEgData
  · exact hd.writeGrant
  · exact hd.writeFabCtrl
  · exact h.arrayStore

theorem CanonAt.fnStore {s : State} {f key m v : Nat} (h : CanonAt s) : CanonAt (State.fnStore s f key m v) :=
  ite_holds h (ite_holds h.writeEn (ite_holds h.pmcStore h.storeReg))

theorem Canon.msixStore {d : Dev} {f i v : Nat} (h : Canon d) : Canon (Dev.msixStore d f i v) := by
  unfold Dev.msixStore
  extract_lets _ e put
  have hput : ∀ (e : MsixEntry), Canon (put e) := fun _ => h
  clear_value put
  split
  · exact hput _
  · exact hput _
  · exact hput _
  · exact ite_holds (hput _) h.unmask

theorem CanonAt.msixWrite {s : State} {f off width v : Nat} (h : CanonAt s) : CanonAt (State.msixWrite s f off width v) :=
  ite_holds h (ite_holds h.msixStore.msixStore h.msixStore)

theorem CanonAt.storeAt {s : State} {p : Path} {o m v : Nat} (h : CanonAt s) : CanonAt (State.storeAt s p o m v) := by
  unfold State.storeAt
  split
  · split
    · exact h.fnStore
    · exact h
  · exact h.mgmtStore

theorem CanonAt.writeReg {s : State} {p : Path} {lt : Latch} {off width v : Nat} (h : CanonAt s) :
    InSnd CanonAt (State.writeReg s p lt off width v) := by
  unfold State.writeReg
  extract_lets _ r
  split
  · exact ite_holds h.msixWrite h
  · refine ite_holds h ?_
    clear_value r
    split
    · exact h
    · refine ite_holds h.storeAt (ite_holds h.storeAt ?_)
      refine ite_holds h.setLatch ?_
      split
      · exact ite_holds h.storeAt h.storeAt
      · exact h.storeAt

theorem CanonAt.access {s : State} {p : Path} {off width v : Nat} (h : CanonAt s) : InSnd CanonAt (State.access s p off width v) := by
  unfold State.access
  extract_lets
  split
  · exact CanonAt.writeReg h.setLatch
  · exact h.setLatch.nauthCount
  · exact h.onPath fun _ hy1 => hy1
  · exact h

theorem CanonAt.execRegisterWrite {path : Path} {off width value : Nat} {s : State} (h : CanonAt s) :
    CanonNext (execRegisterWrite path off width value s) := by
  unfold Machine.execRegisterWrite
  split
  next s1 heq =>
    have hs1 : CanonAt s1 := holds_of_eq (P := InSnd CanonAt) h.access heq
    exact ite_holds hs1 hs1.send

end Sys2Proof.Machine
end

section
/-! SUPPORT. T0's memory stays canonical: MGMT packets. -/

namespace Sys2Proof.Machine

open Sys2Proof

theorem Canon.mgTake {d : Dev} {p : Nat} {m : FabMsg} (h : Canon d) : InSnd Canon (Dev.mgTake d p m) := by
  unfold Dev.mgTake
  refine ite_holds h (ite_holds h ?_)
  refine ite_holds h ?_
  split
  next d1 heq =>
    have hd1 : Canon d1 := holds_of_eq (P := InSnd Canon) h.admits heq
    exact hd1.freeBuf
  next heq => exact holds_of_eq (P := InSnd Canon) h.admits heq

theorem Canon.mgSend {d : Dev} {out from_ : Nat} {m : FabMsg} {body : List Byte} (h : Canon d) : Canon (Dev.mgSend d out from_ m body) := h.enqueue

theorem Canon.mgReply {d : Dev} {p : Nat} {m : FabMsg} {result : Nat} {data : List Byte} (h : Canon d) : Canon (Dev.mgReply d p m result data) :=
  h.freeBuf.mgSend

theorem Canon.mgForward {d : Dev} {p : Nat} {m : FabMsg} (h : Canon d) : Canon (Dev.mgForward d p m) :=
  ite_holds (ite_holds h.mgSend h.freeBuf.send) h.mgSend

theorem CanonAt.execMgmtForward {port : Nat} {m : FabMsg} {s : State} (h : CanonAt s) : CanonNext (execMgmtForward port m s) := by
  unfold Machine.execMgmtForward
  refine CanonAt.onDev h fun _ hy1 => ite_holds hy1 ?_
  split
  next d heq =>
    have hd : Canon d := holds_of_eq (P := InSnd Canon) hy1.mgTake heq
    exact hd.mgForward
  next heq => exact holds_of_eq (P := InSnd Canon) hy1.mgTake heq

theorem CanonAt.execMgmtForwardTmo {port : Nat} {m : FabMsg} {s : State} (h : CanonAt s) : CanonNext (execMgmtForwardTmo port m s) := by
  unfold Machine.execMgmtForwardTmo
  refine CanonAt.onDev h fun _ hy1 => ?_
  extract_lets
  refine ite_holds hy1 ?_
  split
  · exact hy1.unqueue
  · exact hy1

theorem CanonAt.execReadNbr {port : Nat} {m : FabMsg} {s : State} (h : CanonAt s) : CanonNext (execReadNbr port m s) := by
  unfold Machine.execReadNbr
  refine CanonAt.onDev h fun _ hy1 => ite_holds hy1 ?_
  split
  next heq => exact holds_of_eq (P := InSnd Canon) hy1.mgTake heq
  next d heq =>
    have hd : Canon d := holds_of_eq (P := InSnd Canon) hy1.mgTake heq
    exact ite_holds hd.mgReply hd.mgReply

theorem CanonAt.execReadReg {port : Nat} {m : FabMsg} {s : State} (h : CanonAt s) : CanonNext (execReadReg port m s) := by
  unfold Machine.execReadReg
  refine ite_holds h ?_
  split
  next heq => exact holds_of_eq (P := InSnd Canon) h.mgTake heq
  next d heq =>
    have hd : Canon d := holds_of_eq (P := InSnd Canon) h.mgTake heq
    extract_lets s1
    have hs1 : CanonAt s1 := hd
    clear_value s1
    split
    next s2 heq1 =>
      have hs2 : CanonAt s2 := holds_of_eq (P := InSnd CanonAt) (CanonAt.readReg hs1) heq1
      exact hs2.mgReply
    next s2 heq1 =>
      have hs2 : CanonAt s2 := holds_of_eq (P := InSnd CanonAt) (CanonAt.readReg hs1) heq1
      exact hs2.mgReply

theorem CanonAt.execWriteReg {port : Nat} {m : FabMsg} {s : State} (h : CanonAt s) : CanonNext (execWriteReg port m s) := by
  unfold Machine.execWriteReg
  refine ite_holds h ?_
  split
  next heq => exact holds_of_eq (P := InSnd Canon) h.mgTake heq
  next d heq =>
    have hd : Canon d := holds_of_eq (P := InSnd Canon) h.mgTake heq
    refine ite_holds hd.stat.mgReply ?_
    extract_lets s1
    have hs1 : CanonAt s1 := hd
    clear_value s1
    split
    next s2 heq1 =>
      have hs2 : CanonAt s2 := holds_of_eq (P := InSnd CanonAt) (CanonAt.access hs1) heq1
      exact ite_holds hs2 hs2.mgReply

theorem CanonAt.execMgmtEcho {port : Nat} {m : FabMsg} {s : State} (h : CanonAt s) : CanonNext (execMgmtEcho port m s) := by
  unfold Machine.execMgmtEcho
  refine CanonAt.onDev h fun _ hy1 => ite_holds hy1 ?_
  split
  next d heq =>
    have hd : Canon d := holds_of_eq (P := InSnd Canon) hy1.mgTake heq
    exact hd.mgReply
  next heq => exact holds_of_eq (P := InSnd Canon) hy1.mgTake heq

end Sys2Proof.Machine
end

section
/-! SUPPORT. T0's memory stays canonical: every command. -/

namespace Sys2Proof.Machine

open Sys2Proof

theorem CanonAt.exec {i : Instr} {s : State} (h : CanonAt s) : CanonNext (exec i s) := by
  unfold Machine.exec
  split
  · exact h.execNop
  · exact h.execCopy
  · exact h.execFill
  · exact h.execTimetableRun
  · exact h.execWriteAck
  · exact h.execFence
  · exact h.execPlaceWriteRecord
  · exact h.execPlaceBind
  · exact h.execPlaceDemote
  · exact h.execPlacePromote
  · exact h.execAttnPartial
  · exact h.execKvAppend
  · exact h.execKvRelease
  · exact h.execGatherPool
  · exact h.execScatterAdd
  · exact h.execTableSwitch
  · exact h.execTableMove
  · exact h.execVsearch
  · exact h.execVinsert
  · exact h.execVdelete
  · exact h.execOptStep
  · exact h.execStreamRun
  · exact h.execEcRebuildData
  · exact h.execEcRebuildParity
  · exact h.execExtentXferMove
  · exact h.execExtentXferAbort
  · exact h.execExtentRevokeHosts
  · exact h.execExtentRevokeComp
  · exact h.execQueueCreate
  · exact h.execQueueDeleteDrain
  · exact h.execQueueDeleteAbort
  · exact h.execInvalidateRange
  · exact h.execFaultResumeRetry
  · exact h.execFaultResumeFail
  · exact h.execGetInfo
  · exact h.execDescriptorStart
  · exact h.execDescriptorComplete
  · exact h.execCoalNsExpiry
  · exact h.execWatchEvent
  · exact h.execWatchSnoop
  · exact h.execHostRead
  · exact h.execHostWrite
  · exact h.execHostWriteBack
  · exact h.execCleanEvictionNotice
  · exact h.execDeviceAccess
  · exact h.execBirsp
  · exact h.execBiconflict
  · exact h.execRequestRepresent
  · exact h.execStarvationTicketGrant
  · exact h.execBisnpTimeout
  · exact h.execSweepEnd
  · exact h.execHdmDecoderCommit
  · exact h.execHdmDecoderUncommit
  · exact h.execRevokeDrainEnd
  · exact h.execExtRevokeTmoExpiry
  · exact h.execFaultSignalExpiry
  · exact h.execFaultHeadPoll
  · exact h.execFaultTmoExpiry
  · exact h.execMigrationDmaDone
  · exact h.execInvalidationAck
  · exact h.execDemotionStart
  · exact h.execDemotionCommit
  · exact h.execPromotionSubblockLand
  · exact h.execPromotionComplete
  · exact h.execOpenRecordDurable
  · exact h.execRelocationCommit
  · exact h.execAgeWindowBoundary
  · exact h.execTierMapCopyLoss
  · exact h.execTierMapRebuild
  · exact h.execLeafBuildDone
  · exact h.execCheckFailure
  · exact h.execModeSwitch
  · exact h.execModeSwitchDone
  · exact h.execRowLockRelease
  · exact h.execRowMoveStep
  · exact h.execScannerPartEnd
  · exact h.execVsearchRoundEnd
  · exact h.execTimetableEntryStart
  · exact h.execTimetableEntryComplete
  · exact h.execSemaphorePoll
  · exact h.execTimetableWaitTmo
  · exact h.execModuleInsert
  · exact h.execModuleRemove
  · exact h.execPortTrainSuccess
  · exact h.execPortTrainFail
  · exact h.execPortLinkLoss
  · exact h.execPortDoze
  · exact h.execPortWake
  · exact h.execPortEnWrite
  · exact h.execPortFenceWrite
  · exact h.execFlitReceive
  · exact h.execRd
  · exact h.execWr
  · exact h.execWrn
  · exact h.execAtom
  · exact h.execBulkRd
  · exact h.execSubdesc
  · exact h.execParityMsg
  · exact h.execLeaseMsg
  · exact h.execEcho
  · exact h.execNeigh
  · exact h.execNeighSend
  · exact h.execRdData
  · exact h.execWrdone
  · exact h.execWrack
  · exact h.execAtomData
  · exact h.execBulkData
  · exact h.execPartialMsg
  · exact h.execLeaseRsp
  · exact h.execEchoRsp
  · exact h.execFlownak
  · exact h.execWrdoneTimer
  · exact h.execE2eResend
  · exact h.execFabReqTmoExpiry
  · exact h.execAgeDiscard
  · exact h.execFlowExpiry
  · exact h.execMgmtForward
  · exact h.execMgmtForwardTmo
  · exact h.execReadNbr
  · exact h.execReadReg
  · exact h.execWriteReg
  · exact h.execMgmtEcho
  · exact h.execBringup
  · exact h.execBringupComplete
  · exact h.execDefine
  · exact h.execUndefine
  · exact h.execReassign
  · exact h.execLeaseRenew
  · exact h.execLeaseExpire
  · exact h.execLapsedAcquire
  · exact h.execLedgerLost
  · exact h.execDoubtStallExpiry
  · exact h.execEgRecordWrite
  · exact h.execAdoptCask
  · exact h.execEvacuateCask
  · exact h.execReleaseCask
  · exact h.execRetireCask
  · exact h.execEraseCask
  · exact h.execImportCask
  · exact h.execForgetCask
  · exact h.execCaskInsert
  · exact h.execCaskFtlLoaded
  · exact h.execCaskPull
  · exact h.execCaskDieFail
  · exact h.execCaskWorn
  · exact h.execCaskLifeReached
  · exact h.execCaskCounterWrite
  · exact h.execCaskPageScrub
  · exact h.execCaskBranchOvercurrent
  · exact h.execVcaskOutOfRange
  · exact h.execStackScrub
  · exact h.execScoreHalving
  · exact h.execScoreWarn
  · exact h.execScoreLimit
  · exact h.execMarginSample
  · exact h.execLoweringHoldEnd
  · exact h.execCapMissWindow
  · exact h.execChannelRetireDone
  · exact h.execChannelLoss
  · exact h.execCalRun
  · exact h.execCalScheduledRun
  · exact h.execCalExport
  · exact h.execCalWrite
  · exact h.execCalNorWrite
  · exact h.execMgtUnfence
  · exact h.execStopRequest
  · exact h.execStopL1Timeout
  · exact h.execStopAbort
  · exact h.execWakeUp
  · exact h.execManagementExit
  · exact h.execWakeStepTimeout
  · exact h.execColdReset
  · exact h.execDeviceReset
  · exact h.execWatchdogExpiry
  · exact h.execHostPortReset
  · exact h.execLdReset
  · exact h.execFunctionLevelReset
  · exact h.execPowerLoss
  · exact h.execVddAonLoss
  · exact h.execThermalAlert
  · exact h.execThermalTrip
  · exact h.execStageImage
  · exact h.execActivate
  · exact h.execConfirm
  · exact h.execRevert
  · exact h.execMicrocodeRollout
  · exact h.execSecLockWrite
  · exact h.execChallenge
  · exact h.execGetMeasurements
  · exact h.execGetCertificate
  · exact h.execKeyExchange
  · exact h.execPmcEvtWrite
  · exact h.execRecorderFlush
  · exact h.execRecExport
  · exact h.execRecClear
  · exact h.execAccountingWindowEnd
  · exact h.execOperatingTick
  · exact h.execPkgPowerUpdate
  · exact h.execTierRootWrite
  · exact h.execTierMapEnable
  · exact h.execPinQuotaWrite
  · exact h.execQctRangeWrite
  · exact h.execQctCtrlEn
  · exact h.execAtnRegEnable
  · exact h.execEmbHtabEnable
  · exact h.execExtTabEnable
  · exact h.execPwrModeTest
  · exact h.execRegisterWrite
  · exact h.execPwrgdFall
  · exact h.execCxlLinkUp
  · exact h.execMsixVectorUnmask
  · exact h.execCaskRetrainDone

end Sys2Proof.Machine
end

section
/-! SUPPORT. T0's memory stays canonical: the idle step. -/

namespace Sys2Proof.Machine

open Sys2Proof

theorem CanonAt.release {s : State} (h : CanonAt s) : CanonAt (State.release s) := by
  unfold State.release
  split
  · exact h
  next c _ =>
    have hex : CanonNext (Machine.exec c { s with dev := { s.dev with held := s.dev.held.erase c } }) := CanonAt.exec (Canon.of_mem_eq h rfl)
    split
    next t heq =>
      have ht : CanonAt t := holds_of_eq (P := CanonNext) hex heq
      exact Canon.of_mem_eq ht rfl
    · exact h

theorem Canon.background {d : Dev} (h : Canon d) : Canon (Dev.background d) := by
  unfold Dev.background
  extract_lets d1 d2 d3 d4
  have hd1 : Canon d1 := h.mendLeaves.raiseRails.evacStep
  have hd2 : Canon d2 := foldl_holds (P := Canon) hd1 fun _ _ hn => hn.releaseStep
  have hd3 : Canon d3 := hd2.unpromoteAll.retireStep.settleAll.writeWindow.orderStep.admitHeld
  have hd4 : Canon d4 := hd3.giveRoom.startRebuilds.openEvents.giveOwed.faultStep.adminStep
  clear_value d1 d2 d3 d4
  exact hd4

theorem CanonAt.passes {s : State} (h : CanonAt s) : CanonAt (State.passes s) := by
  unfold State.passes
  refine ite_holds (ite_holds h.release h.boot) ?_
  split
  · exact CanonAt.release (CanonAt.endRestart h.background)
  · exact CanonAt.release h.entryStep
  · exact h.release
  · exact h.wakeStep

theorem Canon.tick {d : Dev} (h : Canon d) : Canon (Dev.tick d) := h
theorem CanonAt.idleStep {s : State} (h : CanonAt s) : CanonAt (idleStep s) := h.passes.tick

end Sys2Proof.Machine
end

section
/-! The obligation on the form of T0's memory. -/

namespace Sys2Proof.Proofs

open Sys2Proof Sys2Proof.Machine Sys2Proof.Claims

/-- Settles O6: every command, and the idle step, keeps the canonical form, for each operation that a step is made of does. -/
theorem memoryStaysCanonical : Obligations.MemoryStaysCanonical := by
  unfold Obligations.MemoryStaysCanonical
  intro s t hs hstep
  have hnext : CanonNext (step s) := by
    unfold step
    split
    · exact CanonAt.idleStep hs
    · exact CanonAt.exec (CanonAt.of_pending hs)
  rw [hstep] at hnext
  exact hnext

end Sys2Proof.Proofs
end
